-- ==== Sys2Proof/Word.lean ====
section
/-! DEFINITION. The word types of the Hexath Z9 (R2 to R4): bytes, 32-bit words, 64-bit double words, the
96-lane mask, and the plainest arithmetic on them. -/
namespace Sys2Proof

/-- One byte. -/
abbrev Byte := BitVec 8
/-- A 32-bit word: a scalar register, a vector lane, a parcel of code (R32, R110). -/
abbrev Word := BitVec 32
/-- A 64-bit double word: an even-odd pair, an address before it is checked (R32, R85). -/
abbrev Dword := BitVec 64
/-- One bit per lane; bit l is lane l (R33). -/
abbrev Mask := BitVec 96
/-- The 96 lanes of a vector value, lane 0 first (R10). -/
abbrev Lanes := List Word

/-- The number of lanes of a task (R10). -/
abbrev laneCount : Nat := 96

/-- The indices `a`, `a + 1`, …, `a + n − 1`. -/
def idxFrom (a : Nat) : Nat → List Nat
  | 0 => []
  | n + 1 => a :: idxFrom (a + 1) n

/-- The indices 0 to n − 1, ascending. -/
def upto (n : Nat) : List Nat := idxFrom 0 n

/-- 0 or 1 as a word. -/
def Word.ofBool (b : Bool) : Word := if b then 1 else 0

/-- The low word of a double word. -/
def Dword.lo (d : Dword) : Word := d.extractLsb' 0 32
/-- The high word of a double word. -/
def Dword.hi (d : Dword) : Word := d.extractLsb' 32 32
/-- A double word from its low and high words (R32). -/
def Dword.mk (lo hi : Word) : Dword := hi ++ lo

/-- The item of `l` at `i`, or `d` past the end. -/
def nth {α : Type} (l : List α) (i : Nat) (d : α) : α := (l[i]?).getD d

end Sys2Proof
end

