-- ==== Sys2Proof/Syntax.lean ====
section
/-! DEFINITION. The syntax of the machine's steps: one constructor of `Instr` for each row of the opcode table,
with its operands (06 to 10), and for each machine event the facts that the event brings with it. -/
namespace Sys2Proof

/-- The four streams of a task (R13). -/
inductive StreamId where | s | v | m | c
  deriving DecidableEq, Repr

/-- The scope codes of R95, 0 to 4. -/
inductive Scope where | task | block | span | pkg | fab
  deriving DecidableEq, Repr

/-- The completion action field of an engine instruction (R120): `stat` 31 names no status word, `fut` 0 no future. -/
structure Act where
  stat : BitVec 5
  sige : BitVec 1
  sem : BitVec 4
  byte : BitVec 1
  bar : BitVec 4
  fut : BitVec 3
  deriving DecidableEq, Repr

/-- The fields of a wide vector word besides its op9 (R123, R124). -/
structure VW where
  stall : BitVec 4
  e : BitVec 1
  pred : BitVec 5
  neg : BitVec 1
  mod7 : BitVec 7
  d : BitVec 7
  a : BitVec 7
  b : BitVec 7
  c : BitVec 7
  mod4 : BitVec 4
  imm : BitVec 32
  deriving DecidableEq, Repr

/-- The header of a paired word (R123). -/
structure PHead where
  stall : BitVec 4
  e : BitVec 1
  deriving DecidableEq, Repr

/-- One slot of a paired word (R125). -/
structure PSlot where
  op9 : BitVec 9
  pred : BitVec 5
  d : BitVec 7
  a : BitVec 7
  b : BitVec 7
  c : BitVec 7
  deriving DecidableEq, Repr

/-- The collective that a Flaori message belongs to (R264); a RECV announces that it is ready. -/
inductive CollKind where
  | red (op : BitVec 3) (ty : BitVec 2) (arr : Bool)
  | bc
  | send
  | recv
  deriving DecidableEq, Repr

/-- The announcement of a Flaori message (R366): its source rank, its TAG and its place in the source's issue order, the
member that issued it and the member that it is meant for, the operation that it carries, its length and the CRC-32C of its
data, and the bytes of it that came from poisoned granules (R263). With `bad` it announces no data: the member's operation of
that ordinal among those of the whole group has met a different kind (R263; log 29). -/
structure FlaoriMsg where
  src : Nat
  tag : Word
  seq : Nat
  member : Nat
  peer : Nat
  kind : CollKind
  len : Nat
  crc : Word
  poison : List Nat
  bad : Option Nat
  deriving DecidableEq, Repr

/-- How a Caddy read ends (R280, R385): with the SSD's data, or with a STORAGE condition. -/
inductive ReadResult where | ok | media | guard | nodev
  deriving DecidableEq, Repr

/-- How a write-back ends (R386). -/
inductive WriteResult where | ok | media | nodev
  deriving DecidableEq, Repr

/-- A memory channel with a self-refresh timer (R369, R373). -/
inductive Channel where
  | hbm (die : Nat) (ch : BitVec 6)
  | lp6 (die : Nat) (ch : BitVec 4)
  deriving DecidableEq, Repr

/-- What the patrol scrubber finds in a sector (R428). -/
inductive ScrubFound where | clean | correctable | uncorrectable
  deriving DecidableEq, Repr

/-- The storage that an error hits: core SRAM (R429), a sector as a read of HBM or LP6 finds it, or in its L2 slice (R108,
R419, R427). -/
inductive ErrSite where
  | dram (sector : Nat)
  | l2 (sector : Nat)
  | scratch (block word : Nat)
  | l1 (core line : Nat)
  | slot (core slot : Nat)
  | taskState (task : Nat)
  deriving DecidableEq, Repr

/-- Why a frame is dropped (R354, R355, R366). -/
inductive DropWhy where | protocol | fcs | crc
  deriving DecidableEq, Repr

/-- The debug states (R416). -/
inductive DebugState where | none | user | full
  deriving DecidableEq, Repr

/-- The security states (R412, R416). -/
inductive SecState where | blank | dev | prod | lockdown
  deriving DecidableEq, Repr

/-- What Byder meets on a start and cannot choose (R409): the enabled cores as (die, router, position), the memory
mode, the SSDs and links that come up, and a stage that fails with its error code, if one does. -/
structure BootEnv where
  cores : List (Nat × Nat × Nat)
  cacheMode : Bool
  ssds : BitVec 8
  links : BitVec 16
  fail : Option (BitVec 8 × BitVec 16)
  deriving DecidableEq, Repr

/-- The steps of the machine: instructions and events, one constructor per row of spec/opcode_table.json. Lean's
compiler builds no constructor with arguments past its 244th, so `xtile`, `xstepPop` and `pairedWord` carry none: they
take the fields of the word in the issuing task's word latch (log 9). -/
inductive Instr where
  /-- R137. Sets s_d to (a + b) mod 2^32. -/
  | add (d : BitVec 5) (a : BitVec 5) (b : BitVec 5)
  /-- R137. Sets s_d to (a − b) mod 2^32. -/
  | sub (d : BitVec 5) (a : BitVec 5) (b : BitVec 5)
  /-- R137. Sets s_d to the bitwise AND of a and b. -/
  | and (d : BitVec 5) (a : BitVec 5) (b : BitVec 5)
  /-- R137. Sets s_d to the bitwise OR of a and b. -/
  | or (d : BitVec 5) (a : BitVec 5) (b : BitVec 5)
  /-- R137. Sets s_d to the bitwise XOR of a and b. -/
  | xor (d : BitVec 5) (a : BitVec 5) (b : BitVec 5)
  /-- R137. Shifts a left by b[4:0], modulo 2^32. -/
  | shl (d : BitVec 5) (a : BitVec 5) (b : BitVec 5)
  /-- R137. Shifts a right by b[4:0], shifting in zeros. -/
  | shr (d : BitVec 5) (a : BitVec 5) (b : BitVec 5)
  /-- R137. Shifts a right arithmetically by b[4:0]. -/
  | sra (d : BitVec 5) (a : BitVec 5) (b : BitVec 5)
  /-- R137. Sets s_d to (a × b) mod 2^32. -/
  | mul (d : BitVec 5) (a : BitVec 5) (b : BitVec 5)
  /-- R137. Sets s_d to the high word of the signed 64-bit product. -/
  | mulhI32 (d : BitVec 5) (a : BitVec 5) (b : BitVec 5)
  /-- R137. Sets s_d to the high word of the unsigned 64-bit product. -/
  | mulhB32 (d : BitVec 5) (a : BitVec 5) (b : BitVec 5)
  /-- R138. Signed division truncating toward zero, with fixed results for divide-by-zero and overflow. -/
  | divI32 (d : BitVec 5) (a : BitVec 5) (b : BitVec 5)
  /-- R138. Unsigned division, giving 0xFFFF_FFFF on a zero divisor. -/
  | divB32 (d : BitVec 5) (a : BitVec 5) (b : BitVec 5)
  /-- R138. Signed remainder with the sign of a, with fixed results for the special cases. -/
  | remI32 (d : BitVec 5) (a : BitVec 5) (b : BitVec 5)
  /-- R138. Unsigned remainder, giving a on a zero divisor. -/
  | remB32 (d : BitVec 5) (a : BitVec 5) (b : BitVec 5)
  /-- R137. Sets s_d to the signed minimum of a and b. -/
  | minI32 (d : BitVec 5) (a : BitVec 5) (b : BitVec 5)
  /-- R137. Sets s_d to the signed maximum of a and b. -/
  | maxI32 (d : BitVec 5) (a : BitVec 5) (b : BitVec 5)
  /-- R137. Sets s_d to the unsigned minimum of a and b. -/
  | minB32 (d : BitVec 5) (a : BitVec 5) (b : BitVec 5)
  /-- R137. Sets s_d to the unsigned maximum of a and b. -/
  | maxB32 (d : BitVec 5) (a : BitVec 5) (b : BitVec 5)
  /-- R137. Sets s_d to 1 if a < b signed, else 0. -/
  | slt (d : BitVec 5) (a : BitVec 5) (b : BitVec 5)
  /-- R137. Sets s_d to 1 if a < b unsigned, else 0. -/
  | sltb (d : BitVec 5) (a : BitVec 5) (b : BitVec 5)
  /-- R137. Sets s_d to 1 if a = b, else 0. -/
  | seq (d : BitVec 5) (a : BitVec 5) (b : BitVec 5)
  /-- R137. Counts the leading zero bits of a. -/
  | clz (d : BitVec 5) (a : BitVec 5)
  /-- R137. Counts the one bits of a. -/
  | popc (d : BitVec 5) (a : BitVec 5)
  /-- R137. Sets the pair D to (A + B) mod 2^64. -/
  | add64 (d : BitVec 4) (a : BitVec 4) (b : BitVec 4)
  /-- R137. Sets the pair D to (A − B) mod 2^64. -/
  | sub64 (d : BitVec 4) (a : BitVec 4) (b : BitVec 4)
  /-- R137. Shifts the pair A left by b[5:0] into D. -/
  | shl64 (d : BitVec 4) (a : BitVec 4) (b : BitVec 5)
  /-- R137. Shifts the pair A right by b[5:0], zeros in, into D. -/
  | shr64 (d : BitVec 4) (a : BitVec 4) (b : BitVec 5)
  /-- R137. Sets the pair D to (A × B) mod 2^64. -/
  | mul64 (d : BitVec 4) (a : BitVec 4) (b : BitVec 4)
  /-- R137. Sets s_d to a if the old s_d is nonzero, else b. -/
  | sel (d : BitVec 5) (a : BitVec 5) (b : BitVec 5)
  /-- R139. Adds the sign-extended imm14 to a. -/
  | addi (d : BitVec 5) (a : BitVec 5) (i : BitVec 14)
  /-- R139. ANDs a with the sign-extended imm14. -/
  | andi (d : BitVec 5) (a : BitVec 5) (i : BitVec 14)
  /-- R139. ORs a with the sign-extended imm14. -/
  | ori (d : BitVec 5) (a : BitVec 5) (i : BitVec 14)
  /-- R139. XORs a with the sign-extended imm14. -/
  | xori (d : BitVec 5) (a : BitVec 5) (i : BitVec 14)
  /-- R139. Shifts a left by an immediate count 0–31. -/
  | shli (d : BitVec 5) (a : BitVec 5) (i : BitVec 5)
  /-- R139. Shifts a right logically by an immediate count 0–31. -/
  | shri (d : BitVec 5) (a : BitVec 5) (i : BitVec 5)
  /-- R139. Shifts a right arithmetically by an immediate count 0–31. -/
  | srai (d : BitVec 5) (a : BitVec 5) (i : BitVec 5)
  /-- R139. Sets s_d to 1 if a < sext(imm14) signed. -/
  | slti (d : BitVec 5) (a : BitVec 5) (i : BitVec 14)
  /-- R139. Adds the sign-extended imm14 to the pair A into D. -/
  | addi64 (d : BitVec 4) (a : BitVec 4) (i : BitVec 14)
  /-- R140. Sets s_d to imm19 shifted left by 13. -/
  | lui (d : BitVec 5) (i : BitVec 19)
  /-- R140. Sets the pair D to PC + 4 × sext(imm19). -/
  | addpc (d : BitVec 4) (i : BitVec 19)
  /-- R141. Branches when a = b. -/
  | beq (a : BitVec 5) (b : BitVec 5) (o : BitVec 14)
  /-- R141. Branches when a ≠ b. -/
  | bne (a : BitVec 5) (b : BitVec 5) (o : BitVec 14)
  /-- R141. Branches when a < b signed. -/
  | blt (a : BitVec 5) (b : BitVec 5) (o : BitVec 14)
  /-- R141. Branches when a ≥ b signed. -/
  | bge (a : BitVec 5) (b : BitVec 5) (o : BitVec 14)
  /-- R141. Branches when a < b unsigned. -/
  | bltb (a : BitVec 5) (b : BitVec 5) (o : BitVec 14)
  /-- R141. Branches when a ≥ b unsigned. -/
  | bgeb (a : BitVec 5) (b : BitVec 5) (o : BitVec 14)
  /-- R142. Jumps PC-relative and writes the link unless d = 30. -/
  | jal (d : BitVec 4) (i : BitVec 19)
  /-- R142. Jumps to A + sext(imm14), checking alignment, and writes the link unless d = 30. -/
  | jalr (d : BitVec 4) (a : BitVec 4) (i : BitVec 14)
  /-- R143. Decrements the loop count and branches while it was above 1. -/
  | loopn (a : BitVec 5) (o : BitVec 14)
  /-- R144. Loads a zero-extended byte. -/
  | ldB8 (d : BitVec 5) (a : BitVec 4) (i : BitVec 14)
  /-- R144. Loads a sign-extended byte. -/
  | ldI8 (d : BitVec 5) (a : BitVec 4) (i : BitVec 14)
  /-- R144. Loads a zero-extended half-word. -/
  | ldB16 (d : BitVec 5) (a : BitVec 4) (i : BitVec 14)
  /-- R144. Loads a sign-extended half-word. -/
  | ldI16 (d : BitVec 5) (a : BitVec 4) (i : BitVec 14)
  /-- R144. Loads a 32-bit word. -/
  | ldW (d : BitVec 5) (a : BitVec 4) (i : BitVec 14)
  /-- R144. Loads a double word into a pair. -/
  | ldD (d : BitVec 4) (a : BitVec 4) (i : BitVec 14)
  /-- R144. Stores the low byte of s_d. -/
  | stB8 (d : BitVec 5) (a : BitVec 4) (i : BitVec 14)
  /-- R144. Stores the low half-word of s_d. -/
  | stB16 (d : BitVec 5) (a : BitVec 4) (i : BitVec 14)
  /-- R144. Stores the word s_d. -/
  | stW (d : BitVec 5) (a : BitVec 4) (i : BitVec 14)
  /-- R144. Stores the pair D. -/
  | stD (d : BitVec 4) (a : BitVec 4) (i : BitVec 14)
  /-- R146. Loads a word through the read-only path. -/
  | ldroW (d : BitVec 5) (a : BitVec 4) (i : BitVec 14)
  /-- R146. Loads a double word through the read-only path. -/
  | ldroD (d : BitVec 4) (a : BitVec 4) (i : BitVec 14)
  /-- R147. Atomic wrapping add at the location's home, optionally returning the old value. -/
  | atomAdd (d : BitVec 5) (a : BitVec 4) (b : BitVec 5) (ret : Bool) (scope : Scope) (wide : Bool)
  /-- R147. Atomic signed minimum. -/
  | atomMinI (d : BitVec 5) (a : BitVec 4) (b : BitVec 5) (ret : Bool) (scope : Scope) (wide : Bool)
  /-- R147. Atomic signed maximum. -/
  | atomMaxI (d : BitVec 5) (a : BitVec 4) (b : BitVec 5) (ret : Bool) (scope : Scope) (wide : Bool)
  /-- R147. Atomic unsigned minimum. -/
  | atomMinB (d : BitVec 5) (a : BitVec 4) (b : BitVec 5) (ret : Bool) (scope : Scope) (wide : Bool)
  /-- R147. Atomic unsigned maximum. -/
  | atomMaxB (d : BitVec 5) (a : BitVec 4) (b : BitVec 5) (ret : Bool) (scope : Scope) (wide : Bool)
  /-- R147. Atomic bitwise AND. -/
  | atomAnd (d : BitVec 5) (a : BitVec 4) (b : BitVec 5) (ret : Bool) (scope : Scope) (wide : Bool)
  /-- R147. Atomic bitwise OR. -/
  | atomOr (d : BitVec 5) (a : BitVec 4) (b : BitVec 5) (ret : Bool) (scope : Scope) (wide : Bool)
  /-- R147. Atomic bitwise XOR. -/
  | atomXor (d : BitVec 5) (a : BitVec 4) (b : BitVec 5) (ret : Bool) (scope : Scope) (wide : Bool)
  /-- R147. Atomic exchange. -/
  | atomExch (d : BitVec 5) (a : BitVec 4) (b : BitVec 5) (ret : Bool) (scope : Scope) (wide : Bool)
  /-- R147. Atomic FP32 add rounded once RNE per R69, setting no flag. -/
  | atomAddF32 (d : BitVec 5) (a : BitVec 4) (b : BitVec 5) (ret : Bool) (scope : Scope)
  /-- R148. 32-bit compare-and-swap, always returning the old value. -/
  | atomcasB32 (d : BitVec 5) (a : BitVec 4) (b : BitVec 4) (scope : Scope)
  /-- R148. 64-bit compare-and-swap, always returning the old value. -/
  | atomcasB64 (d : BitVec 4) (a : BitVec 4) (b : BitVec 3) (scope : Scope)
  /-- R149. Adds k to a semaphore count, serving waiters in order. -/
  | sig (sem : BitVec 5) (k : BitVec 8)
  /-- R149. Blocks until the semaphore count reaches k, then subtracts k. -/
  | wait (sem : BitVec 5) (k : BitVec 8)
  /-- R151. Arrives at a block barrier for the task. -/
  | bara (ba : BitVec 4)
  /-- R153. Waits until the barrier's PHASE differs from the given parity. -/
  | barw (ba : BitVec 4) (a : BitVec 5) (k : BitVec 1)
  /-- R151. Arrives and adds a byte count to the barrier balance in one step. -/
  | bare (ba : BitVec 4) (a : BitVec 5)
  /-- R154. Arrives at a span barrier. -/
  | sbara (sa : BitVec 2)
  /-- R154. Waits for a span barrier phase. -/
  | sbarw (sa : BitVec 2) (a : BitVec 5) (k : BitVec 1)
  /-- R99. Waits until earlier stores and atomics are performed at the scope. -/
  | fenceRel (scope : Scope)
  /-- R99. Waits until earlier loads have their values; invalidates L1 at span scope or wider. -/
  | fenceAcq (scope : Scope)
  /-- R99. Combines release and acquire with no load passing earlier stores. -/
  | fenceAr (scope : Scope)
  /-- R156. Blocks until all counted copies except the n most recent have completed. -/
  | cwait (a : BitVec 5) (n : BitVec 13)
  /-- R158. Resolves a future with result b, releasing its continuations, or traps if already done. -/
  | fres (a : BitVec 4) (b : BitVec 5)
  /-- R158. Faults a future with result b, releasing its continuations. -/
  | fflt (a : BitVec 4) (b : BitVec 5)
  /-- R158. Resolves a future if not done and returns 0, 1 or 2. -/
  | ftry (d : BitVec 5) (a : BitVec 4) (b : BitVec 5)
  /-- R159. Atomically reads bytes 0–7 of a future into a pair. -/
  | fstat (d : BitVec 4) (a : BitVec 4)
  /-- R160. Reads a dispatch packet and submits its grid, returning the LAUNCH number. -/
  | tlaunch (d : BitVec 5) (a : BitVec 4)
  /-- R161. Registers a continuation record against its named futures and returns how many are done. -/
  | tjoin (d : BitVec 5) (a : BitVec 4)
  /-- R162. Emits one 32-bit record to a work-graph node. -/
  | grec (a : BitVec 4) (b : BitVec 5)
  /-- R164. Saves the mask to a triple and ANDs the mask with a predicate. -/
  | mif (j : BitVec 5) (p : BitVec 5)
  /-- R164. Sets the mask to the saved triple AND NOT the current mask. -/
  | melse (j : BitVec 5)
  /-- R164. Restores the mask from the triple. -/
  | mjoin (j : BitVec 5)
  /-- R164. Saves the mask to the triple. -/
  | msave (j : BitVec 5)
  /-- R164. Removes the lanes where the predicate is true from the mask. -/
  | mbreak (p : BitVec 5)
  /-- R165. Branches when any lane is active. -/
  | bmany (o : BitVec 14)
  /-- R165. Branches when no lane is active. -/
  | bmnone (o : BitVec 14)
  /-- R166. Copies a predicate over all lanes into a triple. -/
  | pmovs (j : BitVec 5) (p : BitVec 5)
  /-- R166. Copies a triple into a predicate over all lanes. -/
  | smovp (p : BitVec 5) (j : BitVec 5)
  /-- R167. Reads a system register by index. -/
  | sysrd (d : BitVec 5) (i : BitVec 12)
  /-- R167. Writes a system register by index. -/
  | syswr (a : BitVec 5) (i : BitVec 12)
  /-- R168. Retires and raises USER with the given sub-code. -/
  | trap (k : BitVec 8)
  /-- R170. The stream issues nothing for a number of cycles. -/
  | cycles (a : BitVec 5) (i : BitVec 14)
  /-- R241. Claims a range of operand slots all or nothing, waiting in order if held. -/
  | oclm (b : BitVec 6) (n : BitVec 7)
  /-- R243. Loads operand slots from scratch. -/
  | mold (act : Act) (b : BitVec 6) (n : BitVec 7) (a : BitVec 5) (side : Bool)
  /-- R248. Multiplies slot operands on the array and accumulates into an acc group. -/
  | mma (act : Act) (sa : BitVec 6) (sb : BitVec 6) (c : BitVec 5) (mq : BitVec 3) (nq : BitVec 3) (fa : BitVec 4) (fb : BitVec 4) (z : Bool)
  /-- R249. Paired product broadcasting A to both arrays of a twin, writing leader and follower tiles. -/
  | mmap (act : Act) (sa : BitVec 6) (sb : BitVec 6) (c : BitVec 5) (mq : BitVec 3) (nq : BitVec 3) (fa : BitVec 4) (fb : BitVec 4) (z : Bool)
  /-- R77. Sliced FP64 product running all plane pairs into the WFA. -/
  | mmasFull (act : Act) (sa : BitVec 6) (sb : BitVec 6) (n : BitVec 4) (mq : BitVec 3) (nq : BitVec 3)
  /-- R77. Sliced FP64 product running only pairs with i + j ≤ s − 1 into the WFA. -/
  | mmasTri (act : Act) (sa : BitVec 6) (sb : BitVec 6) (n : BitVec 4) (mq : BitVec 3) (nq : BitVec 3)
  /-- R76. Clears the WFA and its bound state. -/
  | mwclr (act : Act)
  /-- R78. Stores the WFA as FP64 with one rounding and writes the bound registers. -/
  | mwst (act : Act) (d : BitVec 4) (p : BitVec 5) (mq : BitVec 3) (nq : BitVec 3)
  /-- R245. Zeroes acc tiles. -/
  | macz (act : Act) (c : BitVec 5) (k : BitVec 5)
  /-- R245. Loads a region of an acc group from memory. -/
  | macld (act : Act) (a : BitVec 4) (p : BitVec 5) (c : BitVec 5) (mq : BitVec 3) (nq : BitVec 3)
  /-- R252. Stores an acc region converted to a format, RNE or SR, with MX scales. -/
  | macst (act : Act) (d : BitVec 4) (p : BitVec 5) (c : BitVec 5) (mq : BitVec 3) (nq : BitVec 3) (fmt : BitVec 4) (sr : Bool) (sc : BitVec 4)
  /-- R254. Captures requested tiles of one layer from the weight ring into slots. -/
  | rboard (act : Act) (b : BitVec 6) (l : BitVec 5) (f : BitVec 5) (n : BitVec 5) (m : BitVec 5)
  /-- R253. Sets SRSEED at issue. -/
  | mseed (a : BitVec 5)
  /-- R259. Copies n bytes between global memory and windows. -/
  | cpy (act : Act) (d : BitVec 4) (a : BitVec 4) (n : BitVec 5)
  /-- R256. Loads a tensor box into scratch with fill and swizzle. -/
  | tcopy (act : Act) (r : BitVec 4) (a : BitVec 5) (c : BitVec 5)
  /-- R256. Stores a scratch box into a tensor, writing only in-bounds elements. -/
  | tcopySt (act : Act) (r : BitVec 4) (a : BitVec 5) (c : BitVec 5)
  /-- R257. Loads a tensor box into operand slots. -/
  | tcopyo (act : Act) (r : BitVec 4) (b : BitVec 6) (c : BitVec 5)
  /-- R258. Slices an FP64 A tile from scratch into digit planes. -/
  | osliceA (act : Act) (a : BitVec 5) (b : BitVec 6) (s : BitVec 4) (rq : BitVec 3)
  /-- R258. Slices an FP64 B tile from scratch into digit planes. -/
  | osliceB (act : Act) (a : BitVec 5) (b : BitVec 6) (s : BitVec 4) (rq : BitVec 3)
  /-- R260. Copies table rows selected by an index list into scratch. -/
  | gather (act : Act) (d : BitVec 5) (a : BitVec 4) (i : BitVec 4) (n : BitVec 5) (w : BitVec 5) (t : BitVec 5)
  /-- R260. Copies scratch rows into table rows selected by an index list. -/
  | scatter (act : Act) (d : BitVec 5) (a : BitVec 4) (i : BitVec 4) (n : BitVec 5) (w : BitVec 5) (t : BitVec 5)
  /-- R261. Reduces scratch elements into global memory element by element. -/
  | cpyred (act : Act) (d : BitVec 4) (s : BitVec 5) (n : BitVec 5) (op : BitVec 3) (ty : BitVec 2)
  /-- R262. Pushes strided memory entries into a queue register. -/
  | qfill (act : Act) (q : BitVec 2) (a : BitVec 4) (l : BitVec 5) (e : BitVec 5) (n : BitVec 5)
  /-- R262. Pops queue entries and writes them to strided memory. -/
  | qsink (act : Act) (q : BitVec 2) (a : BitVec 4) (l : BitVec 5) (e : BitVec 5) (n : BitVec 5)
  /-- R264. Fabric all-reduce over group members, in tree or arrival mode. -/
  | collred (act : Act) (g : BitVec 4) (d : BitVec 5) (s : BitVec 5) (n : BitVec 5) (op : BitVec 3) (ty : BitVec 2) (arr : Bool)
  /-- R264. Fabric broadcast of the root's bytes to every member. -/
  | collbc (act : Act) (g : BitVec 4) (d : BitVec 5) (n : BitVec 5)
  /-- R264. Sends bytes to a member's matching receive. -/
  | collsendSend (act : Act) (g : BitVec 4) (t : BitVec 5) (s : BitVec 5) (n : BitVec 5)
  /-- R264. Receives bytes from a member's matching send. -/
  | collsendRecv (act : Act) (g : BitVec 4) (t : BitVec 5) (s : BitVec 5) (n : BitVec 5)
  /-- R265. Requests non-resident storage pages without evicting. -/
  | spref (act : Act) (a : BitVec 4) (n : BitVec 5)
  /-- R266. Returns the count of outstanding copies and pending ASYNC. -/
  | cstat (d : BitVec 5)
  /-- R177. FP32 add per lane. -/
  | fadd (w : VW)
  /-- R177. FP32 subtract per lane. -/
  | fsub (w : VW)
  /-- R177. FP32 multiply per lane. -/
  | fmul (w : VW)
  /-- R177. FP32 fused multiply-add per lane. -/
  | ffma (w : VW)
  /-- R177. FP32 c − a × b with one rounding. -/
  | ffnma (w : VW)
  /-- R177. FP32 minimum under R56. -/
  | fmin (w : VW)
  /-- R177. FP32 maximum under R56. -/
  | fmax (w : VW)
  /-- R178. FP32 equal compare into a predicate. -/
  | fceq (w : VW)
  /-- R178. FP32 not-equal or unordered compare. -/
  | fcne (w : VW)
  /-- R178. FP32 less-than compare. -/
  | fclt (w : VW)
  /-- R178. FP32 less-or-equal compare. -/
  | fcle (w : VW)
  /-- R178. FP32 unordered compare. -/
  | fcun (w : VW)
  /-- R179. Classifies FP32 values into a one-hot class mask. -/
  | fclass (w : VW)
  /-- R180. Rounds FP32 values to integral values. -/
  | frnd (w : VW)
  /-- R181. FP64 add per lane. -/
  | dadd (w : VW)
  /-- R181. FP64 subtract per lane. -/
  | dsub (w : VW)
  /-- R181. FP64 multiply per lane. -/
  | dmul (w : VW)
  /-- R181. FP64 fused multiply-add per lane. -/
  | dfma (w : VW)
  /-- R181. FP64 c − a × b with one rounding. -/
  | dfnma (w : VW)
  /-- R181. FP64 minimum. -/
  | dmin (w : VW)
  /-- R181. FP64 maximum. -/
  | dmax (w : VW)
  /-- R181. FP64 equal compare. -/
  | dceq (w : VW)
  /-- R181. FP64 not-equal or unordered compare. -/
  | dcne (w : VW)
  /-- R181. FP64 less-than compare. -/
  | dclt (w : VW)
  /-- R181. FP64 less-or-equal compare. -/
  | dcle (w : VW)
  /-- R181. FP64 unordered compare. -/
  | dcun (w : VW)
  /-- R181. Rounds FP64 values to integral values. -/
  | drnd (w : VW)
  /-- R182. Packed 16-bit add of two elements per lane. -/
  | hadd2 (w : VW)
  /-- R182. Packed 16-bit subtract. -/
  | hsub2 (w : VW)
  /-- R182. Packed 16-bit multiply. -/
  | hmul2 (w : VW)
  /-- R182. Packed 16-bit fused multiply-add. -/
  | hfma2 (w : VW)
  /-- R182. Packed 16-bit minimum. -/
  | hmin2 (w : VW)
  /-- R182. Packed 16-bit maximum. -/
  | hmax2 (w : VW)
  /-- R183. Two-element 16-bit dot product plus FP32 addend, one rounding. -/
  | dot2 (w : VW)
  /-- R183. Four-element FP8 dot product plus FP32 addend, one rounding. -/
  | dot4 (w : VW)
  /-- R183. Four-element 8-bit integer dot product plus INT32 addend. -/
  | idot4 (w : VW)
  /-- R184. FP32 reciprocal, correctly rounded. -/
  | rcp (w : VW)
  /-- R184. FP32 reciprocal square root. -/
  | rsq (w : VW)
  /-- R184. FP32 square root. -/
  | sqrt (w : VW)
  /-- R184. FP32 base-2 exponential. -/
  | exp2 (w : VW)
  /-- R184. FP32 base-2 logarithm. -/
  | log2 (w : VW)
  /-- R184. FP32 sin(πa). -/
  | sinpi (w : VW)
  /-- R184. FP32 cos(πa). -/
  | cospi (w : VW)
  /-- R184. FP32 hyperbolic tangent. -/
  | tanh (w : VW)
  /-- R184. FP64 reciprocal. -/
  | drcp (w : VW)
  /-- R184. FP64 square root. -/
  | dsqrt (w : VW)
  /-- R185. 32-bit integer add per lane. -/
  | iadd (w : VW)
  /-- R185. 32-bit integer subtract per lane. -/
  | isub (w : VW)
  /-- R185. Low 32 bits of the product. -/
  | imul (w : VW)
  /-- R186. (a × b + c) mod 2^32. -/
  | imad (w : VW)
  /-- R185. High 32 bits of the signed or unsigned product. -/
  | imulh (w : VW)
  /-- R185. Signed or unsigned minimum. -/
  | imin (w : VW)
  /-- R185. Signed or unsigned maximum. -/
  | imax (w : VW)
  /-- R185. Absolute value modulo 2^32. -/
  | iabs (w : VW)
  /-- R185. Shift left by b[4:0]. -/
  | ishl (w : VW)
  /-- R185. Logical shift right by b[4:0]. -/
  | ishr (w : VW)
  /-- R185. Arithmetic shift right by b[4:0]. -/
  | isra (w : VW)
  /-- R186. Three-input bitwise lookup table. -/
  | vlut (w : VW)
  /-- R186. Three-operand add with optional negation of b and c. -/
  | isum3 (w : VW)
  /-- R187. Integer equal compare into a predicate. -/
  | iceq (w : VW)
  /-- R187. Integer not-equal compare. -/
  | icne (w : VW)
  /-- R187. Signed less-than compare. -/
  | iclt (w : VW)
  /-- R187. Signed less-or-equal compare. -/
  | icle (w : VW)
  /-- R187. Unsigned less-than compare. -/
  | icltb (w : VW)
  /-- R187. Unsigned less-or-equal compare. -/
  | icleb (w : VW)
  /-- R188. Counts one bits per lane. -/
  | vpopc (w : VW)
  /-- R188. Counts leading zeros per lane. -/
  | vclz (w : VW)
  /-- R188. Reverses bit order per lane. -/
  | brev (w : VW)
  /-- R188. Extracts a bit field, sign- or zero-extended. -/
  | bfx (w : VW)
  /-- R188. Inserts a bit field. -/
  | bfi (w : VW)
  /-- R189. 64-bit integer add of pairs. -/
  | iadd64 (w : VW)
  /-- R189. 32×32 product plus 64-bit addend. -/
  | imad64 (w : VW)
  /-- R191. Converts between floating-point formats, optionally under SR. -/
  | cvt (w : VW)
  /-- R192. Converts between integers and floats. -/
  | cvti (w : VW)
  /-- R193. Converts two FP32 values and packs them as 16-bit elements. -/
  | pk2 (w : VW)
  /-- R193. Converts four FP32 values and packs them as narrow elements. -/
  | pk4 (w : VW)
  /-- R194. Widens two packed 16-bit elements to FP32. -/
  | unpk2 (w : VW)
  /-- R194. Widens two of four packed narrow elements to FP32. -/
  | unpk4 (w : VW)
  /-- R195. Quantises 32-lane blocks into MX elements and scales. -/
  | mxq (w : VW)
  /-- R196. Decodes MX block elements to FP32. -/
  | mxdq (w : VW)
  /-- R197. Copies a register with its tag, or into a new row if GENERAL. -/
  | vmov (w : VW)
  /-- R197. Sets a register to a UNIFORM immediate. -/
  | vmovi (w : VW)
  /-- R197. Selects a or b per lane by predicate. -/
  | vsel (w : VW)
  /-- R197. Writes base + lane × stride as AFFINE. -/
  | viota (w : VW)
  /-- R199. Moves values between lanes in pick, rot, swap or lead mode. -/
  | vperm (w : VW)
  /-- R200. Broadcasts one immediate-selected lane. -/
  | bcast (w : VW)
  /-- R202. Reduces active lanes in a fixed tree and writes the result to active lanes. -/
  | redux (w : VW)
  /-- R203. Inclusive or exclusive prefix scan in ascending lane order. -/
  | scan (w : VW)
  /-- R204. Reads the tags of 16 registers into a scalar. -/
  | vtag (w : VW)
  /-- R204. Makes a GENERAL register with equal lanes UNIFORM and frees its row. -/
  | vunif (w : VW)
  /-- R204. Sets a register to UNDEF and frees its row. -/
  | vdef (w : VW)
  /-- R198. Sets a vector register UNIFORM from a scalar. -/
  | vmovsToVector (w : VW)
  /-- R198. Reads one lane of a vector register into a scalar. -/
  | vmovsToScalar (w : VW)
  /-- R200. Broadcasts the lane named by a scalar register. -/
  | vreadl (w : VW)
  /-- R205. Three-input predicate lookup table. -/
  | plut (w : VW)
  /-- R206. Moves between predicates and vector registers by KIND. -/
  | pmov (w : VW)
  /-- R211. Per-lane vector load. -/
  | vld (w : VW)
  /-- R212. Per-lane vector store as one store-queue entry. -/
  | vst (w : VW)
  /-- R211. Per-lane load through the read-only path. -/
  | vldro (w : VW)
  /-- R214. Per-lane atomic read-modify-write. -/
  | vatom (w : VW)
  /-- R214. Per-lane compare-and-swap of 32, 64 or 128 bits. -/
  | vatomcas (w : VW)
  /-- R214. Per-lane atomic FP32 add. -/
  | vfadd (w : VW)
  /-- R216. Fetches 2×2 texels and fractions per lane. -/
  | vquad (w : VW)
  /-- R213. Prefetches lines toward the core without traps. -/
  | vpref (w : VW)
  /-- R218. Hands pixel writes to the order units in primitive order. -/
  | pxw (w : VW)
  /-- R221. Per-lane vector-matrix product on the borrowed array. -/
  | vxm (w : VW)
  /-- R227. Tests a ray against a BVH node's four child boxes. -/
  | xbox (w : VW)
  /-- R228. Tests a ray against one triangle exactly. -/
  | xtri (w : VW)
  /-- R230. Advances BVH traversal one node, pushing hit children with spills. -/
  | xstep (w : VW)
  /-- R99. Empties the store queue and forms a read-only acquire point. -/
  | fenceRo
  /-- R169. Leaves trap mode and resumes each stream at its TPC. -/
  | eret
  /-- R170. Ends the run or gives up the issue slot. -/
  | yield
  /-- R170. Does nothing. -/
  | nop
  /-- R168. Raises DEBUG BKPT without retiring. -/
  | bkpt
  /-- R171. Moves the stream to ENDED. -/
  | endStream
  /-- R23. Ends all four streams and discards pending delivered traps. -/
  | kill
  /-- R242. Ends the task's slot claim; slots pass when touching operations complete. -/
  | orls
  /-- R230. Pops the traversal stack, reloading from spill when needed. -/
  | xstepPop
  /-- R232. Tests triangle edges against an 8×8 grid at a level. -/
  | xtile
  /-- R129. Issues two pairable operations as one vector word, reading all sources first. -/
  | pairedWord
  /-- R170. The CYCLES delay count expires and the stream may issue again. -/
  | cyclesExpiry (task : Nat) (k : StreamId)
  /-- R131. A vector word's stall count expires and the task's next vector word may issue. -/
  | stallExpiry (task : Nat)
  /-- R295. At a run end the arbiter grants the next run to a task by starvation, priority and age. -/
  | runGrant (core : Nat) (k : StreamId)
  /-- R233. A matrix operation finishes its writes and its completion actions take effect. -/
  | matrixOpCompletion (task : Nat) (op : Nat)
  /-- R233. A copy finishes its writes, possibly with a fault, and its actions take effect. -/
  | copyCompletion (task : Nat) (op : Nat)
  /-- R272. A ring tile passes a core's tap and is captured by eligible waiting RBOARDs. -/
  | tilePassage (core : Nat) (crcOk : Bool)
  /-- R271. A loader starts a layer, incrementing the lap at layer 0 and writing the ring status record. -/
  | layerStart
  /-- R218. A pending pixel lane is performed once the order word reaches its sequence. -/
  | pxwLanePerform (die : Nat) (lane : Nat)
  /-- R389. Halts the task's streams, writes trap state and lane records, and starts the handler. -/
  | trapEntry (task : Nat)
  /-- R20. A task whose streams have ended and operations completed runs its retire action and frees its resources. -/
  | taskRetire (task : Nat)
  /-- R26. The dispatcher places a pending block or span on a core when resources are free. -/
  | placeBlock (cores : List Nat) (bases : List Nat)
  /-- R401. Halts a block or span, drains operations to saved points and writes its context to the shadow region. -/
  | blockEviction (block : Nat)
  /-- R27. Restores an evicted block or span onto allowed cores and restarts its streams. -/
  | blockResumption (block : Nat) (cores : List Nat) (bases : List Nat)
  /-- R303. When all live tasks reach their quantum end, applies the buffers in fixed order. -/
  | commit (launch : Nat)
  /-- R282. A DISPATCH packet at a queue head submits its grid. -/
  | dispatch (slot : Nat)
  /-- R281. A JOIN packet holds its queue until its futures are done. -/
  | join (slot : Nat)
  /-- R281. The held queue moves on once every named future is done. -/
  | joinRelease (slot : Nat)
  /-- R290. A GRAPH packet submits a root grid and opens a work graph. -/
  | graph (slot : Nat)
  /-- R281. A MARKER packet waits for earlier grids of its queue. -/
  | marker (slot : Nat)
  /-- R281. When earlier grids complete, the MARKER resolves its future with 0. -/
  | markerResolve (slot : Nat)
  /-- R291. Records waiting FLUSH units are cut into a partial batch. -/
  | batchFlushTimeout (node : Nat)
  /-- R361. A notify-word write advances a slot's WRIDX or the queue's PENDNOTIFY. -/
  | notify (slot : Nat) (word : Dword)
  /-- R364. Binds a user queue to a hardware slot. -/
  | mapQueue (cmd : Dword)
  /-- R364. Unbinds a slot and writes the queue indices back. -/
  | unmapQueue (cmd : Dword)
  /-- R356. Places a SEND payload in the queue pair's receive ring. -/
  | send (qpn : Nat) (payload : List Byte)
  /-- R359. Writes device memory or a window as a release at .fab. -/
  | rdmaWrite (qpn : Nat) (rkey : Word) (va : Dword) (data : List Byte)
  /-- R359. Reads device memory as an acquire at .fab. -/
  | rdmaRead (qpn : Nat) (rkey : Word) (va : Dword) (len : Nat)
  /-- R355. An unsupported RoCEv2 operation is answered with a NAK and the queue pair errors. -/
  | refusedOperation (qpn : Nat)
  /-- R355. A received CNP lowers the requester's rate. -/
  | cnp (qpn : Nat)
  /-- R367. Byder accepts one connection on queue pair 1 and creates the first privileged queue pair. -/
  | connectionRequest (port : Nat) (desc : List Byte)
  /-- R367. Creates a reliable-connected queue pair from a descriptor. -/
  | create (qpn : Nat)
  /-- R367. Ends a queue pair, abandoning its messages. -/
  | destroy
  /-- R367. Reloads one region table entry. -/
  | rgninv (index : BitVec 16)
  /-- R366. A Flaori message announcement arrives and pulls begin. -/
  | flaoriRequest (msg : FlaoriMsg)
  /-- R366. A pulled data chunk arrives and is checked. -/
  | flaoriChunk (src : Nat) (tag : Word) (seq : Nat) (off : Nat) (data : List Byte) (good : Bool)
  /-- R366. A peer silent for 100 ms causes its message to be abandoned with FABRIC. -/
  | flaoriSilenceTimeout (peer : Nat)
  /-- R433. An Ethernet link goes down and is counted. -/
  | linkDown (port : Nat)
  /-- R433. An Ethernet link comes up. -/
  | linkUp (port : Nat)
  /-- R379. Invalidates every translation of a partition. -/
  | tlbicmdPartition (cmd : Dword)
  /-- R379. Invalidates translations of a range of pages. -/
  | tlbicmdRange (cmd : Dword)
  /-- R385. A Caddy read completes, installs or fails the page and resumes waiting blocks. -/
  | pageReadDone (id : Nat) (res : ReadResult)
  /-- R386. Starts reclaiming a resident frame. -/
  | evict (part : BitVec 3) (frame : Dword)
  /-- R386. A frame's write-back ends and the frame is freed or restored. -/
  | writeBackDone (part : BitVec 3) (res : WriteResult)
  /-- R382. A command outstanding 5 s is aborted and reported as NODEV. -/
  | nvmeCommandTimeout (id : Nat)
  /-- R380. Passes an admin command to an SSD. -/
  | admaddr (ssd : BitVec 3) (addr : Dword)
  /-- R380. Resets an SSD controller and link. -/
  | ssdReset (ssd : BitVec 3)
  /-- R433. Every 60 s the engine reads the SSD's health log into HEALTH. -/
  | healthPoll (ssd : BitVec 3) (log : Option Dword)
  /-- R373. A channel's idle timer expires and the channel enters self-refresh. -/
  | selfRefreshEntry (ch : Channel)
  /-- R428. The patrol scrubber reads a sector and corrects or poisons it. -/
  | scrubRead (sector : Nat) (found : ScrubFound) (raced : Bool)
  /-- R429. A core SRAM soft error is corrected, poisons, invalidates or kills the task. -/
  | softError (site : ErrSite) (double : Bool)
  /-- R432. Retires an L2 slice by moving its buckets. -/
  | retire (die : Nat) (slice : BitVec 4)
  /-- R431. Byder retires a slice whose corrected-error count reaches THRESH. -/
  | sliceAutoRetire (die : Nat) (slice : BitVec 4)
  /-- R427. Clears a die's error counters. -/
  | clr (die : Nat)
  /-- R426. Applies a partition's new fields if the affected partitions are empty. -/
  | apply (part : BitVec 3)
  /-- R404. Saves a partition's core state to one image and loads the other. -/
  | swap (part : BitVec 3)
  /-- R409. On start, Byder runs the boot stages in order. -/
  | boot (env : BootEnv)
  /-- R409. A stage not ended within 10 s ends the start attempt. -/
  | stageTimeout (stage : BitVec 8)
  /-- R413. Checks a staged image and writes it to flash in Dawn mode. -/
  | recover (flashOk : Bool)
  /-- R434. Checks a staged image and writes it to flash in normal mode. -/
  | update (flashOk : Bool)
  /-- R415. Answers an SPDM measurement request with signed measurements. -/
  | getMeasurements (qpn : Nat) (index : BitVec 8)
  /-- R422. Checks and installs a Samovar manifest. -/
  | load
  /-- R423. Changes the ring speed at the next tile boundary. -/
  | speedWrite (cmd : Dword)
  /-- R418. Enters NAP from IDLE, saving core state. -/
  | pwrcmdNap
  /-- R418. Enters SLEEP from NAP with memory in self-refresh. -/
  | pwrcmdSleep
  /-- R418. Returns from SLEEP to NAP. -/
  | pwrcmdWake
  /-- R418. Powers the package off. -/
  | pwrcmdOff
  /-- R417. After IDLETIME with no work the package goes IDLE. -/
  | idleEntry
  /-- R417. A packet or management command returns the package from IDLE to ACTIVE. -/
  | idleWake
  /-- R417. A packet that can take effect returns from NAP to ACTIVE, reloading core state. -/
  | napWake
  /-- R417. Loss of power takes the package to OFF. -/
  | powerLoss
  /-- R397. A debug agent halts a task with DEBUG HALT. -/
  | debugHaltRequest (task : Nat)
  /-- R397. The debug agent resumes a halted task as ERET would. -/
  | debugResume (task : Nat)
  /-- R6. A write to a management register without behaviour of its own, per its access codes. -/
  | registerWrite (off : Nat) (val : Dword)
  /-- R97. A queued store or atomic drains from its stream's store queue, becomes visible in the block and is later applied at its home slice or bank. -/
  | storeQueueDrain (task : Nat) (k : StreamId)
  /-- R132. A scoreboarded vector word (memory, VXM, intersection) completes, writes its results and flags, and releases waiting consumers. -/
  | scoreboardedWordCompletion (task : Nat)
  /-- R283. The queue scheduler takes a packet with a reserved TYPE, submits nothing and stops the queue in ERROR with ERR BADPACKET. -/
  | badpacket (slot : Nat)
  /-- R365. A queue scheduler read of a ring entry finds no translation or poison and stops the queue with ERR RINGFAULT. -/
  | ringfault (slot : Nat)
  /-- R354. A frame of the wrong protocol, or with a bad FCS, ICRC or Flaori CRC, arrives and is dropped and counted. -/
  | droppedFrame (port : Nat) (why : DropWhy)
  /-- R373. A channel in self-refresh finishes its exit time and serves the request that woke it. -/
  | selfRefreshExit (ch : Channel)
  /-- R380. An SSD completes a passthrough admin command; the completion is written at +64 and BUSY clears. -/
  | adminCompletion (ssd : BitVec 3) (entry : List Byte)
  /-- R380. An SSD's link comes up and its controller becomes ready, setting PRESENT and READY, and the engine creates its I/O queues. -/
  | ssdReady (ssd : BitVec 3)
  /-- R382. An SSD's PCIe link goes down or the SSD is removed, clearing PRESENT and READY so that later reads fail with NODEV. -/
  | ssdLinkDown (ssd : BitVec 3)
  /-- R367. A device-sent RoCEv2 message sees no ACK within 4.096 µs × 2^TIMEOUT and is retried or fails after RETRY attempts. -/
  | localAckTimeout (qpn : Nat)
  /-- R366. A Flaori keepalive is exchanged with a peer while a message waits, showing the peer is not silent. -/
  | flaoriKeepalive (peer : Nat)
  /-- R366. A pulled chunk that never arrives is detected as lost and pulled again, counting toward the 8 failed pulls. -/
  | flaoriLostChunk (src : Nat) (tag : Word) (seq : Nat) (off : Nat)
  /-- R416. A request to enter a debug state (USER, with a signed grant in PROD, or FULL) is granted or refused according to the security state. -/
  | debugRequest (state : DebugState) (part : BitVec 3) (signed : Bool)
  /-- R416. A signed fuse command changes the security state (BLANK to DEV or PROD, DEV to PROD, PROD to LOCKDOWN), effective at the next start. -/
  | fuseCommand (target : SecState) (signed : Bool)
  deriving DecidableEq, Repr

end Sys2Proof
end

