-- ==== Sys2Proof/Machine/Fields.lean ====
section
/-! DEFINITION. The fields of the vector words: which kind of operand each op9 reads from d7, a7, b7 and c7 (R126),
which modifier values it defines (R124, R173), and which op9 are assigned and pairable (R127, R128). -/
namespace Sys2Proof

/-- The operand kinds of R126; `grp n al` is a register group of n registers whose first number is a multiple of
`al` (R207), `v64` a 64-bit pair. -/
inductive FieldKind where
  | unused | v | v64 | pred | sreg | spair
  | grp (n al : Nat)
  deriving DecidableEq, Repr

/-- The kinds of the four operand fields, and whether a queue register may be named (R41, R207). -/
structure VFields where
  d : FieldKind
  a : FieldKind
  b : FieldKind
  c : FieldKind
  queue : Bool
  deriving DecidableEq, Repr

/-- The index of a stream: 0 S, 1 V, 2 M, 3 C (R392). -/
def StreamId.idx : StreamId → Nat
  | .s => 0
  | .v => 1
  | .m => 2
  | .c => 3

/-- All streams in the order S, V, M, C. -/
def allStreams : List StreamId := [.s, .v, .m, .c]

/-- mod7[2:0] (R173). -/
def VW.rm (w : VW) : Nat := w.mod7.toNat % 8
/-- mod7[3]: operand b is imm32 (R173). -/
def VW.immb (w : VW) : Bool := w.mod7.getLsbD 3
/-- mod7[6:4] (R173). -/
def VW.x (w : VW) : Nat := w.mod7.toNat / 16
/-- mod7[6:3]: the DST type code of the conversions (R190) and the OP of REDUX and SCAN (R201). -/
def VW.dst (w : VW) : Nat := w.mod7.toNat / 8
/-- mod4: the SRC type code of the conversions (R190). -/
def VW.src (w : VW) : Nat := w.mod4.toNat
/-- The address mode of VLD, VST, VLDRO and VPREF: mod7[4:3] (R208). -/
def VW.am (w : VW) : Nat := w.mod7.toNat / 8 % 4
/-- The access size code of VLD, VST, VLDRO and VPREF: mod7[2:0] (R208). -/
def VW.sz (w : VW) : Nat := w.mod7.toNat % 8
/-- The offset shift of VLD, VST, VLDRO and VPREF: mod7[6:5] (R208). -/
def VW.sc (w : VW) : Nat := w.mod7.toNat / 32
/-- The address mode of the vector atomics: mod7[6:5] (R214). -/
def VW.amAtom (w : VW) : Nat := w.mod7.toNat / 32
/-- mod4[3] of the vector atomics: the old value is returned (R214). -/
def VW.ret (w : VW) : Bool := w.mod4.getLsbD 3
/-- The word is unguarded: pred5 = 31, neg = 0 (R51). -/
def VW.unguarded (w : VW) : Bool := w.pred == 31#5 && w.neg == 0#1

/-- The wide word whose modifiers are all 0, which a paired slot stands for (R125). -/
def PSlot.toVW (p : PSlot) (h : PHead) : VW :=
  { stall := h.stall, e := h.e, pred := p.pred, neg := 0, mod7 := 0, d := p.d, a := p.a, b := p.b, c := p.c,
    mod4 := 0, imm := 0 }

/-- The op9 values that R127 assigns. -/
def opAssigned (op : Nat) : Bool :=
  (0x010 ≤ op && op ≤ 0x01D) || (0x040 ≤ op && op ≤ 0x04C) || (0x070 ≤ op && op ≤ 0x078) ||
  (0x0A0 ≤ op && op ≤ 0x0A9) || (0x0C0 ≤ op && op ≤ 0x0D9) || (0x100 ≤ op && op ≤ 0x107) ||
  (0x120 ≤ op && op ≤ 0x12C) || (0x140 ≤ op && op ≤ 0x141) || (0x160 ≤ op && op ≤ 0x168) ||
  op == 0x180 || (0x190 ≤ op && op ≤ 0x193)

/-- The VA/VB ALU operations among the pairable ones (R128). -/
def opAlu (op : Nat) : Bool :=
  (0x010 ≤ op && op ≤ 0x01B) || (0x0C0 ≤ op && op ≤ 0x0CA) || (0x0CC ≤ op && op ≤ 0x0D2) ||
  op == 0x120 || op == 0x122 || op == 0x123

/-- The pairable operations (R127, R128). -/
def opPairable (op : Nat) : Bool :=
  opAlu op || op == 0x040 || op == 0x042 || op == 0x043 || (0x0A0 ≤ op && op ≤ 0x0A7)

/-- b7 is unused under IMMB (R173). -/
def bKind (w : VW) (k : FieldKind) : FieldKind := if w.immb then .unused else k

/-- Type codes that name a pair (R190). -/
def codePair (t : Nat) : Bool := t == 1 || t == 12 || t == 13

/-- A register or a pair by type code. -/
def codeKind (t : Nat) : FieldKind := if codePair t then .v64 else .v

/-- A register or a pair by access size. -/
def szKind (wide : Bool) : FieldKind := if wide then .v64 else .v

/-- The a7 kind of an address mode (R208). -/
def amA (am : Nat) : FieldKind := if am = 2 then .v64 else .v
/-- The b7 kind of an address mode (R208). -/
def amB (am : Nat) : FieldKind := if am = 2 then .unused else .spair

/-- The number of outputs of a VXM (R220). -/
def vxmN (w : VW) : Nat := 8 * 2 ^ (w.mod7.toNat % 4)
/-- The number of x registers of a VXM: n/2 under bf16, n/4 under e4m3 (R220). -/
def vxmX (w : VW) : Nat := if w.mod7.getLsbD 2 then vxmN w / 4 else vxmN w / 2

/-- The operand kinds of each op9 (08, 09). -/
def vfields (op : Nat) (w : VW) : VFields :=
  if 0x010 ≤ op && op ≤ 0x012 || op == 0x015 || op == 0x016 then ⟨.v, .v, bKind w .v, .unused, true⟩
  else if op == 0x013 || op == 0x014 then ⟨.v, .v, bKind w .v, .v, true⟩
  else if 0x017 ≤ op && op ≤ 0x01B then ⟨.pred, .v, bKind w .v, .unused, true⟩
  else if op == 0x01C || op == 0x01D then ⟨.v, .v, .unused, .unused, true⟩
  else if 0x040 ≤ op && op ≤ 0x042 || op == 0x045 || op == 0x046 then ⟨.v64, .v64, bKind w .v64, .unused, false⟩
  else if op == 0x043 || op == 0x044 then ⟨.v64, .v64, bKind w .v64, .v64, false⟩
  else if 0x047 ≤ op && op ≤ 0x04B then ⟨.pred, .v64, bKind w .v64, .unused, false⟩
  else if op == 0x04C then ⟨.v64, .v64, .unused, .unused, false⟩
  else if op == 0x073 || 0x076 ≤ op && op ≤ 0x078 then ⟨.v, .v, bKind w .v, .v, true⟩
  else if 0x070 ≤ op && op ≤ 0x075 then ⟨.v, .v, bKind w .v, .unused, true⟩
  else if 0x0A0 ≤ op && op ≤ 0x0A7 then ⟨.v, .v, .unused, .unused, true⟩
  else if op == 0x0A8 || op == 0x0A9 then ⟨.v64, .v64, .unused, .unused, false⟩
  else if op == 0x0C3 || op == 0x0CC then ⟨.v, .v, bKind w .v, .v, true⟩
  else if op == 0x0CB then ⟨.v, .v, .v, .v, true⟩
  else if op == 0x0C7 then ⟨.v, .v, .unused, .unused, true⟩
  else if 0x0C0 ≤ op && op ≤ 0x0CA then ⟨.v, .v, bKind w .v, .unused, true⟩
  else if 0x0CD ≤ op && op ≤ 0x0D2 then ⟨.pred, .v, bKind w .v, .unused, true⟩
  else if 0x0D3 ≤ op && op ≤ 0x0D6 then ⟨.v, .v, .unused, .unused, true⟩
  else if op == 0x0D7 then ⟨.v, .v, .v, .unused, true⟩
  else if op == 0x0D8 then ⟨.v64, .v64, bKind w .v64, .unused, false⟩
  else if op == 0x0D9 then ⟨.v64, .v, bKind w .v, .v64, true⟩
  else if op == 0x100 || op == 0x101 then ⟨codeKind w.dst, codeKind w.src, .unused, .unused, true⟩
  else if op == 0x102 then ⟨.v, .v, .v, .unused, true⟩
  else if op == 0x103 then ⟨.v, .v64, .v64, .unused, true⟩
  else if op == 0x104 || op == 0x105 then ⟨.v64, .v, .unused, .unused, true⟩
  else if op == 0x106 || op == 0x107 then ⟨.v, .v, .v, .unused, true⟩
  else if op == 0x120 then ⟨.v, .v, .unused, .unused, true⟩
  else if op == 0x121 then ⟨.v, .unused, .unused, .unused, true⟩
  else if op == 0x122 then ⟨.v, .v, bKind w .v, .pred, true⟩
  else if op == 0x123 then ⟨.v, if w.mod7.getLsbD 4 then .unused else .v, bKind w .v, .unused, true⟩
  else if op == 0x124 then ⟨.v, .v, bKind w .v, .unused, true⟩
  else if op == 0x125 || op == 0x126 || op == 0x127 then ⟨.v, .v, .unused, .unused, true⟩
  else if op == 0x128 then ⟨.sreg, .v, .unused, .unused, false⟩
  else if op == 0x129 || op == 0x12A then ⟨.v, .unused, .unused, .unused, false⟩
  else if op == 0x12B then
    if w.mod7.getLsbD 0 then ⟨.sreg, .v, .unused, .unused, true⟩ else ⟨.v, .sreg, .unused, .unused, true⟩
  else if op == 0x12C then ⟨.v, .v, .sreg, .unused, true⟩
  else if op == 0x140 then ⟨.pred, .pred, .pred, .pred, false⟩
  else if op == 0x141 then
    if w.mod7 == 1 then ⟨.v, .pred, .unused, .unused, true⟩
    else if w.mod7 == 2 then ⟨.pred, .v, .unused, .unused, true⟩
    else ⟨.pred, .pred, .unused, .unused, false⟩
  else if op == 0x160 || op == 0x162 then ⟨szKind (w.sz == 5), amA w.am, amB w.am, .unused, false⟩
  else if op == 0x161 then ⟨.unused, amA w.am, amB w.am, szKind (w.sz == 5), false⟩
  else if op == 0x163 then
    ⟨if w.ret then szKind (w.mod7.getLsbD 4) else .unused, amA w.amAtom, amB w.amAtom, szKind (w.mod7.getLsbD 4), false⟩
  else if op == 0x164 then
    if w.mod7.toNat % 4 = 0 then ⟨.v, amA w.amAtom, amB w.amAtom, .grp 2 2, false⟩
    else if w.mod7.toNat % 4 = 1 then ⟨.v64, amA w.amAtom, amB w.amAtom, .grp 4 4, false⟩
    else ⟨.grp 4 4, amA w.amAtom, amB w.amAtom, .grp 8 8, false⟩
  else if op == 0x165 then ⟨if w.ret then .v else .unused, amA w.amAtom, amB w.amAtom, .v, false⟩
  else if op == 0x166 then ⟨.grp 6 1, .v64, .spair, .unused, false⟩
  else if op == 0x167 then ⟨.unused, amA w.am, amB w.am, .unused, false⟩
  else if op == 0x168 then ⟨.v, .v, .spair, .v, false⟩
  else if op == 0x180 then ⟨.grp (vxmN w) 1, .grp (vxmX w) 1, .v64, .unused, false⟩
  else if op == 0x190 then ⟨.grp 5 1, .grp 8 1, .v, .spair, false⟩
  else if op == 0x191 then ⟨.grp 4 1, .grp 8 1, .v, .spair, false⟩
  else if op == 0x192 then ⟨.grp 6 1, .grp 8 1, .spair, .sreg, false⟩
  else ⟨.v64, .v, .v, .spair, false⟩

/-- The modifier and immediate values that the entry of op9 defines (R124, R173 and the entries). -/
def vmodsOk (op : Nat) (w : VW) : Bool :=
  let m7 := w.mod7.toNat
  let imm := w.imm.toNat
  let immOk := w.immb || imm == 0
  let fp := w.rm ≤ 4 && w.x == 0 && immOk          -- RM and IMMB
  let nr := w.rm == 0 && w.x == 0 && immOk         -- IMMB only
  let none7 := m7 == 0 && w.mod4 == 0 && imm == 0
  if 0x010 ≤ op && op ≤ 0x014 || 0x040 ≤ op && op ≤ 0x044 then fp && w.mod4 == 0
  else if 0x015 ≤ op && op ≤ 0x01B || 0x045 ≤ op && op ≤ 0x04B then nr && w.mod4 == 0
  else if op == 0x01C then none7
  else if op == 0x01D || op == 0x04C then m7 ≤ 4 && w.mod4 == 0 && imm == 0
  else if 0x070 ≤ op && op ≤ 0x073 || op == 0x076 then fp && w.src ≤ 1
  else if op == 0x074 || op == 0x075 then nr && w.src ≤ 1
  else if op == 0x077 then fp && w.src ≤ 3
  else if op == 0x078 then nr && w.src ≤ 3
  else if 0x0A0 ≤ op && op ≤ 0x0A9 then none7
  else if op == 0x0C4 || op == 0x0C5 || op == 0x0C6 || op == 0x0D9 then
    w.rm == 0 && w.x ≤ 1 && immOk && w.mod4 == 0
  else if op == 0x0C7 then none7
  else if op == 0x0CB then w.rm == 0 && !w.immb && w.x ≤ 1 && w.mod4 == 0 && imm < 256
  else if op == 0x0CC then w.rm == 0 && w.x ≤ 3 && immOk && w.mod4 == 0
  else if 0x0C0 ≤ op && op ≤ 0x0D2 || op == 0x0D8 then nr && w.mod4 == 0
  else if 0x0D3 ≤ op && op ≤ 0x0D5 then none7
  else if op == 0x0D6 || op == 0x0D7 then
    w.rm == 0 && !w.immb && (if op == 0x0D6 then w.x ≤ 1 else w.x == 0) && w.mod4 == 0 &&
    imm / 2 ^ 5 % 8 == 0 && imm / 2 ^ 14 == 0 && imm / 2 ^ 8 % 64 ≤ 32
  else if op == 0x100 then w.rm ≤ 5 && w.src ≤ 9 && w.dst ≤ 8 && w.src != w.dst && imm == 0
  else if op == 0x101 then
    let isI := fun t => 10 ≤ t && t ≤ 13
    w.rm ≤ 4 && imm == 0 && ((isI w.dst && w.src ≤ 8) || (isI w.src && w.dst ≤ 8))
  else if op == 0x102 then w.rm ≤ 5 && w.src == 0 && (w.dst == 2 || w.dst == 3) && imm == 0
  else if op == 0x103 then w.rm ≤ 5 && w.src == 0 && 4 ≤ w.dst && w.dst ≤ 8 && imm == 0
  else if op == 0x104 then m7 == 0 && (w.src == 2 || w.src == 3) && imm == 0
  else if op == 0x105 then m7 == 0 && 4 ≤ w.src && w.src ≤ 8 && imm ≤ 1
  else if op == 0x106 then
    w.src == 0 && (w.rm == 0 || w.rm == 1 || w.rm == 5) && (4 ≤ w.dst && w.dst ≤ 8 || w.dst == 14) && imm == 0
  else if op == 0x107 then m7 == 0 && (4 ≤ w.src && w.src ≤ 8 || w.src == 14) && imm == 0
  else if op == 0x120 then none7
  else if op == 0x121 then m7 == 0 && w.mod4 == 0
  else if op == 0x122 then nr && w.mod4 == 0
  else if op == 0x123 then w.rm == 0 && w.x ≤ 1 && immOk && w.mod4 == 0
  else if op == 0x124 then w.rm == 0 && w.x ≤ 3 && immOk && w.mod4 == 0
  else if op == 0x125 then m7 == 0 && w.mod4 == 0 && imm < 128
  else if op == 0x126 then w.rm == 0 && w.dst ≤ 10 && w.mod4 == 0 && imm == 0
  else if op == 0x127 then w.rm == 0 && w.dst ≤ 10 && w.src ≤ 1 && imm == 0
  else if op == 0x128 || op == 0x129 || op == 0x12A then none7 && w.unguarded
  else if op == 0x12B then
    if m7 == 1 then w.mod4 == 0 && imm < 128 && w.unguarded else none7
  else if op == 0x12C then none7
  else if op == 0x140 then m7 ≤ 1 && w.mod4 == 0 && imm < 256
  else if op == 0x141 then m7 ≤ 2 && w.mod4 == 0 && (if m7 == 2 then imm < 32 else imm == 0)
  else if op == 0x160 || op == 0x162 then
    w.sz ≤ 5 && w.am ≤ 2 && (w.am != 2 || w.sc == 0) && w.mod4 == 0
  else if op == 0x161 then
    (w.sz == 0 || w.sz == 2 || w.sz == 4 || w.sz == 5) && w.am ≤ 2 && (w.am != 2 || w.sc == 0) && w.mod4 == 0
  else if op == 0x163 then m7 % 16 ≤ 8 && w.amAtom ≤ 2
  else if op == 0x164 then m7 % 4 ≤ 2 && m7 / 4 % 8 == 0 && w.amAtom ≤ 2 && !w.ret
  else if op == 0x165 then m7 % 32 == 0 && w.amAtom ≤ 2
  else if op == 0x166 then m7 ≤ 2 && w.mod4 == 0 && imm == 0
  else if op == 0x167 then w.sz == 4 && w.am ≤ 2 && (w.am != 2 || w.sc == 0) && w.src ≤ 1
  else if op == 0x168 then m7 ≤ 3 && w.mod4 == 0 && imm == 0
  else if op == 0x180 then m7 % 4 ≤ 2 && m7 < 16 && w.mod4 == 0 && imm == 0
  else if op == 0x190 || op == 0x191 then none7
  else if op == 0x192 then m7 ≤ 1 && w.mod4 == 0 && imm == 0
  else m7 ≤ 2 && w.mod4 == 0 && imm == 0

/-- A field of kind `unused` must be 0 (R126). -/
def unusedOk (k : FieldKind) (f : BitVec 7) : Bool := k != .unused || f == 0

/-- What the encoding alone shows of an operand field (R126, R207); the bound by .vregs is checked at issue. -/
def fieldOk (k : FieldKind) (queue : Bool) (f : BitVec 7) : Bool :=
  match k with
  | .unused => true
  | .v => queue || f.toNat < 124
  | .v64 => f.toNat % 2 == 0 && f.toNat < 124
  | .pred | .sreg => f.toNat < 32
  | .spair => f.toNat < 32 && f.toNat % 2 == 0
  | .grp n al => f.toNat % al == 0 && f.toNat + n ≤ 124

/-- The registers v of a field: its first number and how many. -/
def fieldRegs (k : FieldKind) (f : BitVec 7) : Nat × Nat :=
  match k with
  | .v => (f.toNat, 1)
  | .v64 => (f.toNat, 2)
  | .grp n _ => (f.toNat, n)
  | _ => (0, 0)

/-- Two register ranges share a register. -/
def rangesMeet (p q : Nat × Nat) : Bool := p.2 != 0 && q.2 != 0 && p.1 < q.1 + q.2 && q.1 < p.1 + p.2

/-- The queue registers that a word's fields name (R41). -/
def queueFields (f : VFields) (w : VW) : List (BitVec 7) :=
  ([(f.d, w.d), (f.a, w.a), (f.b, w.b), (f.c, w.c)].filter
    fun p => (p.1 == FieldKind.v) && decide (124 ≤ p.2.toNat)).map (·.2)

/-- No item occurs twice. -/
def noDup {α : Type} [DecidableEq α] : List α → Bool
  | [] => true
  | x :: xs => !(xs.contains x) && noDup xs

/-- The groups that an entry requires to be disjoint are (R195, R214, R216, R220, R227 to R232). -/
def disjointOk (op : Nat) (w : VW) : Bool :=
  let f := vfields op w
  let d := fieldRegs f.d w.d
  let a := fieldRegs f.a w.a
  let b := fieldRegs f.b w.b
  let c := fieldRegs f.c w.c
  if op == 0x106 then w.d != w.b
  else if op == 0x163 || op == 0x164 || op == 0x165 then !rangesMeet d c
  else if op == 0x166 || op == 0x190 || op == 0x191 || op == 0x192 then !rangesMeet d a
  else if op == 0x180 || op == 0x193 then !rangesMeet d a && !rangesMeet d b
  else true

/-- The operand limits that only one entry has: a lane below 96 (R198, R200), a VTAG base (R204), a scope (R95). -/
def entryOk (op : Nat) (w : VW) : Bool :=
  if op == 0x125 || op == 0x12B && w.mod7.getLsbD 0 then w.imm.toNat % 128 < 96
  else if op == 0x128 then w.a.toNat % 16 == 0
  else if op == 0x163 || op == 0x164 || op == 0x165 then w.mod4.toNat % 8 ≤ 4
  else true

/-- The ILLEGAL sub-code that the encoding of a wide word alone gives (R134): 2 RESERVED, 4 OPERAND. -/
def wideIllegal (op : Nat) (w : VW) : Option Nat :=
  let f := vfields op w
  if !(vmodsOk op w && unusedOk f.d w.d && unusedOk f.a w.a && unusedOk f.b w.b && unusedOk f.c w.c) then some 2
  else if !(fieldOk f.d f.queue w.d && fieldOk f.a f.queue w.a && fieldOk f.b f.queue w.b && fieldOk f.c f.queue w.c
      && noDup (queueFields f w) && disjointOk op w && entryOk op w) then some 4
  else none

/-- The ILLEGAL sub-code that the encoding of a paired word alone gives: 1 OPCODE, 2 RESERVED, 4 OPERAND, 5 PAIR
(R125, R126, R129, R134). The conditions on registers that depend on tags are checked at issue. The fields of a slot whose
operation is assigned but not pairable are not looked at, so that such a slot gives PAIR alone (DESIGN CHOICE, log 93). -/
def pairIllegal (h : PHead) (sa sb : PSlot) : Option Nat :=
  let oa := sa.op9.toNat
  let ob := sb.op9.toNat
  let wa := sa.toVW h
  let wb := sb.toVW h
  let fa := vfields oa wa
  let fb := vfields ob wb
  let ia := if opPairable oa then wideIllegal oa wa else none
  let ib := if opPairable ob then wideIllegal ob wb else none
  let qa := if opPairable oa then queueFields fa wa else []
  let qb := if opPairable ob then queueFields fb wb else []
  if !(opAssigned oa && opAssigned ob) then some 1
  else if ia == some 2 || ib == some 2 then some 2
  else if ia == some 4 || ib == some 4 || !(noDup (qa ++ qb)) then some 4
  else if !(opPairable oa && opPairable ob) || !(opAlu oa || opAlu ob) then some 5
  else if !qa.isEmpty && !qb.isEmpty then some 5
  else if fa.d == .pred && fb.d == .pred then some 5
  else
    let da := if fa.d == .v && 124 ≤ sa.d.toNat then (0, 0) else fieldRegs fa.d sa.d
    let db := if fb.d == .v && 124 ≤ sb.d.toNat then (0, 0) else fieldRegs fb.d sb.d
    let na := (idxFrom da.1 da.2).map (· % 16)
    let nb := (idxFrom db.1 db.2).map (· % 16)
    if noDup (na ++ nb) then none else some 5

end Sys2Proof
end

