-- ==== Sys2Proof/WellFormed.lean ====
section
/-! DEFINITION. Well-formed instructions: those whose fields every rule of encoding admits (R114 to R129 and the
entries of 07 to 10). `Instr.illegal` gives the ILLEGAL sub-code of an instruction whose encoding breaks a limit. -/
namespace Sys2Proof

/-- The op9 and the fields of a wide vector instruction (R127). -/
def Instr.vec? : Instr → Option (Nat × VW)
  | .fadd w => some (0x010, w)
  | .fsub w => some (0x011, w)
  | .fmul w => some (0x012, w)
  | .ffma w => some (0x013, w)
  | .ffnma w => some (0x014, w)
  | .fmin w => some (0x015, w)
  | .fmax w => some (0x016, w)
  | .fceq w => some (0x017, w)
  | .fcne w => some (0x018, w)
  | .fclt w => some (0x019, w)
  | .fcle w => some (0x01A, w)
  | .fcun w => some (0x01B, w)
  | .fclass w => some (0x01C, w)
  | .frnd w => some (0x01D, w)
  | .dadd w => some (0x040, w)
  | .dsub w => some (0x041, w)
  | .dmul w => some (0x042, w)
  | .dfma w => some (0x043, w)
  | .dfnma w => some (0x044, w)
  | .dmin w => some (0x045, w)
  | .dmax w => some (0x046, w)
  | .dceq w => some (0x047, w)
  | .dcne w => some (0x048, w)
  | .dclt w => some (0x049, w)
  | .dcle w => some (0x04A, w)
  | .dcun w => some (0x04B, w)
  | .drnd w => some (0x04C, w)
  | .hadd2 w => some (0x070, w)
  | .hsub2 w => some (0x071, w)
  | .hmul2 w => some (0x072, w)
  | .hfma2 w => some (0x073, w)
  | .hmin2 w => some (0x074, w)
  | .hmax2 w => some (0x075, w)
  | .dot2 w => some (0x076, w)
  | .dot4 w => some (0x077, w)
  | .idot4 w => some (0x078, w)
  | .rcp w => some (0x0A0, w)
  | .rsq w => some (0x0A1, w)
  | .sqrt w => some (0x0A2, w)
  | .exp2 w => some (0x0A3, w)
  | .log2 w => some (0x0A4, w)
  | .sinpi w => some (0x0A5, w)
  | .cospi w => some (0x0A6, w)
  | .tanh w => some (0x0A7, w)
  | .drcp w => some (0x0A8, w)
  | .dsqrt w => some (0x0A9, w)
  | .iadd w => some (0x0C0, w)
  | .isub w => some (0x0C1, w)
  | .imul w => some (0x0C2, w)
  | .imad w => some (0x0C3, w)
  | .imulh w => some (0x0C4, w)
  | .imin w => some (0x0C5, w)
  | .imax w => some (0x0C6, w)
  | .iabs w => some (0x0C7, w)
  | .ishl w => some (0x0C8, w)
  | .ishr w => some (0x0C9, w)
  | .isra w => some (0x0CA, w)
  | .vlut w => some (0x0CB, w)
  | .isum3 w => some (0x0CC, w)
  | .iceq w => some (0x0CD, w)
  | .icne w => some (0x0CE, w)
  | .iclt w => some (0x0CF, w)
  | .icle w => some (0x0D0, w)
  | .icltb w => some (0x0D1, w)
  | .icleb w => some (0x0D2, w)
  | .vpopc w => some (0x0D3, w)
  | .vclz w => some (0x0D4, w)
  | .brev w => some (0x0D5, w)
  | .bfx w => some (0x0D6, w)
  | .bfi w => some (0x0D7, w)
  | .iadd64 w => some (0x0D8, w)
  | .imad64 w => some (0x0D9, w)
  | .cvt w => some (0x100, w)
  | .cvti w => some (0x101, w)
  | .pk2 w => some (0x102, w)
  | .pk4 w => some (0x103, w)
  | .unpk2 w => some (0x104, w)
  | .unpk4 w => some (0x105, w)
  | .mxq w => some (0x106, w)
  | .mxdq w => some (0x107, w)
  | .vmov w => some (0x120, w)
  | .vmovi w => some (0x121, w)
  | .vsel w => some (0x122, w)
  | .viota w => some (0x123, w)
  | .vperm w => some (0x124, w)
  | .bcast w => some (0x125, w)
  | .redux w => some (0x126, w)
  | .scan w => some (0x127, w)
  | .vtag w => some (0x128, w)
  | .vunif w => some (0x129, w)
  | .vdef w => some (0x12A, w)
  | .vmovsToVector w => some (0x12B, w)
  | .vmovsToScalar w => some (0x12B, w)
  | .vreadl w => some (0x12C, w)
  | .plut w => some (0x140, w)
  | .pmov w => some (0x141, w)
  | .vld w => some (0x160, w)
  | .vst w => some (0x161, w)
  | .vldro w => some (0x162, w)
  | .vatom w => some (0x163, w)
  | .vatomcas w => some (0x164, w)
  | .vfadd w => some (0x165, w)
  | .vquad w => some (0x166, w)
  | .vpref w => some (0x167, w)
  | .pxw w => some (0x168, w)
  | .vxm w => some (0x180, w)
  | .xbox w => some (0x190, w)
  | .xtri w => some (0x191, w)
  | .xstep w => some (0x192, w)
  | _ => none

/-- Reserved bits of the action field: SEM without SIGE, BAR without BYTE (R120). -/
def Act.ok (a : Act) : Bool := (a.sige == 1 || a.sem == 0) && (a.byte == 1 || a.bar == 0)

/-- The action field that names nothing (R120). -/
def Act.none : Act := { stat := 31, sige := 0, sem := 0, byte := 0, bar := 0, fut := 0 }

/-- A triple field names s0 to s25 as its first register (R34). -/
def tripleOk (j : BitVec 5) : Bool := j.toNat ≤ 25

/-- System-register indices below 0x100 that R44 lists, and every index from 0x100 up (R115). -/
def sysListed (i : BitVec 12) : Bool :=
  let n := i.toNat
  n ≤ 0x007 || (0x010 ≤ n && n ≤ 0x013) || (0x020 ≤ n && n ≤ 0x022) || n == 0x030 || n == 0x031 ||
  n == 0x040 || n == 0x041 || n == 0x050 || n == 0x051 || 0x100 ≤ n

/-- A code of the FA and FB fields of MMA (R246): its class, or none when undefined. -/
def mmaClass (f : BitVec 4) : Option Nat :=
  match f.toNat with
  | 0 => some 0
  | 1 => some 1
  | 2 | 3 => some 2
  | 4 | 5 => some 3
  | 6 | 7 => some 4
  | 8 => some 5
  | 9 => some 6
  | 10 => some 7
  | _ => none

/-- Slots that one operand of an MMA takes: 3 for MX FP6, otherwise 2 (R246). -/
def mmaSlots (f : BitVec 4) : Nat := if f == 6 || f == 7 then 3 else 2

/-- The encoding limits of MMA and MMAP (R246, R249); `paired` asks for both B operands. -/
def mmaOk (sa sb : BitVec 6) (c : BitVec 5) (fa fb : BitVec 4) (paired : Bool) : Bool :=
  mmaClass fa != none && mmaClass fa == mmaClass fb && c.toNat % 4 == 0 &&
  sa.toNat + mmaSlots fa ≤ 64 && sb.toNat + mmaSlots fb * (if paired then 2 else 1) ≤ 64

/-- The ILLEGAL sub-code that the fields of an instruction give: 1 OPCODE, 2 RESERVED, 4 OPERAND, 5 PAIR (R134). -/
def Instr.illegal : Instr → Option Nat
  | .atomAdd d _ b ret _ wide => if !(ret || d == 0) then some 2 else if !(!wide || (d.toNat % 2 == 0 && b.toNat % 2 == 0)) then some 4 else none
  | .atomMinI d _ b ret _ wide => if !(ret || d == 0) then some 2 else if !(!wide || (d.toNat % 2 == 0 && b.toNat % 2 == 0)) then some 4 else none
  | .atomMaxI d _ b ret _ wide => if !(ret || d == 0) then some 2 else if !(!wide || (d.toNat % 2 == 0 && b.toNat % 2 == 0)) then some 4 else none
  | .atomMinB d _ b ret _ wide => if !(ret || d == 0) then some 2 else if !(!wide || (d.toNat % 2 == 0 && b.toNat % 2 == 0)) then some 4 else none
  | .atomMaxB d _ b ret _ wide => if !(ret || d == 0) then some 2 else if !(!wide || (d.toNat % 2 == 0 && b.toNat % 2 == 0)) then some 4 else none
  | .atomAnd d _ b ret _ wide => if !(ret || d == 0) then some 2 else if !(!wide || (d.toNat % 2 == 0 && b.toNat % 2 == 0)) then some 4 else none
  | .atomOr d _ b ret _ wide => if !(ret || d == 0) then some 2 else if !(!wide || (d.toNat % 2 == 0 && b.toNat % 2 == 0)) then some 4 else none
  | .atomXor d _ b ret _ wide => if !(ret || d == 0) then some 2 else if !(!wide || (d.toNat % 2 == 0 && b.toNat % 2 == 0)) then some 4 else none
  | .atomExch d _ b ret _ wide => if !(ret || d == 0) then some 2 else if !(!wide || (d.toNat % 2 == 0 && b.toNat % 2 == 0)) then some 4 else none
  | .atomAddF32 d _ _ ret _ => if !(ret || d == 0) then some 2 else none
  | .sig _ k => if !(k != 0) then some 4 else none
  | .wait _ k => if !(k != 0) then some 4 else none
  | .mif j _ => if !(tripleOk j) then some 4 else none
  | .melse j => if !(tripleOk j) then some 4 else none
  | .mjoin j => if !(tripleOk j) then some 4 else none
  | .msave j => if !(tripleOk j) then some 4 else none
  | .pmovs j _ => if !(tripleOk j) then some 4 else none
  | .smovp _ j => if !(tripleOk j) then some 4 else none
  | .sysrd _ i => if !(sysListed i) then some 4 else none
  | .syswr _ i => if !(sysListed i) then some 4 else none
  | .oclm b n => if !(1 ≤ n.toNat && b.toNat + n.toNat ≤ 64) then some 4 else none
  | .mold act b n _ _ => if !(act.ok) then some 2 else if !(1 ≤ n.toNat && b.toNat + n.toNat ≤ 64) then some 4 else none
  | .mma act sa sb c _ _ fa fb _ => if !(act.ok) then some 2 else if !(mmaOk sa sb c fa fb false) then some 4 else none
  | .mmap act sa sb c _ _ fa fb _ => if !(act.ok) then some 2 else if !(mmaOk sa sb c fa fb true) then some 4 else none
  | .mmasFull act sa sb n _ _ => if !(act.ok) then some 2 else if !(2 ≤ n.toNat && n.toNat ≤ 9 && sa.toNat + 2 * n.toNat ≤ 64 && sb.toNat + 2 * n.toNat ≤ 64) then some 4 else none
  | .mmasTri act sa sb n _ _ => if !(act.ok) then some 2 else if !(2 ≤ n.toNat && n.toNat ≤ 9 && sa.toNat + 2 * n.toNat ≤ 64 && sb.toNat + 2 * n.toNat ≤ 64) then some 4 else none
  | .mwclr act => if !(act.ok) then some 2 else none
  | .mwst act _ _ _ _ => if !(act.ok) then some 2 else none
  | .macz act c k => if !(act.ok) then some 2 else if !(c.toNat + k.toNat ≤ 31) then some 4 else none
  | .macld act _ _ c _ _ => if !(act.ok) then some 2 else if !(c.toNat % 4 == 0) then some 4 else none
  | .macst act _ _ c _ nq fmt sr sc => if !(act.ok) then some 2 else if !(fmt.toNat ≤ 8 && c.toNat % 4 == 0 && !(sr && fmt == 0) && (4 ≤ fmt.toNat || sc == 0) && (fmt.toNat < 4 || nq.toNat % 2 == 1)) then some 4 else none
  | .rboard act _ _ _ _ _ => if !(act.ok) then some 2 else none
  | .cpy act _ _ _ => if !(act.ok) then some 2 else none
  | .tcopy act _ _ _ => if !(act.ok) then some 2 else none
  | .tcopySt act _ _ _ => if !(act.ok) then some 2 else none
  | .tcopyo act _ _ _ => if !(act.ok) then some 2 else none
  | .osliceA act _ b s _ => if !(act.ok) then some 2 else if !(2 ≤ s.toNat && s.toNat ≤ 9 && b.toNat + 2 * s.toNat ≤ 64) then some 4 else none
  | .osliceB act _ b s _ => if !(act.ok) then some 2 else if !(2 ≤ s.toNat && s.toNat ≤ 9 && b.toNat + 2 * s.toNat ≤ 64) then some 4 else none
  | .gather act _ _ _ _ _ _ => if !(act.ok) then some 2 else none
  | .scatter act _ _ _ _ _ _ => if !(act.ok) then some 2 else none
  | .cpyred act _ _ _ op ty => if !(act.ok) then some 2 else if !(op.toNat ≤ 4 && (op.toNat < 3 || ty.toNat < 2)) then some 4 else none
  | .qfill act _ _ _ _ _ => if !(act.ok) then some 2 else none
  | .qsink act _ _ _ _ _ => if !(act.ok) then some 2 else none
  | .collred act _ _ _ _ op ty _ => if !(act.ok) then some 2 else if !(op.toNat ≤ 4 && (op.toNat < 3 || ty.toNat < 2)) then some 4 else none
  | .collbc act _ _ _ => if !(act.ok) then some 2 else none
  | .collsendSend act _ _ _ _ => if !(act.ok) then some 2 else none
  | .collsendRecv act _ _ _ _ => if !(act.ok) then some 2 else none
  | .spref act _ _ => if !(act.ok) then some 2 else none
  | .vmovsToVector w => if w.mod7.getLsbD 0 != false then some 2 else wideIllegal 0x12B w
  | .vmovsToScalar w => if w.mod7.getLsbD 0 != true then some 2 else wideIllegal 0x12B w
  | .xstep w => if w.mod7.getLsbD 0 != false then some 2 else wideIllegal 0x192 w
  | i => match i.vec? with
    | some (op, w) => wideIllegal op w
    | none => none

/-- A well-formed instruction: its encoding raises no ILLEGAL by itself. -/
def Instr.wf (i : Instr) : Bool := i.illegal == none

end Sys2Proof
end

