-- ==== Sys2Proof/Decode.lean ====
section
/-! DEFINITION. Decoding (R110 to R129): one, two or three parcels to an instruction or an ILLEGAL sub-code, total on
any bits; the encoder written from the same tables; and the instruction of a table word. -/
namespace Sys2Proof

/-- Bits [lo + len − 1 : lo] of a parcel. -/
def fld (p lo len : Nat) : Nat := p / 2 ^ lo % 2 ^ len

/-- A field as a bit vector. -/
def fbv (p lo len : Nat) : BitVec len := BitVec.ofNat len (fld p lo len)

/-- The result of decoding: an instruction, or the ILLEGAL sub-code (R134). -/
abbrev Dec := Except Nat Instr

/-- An unassigned opcode: ILLEGAL, sub-code OPCODE (R134). -/
def Dec.opcode : Dec := .error 1

/-- Reserved bits must be 0: ILLEGAL, sub-code RESERVED (R114, R134). -/
def resv (ok : Bool) (k : Dec) : Dec := if ok then k else .error 2

/-- A field limit: ILLEGAL, sub-code OPERAND (R115, R134). -/
def need (ok : Bool) (k : Dec) : Dec := if ok then k else .error 4

/-- An instruction whose own field limits are then checked. -/
def accept (i : Instr) : Dec :=
  match i.illegal with
  | none => .ok i
  | some k => .error k

/-- The number of parcels, from P0 alone (R110). -/
def parcels (p0 : Word) : Nat :=
  if p0.getLsbD 31 then (if p0.getLsbD 30 then 3 else 2) else 1

/-- The instruction classes of R112. -/
inductive InstrClass where | scalar | mask | matrix | copy | vector
  deriving DecidableEq, Repr

/-- The class of an instruction's P0 (R112); none for an engine value that is unassigned (R119). -/
def classOf (p0 : Word) : Option InstrClass :=
  let p := p0.toNat
  if p0.getLsbD 31 then
    if p0.getLsbD 30 then some .vector
    else if fld p 26 4 = 0 then some .matrix
    else if fld p 26 4 = 1 then some .copy
    else none
  else if 0x50 ≤ fld p 24 7 && fld p 24 7 ≤ 0x58 then some .mask
  else some .scalar

/-- The classes that each stream executes (R112). -/
def InstrClass.runsOn (c : InstrClass) (k : StreamId) : Bool :=
  match c, k with
  | .scalar, _ => true
  | .mask, .v => true
  | .vector, .v => true
  | .matrix, .m => true
  | .copy, .c => true
  | _, _ => false

/-- The scope code of R95. -/
def scopeOf (n : Nat) : Option Scope :=
  match n with
  | 0 => some .task
  | 1 => some .block
  | 2 => some .span
  | 3 => some .pkg
  | 4 => some .fab
  | _ => none

/-- The code of a scope (R95). -/
def Scope.code : Scope → Nat
  | .task => 0
  | .block => 1
  | .span => 2
  | .pkg => 3
  | .fab => 4

/-- A scope field; codes 5 to 7 raise OPERAND (R95). -/
def withScope (n : Nat) (k : Scope → Dec) : Dec :=
  match scopeOf n with
  | some s => k s
  | none => .error 4

/-- The d, a and b fields of the 32-bit formats (R113). -/
def fD (p : Nat) : BitVec 5 := fbv p 19 5
def fA (p : Nat) : BitVec 5 := fbv p 14 5
def fB (p : Nat) : BitVec 5 := fbv p 9 5
/-- A pair field: the number of the even register, halved (R32). -/
def fDp (p : Nat) : BitVec 4 := fbv p 20 4
def fAp (p : Nat) : BitVec 4 := fbv p 15 4
def fBp (p : Nat) : BitVec 4 := fbv p 10 4
def evD (p : Nat) : Bool := fld p 19 1 == 0
def evA (p : Nat) : Bool := fld p 14 1 == 0
def evB (p : Nat) : Bool := fld p 9 1 == 0
def imm14 (p : Nat) : BitVec 14 := fbv p 0 14
def imm19 (p : Nat) : BitVec 19 := fbv p 0 19

/-- The INT-R group (R116). -/
def decIntR (p : Nat) : Dec :=
  match fld p 0 9 with
  | 0 => .ok (.add (fD p) (fA p) (fB p))
  | 1 => .ok (.sub (fD p) (fA p) (fB p))
  | 2 => .ok (.and (fD p) (fA p) (fB p))
  | 3 => .ok (.or (fD p) (fA p) (fB p))
  | 4 => .ok (.xor (fD p) (fA p) (fB p))
  | 5 => .ok (.shl (fD p) (fA p) (fB p))
  | 6 => .ok (.shr (fD p) (fA p) (fB p))
  | 7 => .ok (.sra (fD p) (fA p) (fB p))
  | 8 => .ok (.mul (fD p) (fA p) (fB p))
  | 9 => .ok (.mulhI32 (fD p) (fA p) (fB p))
  | 10 => .ok (.mulhB32 (fD p) (fA p) (fB p))
  | 11 => .ok (.divI32 (fD p) (fA p) (fB p))
  | 12 => .ok (.divB32 (fD p) (fA p) (fB p))
  | 13 => .ok (.remI32 (fD p) (fA p) (fB p))
  | 14 => .ok (.remB32 (fD p) (fA p) (fB p))
  | 15 => .ok (.minI32 (fD p) (fA p) (fB p))
  | 16 => .ok (.maxI32 (fD p) (fA p) (fB p))
  | 17 => .ok (.minB32 (fD p) (fA p) (fB p))
  | 18 => .ok (.maxB32 (fD p) (fA p) (fB p))
  | 19 => .ok (.slt (fD p) (fA p) (fB p))
  | 20 => .ok (.sltb (fD p) (fA p) (fB p))
  | 21 => .ok (.seq (fD p) (fA p) (fB p))
  | 22 => resv (fld p 9 5 == 0) (.ok (.clz (fD p) (fA p)))
  | 23 => resv (fld p 9 5 == 0) (.ok (.popc (fD p) (fA p)))
  | 24 => need (evD p && evA p && evB p) (.ok (.add64 (fDp p) (fAp p) (fBp p)))
  | 25 => need (evD p && evA p && evB p) (.ok (.sub64 (fDp p) (fAp p) (fBp p)))
  | 26 => need (evD p && evA p) (.ok (.shl64 (fDp p) (fAp p) (fB p)))
  | 27 => need (evD p && evA p) (.ok (.shr64 (fDp p) (fAp p) (fB p)))
  | 28 => need (evD p && evA p && evB p) (.ok (.mul64 (fDp p) (fAp p) (fBp p)))
  | 29 => .ok (.sel (fD p) (fA p) (fB p))
  | _ => .opcode

/-- ATOM (R117): the op of func9[3:0]. -/
def decAtom (p : Nat) : Dec :=
  let go := fun (k : BitVec 5 → BitVec 4 → BitVec 5 → Bool → Scope → Bool → Instr) =>
    let r := resv (fld p 8 1 == 1 || fD p == 0)
    let w := fld p 4 1 == 1
    r (need (evA p && (!w || (evD p && evB p)))
      (withScope (fld p 5 3) fun s => .ok (k (fD p) (fAp p) (fB p) (fld p 8 1 == 1) s w)))
  match fld p 0 4 with
  | 0 => go .atomAdd
  | 1 => go .atomMinI
  | 2 => go .atomMaxI
  | 3 => go .atomMinB
  | 4 => go .atomMaxB
  | 5 => go .atomAnd
  | 6 => go .atomOr
  | 7 => go .atomXor
  | 8 => go .atomExch
  | 9 => resv (fld p 8 1 == 1 || fD p == 0) (need (evA p && fld p 4 1 == 0)
      (withScope (fld p 5 3) fun s => .ok (.atomAddF32 (fD p) (fAp p) (fB p) (fld p 8 1 == 1) s)))
  | _ => .opcode

/-- The 32-bit opcode map (R115). The field a of CWAIT is its count operand (R156; log 87). -/
def dec32 (p : Nat) : Dec :=
  match fld p 24 7 with
  | 0x01 => decIntR p
  | 0x02 => .ok (.addi (fD p) (fA p) (imm14 p))
  | 0x03 => .ok (.andi (fD p) (fA p) (imm14 p))
  | 0x04 => .ok (.ori (fD p) (fA p) (imm14 p))
  | 0x05 => .ok (.xori (fD p) (fA p) (imm14 p))
  | 0x06 => need (fld p 5 9 == 0) (.ok (.shli (fD p) (fA p) (fbv p 0 5)))
  | 0x07 => need (fld p 5 9 == 0) (.ok (.shri (fD p) (fA p) (fbv p 0 5)))
  | 0x08 => need (fld p 5 9 == 0) (.ok (.srai (fD p) (fA p) (fbv p 0 5)))
  | 0x09 => .ok (.slti (fD p) (fA p) (imm14 p))
  | 0x0A => need (evD p && evA p) (.ok (.addi64 (fDp p) (fAp p) (imm14 p)))
  | 0x0B => .ok (.lui (fD p) (imm19 p))
  | 0x0C => need (evD p) (.ok (.addpc (fDp p) (imm19 p)))
  | 0x10 => .ok (.beq (fD p) (fA p) (imm14 p))
  | 0x11 => .ok (.bne (fD p) (fA p) (imm14 p))
  | 0x12 => .ok (.blt (fD p) (fA p) (imm14 p))
  | 0x13 => .ok (.bge (fD p) (fA p) (imm14 p))
  | 0x14 => .ok (.bltb (fD p) (fA p) (imm14 p))
  | 0x15 => .ok (.bgeb (fD p) (fA p) (imm14 p))
  | 0x16 => need (evD p) (.ok (.jal (fDp p) (imm19 p)))
  | 0x17 => need (evD p && evA p) (.ok (.jalr (fDp p) (fAp p) (imm14 p)))
  | 0x18 => resv (fA p == 0) (.ok (.loopn (fD p) (imm14 p)))
  | 0x20 => need (evA p) (.ok (.ldB8 (fD p) (fAp p) (imm14 p)))
  | 0x21 => need (evA p) (.ok (.ldI8 (fD p) (fAp p) (imm14 p)))
  | 0x22 => need (evA p) (.ok (.ldB16 (fD p) (fAp p) (imm14 p)))
  | 0x23 => need (evA p) (.ok (.ldI16 (fD p) (fAp p) (imm14 p)))
  | 0x24 => need (evA p) (.ok (.ldW (fD p) (fAp p) (imm14 p)))
  | 0x25 => need (evD p && evA p) (.ok (.ldD (fDp p) (fAp p) (imm14 p)))
  | 0x26 => need (evA p) (.ok (.stB8 (fD p) (fAp p) (imm14 p)))
  | 0x27 => need (evA p) (.ok (.stB16 (fD p) (fAp p) (imm14 p)))
  | 0x28 => need (evA p) (.ok (.stW (fD p) (fAp p) (imm14 p)))
  | 0x29 => need (evD p && evA p) (.ok (.stD (fDp p) (fAp p) (imm14 p)))
  | 0x2A => need (evA p) (.ok (.ldroW (fD p) (fAp p) (imm14 p)))
  | 0x2B => need (evD p && evA p) (.ok (.ldroD (fDp p) (fAp p) (imm14 p)))
  | 0x2C => decAtom p
  | 0x2D => resv (fld p 0 4 == 0 && fld p 8 1 == 0)
      (if fld p 4 1 = 0 then
        need (evA p && evB p) (withScope (fld p 5 3) fun s => .ok (.atomcasB32 (fD p) (fAp p) (fBp p) s))
      else need (evA p && evD p && fld p 9 2 == 0)
        (withScope (fld p 5 3) fun s => .ok (.atomcasB64 (fDp p) (fAp p) (fbv p 11 3) s)))
  | 0x30 => resv (fA p == 0) (need (fld p 8 6 == 0) (accept (.sig (fD p) (fbv p 0 8))))
  | 0x31 => resv (fA p == 0) (need (fld p 8 6 == 0) (accept (.wait (fD p) (fbv p 0 8))))
  | 0x32 => resv (fA p == 0 && fld p 0 14 == 0) (need (fld p 23 1 == 0) (.ok (.bara (fbv p 19 4))))
  | 0x33 => resv (fld p 1 13 == 0) (need (fld p 23 1 == 0) (.ok (.barw (fbv p 19 4) (fA p) (fbv p 0 1))))
  | 0x34 => resv (fld p 0 14 == 0) (need (fld p 23 1 == 0) (.ok (.bare (fbv p 19 4) (fA p))))
  | 0x35 => resv (fA p == 0 && fld p 0 14 == 0) (need (fld p 21 3 == 0) (.ok (.sbara (fbv p 19 2))))
  | 0x36 => resv (fld p 1 13 == 0) (need (fld p 21 3 == 0) (.ok (.sbarw (fbv p 19 2) (fA p) (fbv p 0 1))))
  | 0x37 => resv (fld p 14 10 == 0 && fld p 5 9 == 0 && (fld p 0 2 != 3 || fld p 2 3 == 0))
      (withScope (fld p 2 3) fun s => .ok
        (if fld p 0 2 = 0 then .fenceRel s else if fld p 0 2 = 1 then .fenceAcq s
         else if fld p 0 2 = 2 then .fenceAr s else .fenceRo))
  | 0x38 => resv (fD p == 0 && fld p 13 1 == 0) (.ok (.cwait (fA p) (fbv p 0 13)))
  | 0x40 => resv (fD p == 0 && fld p 0 9 == 0) (need (evA p) (.ok (.fres (fAp p) (fB p))))
  | 0x41 => resv (fD p == 0 && fld p 0 9 == 0) (need (evA p) (.ok (.fflt (fAp p) (fB p))))
  | 0x46 => resv (fD p == 0 && fld p 0 9 == 0) (need (evA p) (.ok (.grec (fAp p) (fB p))))
  | 0x42 => resv (fld p 0 9 == 0) (need (evA p) (.ok (.ftry (fD p) (fAp p) (fB p))))
  | 0x43 => resv (fB p == 0 && fld p 0 9 == 0) (need (evD p && evA p) (.ok (.fstat (fDp p) (fAp p))))
  | 0x44 => resv (fB p == 0 && fld p 0 9 == 0) (need (evA p) (.ok (.tlaunch (fD p) (fAp p))))
  | 0x45 => resv (fB p == 0 && fld p 0 9 == 0) (need (evA p) (.ok (.tjoin (fD p) (fAp p))))
  | 0x50 => resv (fld p 0 14 == 0) (accept (.mif (fD p) (fA p)))
  | 0x51 => resv (fA p == 0 && fld p 0 14 == 0) (accept (.melse (fD p)))
  | 0x52 => resv (fA p == 0 && fld p 0 14 == 0) (accept (.mjoin (fD p)))
  | 0x53 => resv (fA p == 0 && fld p 0 14 == 0) (accept (.msave (fD p)))
  | 0x54 => resv (fD p == 0 && fld p 0 14 == 0) (.ok (.mbreak (fA p)))
  | 0x55 => resv (fD p == 0 && fA p == 0) (.ok (.bmany (imm14 p)))
  | 0x56 => resv (fD p == 0 && fA p == 0) (.ok (.bmnone (imm14 p)))
  | 0x57 => resv (fld p 0 14 == 0) (accept (.pmovs (fD p) (fA p)))
  | 0x58 => resv (fld p 0 14 == 0) (accept (.smovp (fD p) (fA p)))
  | 0x60 => resv (fA p == 0 && fld p 12 2 == 0) (accept (.sysrd (fD p) (fbv p 0 12)))
  | 0x61 => resv (fD p == 0 && fld p 12 2 == 0) (accept (.syswr (fA p) (fbv p 0 12)))
  | 0x62 => resv (fld p 14 10 == 0 && fld p 8 6 == 0) (.ok (.trap (fbv p 0 8)))
  | 0x63 => resv (fld p 0 24 == 0) (.ok .eret)
  | 0x64 => resv (fld p 0 24 == 0) (.ok .yield)
  | 0x65 => resv (fld p 0 24 == 0) (.ok .nop)
  | 0x66 => resv (fld p 0 24 == 0) (.ok .bkpt)
  | 0x67 => resv (fld p 0 24 == 0) (.ok .endStream)
  | 0x68 => resv (fld p 0 24 == 0) (.ok .kill)
  | 0x69 => resv (fD p == 0) (.ok (.cycles (fA p) (imm14 p)))
  | _ => .opcode

/-- The action field of an engine instruction (R120). -/
def decAct (p : Nat) : Act :=
  { stat := fbv p 13 5, sige := fbv p 12 1, sem := fbv p 8 4, byte := fbv p 7 1, bar := fbv p 3 4, fut := fbv p 0 3 }

/-- The instruction's action field and its reserved P1 bits, then its even pair fields, then its own limits. -/
def engine (p : Nat) (zero even : Bool) (i : Instr) : Dec :=
  resv ((decAct p).ok && zero) (need even (accept i))

/-- A one-bit field. -/
def fbit (q lo : Nat) : Bool := fld q lo 1 == 1

/-- An even pair field of five bits at lo. -/
def evAt (q lo : Nat) : Bool := fld q lo 1 == 0

/-- Matrix instructions (R122 and 10). -/
def decMatrix (p q : Nat) : Dec :=
  let act := decAct p
  match fld p 18 8 with
  | 0x01 => resv (fld p 0 18 == 0 && fld q 13 19 == 0) (accept (.oclm (fbv q 0 6) (fbv q 6 7)))
  | 0x02 => resv (fld p 0 18 == 0 && q == 0) (.ok .orls)
  | 0x03 => engine p (fld q 19 13 == 0) true (.mold act (fbv q 0 6) (fbv q 6 7) (fbv q 13 5) (fbit q 18))
  | 0x04 => engine p true true
      (.mma act (fbv q 0 6) (fbv q 6 6) (fbv q 12 5) (fbv q 17 3) (fbv q 20 3) (fbv q 23 4) (fbv q 27 4) (fbit q 31))
  | 0x05 => engine p true true
      (.mmap act (fbv q 0 6) (fbv q 6 6) (fbv q 12 5) (fbv q 17 3) (fbv q 20 3) (fbv q 23 4) (fbv q 27 4) (fbit q 31))
  | 0x06 => engine p (fld q 23 9 == 0) true
      (if fbit q 16 then .mmasTri act (fbv q 0 6) (fbv q 6 6) (fbv q 12 4) (fbv q 17 3) (fbv q 20 3)
       else .mmasFull act (fbv q 0 6) (fbv q 6 6) (fbv q 12 4) (fbv q 17 3) (fbv q 20 3))
  | 0x07 => engine p (q == 0) true (.mwclr act)
  | 0x08 => engine p (fld q 16 16 == 0) (evAt q 0) (.mwst act (fbv q 1 4) (fbv q 5 5) (fbv q 10 3) (fbv q 13 3))
  | 0x09 => engine p (fld q 10 22 == 0) true (.macz act (fbv q 0 5) (fbv q 5 5))
  | 0x0A => engine p (fld q 21 11 == 0) (evAt q 0)
      (.macld act (fbv q 1 4) (fbv q 5 5) (fbv q 10 5) (fbv q 15 3) (fbv q 18 3))
  | 0x0B => engine p (fld q 31 1 == 0) (evAt q 0 && evAt q 26)
      (.macst act (fbv q 1 4) (fbv q 5 5) (fbv q 10 5) (fbv q 15 3) (fbv q 18 3) (fbv q 21 4) (fbit q 25) (fbv q 27 4))
  | 0x0C => engine p (fld q 26 6 == 0) true
      (.rboard act (fbv q 0 6) (fbv q 6 5) (fbv q 11 5) (fbv q 16 5) (fbv q 21 5))
  | 0x0D => resv (fld p 0 18 == 0 && fld q 5 27 == 0) (.ok (.mseed (fbv q 0 5)))
  | _ => .opcode

/-- Copy instructions (R122 and 10). -/
def decCopy (p q : Nat) : Dec :=
  let act := decAct p
  match fld p 18 8 with
  | 0x01 => engine p (fld q 15 17 == 0) (evAt q 0 && evAt q 5) (.cpy act (fbv q 1 4) (fbv q 6 4) (fbv q 10 5))
  | 0x02 => engine p (fld q 16 16 == 0) (evAt q 0)
      (if fbit q 15 then .tcopySt act (fbv q 1 4) (fbv q 5 5) (fbv q 10 5)
       else .tcopy act (fbv q 1 4) (fbv q 5 5) (fbv q 10 5))
  | 0x03 => engine p (fld q 16 16 == 0) (evAt q 0) (.tcopyo act (fbv q 1 4) (fbv q 5 6) (fbv q 11 5))
  | 0x04 => engine p (fld q 19 13 == 0) true
      (if fbit q 15 then .osliceB act (fbv q 0 5) (fbv q 5 6) (fbv q 11 4) (fbv q 16 3)
       else .osliceA act (fbv q 0 5) (fbv q 5 6) (fbv q 11 4) (fbv q 16 3))
  | 0x05 => engine p (fld q 30 2 == 0) (evAt q 5 && evAt q 10)
      (.gather act (fbv q 0 5) (fbv q 6 4) (fbv q 11 4) (fbv q 15 5) (fbv q 20 5) (fbv q 25 5))
  | 0x06 => engine p (fld q 30 2 == 0) (evAt q 5 && evAt q 10)
      (.scatter act (fbv q 0 5) (fbv q 6 4) (fbv q 11 4) (fbv q 15 5) (fbv q 20 5) (fbv q 25 5))
  | 0x07 => engine p (fld q 20 12 == 0) (evAt q 0)
      (.cpyred act (fbv q 1 4) (fbv q 5 5) (fbv q 10 5) (fbv q 15 3) (fbv q 18 2))
  | 0x08 => engine p (fld q 22 10 == 0) (evAt q 2)
      (.qfill act (fbv q 0 2) (fbv q 3 4) (fbv q 7 5) (fbv q 12 5) (fbv q 17 5))
  | 0x09 => engine p (fld q 22 10 == 0) (evAt q 2)
      (.qsink act (fbv q 0 2) (fbv q 3 4) (fbv q 7 5) (fbv q 12 5) (fbv q 17 5))
  | 0x0A => engine p (fld q 26 6 == 0) (evAt q 0)
      (.collred act (fbv q 1 4) (fbv q 5 5) (fbv q 10 5) (fbv q 15 5) (fbv q 20 3) (fbv q 23 2) (fbit q 25))
  | 0x0B => engine p (fld q 10 5 == 0 && fld q 20 12 == 0) (evAt q 0)
      (.collbc act (fbv q 1 4) (fbv q 5 5) (fbv q 15 5))
  | 0x0C => engine p (fld q 21 11 == 0) (evAt q 0)
      (if fbit q 20 then .collsendRecv act (fbv q 1 4) (fbv q 5 5) (fbv q 10 5) (fbv q 15 5)
       else .collsendSend act (fbv q 1 4) (fbv q 5 5) (fbv q 10 5) (fbv q 15 5))
  | 0x0D => engine p (fld q 10 22 == 0) (evAt q 0) (.spref act (fbv q 1 4) (fbv q 5 5))
  | 0x0E => resv (fld p 0 18 == 0 && fld q 5 27 == 0) (.ok (.cstat (fbv q 0 5)))
  | _ => .opcode

/-- The wide vector instruction of an op9 (R127). -/
def vecInstr (op : Nat) (w : VW) : Option Instr :=
  match op with
  | 0x010 => some (.fadd w)
  | 0x011 => some (.fsub w)
  | 0x012 => some (.fmul w)
  | 0x013 => some (.ffma w)
  | 0x014 => some (.ffnma w)
  | 0x015 => some (.fmin w)
  | 0x016 => some (.fmax w)
  | 0x017 => some (.fceq w)
  | 0x018 => some (.fcne w)
  | 0x019 => some (.fclt w)
  | 0x01A => some (.fcle w)
  | 0x01B => some (.fcun w)
  | 0x01C => some (.fclass w)
  | 0x01D => some (.frnd w)
  | 0x040 => some (.dadd w)
  | 0x041 => some (.dsub w)
  | 0x042 => some (.dmul w)
  | 0x043 => some (.dfma w)
  | 0x044 => some (.dfnma w)
  | 0x045 => some (.dmin w)
  | 0x046 => some (.dmax w)
  | 0x047 => some (.dceq w)
  | 0x048 => some (.dcne w)
  | 0x049 => some (.dclt w)
  | 0x04A => some (.dcle w)
  | 0x04B => some (.dcun w)
  | 0x04C => some (.drnd w)
  | 0x070 => some (.hadd2 w)
  | 0x071 => some (.hsub2 w)
  | 0x072 => some (.hmul2 w)
  | 0x073 => some (.hfma2 w)
  | 0x074 => some (.hmin2 w)
  | 0x075 => some (.hmax2 w)
  | 0x076 => some (.dot2 w)
  | 0x077 => some (.dot4 w)
  | 0x078 => some (.idot4 w)
  | 0x0A0 => some (.rcp w)
  | 0x0A1 => some (.rsq w)
  | 0x0A2 => some (.sqrt w)
  | 0x0A3 => some (.exp2 w)
  | 0x0A4 => some (.log2 w)
  | 0x0A5 => some (.sinpi w)
  | 0x0A6 => some (.cospi w)
  | 0x0A7 => some (.tanh w)
  | 0x0A8 => some (.drcp w)
  | 0x0A9 => some (.dsqrt w)
  | 0x0C0 => some (.iadd w)
  | 0x0C1 => some (.isub w)
  | 0x0C2 => some (.imul w)
  | 0x0C3 => some (.imad w)
  | 0x0C4 => some (.imulh w)
  | 0x0C5 => some (.imin w)
  | 0x0C6 => some (.imax w)
  | 0x0C7 => some (.iabs w)
  | 0x0C8 => some (.ishl w)
  | 0x0C9 => some (.ishr w)
  | 0x0CA => some (.isra w)
  | 0x0CB => some (.vlut w)
  | 0x0CC => some (.isum3 w)
  | 0x0CD => some (.iceq w)
  | 0x0CE => some (.icne w)
  | 0x0CF => some (.iclt w)
  | 0x0D0 => some (.icle w)
  | 0x0D1 => some (.icltb w)
  | 0x0D2 => some (.icleb w)
  | 0x0D3 => some (.vpopc w)
  | 0x0D4 => some (.vclz w)
  | 0x0D5 => some (.brev w)
  | 0x0D6 => some (.bfx w)
  | 0x0D7 => some (.bfi w)
  | 0x0D8 => some (.iadd64 w)
  | 0x0D9 => some (.imad64 w)
  | 0x100 => some (.cvt w)
  | 0x101 => some (.cvti w)
  | 0x102 => some (.pk2 w)
  | 0x103 => some (.pk4 w)
  | 0x104 => some (.unpk2 w)
  | 0x105 => some (.unpk4 w)
  | 0x106 => some (.mxq w)
  | 0x107 => some (.mxdq w)
  | 0x120 => some (.vmov w)
  | 0x121 => some (.vmovi w)
  | 0x122 => some (.vsel w)
  | 0x123 => some (.viota w)
  | 0x124 => some (.vperm w)
  | 0x125 => some (.bcast w)
  | 0x126 => some (.redux w)
  | 0x127 => some (.scan w)
  | 0x128 => some (.vtag w)
  | 0x129 => some (.vunif w)
  | 0x12A => some (.vdef w)
  | 0x12C => some (.vreadl w)
  | 0x140 => some (.plut w)
  | 0x141 => some (.pmov w)
  | 0x160 => some (.vld w)
  | 0x161 => some (.vst w)
  | 0x162 => some (.vldro w)
  | 0x163 => some (.vatom w)
  | 0x164 => some (.vatomcas w)
  | 0x165 => some (.vfadd w)
  | 0x166 => some (.vquad w)
  | 0x167 => some (.vpref w)
  | 0x168 => some (.pxw w)
  | 0x180 => some (.vxm w)
  | 0x190 => some (.xbox w)
  | 0x191 => some (.xtri w)
  | 0x193 => some .xtile
  | 0x12B => some (if w.mod7.getLsbD 0 then .vmovsToScalar w else .vmovsToVector w)
  | 0x192 => some (if w.mod7.getLsbD 0 then .xstepPop else .xstep w)
  | _ => none

/-- The fields of a wide word (R123, R124). -/
def wideFields (p q r : Nat) : VW :=
  { stall := fbv p 26 4, e := fbv p 25 1, pred := fbv p 8 5, neg := fbv p 7 1, mod7 := fbv p 0 7,
    d := fbv q 25 7, a := fbv q 18 7, b := fbv q 11 7, c := fbv q 4 7, mod4 := fbv q 0 4, imm := fbv r 0 32 }

/-- A wide word (R123, R124). -/
def decWide (p q r : Nat) : Dec :=
  match vecInstr (fld p 13 9) (wideFields p q r) with
  | none => .opcode
  | some i => resv (fld p 22 2 == 0)
      (match wideIllegal (fld p 13 9) (wideFields p q r) with
       | none => .ok i
       | some k => .error k)

/-- The header of a paired word (R123). -/
def pairHead (p : Nat) : PHead := ⟨fbv p 26 4, fbv p 25 1⟩

/-- One slot of a paired word: its high ten bits and its low parcel (R125). -/
def decSlot (hi lo : Nat) : PSlot :=
  { op9 := fbv hi 1 9, pred := BitVec.ofNat 5 (fld hi 0 1 * 16 + fld lo 28 4), d := fbv lo 21 7, a := fbv lo 14 7,
    b := fbv lo 7 7, c := fbv lo 0 7 }

/-- A paired word (R125); an unassigned op9 is reported before a reserved bit (R134). -/
def decPaired (p q r : Nat) : Dec :=
  let sa := decSlot (fld p 0 10) q
  let sb := decSlot (fld p 10 10) r
  if !(opAssigned sa.op9.toNat && opAssigned sb.op9.toNat) then .opcode
  else resv (fld p 20 4 == 0)
    (match pairIllegal (pairHead p) sa sb with
     | none => .ok .pairedWord
     | some k => .error k)

/-- Decoding of an instruction from its parcels; the parcels past its length are not looked at (R110). -/
def decode (p0 p1 p2 : Word) : Dec :=
  let p := p0.toNat
  if p0.getLsbD 31 then
    if p0.getLsbD 30 then (if fbit p 24 then decPaired p p1.toNat p2.toNat else decWide p p1.toNat p2.toNat)
    else if fld p 26 4 = 0 then decMatrix p p1.toNat
    else if fld p 26 4 = 1 then decCopy p p1.toNat
    else .opcode
  else dec32 p

/-! ## The encoder -/

/-- Format SR (R113). -/
def fmtSR (op d a b f : Nat) : Nat := op * 2 ^ 24 + d * 2 ^ 19 + a * 2 ^ 14 + b * 2 ^ 9 + f
/-- Formats SI, SM and SB (R113). -/
def fmtSI (op d a i : Nat) : Nat := op * 2 ^ 24 + d * 2 ^ 19 + a * 2 ^ 14 + i
/-- Format SJ (R113). -/
def fmtSJ (op d i : Nat) : Nat := op * 2 ^ 24 + d * 2 ^ 19 + i
/-- func9 of ATOM and ATOMCAS (R117). -/
def fmtAtom (op : Nat) (wide ret : Bool) (s : Scope) : Nat := op + wide.toNat * 16 + s.code * 32 + ret.toNat * 256

/-- P0 of an engine instruction (R119, R120). -/
def fmtEng (eng op8 : Nat) (a : Act) : Nat :=
  2 ^ 31 + eng * 2 ^ 26 + op8 * 2 ^ 18 + a.stat.toNat * 2 ^ 13 + a.sige.toNat * 2 ^ 12 + a.sem.toNat * 2 ^ 8 +
  a.byte.toNat * 2 ^ 7 + a.bar.toNat * 2 ^ 3 + a.fut.toNat
/-- P0 of an engine instruction whose action field is reserved (R120). -/
def fmtEng0 (eng op8 : Nat) : Nat := 2 ^ 31 + eng * 2 ^ 26 + op8 * 2 ^ 18

/-- The parcels of a wide word (R123, R124). -/
def encWide (op : Nat) (w : VW) : List Nat :=
  [3 * 2 ^ 30 + w.stall.toNat * 2 ^ 26 + w.e.toNat * 2 ^ 25 + op * 2 ^ 13 + w.pred.toNat * 2 ^ 8 + w.neg.toNat * 2 ^ 7 +
     w.mod7.toNat,
   w.d.toNat * 2 ^ 25 + w.a.toNat * 2 ^ 18 + w.b.toNat * 2 ^ 11 + w.c.toNat * 2 ^ 4 + w.mod4.toNat,
   w.imm.toNat]

/-- The high ten bits of a slot (R125). -/
def slotHi (s : PSlot) : Nat := s.op9.toNat * 2 + s.pred.toNat / 16
/-- The low parcel of a slot (R125). -/
def slotLo (s : PSlot) : Nat :=
  s.pred.toNat % 16 * 2 ^ 28 + s.d.toNat * 2 ^ 21 + s.a.toNat * 2 ^ 14 + s.b.toNat * 2 ^ 7 + s.c.toNat

/-- The parcels of a paired word (R123, R125). -/
def encPaired (h : PHead) (sa sb : PSlot) : List Nat :=
  [3 * 2 ^ 30 + h.stall.toNat * 2 ^ 26 + h.e.toNat * 2 ^ 25 + 2 ^ 24 + slotHi sb * 2 ^ 10 + slotHi sa,
   slotLo sa, slotLo sb]

/-- The parcels of an instruction as numbers. An event has none; `xtile`, `xstepPop` and `pairedWord` take theirs from
`encWide` and `encPaired` of the fields in the word latch. -/
def encodeNat (i : Instr) : List Nat :=
  match i.vec? with
  | some (op, w) => encWide op w
  | none =>
    match i with
    | .add d a b => [fmtSR 1 d.toNat a.toNat b.toNat 0]
    | .sub d a b => [fmtSR 1 d.toNat a.toNat b.toNat 1]
    | .and d a b => [fmtSR 1 d.toNat a.toNat b.toNat 2]
    | .or d a b => [fmtSR 1 d.toNat a.toNat b.toNat 3]
    | .xor d a b => [fmtSR 1 d.toNat a.toNat b.toNat 4]
    | .shl d a b => [fmtSR 1 d.toNat a.toNat b.toNat 5]
    | .shr d a b => [fmtSR 1 d.toNat a.toNat b.toNat 6]
    | .sra d a b => [fmtSR 1 d.toNat a.toNat b.toNat 7]
    | .mul d a b => [fmtSR 1 d.toNat a.toNat b.toNat 8]
    | .mulhI32 d a b => [fmtSR 1 d.toNat a.toNat b.toNat 9]
    | .mulhB32 d a b => [fmtSR 1 d.toNat a.toNat b.toNat 10]
    | .divI32 d a b => [fmtSR 1 d.toNat a.toNat b.toNat 11]
    | .divB32 d a b => [fmtSR 1 d.toNat a.toNat b.toNat 12]
    | .remI32 d a b => [fmtSR 1 d.toNat a.toNat b.toNat 13]
    | .remB32 d a b => [fmtSR 1 d.toNat a.toNat b.toNat 14]
    | .minI32 d a b => [fmtSR 1 d.toNat a.toNat b.toNat 15]
    | .maxI32 d a b => [fmtSR 1 d.toNat a.toNat b.toNat 16]
    | .minB32 d a b => [fmtSR 1 d.toNat a.toNat b.toNat 17]
    | .maxB32 d a b => [fmtSR 1 d.toNat a.toNat b.toNat 18]
    | .slt d a b => [fmtSR 1 d.toNat a.toNat b.toNat 19]
    | .sltb d a b => [fmtSR 1 d.toNat a.toNat b.toNat 20]
    | .seq d a b => [fmtSR 1 d.toNat a.toNat b.toNat 21]
    | .clz d a => [fmtSR 1 d.toNat a.toNat 0 22]
    | .popc d a => [fmtSR 1 d.toNat a.toNat 0 23]
    | .add64 d a b => [fmtSR 1 (d.toNat * 2) (a.toNat * 2) (b.toNat * 2) 24]
    | .sub64 d a b => [fmtSR 1 (d.toNat * 2) (a.toNat * 2) (b.toNat * 2) 25]
    | .shl64 d a b => [fmtSR 1 (d.toNat * 2) (a.toNat * 2) b.toNat 26]
    | .shr64 d a b => [fmtSR 1 (d.toNat * 2) (a.toNat * 2) b.toNat 27]
    | .mul64 d a b => [fmtSR 1 (d.toNat * 2) (a.toNat * 2) (b.toNat * 2) 28]
    | .sel d a b => [fmtSR 1 d.toNat a.toNat b.toNat 29]
    | .addi d a i => [fmtSI 2 d.toNat a.toNat i.toNat]
    | .andi d a i => [fmtSI 3 d.toNat a.toNat i.toNat]
    | .ori d a i => [fmtSI 4 d.toNat a.toNat i.toNat]
    | .xori d a i => [fmtSI 5 d.toNat a.toNat i.toNat]
    | .shli d a i => [fmtSI 6 d.toNat a.toNat i.toNat]
    | .shri d a i => [fmtSI 7 d.toNat a.toNat i.toNat]
    | .srai d a i => [fmtSI 8 d.toNat a.toNat i.toNat]
    | .slti d a i => [fmtSI 9 d.toNat a.toNat i.toNat]
    | .addi64 d a i => [fmtSI 10 (d.toNat * 2) (a.toNat * 2) i.toNat]
    | .lui d i => [fmtSJ 11 d.toNat i.toNat]
    | .addpc d i => [fmtSJ 12 (d.toNat * 2) i.toNat]
    | .beq a b o => [fmtSI 16 a.toNat b.toNat o.toNat]
    | .bne a b o => [fmtSI 17 a.toNat b.toNat o.toNat]
    | .blt a b o => [fmtSI 18 a.toNat b.toNat o.toNat]
    | .bge a b o => [fmtSI 19 a.toNat b.toNat o.toNat]
    | .bltb a b o => [fmtSI 20 a.toNat b.toNat o.toNat]
    | .bgeb a b o => [fmtSI 21 a.toNat b.toNat o.toNat]
    | .jal d i => [fmtSJ 0x16 (d.toNat * 2) i.toNat]
    | .jalr d a i => [fmtSI 0x17 (d.toNat * 2) (a.toNat * 2) i.toNat]
    | .loopn a o => [fmtSI 0x18 a.toNat 0 o.toNat]
    | .ldB8 d a i => [fmtSI 0x20 d.toNat (a.toNat * 2) i.toNat]
    | .ldI8 d a i => [fmtSI 0x21 d.toNat (a.toNat * 2) i.toNat]
    | .ldB16 d a i => [fmtSI 0x22 d.toNat (a.toNat * 2) i.toNat]
    | .ldI16 d a i => [fmtSI 0x23 d.toNat (a.toNat * 2) i.toNat]
    | .ldW d a i => [fmtSI 0x24 d.toNat (a.toNat * 2) i.toNat]
    | .ldD d a i => [fmtSI 0x25 (d.toNat * 2) (a.toNat * 2) i.toNat]
    | .stB8 d a i => [fmtSI 0x26 d.toNat (a.toNat * 2) i.toNat]
    | .stB16 d a i => [fmtSI 0x27 d.toNat (a.toNat * 2) i.toNat]
    | .stW d a i => [fmtSI 0x28 d.toNat (a.toNat * 2) i.toNat]
    | .stD d a i => [fmtSI 0x29 (d.toNat * 2) (a.toNat * 2) i.toNat]
    | .ldroW d a i => [fmtSI 0x2A d.toNat (a.toNat * 2) i.toNat]
    | .ldroD d a i => [fmtSI 0x2B (d.toNat * 2) (a.toNat * 2) i.toNat]
    | .atomAdd d a b ret s w => [fmtSR 0x2C d.toNat (a.toNat * 2) b.toNat (fmtAtom 0 w ret s)]
    | .atomMinI d a b ret s w => [fmtSR 0x2C d.toNat (a.toNat * 2) b.toNat (fmtAtom 1 w ret s)]
    | .atomMaxI d a b ret s w => [fmtSR 0x2C d.toNat (a.toNat * 2) b.toNat (fmtAtom 2 w ret s)]
    | .atomMinB d a b ret s w => [fmtSR 0x2C d.toNat (a.toNat * 2) b.toNat (fmtAtom 3 w ret s)]
    | .atomMaxB d a b ret s w => [fmtSR 0x2C d.toNat (a.toNat * 2) b.toNat (fmtAtom 4 w ret s)]
    | .atomAnd d a b ret s w => [fmtSR 0x2C d.toNat (a.toNat * 2) b.toNat (fmtAtom 5 w ret s)]
    | .atomOr d a b ret s w => [fmtSR 0x2C d.toNat (a.toNat * 2) b.toNat (fmtAtom 6 w ret s)]
    | .atomXor d a b ret s w => [fmtSR 0x2C d.toNat (a.toNat * 2) b.toNat (fmtAtom 7 w ret s)]
    | .atomExch d a b ret s w => [fmtSR 0x2C d.toNat (a.toNat * 2) b.toNat (fmtAtom 8 w ret s)]
    | .atomAddF32 d a b ret s => [fmtSR 0x2C d.toNat (a.toNat * 2) b.toNat (fmtAtom 9 false ret s)]
    | .atomcasB32 d a b s => [fmtSR 0x2D d.toNat (a.toNat * 2) (b.toNat * 2) (fmtAtom 0 false false s)]
    | .atomcasB64 d a b s => [fmtSR 0x2D (d.toNat * 2) (a.toNat * 2) (b.toNat * 4) (fmtAtom 0 true false s)]
    | .sig m k => [fmtSI 0x30 m.toNat 0 k.toNat]
    | .wait m k => [fmtSI 0x31 m.toNat 0 k.toNat]
    | .bara b => [fmtSI 0x32 b.toNat 0 0]
    | .barw b a k => [fmtSI 0x33 b.toNat a.toNat k.toNat]
    | .bare b a => [fmtSI 0x34 b.toNat a.toNat 0]
    | .sbara b => [fmtSI 0x35 b.toNat 0 0]
    | .sbarw b a k => [fmtSI 0x36 b.toNat a.toNat k.toNat]
    | .fenceRel s => [fmtSI 0x37 0 0 (0 + s.code * 4)]
    | .fenceAcq s => [fmtSI 0x37 0 0 (1 + s.code * 4)]
    | .fenceAr s => [fmtSI 0x37 0 0 (2 + s.code * 4)]
    | .fenceRo => [fmtSI 0x37 0 0 3]
    | .cwait a n => [fmtSI 0x38 0 a.toNat n.toNat]
    | .fres a b => [fmtSR 0x40 0 (a.toNat * 2) b.toNat 0]
    | .fflt a b => [fmtSR 0x41 0 (a.toNat * 2) b.toNat 0]
    | .grec a b => [fmtSR 0x46 0 (a.toNat * 2) b.toNat 0]
    | .ftry d a b => [fmtSR 0x42 d.toNat (a.toNat * 2) b.toNat 0]
    | .fstat d a => [fmtSR 0x43 (d.toNat * 2) (a.toNat * 2) 0 0]
    | .tlaunch d a => [fmtSR 0x44 d.toNat (a.toNat * 2) 0 0]
    | .tjoin d a => [fmtSR 0x45 d.toNat (a.toNat * 2) 0 0]
    | .mif j p => [fmtSR 0x50 j.toNat p.toNat 0 0]
    | .melse j => [fmtSR 0x51 j.toNat 0 0 0]
    | .mjoin j => [fmtSR 0x52 j.toNat 0 0 0]
    | .msave j => [fmtSR 0x53 j.toNat 0 0 0]
    | .mbreak p => [fmtSR 0x54 0 p.toNat 0 0]
    | .bmany o => [fmtSI 0x55 0 0 o.toNat]
    | .bmnone o => [fmtSI 0x56 0 0 o.toNat]
    | .pmovs j p => [fmtSR 0x57 j.toNat p.toNat 0 0]
    | .smovp p j => [fmtSR 0x58 p.toNat j.toNat 0 0]
    | .sysrd d i => [fmtSI 0x60 d.toNat 0 i.toNat]
    | .syswr a i => [fmtSI 0x61 0 a.toNat i.toNat]
    | .trap k => [fmtSI 0x62 0 0 k.toNat]
    | .eret => [0x63 * 2 ^ 24]
    | .yield => [0x64 * 2 ^ 24]
    | .nop => [0x65 * 2 ^ 24]
    | .bkpt => [0x66 * 2 ^ 24]
    | .endStream => [0x67 * 2 ^ 24]
    | .kill => [0x68 * 2 ^ 24]
    | .cycles a i => [fmtSI 0x69 0 a.toNat i.toNat]
    | .oclm b n => [fmtEng0 0 1, b.toNat + n.toNat * 2 ^ 6]
    | .orls => [fmtEng0 0 2, 0]
    | .mold act b n a side => [fmtEng 0 3 act, b.toNat + n.toNat * 2 ^ 6 + a.toNat * 2 ^ 13 + side.toNat * 2 ^ 18]
    | .mma act sa sb c mq nq fa fb z => [fmtEng 0 4 act, sa.toNat + sb.toNat * 2 ^ 6 + c.toNat * 2 ^ 12 + mq.toNat * 2 ^ 17 + nq.toNat * 2 ^ 20 + fa.toNat * 2 ^ 23 + fb.toNat * 2 ^ 27 + z.toNat * 2 ^ 31]
    | .mmap act sa sb c mq nq fa fb z => [fmtEng 0 5 act, sa.toNat + sb.toNat * 2 ^ 6 + c.toNat * 2 ^ 12 + mq.toNat * 2 ^ 17 + nq.toNat * 2 ^ 20 + fa.toNat * 2 ^ 23 + fb.toNat * 2 ^ 27 + z.toNat * 2 ^ 31]
    | .mmasFull act sa sb n mq nq => [fmtEng 0 6 act, sa.toNat + sb.toNat * 2 ^ 6 + n.toNat * 2 ^ 12 + mq.toNat * 2 ^ 17 + nq.toNat * 2 ^ 20]
    | .mmasTri act sa sb n mq nq => [fmtEng 0 6 act, sa.toNat + sb.toNat * 2 ^ 6 + n.toNat * 2 ^ 12 + 1 * 2 ^ 16 + mq.toNat * 2 ^ 17 + nq.toNat * 2 ^ 20]
    | .mwclr act => [fmtEng 0 7 act, 0]
    | .mwst act d p mq nq => [fmtEng 0 8 act, d.toNat * 2 ^ 1 + p.toNat * 2 ^ 5 + mq.toNat * 2 ^ 10 + nq.toNat * 2 ^ 13]
    | .macz act c k => [fmtEng 0 9 act, c.toNat + k.toNat * 2 ^ 5]
    | .macld act a p c mq nq => [fmtEng 0 10 act, a.toNat * 2 ^ 1 + p.toNat * 2 ^ 5 + c.toNat * 2 ^ 10 + mq.toNat * 2 ^ 15 + nq.toNat * 2 ^ 18]
    | .macst act d p c mq nq fmt sr sc => [fmtEng 0 11 act, d.toNat * 2 ^ 1 + p.toNat * 2 ^ 5 + c.toNat * 2 ^ 10 + mq.toNat * 2 ^ 15 + nq.toNat * 2 ^ 18 + fmt.toNat * 2 ^ 21 + sr.toNat * 2 ^ 25 + sc.toNat * 2 ^ 27]
    | .rboard act b l f n m => [fmtEng 0 12 act, b.toNat + l.toNat * 2 ^ 6 + f.toNat * 2 ^ 11 + n.toNat * 2 ^ 16 + m.toNat * 2 ^ 21]
    | .mseed a => [fmtEng0 0 13, a.toNat]
    | .cpy act d a n => [fmtEng 1 1 act, d.toNat * 2 ^ 1 + a.toNat * 2 ^ 6 + n.toNat * 2 ^ 10]
    | .tcopy act r a c => [fmtEng 1 2 act, r.toNat * 2 ^ 1 + a.toNat * 2 ^ 5 + c.toNat * 2 ^ 10]
    | .tcopySt act r a c => [fmtEng 1 2 act, r.toNat * 2 ^ 1 + a.toNat * 2 ^ 5 + c.toNat * 2 ^ 10 + 1 * 2 ^ 15]
    | .tcopyo act r b c => [fmtEng 1 3 act, r.toNat * 2 ^ 1 + b.toNat * 2 ^ 5 + c.toNat * 2 ^ 11]
    | .osliceA act a b s rq => [fmtEng 1 4 act, a.toNat + b.toNat * 2 ^ 5 + s.toNat * 2 ^ 11 + rq.toNat * 2 ^ 16]
    | .osliceB act a b s rq => [fmtEng 1 4 act, a.toNat + b.toNat * 2 ^ 5 + s.toNat * 2 ^ 11 + 1 * 2 ^ 15 + rq.toNat * 2 ^ 16]
    | .gather act d a i n w t => [fmtEng 1 5 act, d.toNat + a.toNat * 2 ^ 6 + i.toNat * 2 ^ 11 + n.toNat * 2 ^ 15 + w.toNat * 2 ^ 20 + t.toNat * 2 ^ 25]
    | .scatter act d a i n w t => [fmtEng 1 6 act, d.toNat + a.toNat * 2 ^ 6 + i.toNat * 2 ^ 11 + n.toNat * 2 ^ 15 + w.toNat * 2 ^ 20 + t.toNat * 2 ^ 25]
    | .cpyred act d s n op ty => [fmtEng 1 7 act, d.toNat * 2 ^ 1 + s.toNat * 2 ^ 5 + n.toNat * 2 ^ 10 + op.toNat * 2 ^ 15 + ty.toNat * 2 ^ 18]
    | .qfill act k a l e n => [fmtEng 1 8 act, k.toNat + a.toNat * 2 ^ 3 + l.toNat * 2 ^ 7 + e.toNat * 2 ^ 12 + n.toNat * 2 ^ 17]
    | .qsink act k a l e n => [fmtEng 1 9 act, k.toNat + a.toNat * 2 ^ 3 + l.toNat * 2 ^ 7 + e.toNat * 2 ^ 12 + n.toNat * 2 ^ 17]
    | .collred act g d s n op ty arr => [fmtEng 1 10 act, g.toNat * 2 ^ 1 + d.toNat * 2 ^ 5 + s.toNat * 2 ^ 10 + n.toNat * 2 ^ 15 + op.toNat * 2 ^ 20 + ty.toNat * 2 ^ 23 + arr.toNat * 2 ^ 25]
    | .collbc act g d n => [fmtEng 1 11 act, g.toNat * 2 ^ 1 + d.toNat * 2 ^ 5 + n.toNat * 2 ^ 15]
    | .collsendSend act g t s n => [fmtEng 1 12 act, g.toNat * 2 ^ 1 + t.toNat * 2 ^ 5 + s.toNat * 2 ^ 10 + n.toNat * 2 ^ 15]
    | .collsendRecv act g t s n => [fmtEng 1 12 act, g.toNat * 2 ^ 1 + t.toNat * 2 ^ 5 + s.toNat * 2 ^ 10 + n.toNat * 2 ^ 15 + 1 * 2 ^ 20]
    | .spref act a n => [fmtEng 1 13 act, a.toNat * 2 ^ 1 + n.toNat * 2 ^ 5]
    | .cstat d => [fmtEng0 1 14, d.toNat]
    | _ => []

/-- The parcels of a well-formed instruction (R110 to R125). -/
def encode (i : Instr) : List Word := (encodeNat i).map (BitVec.ofNat 32)

/-- The instruction that the decoder reads from bits numbered as the opcode table numbers them: P0 is bits 31..0. -/
def decodeTableWord (_nbits w : Nat) : Option Instr :=
  match decode (BitVec.ofNat 32 w) (BitVec.ofNat 32 (w / 2 ^ 32)) (BitVec.ofNat 32 (w / 2 ^ 64)) with
  | .ok i => some i
  | .error _ => none

end Sys2Proof
end

