-- ==== Sys2Proof/Config.lean ====
section
/-! DEFINITION. What the manual leaves open and one package or one run fixes: free values, on which no claim can rest.
Each is an uninterpreted constant; its first argument is the counter of the step (State.fresh), or what the value is a
function of. -/
namespace Sys2Proof.Config

/-- A choice between two outcomes that the rules allow (R7): step counter, place within the step (log 10). -/
opaque choice : Nat → Nat → Bool
/-- A word that the manual leaves undefined: step counter, place within the step (log 11). -/
opaque freeWord : Nat → Nat → Word
/-- A byte that the manual leaves unspecified: step counter, place within the step (log 11). -/
opaque freeByte : Nat → Nat → Byte
/-- By how much a die's cycle counter has moved since it was last read: step counter (R5, R48; log 12). -/
opaque cyclesPassed : Nat → Dword
/-- Whether an RSASSA-PSS signature checks: key, message, signature (R414; log 13). -/
opaque pssOk : Nat → List Byte → List Byte → Bool
/-- The SHA-256 of the public key with an index (R414; log 13). -/
opaque keyHash : Nat → List Byte
/-- The fused root key hash of a kind of image key: 0 manufacturing, 1 development, 2 production (R414, R416; log 13). -/
opaque rootKey : Nat → List Byte
/-- The hash of Byder's ROM (R415; log 13). -/
opaque romHash : List Byte
/-- A signature by the device identity key (R415; log 13). -/
opaque identitySign : List Byte → List Byte
/-- The 64-bit protection guard of a logical block (R383; log 77). -/
opaque guard64 : List Byte → Dword
/-- A die's telemetry when a step reads it: TEMP and POWER (R427; log 12). -/
opaque telemetry : Nat → Nat → Dword

end Sys2Proof.Config
end

