-- ==== Sys2Proof/Machine/State.lean ====
section
/-! DEFINITION. The state of one HXZ9-2A package as plain data: tasks and their streams, blocks, spans and launches,
cores, memory and storage, queues and queue pairs, the ring, Flaori, Byder and the management registers; the reasons
a step can stop; and the state after reset. -/
namespace Sys2Proof.Machine

/-- Bytes by address in canonical form: addresses strictly rising, no entry equal to 0, which is what an unlisted
address reads as (R409 stage 0x04 zeroes memory; log 1). -/
abbrev Memory := List Host.Cell

/-- Reasons to stop that are no trap of the machine: there is none, since the spec gives every step an effect. -/
inductive Fault
  deriving DecidableEq, Repr

/-- Reasons for which the model gives a step no meaning. -/
inductive Refusal where
  /-- An instruction that has no meaning yet: raised by its own arm of exec. Safe. -/
  | notModelled (mnemonic : String)
  deriving DecidableEq, Repr

/-- The outcome of a step. -/
abbrev Out := Host.Outcome

/-- Where a byte lies: a physical address (R368), or an offset in a block's scratch allocation (R86). -/
inductive Loc where
  | mem (pa : Nat)
  | scr (block off : Nat)
  deriving DecidableEq, Repr

/-- The read-modify-write operations of R117 and R214, and the floating-point ones of R69 and R261, on FP32 or BF16. -/
inductive AtomOp where
  | add | minI | maxI | minB | maxB | and | or | xor | exch | addF32 | addB16 | minF (b16 : Bool) | maxF (b16 : Bool)
  deriving DecidableEq, Repr

/-- What a stream waits for (R15, R26): a semaphore; a barrier's new phase, for an arrival (`ended` says that the phase
has completed since, R151) or for a BARW; copies; entries or room in vector queues; operand slots; slots that another
launch holds (R302); room in an engine; operations ahead in the hazard order; a manifest; room in an order unit; the
performing of pixel lanes; room in a record buffer; a scratch way; the array; a vector word in flight; a storage page; a
commit; a number of cycles. -/
inductive Wait where
  | sem (i k : Nat)
  | arrive (ba : Nat) (ended : Bool)
  | phase (ba : Nat) (parity : Bool)
  | spanArrive (sa : Nat) (ended : Bool)
  | spanPhase (sa : Nat) (parity : Bool)
  | cwait (ops : List Nat)
  | queue (pops pushes : List Nat)
  | slots
  | outside (b n : Nat)
  | turn
  | engine
  | hazard (ops : List Nat)
  | manifest
  | pixels (die n : Nat)
  | lanes
  | record (node cap : Nat)
  | ways (new : Word)
  | array
  | score
  | page
  | commit
  | cycles (deadline : Nat)
  deriving DecidableEq, Repr

/-- The state of a stream (R15). -/
inductive Status where
  | ready
  | waiting (w : Wait)
  | ended
  | halted
  | trap
  deriving DecidableEq, Repr

/-- Where a returning operation of a deterministic launch writes its result (R301): a scalar register or pair of the
issuing stream, or the lanes of a vector register group. -/
inductive RetTo where
  | none
  | sreg (d : BitVec 5)
  | pair (d : BitVec 4)
  | vgrp (d n : Nat) (lane : Nat)
  deriving DecidableEq, Repr

/-- One read-modify-write: its place byte by byte, its operation and its operand. -/
structure Rmw where
  locs : List Loc
  op : AtomOp
  val : Nat
  ret : RetTo
  deriving DecidableEq, Repr

/-- A compare-and-swap: its place byte by byte, the compare and the new value. -/
structure Cas where
  locs : List Loc
  cmp : Nat
  new : Nat
  ret : RetTo
  deriving DecidableEq, Repr

/-- A pixel lane that waits for its order word (R217 to R219). -/
structure PxwLane where
  die : Nat
  core : Nat
  task : Nat
  stream : Nat
  seq : Nat
  order : List Loc
  need : Word
  pixel : List (Loc × Byte)
  nowrite : Bool
  last : Bool
  group : Nat
  lane : Nat
  deriving DecidableEq, Repr

/-- The completion actions of an operation, captured at issue (R120, R121, R233): the future by its virtual and
physical address, the byte count of R240. -/
structure ActCap where
  stat : Option (BitVec 5)
  sem : Option Nat
  bar : Option Nat
  bytes : Nat
  fut : Option (Dword × Nat)
  deriving DecidableEq, Repr

/-- A condition that an asynchronous operation raises at a boundary (R391): class, sub-code, TINFO. -/
structure Cond where
  cls : Nat
  sub : Nat
  info : Dword
  deriving DecidableEq, Repr

/-- An entry of a stream's FIFO (R96): a store, by the parts that reach other blocks at times of their own, one for each
lane of a vector store (R103); in a deterministic launch also every other buffered effect (R300), a SIG and a SIG action
with what they order before their takers (R17). -/
inductive Eff where
  | store (parts : List (List (Loc × Byte)))
  | atom (ops : List Rmw)
  | cas (ops : List Cas)
  | sig (sem k : Nat) (seen : List Nat)
  | bara (ba : Nat)
  | bare (ba : Nat) (bytes : Word)
  | sbara (sa : Nat)
  | fres (va : Dword) (pa : Nat) (res : Word) (fault : Bool)
  | ftry (va : Dword) (pa : Nat) (res : Word) (d : BitVec 5)
  | fstat (pa : Nat) (d : BitVec 4)
  | tlaunch (va : Dword) (pkt : List Byte) (d : BitVec 5)
  | tjoin (va : Dword) (d : BitVec 5)
  | grec (va : Dword) (val : Word) (idx graph : Nat)
  | pxw (lanes : List PxwLane)
  | orls (base n : Nat)
  | op (id : Nat)
  | copied (bytes : List (Loc × Byte)) (poison : List Loc)
  | acts (act : ActCap) (status : Word) (conds : List Cond) (follower : Option Nat) (seen : List Nat)
  deriving DecidableEq, Repr

/-- A FIFO entry with its place in the issue order of the device and the program counter of its instruction. -/
structure QEntry where
  seq : Nat
  pc : Dword
  eff : Eff
  deriving DecidableEq, Repr

/-- An 8-byte slot that a core's outbound path held at a read-only acquire point (R105): the core, what a load of the
core saw in the slot, and the parts of the path that held it. -/
structure RoHeld where
  core : Nat
  slot : Loc
  val : Nat
  parts : List (List (Loc × Byte))
  deriving DecidableEq, Repr

/-- A read-only acquire point of a stream (R105): its place in the issue order, the slots that the core's outbound path held
then, and the lines of the core's L1 that were older than their homes. -/
structure RoPoint where
  since : Nat
  held : List RoHeld
  l1 : List (Nat × List Byte)
  deriving DecidableEq, Repr

/-- One stream of a task (R13 to R15, R32, R44 to R48, R96, R105, R133, R298): qend says that it has reached its
quantum end, qheld that the scalar stream had reached it when its task's handler began (R298); seen holds for each stream
of the task the place in the issue order up to which handoffs have ordered that stream's operations before this one
(R17). -/
structure StreamSt where
  pc : Dword
  regs : Vector Word 32
  status : Status
  fpmode : Word
  fpflags : Word
  srcnt : Word
  cyc : Option Word
  queue : List QEntry
  ro : RoPoint
  seen : List Nat
  retired : Nat
  qend : Bool
  qheld : Bool
  run : Nat
  runVec : Bool
  granted : Bool
  deriving DecidableEq, Repr

/-- The four streams of a task. -/
structure Streams where
  s : StreamSt
  v : StreamSt
  m : StreamSt
  c : StreamSt
  deriving DecidableEq, Repr

/-- A vector register: its shape tag with its descriptor, and the lanes of its row (R35). -/
inductive VReg where
  | undef
  | uniform (c : Word)
  | affine (base stride : Word)
  | general (row : Nat) (lanes : Lanes)
  deriving DecidableEq, Repr

/-- A register that a vector word names as a destination, for the checks of R132. -/
inductive Dest where
  | vreg (n : Nat)
  | pred (n : Nat)
  deriving DecidableEq, Repr

/-- What a destination held before a word in flight (R132). -/
inductive Held where
  | vreg (v : VReg)
  | pred (m : Mask)
  deriving DecidableEq, Repr

/-- A vector word in flight (R132): its destination, issue cycle, latency and the old contents. -/
structure Flight where
  dest : Dest
  issued : Nat
  lat : Nat
  old : Held
  deriving DecidableEq, Repr

/-- The resources of a footprint (R106, R240). -/
inductive FpSpace where
  | scr (block : Nat)
  | glob
  | slot
  | acc (task : Nat)
  | queue
  deriving DecidableEq, Repr

/-- One range of a footprint, from lo below hi. -/
structure Fp where
  sp : FpSpace
  lo : Nat
  hi : Nat
  wr : Bool
  deriving DecidableEq, Repr

/-- The progress of an RBOARD (R254, R274, R275). -/
structure Board where
  layer : Nat
  first : Nat
  count : Nat
  minLap : Nat
  base : Nat
  bitmap : List Bool
  fails : List Nat
  deriving DecidableEq, Repr

/-- What an operation leaves when it completes (R233): bytes and poisoned granules, read-modify-writes, runs of bytes of its
core's slot memory with the slots that it clears of poison and poisons, flags, its status word, delivered conditions, and
whether its SIG, BYTE and FUT actions take effect. -/
structure OpOut where
  writes : List (Loc × Byte) := []
  poison : List Loc := []
  rmws : List Rmw := []
  slots : List (Nat × List Byte) := []
  slotWhole : List Nat := []
  slotBad : List Nat := []
  flags : BitVec 8 := 0
  status : Word := 0x80000000
  conds : List Cond := []
  acts : Bool := true
  deriving DecidableEq, Repr

/-- An asynchronous operation that has issued and not completed (R233 to R238): the instruction, the register values
and record that it read at issue, the pieces of the ranges that it translated at issue, its actions, its footprint, for
matrix operations the FPMODE at issue (R46) and for copies the pages that they requested, their progress, the first
faulting offset with its sub-code and the first poisoned offset; the place in the issue order since which the values of its
sources may be read (R107), the 8-byte slots that the core's outbound path held at issue, what handoffs had ordered before it
(R17), the number of its free choices in a deterministic launch (R296), and, once a part of its writes has landed, what it
leaves. -/
structure AsyncOp where
  id : Nat
  seq : Nat
  instr : Instr
  vals : List Nat
  record : List Byte
  xl : List (Loc × Nat)
  act : ActCap
  pc : Dword
  foot : List Fp
  fpmode : Word
  srseed : Word
  srcnt : Word
  board : Option Board
  follower : Option Nat
  pages : List (Nat × Nat)
  prog : Nat
  fault : Option (Nat × Nat)
  hurt : Option Nat
  num : Nat
  readAt : Nat
  path : List Loc
  seen : List Nat
  key : Nat
  out : Option OpOut
  deriving DecidableEq, Repr

/-- A delivered trap that waits for entry (R390, R391): class, sub-code, stream, ALSO bits and TINFO. -/
structure PendTrap where
  cls : Nat
  sub : Nat
  stream : StreamId
  also : BitVec 4
  info : Dword
  deriving DecidableEq, Repr

/-- The WFA bound state (R75, R76); the register B is m × 2^e, and top the exponent of its largest term (R79). -/
structure WfaBound where
  defined : Bool
  m : Nat
  e : Int
  top : Int
  exact : Bool
  renorm : Bool
  ovf : Bool
  special : Bool
  deriving DecidableEq, Repr

/-- A waiter of a semaphore (R16). -/
structure SemWait where
  sem : Nat
  stream : StreamId
  k : Nat
  deriving DecidableEq, Repr

/-- One resident or evicted task (R11 to R15, R35 to R48, R82, R234, R254, R392); semSeen holds for each semaphore,
oldest first, the counts that no WAIT has consumed, each with what its SIG orders before its taker (R17, R101); wfaOver
holds, once acc0 to acc25 have held the WFA, what has been written over it since: rows and columns from the corner of a
tile (R84); slotHeld, slotSave and slotSavePoison hold the operand slots of an evicted one (R27), slotsAt the slots of
its core that were held at its launch's last commit (R302). -/
structure Task where
  uid : Nat
  block : Nat
  launch : Nat
  part : Nat
  taskId : Nat
  slot : Nat
  nv : Nat
  nrows : Nat
  nacc : Nat
  nsems : Nat
  str : Streams
  vregs : List VReg
  preds : List Mask
  vqs : List (List Lanes)
  sems : List Nat
  semQ : List SemWait
  semSeen : List (List (Nat × List Nat))
  srseed : Word
  chk : Bool
  det : Bool
  quantum : Nat
  mbnda : Word
  mbndu : Word
  mbndf : Word
  runcnt : Word
  droop : Word
  acc : Memory
  wfa : WfaBound
  wfaOver : Option (List (Nat × Nat × Nat))
  claim : Option (Nat × Nat)
  slotHeld : List Nat
  slotSave : Memory
  slotSavePoison : List Nat
  slotsAt : List Nat
  mops : List AsyncOp
  cops : List AsyncOp
  copies : Nat
  flights : List Flight
  sb : List (List Dest)
  vready : Nat
  word : Word × Word × Word
  tvec : Dword
  tcause : Word
  tinfo : Dword
  tpcS : Dword
  tpcV : Dword
  tpcM : Dword
  tpcC : Dword
  tsave0 : Word
  tsave1 : Word
  tsave2 : Word
  tsave3 : Word
  tmode : Bool
  tended : BitVec 4
  pend : List PendTrap
  recIdx : Nat
  commits : Nat
  launched : List Nat
  fate : Option (Nat × Nat)
  codeAt : Nat
  dbgHalt : Bool
  doomed : Bool
  deriving DecidableEq, Repr

/-- A block barrier (R150). -/
structure BarSt where
  abits : BitVec 32
  bal : Word
  phase : BitVec 1
  deriving DecidableEq, Repr

/-- A span barrier (R154). -/
structure SBarSt where
  abits : BitVec 256
  phase : BitVec 1
  deriving DecidableEq, Repr

/-- Where a block stands (R26, R27, R284). -/
inductive BlockSt where
  | resident
  | evicted
  | saved (image : Nat)
  deriving DecidableEq, Repr

/-- A page whose read has failed, for the instruction or the copy of a task that reached it (R280): page number, STORAGE
sub-code, task, and the copy's number. -/
structure ReadErr where
  page : Nat
  sub : Nat
  task : Nat
  op : Option Nat
  deriving DecidableEq, Repr

/-- A block (R10 to R12, R22, R86, R108, R150, R277, R399): page is the entry's address of the storage page that it waits
for, faulter the task and copy that reached it and the address, held says that the block must be evicted. -/
structure Block where
  uid : Nat
  launch : Nat
  span : Nat
  bid : Nat
  pos : Nat
  st : BlockSt
  core : Nat
  base : Nat
  size : Nat
  scratch : Memory
  poison : List Nat
  bars : List BarSt
  page : Option Nat
  faulter : Nat × Option Nat × Nat
  readErrs : List ReadErr
  held : Bool
  placedAt : Nat
  evictedAt : Nat
  ctxBytes : Nat
  ctxDie : Nat
  ctxAt : Nat
  ctxPart : Bool
  deriving DecidableEq, Repr

/-- A span (R12, R154). -/
structure Span where
  uid : Nat
  launch : Nat
  sid : Nat
  sbars : List SBarSt
  deriving DecidableEq, Repr

/-- The fields of a dispatch packet (R282). -/
structure Packet where
  type : Nat
  flags : Nat
  shape : Nat
  tasks : Nat
  grid : Nat
  codebase : Dword
  entryS : Word
  entryV : Word
  entryM : Word
  entryC : Word
  vregs : Nat
  rows : Nat
  acc : Nat
  sems : Nat
  scratch : Nat
  detUnits : Nat
  future : Dword
  variant : Dword
  args : Dword
  deriving DecidableEq, Repr

/-- A launch: a submitted grid (R11, R22, R281, R284, R297, R303): code is the address of the packet of its chosen variant
(R353, R399), seq is its place in the order of submission, live says
that it has been admitted, awaits that its variant table lies on a page that is away. -/
structure Launch where
  num : Nat
  pkt : Packet
  addr : Dword
  code : Nat
  part : Nat
  queue : Option Nat
  image : Nat
  order : List Nat
  left : Nat
  next : Nat
  records : List Word
  result : Option (Nat × Nat)
  units : List (List Nat)
  unitNext : List Nat
  node : Option Nat
  graph : Option Nat
  seq : Nat
  live : Bool
  awaits : Bool
  deriving DecidableEq, Repr

/-- A record that waits in a node's buffer: its value and its producer, for the order of R291. -/
structure Rec where
  val : Word
  grid : Nat
  bid : Nat
  taskId : Nat
  idx : Nat
  deriving DecidableEq, Repr

/-- A work-graph node that has been used (R290, R291): its descriptor's partition and virtual address, its graph, the
address of its PACKET, the records that wait, the records of batches that no entry task has taken, the records ever
appended, and the batches that have been cut and not submitted, oldest first. -/
structure Node where
  id : Nat
  part : Nat
  va : Nat
  graph : Nat
  pkt : Nat
  recs : List Rec
  held : Nat
  appended : Nat
  cut : List (List Word)
  deriving DecidableEq, Repr

/-- An open work graph (R293): the virtual address, DET and FUTURE of its GRAPH packet; the count that the device left in the
packet, its outstanding work, whether software has stored over the count, and whether the future has been resolved since
(R293). -/
structure Graph where
  id : Nat
  part : Nat
  va : Nat
  image : Nat
  det : Bool
  fut : Nat
  rootDone : Bool
  failed : Option (Nat × Nat)
  shown : Nat
  work : Nat
  spoiled : Bool
  resolved : Bool
  deriving DecidableEq, Repr

/-- A continuation record that moves on (R289): partition and virtual address, the image of its grids, the index from
which it goes on (none: after the future that released it), and whether that future was FAULTED. -/
structure RecRef where
  part : Nat
  va : Nat
  image : Nat
  start : Option Nat
  flt : Bool
  deriving DecidableEq, Repr

/-- A continuation record that waits on a future (R287): partition, address of the future, address of the record. -/
structure Chained where
  part : Nat
  fut : Nat
  record : Nat
  image : Nat
  deriving DecidableEq, Repr

/-- What the device does once a storage page is resident (R277, R385): a future's resolve, a record that moves on, the
first batch of a node that has been cut, an admission, a change of a graph's count, a store, a notify, a QCMD, or the
first request that a queue pair holds (R358). -/
inductive DevWork where
  | future (part va : Nat) (res : Word) (fault : Bool)
  | record (r : RecRef)
  | batch (node : Nat)
  | admitGrid (launch : Nat)
  | count (graph add sub : Nat)
  | store (part va n v : Nat)
  | notify (slot : Nat) (word : Dword)
  | command (cmd : Dword)
  | request (qpn : Nat)
  deriving DecidableEq, Repr

/-- Work that waits for the page of an entry; `go` says whether its read has ended well. -/
structure DevWait where
  work : DevWork
  pte : Nat
  go : Option Bool
  deriving DecidableEq, Repr

/-- A cached translation (R378): partition, first virtual page address, size and the leaf entry. -/
structure TlbEnt where
  part : Nat
  base : Nat
  size : Nat
  leaf : Nat
  pte : Nat
  deriving DecidableEq, Repr

/-- A non-leaf entry in the walk cache of a die (R378): partition, the entry's address and value, and the addresses that it
covers. -/
structure WalkEnt where
  die : Nat
  part : Nat
  pte : Nat
  entry : Nat
  base : Nat
  size : Nat
  deriving DecidableEq, Repr

/-- An invalidation that runs (R379): partition, place in the issue order, and the range. -/
structure Tlbi where
  part : Nat
  seq : Nat
  lo : Nat
  hi : Nat
  deriving DecidableEq, Repr

/-- What an 8-byte slot held before a write: the write's place in the issue order, the slot, the old value (R94, R105,
R107). -/
structure Past where
  seq : Nat
  slot : Loc
  old : Nat
  deriving DecidableEq, Repr

/-- Where a core's ring tap stands (R267, R421): the layer start that it follows, the sequence and the passages of it
that it has counted. -/
structure Tap where
  start : Nat
  seq : Nat
  tile : Nat
  deriving DecidableEq, Repr

/-- What one arbiter of a core remembers of a task (R295): runs refused in a row and the end of its last run. -/
structure ArbEnt where
  k : StreamId
  task : Nat
  refused : Nat
  lastEnd : Option Nat
  deriving DecidableEq, Repr

/-- The droop governor of a core (R337): the words and matrix starts of the last cycles, youngest first, each its cycle and
weight; its count a; and the cycles below which a counts them. -/
structure Droop where
  words : List (Nat × Nat)
  hot : Nat
  upTo : Nat
  deriving DecidableEq, Repr

/-- One core (R43, R88, R90, R97, R223, R241, R242, R267, R295, R337, R378): its outbound path holds drained stores that
have not reached their homes, oldest first, each the bytes of one 8-byte slot or of one poisoned granule; for each pipe
of R331 the cycle from which it is free; what has become ready for its matrix array, in that order: a task with its
operation, or with none for a VXM; and the cycle from which the array is free (R74, R246). -/
structure CoreSt where
  scrway : Word
  l1 : List (Nat × List Byte)
  out : List (List (Loc × Byte))
  tlb : List TlbEnt
  slots : Memory
  slotPoison : List Nat
  owners : List (Nat × Nat)
  oclmQ : List (Nat × Nat × Nat)
  tap : Option Tap
  arb : List ArbEnt
  pipes : List Nat
  arrayQ : List (Nat × Option Nat)
  arrayFree : Nat
  droop : Droop
  deriving DecidableEq, Repr

/-- What an image area holds of a core beside its blocks (R402, R404): the area 2p + i of image i of partition p, the
core, its SCRWAY, and its slots with their poison. -/
structure CoreImage where
  area : Nat
  core : Nat
  scrway : Word
  slots : Memory
  slotPoison : List Nat
  deriving DecidableEq, Repr

/-- An enabled core: its logical number, compute router and position (R12, R424). -/
structure CoreLoc where
  core : Nat
  router : Nat
  pos : Nat
  deriving DecidableEq, Repr

/-- A hardware queue slot that maps a queue (R360 to R365); pkt is the JOIN or MARKER that holds it, as it was read. -/
structure HwSlot where
  slot : Nat
  qid : Nat
  part : Nat
  ring : Nat
  log2 : Nat
  wr : Word
  rd : Word
  holding : Bool
  pkt : List Byte
  err : Bool
  image : Nat
  deriving DecidableEq, Repr

/-- A request of a host on a queue pair (R355 to R359). -/
inductive Request where
  | send (payload : List Byte)
  | write (rkey : Word) (va : Dword) (data : List Byte)
  | read (rkey : Word) (va : Dword) (len : Nat)
  | refused
  deriving DecidableEq, Repr

/-- The fields of a region entry (R367). -/
structure RegionEntry where
  base : Nat
  length : Nat
  tag : Nat
  rd : Bool
  wr : Bool
  part : Nat
  kind : Nat
  deriving DecidableEq, Repr

/-- A request that waits, with the value that its region's entry had when it was accepted (R359, R367). -/
structure HeldRequest where
  req : Request
  entry : Option RegionEntry
  deriving DecidableEq, Repr

/-- A queue pair (R355, R358, R359, R367): held are its requests that wait, in order, behind one whose page is away; due says
how that page's read ended. -/
structure Qp where
  qpn : Nat
  port : Nat
  priv : Bool
  desc : List Byte
  spsn : Nat
  rpsn : Nat
  ringPut : Nat
  retries : Nat
  rateCuts : Nat
  err : Bool
  held : List HeldRequest
  due : Option Bool
  deriving DecidableEq, Repr

/-- A region entry that the device holds (R358, R367). -/
structure Region where
  index : Nat
  bytes : List Byte
  deriving DecidableEq, Repr

/-- A Flaori message that has been announced (R366): its ordinal among its member's operations of its kind on the TAG, its
place among those that concern the member that it is meant for, the bytes that have arrived, the chunks pulled, the pulls
that failed in a row, and the status sub-code of the operation that meets it, once it has failed. -/
structure FlaoriIn where
  msg : FlaoriMsg
  ord : Nat
  pos : Nat
  data : Memory
  got : List Nat
  fails : Nat
  fault : Option Nat
  deriving DecidableEq, Repr

/-- A Flaori message that this package has announced to a peer (R366): its rank, the operation that it comes from, the data
that the peer pulls, and the chunks that it has pulled. -/
structure FlaoriOut where
  msg : FlaoriMsg
  dst : Nat
  op : Nat
  data : List Byte
  pulled : List Nat
  deriving DecidableEq, Repr

/-- One layer of the manifest (R421). -/
structure Layer where
  src : Nat
  tiles : Nat
  fmt : Nat
  dwell : Nat
  deriving DecidableEq, Repr

/-- The ring controller and its loaders (R267 to R271, R420 to R423): the manifest and its bytes, its generation, the lap
and layer that loads, the layer starts so far, and the last layer start's place in the issue order, from which its loader
reads, with the poison of then (R276); and how many poisoned sources its loaders have reported to Byder's telemetry
(R422). -/
structure Ring where
  layers : List Layer
  loaded : Bool
  mgen : Word
  lap : Word
  layer : Nat
  starts : Nat
  manifest : List Byte
  since : Nat
  snapBad : List Nat
  reports : Nat
  deriving DecidableEq, Repr

/-- A Caddy read that is outstanding (R278, R385). -/
structure SsdRead where
  id : Nat
  part : Nat
  pte : Nat
  entry : Nat
  frame : Option Nat
  va : Nat
  launch : Nat
  core : Nat
  deriving DecidableEq, Repr

/-- The reclaim of a frame that is in progress (R386), with its place in the issue order and the number of its command. -/
structure Reclaim where
  seq : Nat
  id : Nat
  part : Nat
  frame : Nat
  pte : Nat
  entry : Nat
  writing : Bool
  deriving DecidableEq, Repr

/-- What the device puts on the wire for a host or a peer to see (R355 to R359, R366, R397, R415). -/
inductive WireMsg where
  | ack (qpn : Nat)
  | nak (qpn : Nat) (code : Nat)
  | readData (qpn : Nat) (bytes : List Byte)
  | cnp (qpn : Nat)
  | connReject (port : Nat)
  | connAccept (port qpn : Nat)
  | announce (dst : Nat) (msg : FlaoriMsg)
  | chunk (dst : Nat) (tag : Word) (seq off : Nat) (data : List Byte)
  | pull (src : Nat) (tag : Word) (seq off : Nat)
  | keepalive (peer : Nat)
  | spdm (qpn index : Nat) (value sig : List Byte)
  | spdmError (qpn : Nat)
  | stopped (task : Nat) (sub : Nat)
  | retry (qpn : Nat)
  | adminCmd (ssd : Nat) (bytes : List Byte)
  | ssdIo (ssd : Nat) (nsid lba count : Nat) (write fua : Bool)
  | ssdAdmin (ssd op count : Nat)
  deriving DecidableEq, Repr

/-- The power states (R417). -/
inductive Power where | active | idle | nap | sleep | off
  deriving DecidableEq, Repr

/-- Byder's mode (R409 to R411). -/
inductive Mode where | off | normal | dawn
  deriving DecidableEq, Repr

/-- Byder (R409 to R418, R431): what it keeps across starts and the mode of the package. -/
structure Byder where
  mode : Mode
  power : Power
  stage : BitVec 8
  starts : Nat
  hist : List (BitVec 8 × BitVec 16)
  sec : SecState
  floor : Nat
  flash : List Byte
  staging : Memory
  nextSec : Option SecState
  debug : DebugState
  debugPart : Nat
  retired : List (Nat × BitVec 16)
  cacheMode : Bool
  measured : List Byte
  deriving DecidableEq, Repr

/-- A task and stream that hold the run (R294). -/
structure Focus where
  task : Nat
  k : StreamId
  deriving DecidableEq, Repr

/-- The state of the package. -/
structure State where
  -- the model's own fields (log 4)
  agenda : List Instr
  focus : Option Focus
  now : Nat
  fresh : Nat
  seq : Nat
  uid : Nat
  -- work
  tasks : List Task
  blocks : List Block
  spans : List Span
  launches : List Launch
  nextLaunch : Word
  graphs : List Graph
  nodes : List Node
  chained : List Chained
  devWaits : List DevWait
  -- cores and dies
  cores : List (Nat × CoreSt)
  cycles : List Dword
  coreMap : List CoreLoc
  buckets : List (List Nat)
  pxw : List PxwLane
  selfRefresh : List Channel
  images : List CoreImage
  -- memory
  mem : Memory
  poison : List Nat
  past : List Past
  landed : List (Nat × Nat × List (Loc × Byte))
  dieTlbs : List (Nat × TlbEnt)
  walks : List WalkEnt
  tlbis : List Tlbi
  mgmt : List (Nat × Dword)
  ssd : Memory
  ssdPi : List (Nat × Dword × Nat)
  reads : List SsdRead
  reclaims : List Reclaim
  admins : List (Nat × Nat)
  -- host attachment
  slots : List HwSlot
  rr : List (Nat × Nat)
  badNotifies : Nat
  protoDrops : List Nat
  qps : List Qp
  nextQpn : Nat
  regions : List Region
  rgnTable : Bool
  connected : List Nat
  flaori : List FlaoriIn
  flaoriOut : List FlaoriOut
  collSeq : List (List Nat × Nat)
  collBad : List (Nat × Nat × Nat)
  ring : Ring
  byder : Byder
  wire : List WireMsg
  deriving DecidableEq, Repr

/-- A stream before a task starts: every register 0, ENDED (R13, R14). -/
def StreamSt.init : StreamSt :=
  { pc := 0, regs := Vector.replicate 32 0, status := .ended, fpmode := 0, fpflags := 0, srcnt := 0, cyc := none,
    queue := [], ro := ⟨0, [], []⟩, seen := [0, 0, 0, 0], retired := 0, qend := false, qheld := false, run := 0, runVec := false, granted := false }

/-- The WFA before an MWCLR: undefined (R76, R84). -/
def WfaBound.init : WfaBound :=
  { defined := false, m := 0, e := 0, top := 0, exact := false, renorm := false, ovf := false, special := false }

/-- A task at its start, before its place and its launch are filled in (R14, R45, R47, R82, R392). -/
def Task.init : Task :=
  { uid := 0, block := 0, launch := 0, part := 0, taskId := 0, slot := 0, nv := 1, nrows := 0, nacc := 0, nsems := 0,
    str := ⟨.init, .init, .init, .init⟩, vregs := List.replicate 124 .undef, preds := List.replicate 32 0,
    vqs := [[], [], [], []], sems := List.replicate 16 0, semQ := [], semSeen := List.replicate 16 [], srseed := 0, chk := false, det := false,
    quantum := 256, mbnda := 0xFFFF8000, mbndu := 0, mbndf := 0, runcnt := 0, droop := 0, acc := [], wfa := .init, wfaOver := none, claim := none, slotHeld := [], slotSave := [], slotSavePoison := [], slotsAt := [],
    mops := [], cops := [], copies := 0, flights := [], sb := [], vready := 0, word := (0, 0, 0), tvec := 0, tcause := 0, tinfo := 0, tpcS := 0,
    tpcV := 0, tpcM := 0, tpcC := 0, tsave0 := 0, tsave1 := 0, tsave2 := 0, tsave3 := 0, tmode := false, tended := 0,
    pend := [], recIdx := 0, commits := 0, launched := [], fate := none, codeAt := 0, dbgHalt := false, doomed := false }

/-- A barrier at block start (R150). -/
def BarSt.init : BarSt := { abits := 0, bal := 0, phase := 0 }
/-- A span barrier at span start (R154). -/
def SBarSt.init : SBarSt := { abits := 0, phase := 0 }

/-- A block before it is placed (R14, R150). -/
def Block.init : Block :=
  { uid := 0, launch := 0, span := 0, bid := 0, pos := 0, st := .resident, core := 0, base := 0, size := 0, scratch := [],
    poison := [], bars := List.replicate 16 .init, page := none, faulter := (0, none, 0), readErrs := [],
    held := false, placedAt := 0, evictedAt := 0, ctxBytes := 0, ctxDie := 0, ctxAt := 0, ctxPart := false }

/-- A span before it is placed. -/
def Span.init : Span := { uid := 0, launch := 0, sid := 0, sbars := List.replicate 4 .init }

/-- A packet of zeros. -/
def Packet.zero : Packet :=
  { type := 0, flags := 0, shape := 0, tasks := 0, grid := 0, codebase := 0, entryS := 0, entryV := 0, entryM := 0,
    entryC := 0, vregs := 0, rows := 0, acc := 0, sems := 0, scratch := 0, detUnits := 0, future := 0, variant := 0,
    args := 0 }

/-- A launch with no blocks. -/
def Launch.init : Launch :=
  { num := 0, pkt := .zero, addr := 0, code := 0, part := 0, queue := none, image := 0, order := [], left := 0, next := 0, records := [],
    result := none, units := [], unitNext := [], node := none, graph := none, seq := 0, live := true, awaits := false }

/-- A core after stage 0x05: SCRWAY 0x00FF, nothing cached, no slot claimed; slot contents 0 (R392; log 2). -/
def CoreSt.init : CoreSt :=
  { scrway := 0x00FF, l1 := [], out := [], tlb := [], slots := [], slotPoison := [], owners := [], oclmQ := [], tap := none,
    arb := [], pipes := List.replicate 9 0, arrayQ := [], arrayFree := 0, droop := ⟨[], 0, 0⟩ }

/-- The ring after reset: no manifest, lap 0 (R268). -/
def Ring.init : Ring :=
  { layers := [], loaded := false, mgen := 0, lap := 0, layer := 0, starts := 0, manifest := [], since := 0, snapBad := [], reports := 0 }

/-- Byder of a part that has never started (log 3). -/
def Byder.init : Byder :=
  { mode := .off, power := .off, stage := 0, starts := 0, hist := [], sec := .blank, floor := 0, flash := [], staging := [], nextSec := none, debug := .none, debugPart := 0, retired := [],
    cacheMode := false, measured := [] }

/-- The bucket table of a die at reset: entry b holds slice b mod 16 (R370). -/
def bucketsInit : List Nat := (upto 64).map (· % 16)

/-- The package right after reset, before Byder's first stage (R409): every register at its Reset column, memory
empty, no task, no queue mapped, nothing on the wire (logs 1 to 4). -/
def State.reset : State :=
  { agenda := [], focus := none, now := 0, fresh := 0, seq := 0, uid := 0,
    tasks := [], blocks := [], spans := [], launches := [], nextLaunch := 1, graphs := [], nodes := [], chained := [], devWaits := [],
    cores := [], cycles := [0, 0, 0, 0], coreMap := [], buckets := List.replicate 4 bucketsInit, pxw := [], selfRefresh := [], images := [],
    mem := [], poison := [], past := [], landed := [], dieTlbs := [], walks := [], tlbis := [], mgmt := [], ssd := [], ssdPi := [], reads := [], reclaims := [], admins := [],
    slots := [], rr := [], badNotifies := 0, protoDrops := List.replicate 16 0, qps := [], nextQpn := 2, regions := [], rgnTable := false, connected := [], flaori := [], flaoriOut := [],
    collSeq := [], collBad := [], ring := .init, byder := .init, wire := [] }

end Sys2Proof.Machine
end

