-- ==== Sys2Proof/Machine/Mem.lean ====
section
/-! DEFINITION. Bytes: the canonical memory, little-endian fields (R4), the physical map (R368), scratch and its
poison (R86, R108), L1 lines (R90), and the write of bytes to their home. -/
namespace Sys2Proof.Machine

/-- The byte at an address; an unlisted address reads 0. -/
def Memory.read : Memory → Nat → Byte
  | [], _ => 0
  | (k, v) :: r, a => if k = a then v else if a < k then 0 else Memory.read r a

/-- Write one byte, keeping the canonical form. -/
def Memory.write : Memory → Nat → Byte → Memory
  | [], a, b => if b = 0 then [] else [(a, b)]
  | (k, v) :: r, a, b =>
    if a < k then (if b = 0 then (k, v) :: r else (a, b) :: (k, v) :: r)
    else if a = k then (if b = 0 then r else (a, b) :: r)
    else (k, v) :: Memory.write r a b

/-- The canonical form: addresses strictly rising, every address at least `lo`, no zero byte listed. -/
def Memory.wfFrom (lo : Nat) : Memory → Bool
  | [] => true
  | (k, v) :: r => decide (lo ≤ k) && v != 0 && Memory.wfFrom (k + 1) r

/-- The canonical form of a memory. -/
def Memory.wf (m : Memory) : Bool := Memory.wfFrom 0 m

/-- `n` bytes from `a` upward. -/
def Memory.bytes (m : Memory) (a n : Nat) : List Byte := (idxFrom a n).map (Memory.read m)

/-- Write bytes from `a` upward. -/
def Memory.writeBytes (m : Memory) (a : Nat) : List Byte → Memory
  | [] => m
  | b :: bs => Memory.writeBytes (Memory.write m a b) (a + 1) bs

/-- The little-endian value of bytes (R4). -/
def leNat : List Byte → Nat
  | [] => 0
  | b :: bs => b.toNat + 256 * leNat bs

/-- The `n` bytes of a value, lowest first (R4). -/
def natLe : Nat → Nat → List Byte
  | 0, _ => []
  | n + 1, v => BitVec.ofNat 8 v :: natLe n (v / 256)

/-- The little-endian field of `n` bytes at `a`. -/
def Memory.field (m : Memory) (a n : Nat) : Nat := leNat (Memory.bytes m a n)

/-- Write a little-endian field of `n` bytes. -/
def Memory.setField (m : Memory) (a n v : Nat) : Memory := Memory.writeBytes m a (natLe n v)

/-- Bits [lo + len − 1 : lo] of a number. -/
def bitsOf (v lo len : Nat) : Nat := v / 2 ^ lo % 2 ^ len

/-- `v` with bits [lo + len − 1 : lo] replaced by `x`. -/
def putBits (v lo len x : Nat) : Nat := v - bitsOf v lo len * 2 ^ lo + x % 2 ^ len * 2 ^ lo

/-- Round up to a multiple of `m`. -/
def roundUp (n m : Nat) : Nat := (n + m - 1) / m * m

/-- Ceiling of a quotient. -/
def ceilDiv (n m : Nat) : Nat := (n + m - 1) / m

/-- Insertion into a list that rises by a key. -/
def insertOn {α : Type} (key : α → Nat) (x : α) : List α → List α
  | [] => [x]
  | y :: ys => if key x < key y then x :: y :: ys else y :: insertOn key x ys

/-- A list in rising order of a key; equal keys keep their order. -/
def sortOn {α : Type} (key : α → Nat) (l : List α) : List α := l.foldl (fun r x => insertOn key x r) []

/-! ## The physical map -/

/-- The shadow region: the top 1 GiB of each die's HBM range (R368). -/
def inShadow (pa : Nat) : Bool := pa < 0x8000000000 && 0x1FC0000000 ≤ pa % 0x2000000000

/-- The die of a physical address and its offset in the die's range; none where R368 provides no memory. -/
def physDie (cache : Bool) (pa : Nat) : Option (Nat × Nat × Bool) :=
  if pa < 0x8000000000 then (if cache && !inShadow pa then none else some (pa / 0x2000000000, pa % 0x2000000000, true))
  else if 0x10000000000 ≤ pa && pa < 0x10000000000 + 4 * 0x8000000000 then
    some ((pa - 0x10000000000) / 0x8000000000, (pa - 0x10000000000) % 0x8000000000, false)
  else none

/-- Memory that software can reach (R368). -/
def physOk (cache : Bool) (pa : Nat) : Bool := (physDie cache pa).isSome && !inShadow pa

/-! ## Small updates -/

/-- The task with a number. -/
def State.task? (s : State) (u : Nat) : Option Task := s.tasks.find? fun t => t.uid == u
/-- Replace a task. -/
def State.setTask (s : State) (t : Task) : State :=
  { s with tasks := s.tasks.map fun x => if x.uid == t.uid then t else x }
/-- Change a task that still lives. -/
def State.mapTask (s : State) (u : Nat) (f : Task → Task) : State :=
  match s.task? u with
  | some t => s.setTask (f t)
  | none => s
/-- The block with a number. -/
def State.block? (s : State) (u : Nat) : Option Block := s.blocks.find? fun b => b.uid == u
/-- Replace a block. -/
def State.setBlock (s : State) (b : Block) : State :=
  { s with blocks := s.blocks.map fun x => if x.uid == b.uid then b else x }
/-- The span with a number. -/
def State.span? (s : State) (u : Nat) : Option Span := s.spans.find? fun x => x.uid == u
/-- Replace a span. -/
def State.setSpan (s : State) (b : Span) : State :=
  { s with spans := s.spans.map fun x => if x.uid == b.uid then b else x }
/-- The launch with a number. -/
def State.launch? (s : State) (n : Nat) : Option Launch := s.launches.find? fun l => l.num == n
/-- Replace a launch. -/
def State.setLaunch (s : State) (l : Launch) : State :=
  { s with launches := s.launches.map fun x => if x.num == l.num then l else x }
/-- A core; one that nothing has touched is as stage 0x05 leaves it. -/
def State.core (s : State) (c : Nat) : CoreSt := ((s.cores.find? fun p => p.1 == c).map (·.2)).getD .init
/-- Replace a core. -/
def State.setCore (s : State) (c : Nat) (x : CoreSt) : State :=
  if s.cores.any (fun p => p.1 == c) then { s with cores := s.cores.map fun p => if p.1 == c then (c, x) else p }
  else { s with cores := s.cores ++ [(c, x)] }
/-- The block of a task. -/
def State.blockOf (s : State) (t : Task) : Option Block := s.block? t.block
/-- The core that a task is resident on (R11). -/
def State.coreOf (s : State) (t : Task) : Nat := ((s.block? t.block).map (·.core)).getD 0

/-- One stream of four. -/
def Streams.get (x : Streams) : StreamId → StreamSt
  | .s => x.s
  | .v => x.v
  | .m => x.m
  | .c => x.c

/-- Replace one stream of four. -/
def Streams.set (x : Streams) (k : StreamId) (st : StreamSt) : Streams :=
  match k with
  | .s => { x with s := st }
  | .v => { x with v := st }
  | .m => { x with m := st }
  | .c => { x with c := st }

/-- The four streams, each changed. -/
def Streams.map (x : Streams) (f : StreamSt → StreamSt) : Streams := ⟨f x.s, f x.v, f x.m, f x.c⟩

/-- A stream of a task. -/
def Task.st (t : Task) (k : StreamId) : StreamSt := t.str.get k

/-- The BLOCKID of a task (R14). -/
def State.bidOf (s : State) (t : Task) : Nat := ((s.blockOf t).map (·.bid)).getD 0

/-- The number of a free choice that a stream makes: the counter of free values, in a deterministic launch one that is
the same in every run, since every run makes the same choice (R296; log 10). -/
def State.freeAt (s : State) (t : Task) (k : StreamId) : Nat :=
  if t.det then (((s.bidOf t * 32 + t.taskId) * 2 ^ 40 + t.commits) * 2 ^ 20 + (t.st k).retired) * 4 + k.idx else s.fresh

/-- The number of a free value that an operation leaves, in a deterministic launch that of its issue (R296). -/
def State.freeOp (s : State) (t : Task) (o : AsyncOp) : Nat := if t.det then o.key else s.fresh
/-- Replace a stream of a task. -/
def Task.setSt (t : Task) (k : StreamId) (st : StreamSt) : Task := { t with str := t.str.set k st }

/-- A scalar register; s31 reads as zero (R32). -/
def StreamSt.reg (st : StreamSt) (r : BitVec 5) : Word := if r = 31 then 0 else st.regs[r.toNat]
/-- Write a scalar register; a write to s31 is discarded (R32). -/
def StreamSt.setReg (st : StreamSt) (r : BitVec 5) (v : Word) : StreamSt :=
  if r = 31 then st else { st with regs := st.regs.set r.toNat v }
/-- The even register of a pair. -/
def pairLo (p : BitVec 4) : BitVec 5 := p ++ 0#1
/-- The odd register of a pair. -/
def pairHi (p : BitVec 4) : BitVec 5 := p ++ 1#1
/-- A 64-bit pair; the even register holds bits [31:0] (R32). -/
def StreamSt.pair (st : StreamSt) (p : BitVec 4) : Dword := Dword.mk (st.reg (pairLo p)) (st.reg (pairHi p))
/-- Write a pair (R32). -/
def StreamSt.setPair (st : StreamSt) (p : BitVec 4) (v : Dword) : StreamSt :=
  (st.setReg (pairLo p) v.lo).setReg (pairHi p) v.hi

/-! ## Management registers -/

/-- The Reset column of the management window (R363, R367, R380, R403, R420, R425, R427, R431, R433). -/
def mgmtReset (off : Nat) : Dword :=
  if off = 0x0188 then 0x10
  else if off = 0x4038 then 0x1111
  else if off = 0x2000 then 0x23
  else if off = 0x2030 then 1000
  else if off = 0x3000 || off = 0x13000 then 0xFF
  else if off = 0x3010 || off = 0x13010 then 0x40000000
  else if off = 0x3018 || off = 0x13018 then 0xFFFFC0000
  else if off = 0x3230 || off = 0x32B0 || off = 0x3330 || off = 0x33B0 then 24
  else 0

/-- A register of the management window by offset. The fields of R425 in force stand at the offset + 0x10000. -/
def State.mreg (s : State) (off : Nat) : Dword := ((s.mgmt.find? fun p => p.1 == off).map (·.2)).getD (mgmtReset off)

/-- Set a register of the management window. -/
def State.setMreg (s : State) (off : Nat) (v : Dword) : State :=
  { s with mgmt := (off, v) :: s.mgmt.filter fun p => p.1 != off }

/-- A field of a management register. -/
def State.mfield (s : State) (off lo len : Nat) : Nat := bitsOf (s.mreg off).toNat lo len

/-- Set a field of a management register. -/
def State.setMfield (s : State) (off lo len x : Nat) : State :=
  s.setMreg off (BitVec.ofNat 64 (putBits (s.mreg off).toNat lo len x))

/-- Add to a saturating 32-bit counter at [lo + 31 : lo] of a management register (R427, R433). -/
def State.countMreg (s : State) (off lo : Nat) : State :=
  s.setMfield off lo 32 (Nat.min 0xFFFFFFFF (s.mfield off lo 32 + 1))

/-- The memory ranges of a partition hold the physical address (R425). -/
def State.partMem (s : State) (part pa : Nat) : Bool :=
  (upto 4).any fun r =>
    let v := s.mreg (0x13018 + 0x40 * part + 8 * r)
    let base := bitsOf v.toNat 0 18
    let size := bitsOf v.toNat 18 18
    decide (base ≤ pa / 2 ^ 30) && decide (pa / 2 ^ 30 < base + size)

/-! ## Bytes at their home -/

/-- The byte at a place. -/
def State.byteAt (s : State) : Loc → Byte
  | .mem pa => s.mem.read pa
  | .scr b off => ((s.block? b).map fun x => x.scratch.read off).getD 0

/-- Place a byte at its home. -/
def State.putByte (s : State) (l : Loc) (b : Byte) : State :=
  match l with
  | .mem pa => { s with mem := s.mem.write pa b }
  | .scr u off =>
    match s.block? u with
    | some x => s.setBlock { x with scratch := x.scratch.write off b }
    | none => s

/-- Place bytes in order. -/
def State.putBytes (s : State) (bs : List (Loc × Byte)) : State := bs.foldl (fun s p => s.putByte p.1 p.2) s

/-- The aligned 8-byte slot of a place (R103). -/
def slotAt : Loc → Loc
  | .mem pa => .mem (pa / 8)
  | .scr b off => .scr b (off / 8)

/-- The value of an 8-byte slot. -/
def State.slotVal (s : State) : Loc → Nat
  | .mem n => s.mem.field (8 * n) 8
  | .scr b n => ((s.block? b).map fun x => x.scratch.field (8 * n) 8).getD 0

/-- A byte of the value of the slot that a place lies in. -/
def byteIn (v : Nat) (l : Loc) : Byte :=
  let i := match l with
    | .mem pa => pa % 8
    | .scr _ off => off % 8
  BitVec.ofNat 8 (v / 2 ^ (8 * i))

/-- The granule of a place (R108): a 32-byte sector, or an 8-byte scratch word. -/
def granule : Loc → Loc
  | .mem pa => .mem (pa / 32)
  | .scr b off => .scr b (off / 8)

/-- The bytes of a granule. -/
def granuleSize : Loc → Nat
  | .mem _ => 32
  | .scr _ _ => 8

/-- A granule is poisoned. -/
def State.granPoison (s : State) : Loc → Bool
  | .mem g => s.poison.contains g
  | .scr b g => ((s.block? b).map fun x => x.poison.contains g).getD false

/-- The byte lies in a poisoned granule. -/
def State.locPoison (s : State) (l : Loc) : Bool := s.granPoison (granule l)

/-- Each item once, the first of equals kept. -/
def dedup {α : Type} [DecidableEq α] : List α → List α
  | [] => []
  | x :: xs => x :: (dedup xs).filter (· != x)

/-- The granules that a write covers whole (R108). -/
def wholeGranules (bs : List (Loc × Byte)) : List Loc :=
  let ls := dedup (bs.map (·.1))
  (dedup (ls.map granule)).filter fun g =>
    (ls.filter fun l => granule l == g).length == granuleSize g

/-- The frame of a Caddy pool that holds a physical address: partition and index (R380). -/
def State.frameOf (s : State) (pa : Nat) : Option (Nat × Nat) :=
  ((upto 8).find? fun p =>
    let base := s.mfield (0x400 + 0x40 * p) 16 32 * 2 ^ 16
    let n := s.mfield (0x408 + 0x40 * p) 0 24
    decide (base ≤ pa) && decide (pa < base + n * 65536)).map
    fun p => (p, (pa - s.mfield (0x400 + 0x40 * p) 16 32 * 2 ^ 16) / 65536)

/-- The address of a frame's record (R384). -/
def State.frameRec (s : State) (part i : Nat) : Nat := s.mfield (0x410 + 0x40 * part) 5 43 * 32 + 32 * i

/-- POISON of a frame's record says whether a sector of the frame is poisoned (R384). -/
def State.frameFlag (s : State) (pa : Nat) : State :=
  match s.frameOf pa with
  | none => s
  | some (p, i) =>
    let r := s.frameRec p i
    let f := (s.mem.read (r + 1)).toNat
    let base := s.mfield (0x400 + 0x40 * p) 16 32 * 2 ^ 16 + 65536 * i
    let bad := s.poison.any fun g => decide (base ≤ 32 * g) && decide (32 * g < base + 65536)
    { s with mem := s.mem.write (r + 1) (BitVec.ofNat 8 (f % 2 + bad.toNat * 2)) }

/-- Mark a granule as poisoned (R108). -/
def State.setPoison (s : State) (g : Loc) : State :=
  if s.granPoison g then s else
  match g with
  | .mem n => ({ s with poison := n :: s.poison } : State).frameFlag (32 * n)
  | .scr b n => match s.block? b with
    | some x => s.setBlock { x with poison := n :: x.poison }
    | none => s

/-- Clear a granule's poison (R108). -/
def State.clearPoison (s : State) (g : Loc) : State :=
  match g with
  | .mem n => if s.poison.contains n then ({ s with poison := s.poison.filter (· != n) } : State).frameFlag (32 * n) else s
  | .scr b n => match s.block? b with
    | some x => s.setBlock { x with poison := x.poison.filter (· != n) }
    | none => s

/-- DIRTY is set before the first write to a resident frame is performed (R384). -/
def State.dirty (s : State) (pa : Nat) : State :=
  match s.frameOf pa with
  | none => s
  | some (p, i) =>
    let r := s.frameRec p i
    let f := (s.mem.read (r + 1)).toNat
    if f % 2 = 0 then { s with mem := s.mem.write (r + 1) (BitVec.ofNat 8 (f + 1)) } else s

/-- DIRTY for every byte written. -/
def State.dirtyAll (s : State) (bs : List (Loc × Byte)) : State :=
  (dedup (bs.filterMap fun p => match p.1 with | .mem pa => some (pa / 65536 * 65536) | _ => none)).foldl State.dirty s

/-- A present L1 line with a byte replaced (R90). -/
def l1Put (l1 : List (Nat × List Byte)) (pa : Nat) (b : Byte) : List (Nat × List Byte) :=
  l1.map fun p => if p.1 == pa / 128 then (p.1, p.2.set (pa % 128) b) else p

/-- A store updates the present lines of its core (R90). -/
def State.l1Store (s : State) (core : Nat) (bs : List (Loc × Byte)) : State :=
  let x := s.core core
  if x.l1.isEmpty then s else
  s.setCore core { x with l1 := bs.foldl (fun l p => match p.1 with | .mem pa => l1Put l pa p.2 | _ => l) x.l1 }

/-- Copy-engine and atomic writes invalidate the matching lines of the issuing core (R90). -/
def State.l1Drop (s : State) (core : Nat) (ls : List Loc) : State :=
  let x := s.core core
  if x.l1.isEmpty then s else
  s.setCore core { x with l1 := x.l1.filter fun p => !(ls.any fun l => match l with | .mem pa => pa / 128 == p.1 | _ => false) }

/-- An acquire at .span scope or wider and every task start invalidate the core's L1 (R90). -/
def State.l1Clear (s : State) (core : Nat) : State :=
  let x := s.core core
  if x.l1.isEmpty then s else s.setCore core { x with l1 := [] }

/-- What slots held before a write, while a reader may still return it (R94, R105, R107). -/
def State.keepPast (s : State) (bs : List (Loc × Byte)) : State :=
  if s.tasks.isEmpty && !s.ring.loaded then s
  else { s with past := (dedup (bs.map fun p => slotAt p.1)).map (fun g => { seq := s.seq, slot := g, old := s.slotVal g }) ++ s.past }

/-- The values of a slot since a place in the issue order: the one that it holds, and those that it held then or later. -/
def State.slotValues (s : State) (since : Nat) (g : Loc) : List Nat :=
  s.slotVal g :: (s.past.filter fun p => p.slot == g && decide (since < p.seq)).map (·.old)

/-- One of some values, by a free choice. -/
def pickOf (fresh key : Nat) (vs : List Nat) : Nat :=
  match vs with
  | [] => 0
  | [v] => v
  | v :: r => nth (v :: r) ((Config.freeWord fresh key).toNat % (r.length + 1)) v

/-- One of some values, by a free choice of this step. -/
def State.pickVal (s : State) (key : Nat) (vs : List Nat) : Nat := pickOf s.fresh key vs

/-- A write reaches its home: DIRTY, the bytes in order, and the poison of the granules it covers whole (R108, R384). -/
def State.applyBytes (s : State) (bs : List (Loc × Byte)) : State :=
  (wholeGranules bs).foldl State.clearPoison (((s.keepPast bs).dirtyAll bs).putBytes bs)

/-- An ordinary store leaves its queue: home and the core's own L1 (R90, R97). -/
def State.applyStore (s : State) (core : Nat) (bs : List (Loc × Byte)) : State :=
  (s.applyBytes bs).l1Store core bs

/-- An acquire point without what it holds of some bytes of memory. -/
def RoPoint.forget (r : RoPoint) (pa n : Nat) : RoPoint :=
  { r with held := r.held.filter fun h => match h.slot with
             | .mem k => decide (8 * k < pa) || decide (pa + n ≤ 8 * k)
             | _ => true,
           l1 := r.l1.filter fun p => decide (128 * p.1 < pa) || decide (pa + n ≤ 128 * p.1) }

/-- What a frame held belongs to another page: no reader may return it (R278). -/
def State.forgetPast (s : State) (pa n : Nat) : State :=
  { s with past := s.past.filter fun p => match p.slot with
             | .mem k => decide (8 * k < pa) || decide (pa + n ≤ 8 * k)
             | _ => true,
           tasks := s.tasks.map fun t => { t with str := t.str.map fun st => { st with ro := st.ro.forget pa n } },
           ring := { s.ring with snapBad := s.ring.snapBad.filter fun g => decide (32 * g < pa) || decide (pa + n ≤ 32 * g) } }

/-! ## The outbound path of a core (R97) -/

/-- The parts in which a store travels to its homes: the bytes of each slot, which arrive together (R103). -/
def unitsOf (bs : List (Loc × Byte)) : List (List (Loc × Byte)) :=
  (dedup (bs.map fun p => slotAt p.1)).map fun g => bs.filter fun p => slotAt p.1 == g

/-- Two parts of a path share a byte. -/
def partsMeet (u v : List (Loc × Byte)) : Bool := u.any fun p => v.any fun q => p.1 == q.1

/-- The part of a path that reaches its home where `v` would: the oldest that `v`, or a part that must go before it, shares
a byte with, so that no part before it shares one with it (R98, R103); the older parts are given youngest first. -/
def frontOf (v : List (Loc × Byte)) : List (List (Loc × Byte)) → List (Loc × Byte)
  | [] => v
  | u :: us => frontOf (if partsMeet u v then u else v) us

/-- Stores join the youngest end of a core's path. -/
def State.join (s : State) (core : Nat) (us : List (List (Loc × Byte))) : State :=
  if us.isEmpty then s else
  let x := s.core core
  s.setCore core { x with out := x.out ++ us }

/-- A part of a core's path reaches its home (R97); when it does is kept while a read-only acquire point saw it on the path
(R105). -/
def State.land (s : State) (core : Nat) (u : List (Loc × Byte)) : State :=
  let s := s.applyStore core u
  if s.tasks.any fun t => ([.s, .v, .m, .c] : List StreamId).any fun k => (t.st k).ro.held.any fun h => h.core == core && h.parts.contains u then
    { s with landed := s.landed ++ [(core, s.seq, u)], seq := s.seq + 1 }
  else s

/-- The parts on a core's path that `p` picks reach their homes, in order (R97). -/
def State.landIf (s : State) (core : Nat) (p : List (Loc × Byte) → Bool) : State :=
  let x := s.core core
  let us := x.out.filter p
  if us.isEmpty then s else
  us.foldl (fun s u => s.land core u) (s.setCore core { x with out := x.out.filter fun u => !p u })

/-- Everything on a core's path reaches its home. -/
def State.landAll (s : State) (core : Nat) : State := s.landIf core fun _ => true

/-- What a core's path holds for the slots of some places reaches its home. -/
def State.landAt (s : State) (core : Nat) (ls : List Loc) : State :=
  s.landIf core fun u => u.any fun p => ls.any fun l => slotAt l == slotAt p.1

/-- Everything on every path reaches its home. -/
def State.landEvery (s : State) : State := (s.cores.map (·.1)).foldl State.landAll s

/-- One part reaches its home, which of those that may being free (R98, R103; log 6). -/
def State.landOne (s : State) (core : Nat) : State :=
  let x := s.core core
  match x.out with
  | [] => s
  | u :: us =>
    let i := (Config.freeWord s.fresh 6000000).toNat % (us.length + 1)
    let v := frontOf (nth (u :: us) i u) ((u :: us).take i).reverse
    (s.setCore core { x with out := x.out.erase v }).land core v

/-- The value that a core's path gives a byte: the youngest one's (R97). -/
def State.pathByte (s : State) (core : Nat) (l : Loc) : Option Byte :=
  (s.core core).out.flatten.foldl (fun r p => if p.1 = l then some p.2 else r) none

/-- A byte as the parties on a core see it at its home or on the core's path (R97). -/
def State.seenByte (s : State) (core : Nat) (l : Loc) : Byte := (s.pathByte core l).getD (s.byteAt l)

/-- Package memory as the parties on a core see it (R97). -/
def State.viewMem (s : State) (core : Nat) : Memory := (s.landAll core).mem

/-- A place in the scratch of a block: the block's own bank, which no path leads to. -/
def Loc.within (l : Loc) (block : Nat) : Bool :=
  match l with
  | .scr b _ => b == block
  | .mem _ => false

/-- The granules that some part of a core's path covers whole: for the parties on the core their poison is gone (R108). -/
def State.pathClears (s : State) (core : Nat) : List Loc := (s.core core).out.flatMap wholeGranules

/-- A store leaves its queue (R97): what a single lane writes to the block's own scratch is at home at once, behind what
the path holds for its slots; the lanes of a vector store, and all other bytes, join the core's path, lane by lane in
parts of one slot, so that parties outside the block see the lanes in any order (R103). A poisoned granule that the
store covers whole is one part, so that its poison is cleared (R108; log 6). -/
def State.leaveQueue (s : State) (core block : Nat) (parts : List (List (Loc × Byte))) : State :=
  let bs := parts.flatten
  let home := fun (p : Loc × Byte) => decide (parts.length ≤ 1) && p.1.within block
  let whole := (wholeGranules bs).filter s.granPoison
  let far := parts.flatMap fun u => unitsOf (u.filter fun p => !home p && !(whole.contains (granule p.1)))
  let full := (whole.map fun g => bs.filter fun p => granule p.1 == g && !home p).filter fun u => !u.isEmpty
  let near := bs.filter home
  (if near.isEmpty then s else (s.landAt core (near.map (·.1))).applyStore core near).join core (far ++ full)

/-- A free value at each use: the counter of free values moves on. -/
def State.bump (s : State) : State := { s with fresh := s.fresh + 1 }

end Sys2Proof.Machine
end

