-- ==== Sys2Proof/Machine/Xlat.lean ====
section
/-! DEFINITION. Addresses: the windows (R85, R86), the page walk (R374 to R376), the TLBs (R378), and the checks of a
range with the sub-codes of R93 and R109. -/
namespace Sys2Proof.Machine

/-- Who makes an access: partition, core, the block whose windows it uses, and for an operation in flight its place in
the issue order. -/
structure Accessor where
  part : Nat
  core : Nat
  block : Option Nat
  since : Option Nat := none
  deriving DecidableEq, Repr

/-- The accessor of a task. -/
def Task.accessor (t : Task) (s : State) : Accessor := { part := t.part, core := s.coreOf t, block := some t.block }

/-- The accessor of an operation in flight. -/
def AsyncOp.accessor (o : AsyncOp) (t : Task) (s : State) : Accessor := { t.accessor s with since := some o.seq }

/-- An access by the device on behalf of a partition, outside every core (R283, R357). -/
def deviceAccessor (part : Nat) : Accessor := { part := part, core := 0xFFFF, block := none }

/-- The end of a walk: a leaf entry with its page, an invalid entry, or poison (R376). -/
inductive Walked where
  | leaf (base size entry pte : Nat)
  | invalid
  | poison
  deriving DecidableEq, Repr

/-- A frame or a next table must lie in memory of the partition, outside the shadow regions (R376). -/
def State.tableOk (s : State) (part pa : Nat) : Bool := physOk s.byder.cacheMode pa && s.partMem part pa

/-- A leaf entry of kind 1 or 2 is valid at a level (R375, R376); `group` holds at a level-1 group's first entry. -/
def State.leafOk (s : State) (part level e : Nat) (group : Bool) : Bool :=
  let kind := e % 4
  let s64 := bitsOf e 3 1 == 1
  if kind = 1 then
    level ≤ 3 && (!s64 || (level == 1 && group)) && bitsOf e 48 16 == 0 && bitsOf e 4 8 == 0 &&
    (let frame := bitsOf e 12 36 * 4096
     let size := if level = 1 then (if s64 then 65536 else 4096) else 4096 * 512 ^ (level - 1)
     frame % size == 0 && s.tableOk part frame)
  else if kind = 2 then
    level == 1 && group && s64 && bitsOf e 6 2 == 0 &&
    (if bitsOf e 4 1 = 0 then bitsOf e 15 1 == 0
     else bitsOf e 8 8 == 0 && bitsOf e 48 16 == 0 && s.tableOk part (bitsOf e 16 32 * 65536))
  else false

/-- One entry of a table (R377): its value, or none when it lies in a poisoned sector. -/
def State.entryAt (s : State) (pa : Nat) : Option Nat :=
  if s.poison.contains (pa / 32) then none else some (s.mem.field pa 8)

/-- The walk from a table at a level (R374); `rd` reads an entry. -/
def State.walkFrom (s : State) (rd : Nat → Option Nat) (part va : Nat) : Nat → Nat → Walked
  | 0, _ => .invalid
  | l + 1, tbl =>
    let level := l + 1
    let idx := bitsOf va (12 + 9 * l) 9
    let size := 4096 * 512 ^ l
    if l = 0 then
      let g := idx / 16 * 16
      match s.entryAt (tbl + 8 * g) with
      | none => .poison
      | some e0 =>
        if (e0 % 4 == 1 || e0 % 4 == 2) && bitsOf e0 3 1 == 1 then
          (if s.leafOk part 1 e0 true then .leaf (va / 65536 * 65536) 65536 e0 (tbl + 8 * g) else .invalid)
        else
          match s.entryAt (tbl + 8 * idx) with
          | none => .poison
          | some e =>
            if e % 4 = 3 then .poison
            else if s.leafOk part 1 e (idx % 16 == 0) then .leaf (va / 4096 * 4096) 4096 e (tbl + 8 * idx) else .invalid
    else
      match rd (tbl + 8 * idx) with
      | none => .poison
      | some e =>
        if e % 4 = 3 then .poison
        else if e % 4 = 0 then
          let next := bitsOf e 12 36 * 4096
          if e = 0 || bitsOf e 48 16 != 0 || bitsOf e 2 10 != 0 || !(s.tableOk part next) then .invalid
          else s.walkFrom rd part va l next
        else if s.leafOk part level e false then .leaf (va / size * size) size e (tbl + 8 * idx) else .invalid

/-- The walk of a virtual address (R374, R380), its non-leaf entries read by `rd`. -/
def State.walkBy (s : State) (rd : Nat → Option Nat) (part va : Nat) : Walked :=
  let r := (s.mreg (0x140 + 8 * part)).toNat
  if r % 2 = 0 then .invalid else s.walkFrom rd part va 5 (bitsOf r 12 36 * 4096)

/-- The walk of a virtual address that reads every entry at its home (R374, R377). -/
def State.walk (s : State) (part va : Nat) : Walked := s.walkBy s.entryAt part va

/-! ## Cached translations (R378) -/

/-- A non-leaf entry as a walk on a die reads it: at its home, or from the die's walk cache, the choice being free where they
differ (R378; log 14). -/
def State.walkEntry (s : State) (die part pa : Nat) : Option Nat :=
  match s.walks.find? fun w => w.die == die && w.part == part && w.pte == pa with
  | none => s.entryAt pa
  | some w => if s.entryAt pa = some w.entry then some w.entry
    else if Config.choice s.fresh (9000000 + pa) then some w.entry else s.entryAt pa

/-- The die of an accessor's core; the device's own accesses belong to none and use no cache (log 14). -/
def Accessor.die (a : Accessor) : Nat := a.core / 128

/-- A cached leaf as a walk gives it. -/
def TlbEnt.walked (e : TlbEnt) : Walked := .leaf e.base e.size e.leaf e.pte

/-- A cached leaf serves an address of a partition. -/
def TlbEnt.hits (e : TlbEnt) (part va : Nat) : Bool :=
  e.part == part && decide (e.base ≤ va) && decide (va < e.base + e.size)

/-- The TLB entry of a core for an address, and that of the die (R378). -/
def State.tlbHit (s : State) (a : Accessor) (va : Nat) : Option Walked :=
  ((s.core a.core).tlb.find? fun e => e.hits a.part va).map TlbEnt.walked
def State.dieHit (s : State) (a : Accessor) (va : Nat) : Option Walked :=
  (s.dieTlbs.find? fun e => e.1 == a.die && e.2.hits a.part va).map fun e => e.2.walked

/-- A cached translation in place of another, by a free choice where they differ. -/
def State.orCached (s : State) (key : Nat) (w : Walked) : Option Walked → Walked
  | none => w
  | some h => if h = w then w else if Config.choice s.fresh key then h else w

/-- The translation that an access uses: a cached one may stand for a changed entry until it is invalidated, the
choice being free (R378; log 14). With PTROOT.EN = 0 every access is UNMAPPED (R380). -/
def State.xlat (s : State) (a : Accessor) (va : Nat) : Walked :=
  if s.mfield (0x140 + 8 * a.part) 0 1 = 0 then .invalid else
  s.orCached 0 (s.orCached 8999999 (s.walkBy (s.walkEntry a.die a.part) a.part va) (s.dieHit a va)) (s.tlbHit a va)

/-- The non-leaf entries of a walk from a table, each with the addresses that it covers. -/
def State.tableWalk (s : State) (die part va : Nat) : Nat → Nat → List WalkEnt
  | 0, _ => []
  | 1, _ => []
  | l + 2, tbl =>
    let pa := tbl + 8 * bitsOf va (12 + 9 * (l + 1)) 9
    let size := 4096 * 512 ^ (l + 1)
    match s.walkEntry die part pa with
    | some e =>
      if e % 4 = 0 then
        { die := die, part := part, pte := pa, entry := e, base := va / size * size, size := size } ::
          s.tableWalk die part va (l + 1) (bitsOf e 12 36 * 4096)
      else []
    | none => []

/-- A valid translation that an access used is cached in the core's TLB, in the die's TLB and walk cache (R378). -/
def State.tlbFill (s : State) (a : Accessor) (va : Nat) : State :=
  match a.block with
  | none => s
  | some _ =>
    match s.xlat a va with
    | .leaf base size e pte =>
      let x := s.core a.core
      if x.tlb.any fun y => y.part == a.part && y.base == base && y.size == size && y.leaf == e then s else
      let ent : TlbEnt := ⟨a.part, base, size, e, pte⟩
      let old := fun (y : TlbEnt) => y.part == a.part && decide (y.base < base + size) && decide (base < y.base + y.size)
      let ws := s.tableWalk a.die a.part va 5 (bitsOf (s.mreg (0x140 + 8 * a.part)).toNat 12 36 * 4096)
      let s := s.setCore a.core { x with tlb := ent :: x.tlb.filter fun y => !(old y) }
      { s with dieTlbs := (a.die, ent) :: s.dieTlbs.filter fun y => !(y.1 == a.die && old y.2),
               walks := ws ++ s.walks.filter fun w => !(ws.any fun v => v.die == w.die && v.part == w.part && v.pte == w.pte) }
    | _ => s

/-- Cached translations of a partition that `leaf` and `table` pick leave every TLB and walk cache (R379). -/
def State.tlbDrop (s : State) (part : Nat) (leaf : TlbEnt → Bool) (table : WalkEnt → Bool) : State :=
  let keep := fun (e : TlbEnt) => !(e.part == part && leaf e)
  { s with cores := s.cores.map fun c => (c.1, { c.2 with tlb := c.2.tlb.filter keep }),
           dieTlbs := s.dieTlbs.filter fun e => keep e.2,
           walks := s.walks.filter fun w => !(w.part == part && table w) }

/-- What an address leads to. -/
inductive Place where
  /-- A sub-code of R93. -/
  | bad (sub : Nat)
  /-- A byte of memory or scratch. -/
  | here (l : Loc)
  /-- A page whose entry is of kind 3 (R108). -/
  | poisonPte
  /-- A storage page that is not resident: its entry and the entry's address (R277). -/
  | notRes (pte entry : Nat)
  deriving DecidableEq, Repr

/-- The frame address of a leaf entry. -/
def leafFrame (e : Nat) : Nat := if e % 4 = 2 then bitsOf e 16 32 * 65536 else bitsOf e 12 36 * 4096

/-- A leaf entry is a storage page that is not resident (R376). -/
def leafAway (e : Nat) : Bool := e % 4 == 2 && (bitsOf e 4 1 == 0 || bitsOf e 5 1 == 1)

/-- The page of a leaf entry is away for an access; an operation that was in flight when a reclaim of the page began
still uses it (R278, R386). -/
def State.awayFor (s : State) (a : Accessor) (e pte : Nat) : Bool :=
  leafAway e && !(bitsOf e 4 1 == 1 && a.since.any fun q => s.reclaims.any fun r => r.pte == pte && decide (q < r.seq))

/-- The window region (R85). -/
def inWindow (va : Nat) : Bool := 0x01FFF00000000000 ≤ va && va ≤ 0x01FFFFFFFFFFFFFF

/-- A window address (R86). -/
def State.window (s : State) (a : Accessor) (va : Nat) : Place :=
  match a.block.bind s.block? with
  | none => .bad 3
  | some b =>
    let o := va % 0x100000
    let peer := (va - 0x01FFF10000000000) / 0x100000
    let own := decide (va < 0x01FFF00000100000)
    let tgt : Option Block :=
      if own then some b
      else if 0x01FFF10000000000 ≤ va && va < 0x01FFF10000800000 then
        s.blocks.find? fun x => x.span == b.span && x.pos == peer
      else none
    match tgt with
    | none => .bad 3
    | some x => if o < x.size then .here (.scr x.uid o) else .bad 4

/-- Where a virtual address leads, for a read or a write (R85, R86, R93, R376). -/
def State.place (s : State) (a : Accessor) (va : Nat) (wr : Bool) : Place :=
  if 2 ^ 57 ≤ va then .bad 1
  else if va < 0x10000 then .bad 2
  else if inWindow va then s.window a va
  else
    match s.xlat a va with
    | .invalid => .bad 6
    | .poison => .poisonPte
    | .leaf base _ e pte =>
      if wr && bitsOf e 2 1 == 0 then .bad 7
      else if s.awayFor a e pte then .notRes pte e
      else .here (.mem (leafFrame e + (va - base)))

/-- The pieces of a range that do not cross a 4 KiB boundary: first address and length; addresses wrap at 2^64. -/
def pieces : Nat → Nat → Nat → List (Nat × Nat)
  | 0, _, _ => []
  | f + 1, va, n =>
    if n = 0 then [] else
    let k := Nat.min n (4096 - va % 4096)
    (va % 2 ^ 64, k) :: pieces f ((va + k) % 2 ^ 64) (n - k)

/-- The pieces of a range. -/
def rangePieces (va n : Nat) : List (Nat × Nat) := pieces (n / 4096 + 2) va n

/-- The lowest MEMORY sub-code of a range and the lowest address that meets it (R93); `al` is the alignment. NONCANON and
NULL are met by the access's own address, never by what it runs on into. -/
def State.badRange (s : State) (a : Accessor) (va n al : Nat) (wr : Bool) : Option (Nat × Nat) :=
  let cs := (rangePieces va n).filterMap fun p => match s.place a p.1 wr with
    | .bad k => if k < 3 && p.1 != va then none else some (k, p.1)
    | _ => none
  let cs := if va % al = 0 then cs else (5, va) :: cs
  cs.foldl (fun best c => match best with
    | none => some c
    | some b => if c.1 < b.1 then some c else some b) none

/-- The first storage page of a range that is not resident: virtual address, entry address and entry (R277). -/
def State.awayRange (s : State) (a : Accessor) (va n : Nat) (wr : Bool) : Option (Nat × Nat × Nat) :=
  (rangePieces va n).findSome? fun p => match s.place a p.1 wr with
    | .notRes pte e => some (p.1, pte, e)
    | _ => none

/-- The bytes of a range, each at its place; a byte that leads nowhere is left out. -/
def State.locs (s : State) (a : Accessor) (va n : Nat) (wr : Bool) : List Loc :=
  (rangePieces va n).flatMap fun p => match s.place a p.1 wr with
    | .here (.mem pa) => (idxFrom pa p.2).map Loc.mem
    | .here (.scr b o) => (idxFrom o p.2).map (Loc.scr b)
    | _ => []

/-- POISON on a range that is read: sub-code and lowest address (R109): 1 SECTOR, 2 SCRATCH, 3 PTE. A granule that
`clear` names is covered whole by stores ahead of the read, so its poison is gone for it (R108). -/
def State.poisonRange (s : State) (a : Accessor) (va n : Nat) (wr : Bool) (clear : List Loc := []) : Option (Nat × Nat) :=
  let bad := fun l => s.locPoison l && !(clear.contains (granule l))
  (rangePieces va n).findSome? fun p => match s.place a p.1 wr with
    | .poisonPte => some (3, p.1)
    | .here (.mem pa) =>
      if wr then none else ((idxFrom 0 p.2).find? fun i => bad (.mem (pa + i))).map fun i => (1, p.1 + i)
    | .here (.scr b o) =>
      if wr then none else ((idxFrom 0 p.2).find? fun i => bad (.scr b (o + i))).map fun i => (2, p.1 + i)
    | _ => none

/-- Every page of a range enters the TLB (R378). -/
def State.tlbFillRange (s : State) (a : Accessor) (va n : Nat) : State :=
  (rangePieces va n).foldl (fun s p => if inWindow p.1 then s else s.tlbFill a p.1) s

/-- The value of bytes at their places. -/
def State.readLocs (s : State) (ls : List Loc) : List Byte := ls.map s.byteAt

end Sys2Proof.Machine
end

