-- ==== Sys2Proof/Machine/Ops.lean ====
section
/-! DEFINITION. The named operations that the meanings share: taking a trap and returning from one (R387 to R397),
retiring an instruction, the store queue (R96, R97), loads and stores through it, and code fetch (R94, R110, R111). -/
namespace Sys2Proof.Machine

/-! ## Traps -/

/-- A lane fault record before it is written (R394): sub-code, KIND and address. -/
structure LaneRec where
  sub : Nat
  kind : Nat
  addr : Nat
  deriving DecidableEq, Repr

/-- A trap to take: class, sub-code, TINFO, and for a vector word with lane records the records by lane (R387). -/
structure TrapReq where
  cls : Nat
  sub : Nat
  info : Dword := 0
  lanes : Option (List (Option LaneRec)) := none
  deriving DecidableEq, Repr

/-- Why an instruction does not complete: a precise trap, a wait at issue, a trap reported at the next instruction
(TRAP, which retires first), or a storage page that is not resident. -/
inductive Stop where
  | trap (r : TrapReq)
  | wait (w : Wait)
  | page (va pte entry : Nat)
  deriving DecidableEq, Repr

/-- The trap classes (R387). -/
def clsIllegal : Nat := 0
def clsMemory : Nat := 1
def clsPoison : Nat := 2
def clsRows : Nat := 3
def clsSched : Nat := 4
def clsMatrix : Nat := 5
def clsFuture : Nat := 6
def clsSem : Nat := 7
def clsArith : Nat := 8
def clsUser : Nat := 9
def clsDebug : Nat := 10
def clsAsync : Nat := 11
def clsStorage : Nat := 12
def clsDeterminism : Nat := 13
def clsPriv : Nat := 14

/-- A precise trap without lane records. -/
def trapWith {α : Type} (cls sub : Nat) (info : Nat := 0) : Except Stop α :=
  .error (.trap { cls := cls, sub := sub, info := BitVec.ofNat 64 info })

/-- The 16 bytes of a lane record (R394): word 0 holds VALID, CLASS, SUB, STREAM V, LANE and KIND. -/
def laneBytes (cls lane : Nat) (r : Option LaneRec) : List Byte :=
  match r with
  | none => natLe 16 0
  | some r => natLe 4 (2 ^ 31 + cls * 2 ^ 24 + r.sub * 2 ^ 16 + 2 ^ 14 + lane * 2 ^ 7 + r.kind) ++ natLe 4 0 ++ natLe 8 r.addr

/-- LFRBASE of a core (R392, R403). -/
def State.lfrBase (s : State) (part core : Nat) : Nat :=
  s.mfield (0x810 + 0x20 * part) 12 52 * 4096 + 49152 * core

/-- The 96 lane records of a task's slot are written before the handler's first instruction (R394). -/
def State.writeLanes (s : State) (t : Task) (cls : Nat) (rs : List (Option LaneRec)) : State :=
  let a := t.accessor s
  let base := s.lfrBase t.part a.core + 1536 * t.slot
  let bytes := (upto 96).flatMap fun l => laneBytes cls l (nth rs l none)
  let ls := s.locs a base (96 * 16) true
  if ls.length = 96 * 16 then ((s.landAt a.core ls).applyBytes (ls.zip bytes)).l1Drop a.core ls else s

/-- The ENDED bits of a task's streams, bit k for stream k (R392). -/
def Task.endedBits (t : Task) : BitVec 4 :=
  BitVec.ofNat 4 ((allStreams.map fun k => if (t.st k).status = .ended then 2 ^ k.idx else 0).foldl (· + ·) 0)

/-- TCAUSE of an entry (R392). -/
def tcauseOf (cls sub : Nat) (k : StreamId) (lrec deliv : Bool) (also : BitVec 4) : Word :=
  BitVec.ofNat 32 (sub % 256 + cls * 2 ^ 8 + k.idx * 2 ^ 12 + lrec.toNat * 2 ^ 14 + deliv.toNat * 2 ^ 15 + also.toNat * 2 ^ 16)

/-- A stream stops at an instruction boundary (R15, R389): ENDED stays, every other state becomes HALTED. -/
def StreamSt.halt (st : StreamSt) : StreamSt :=
  { st with status := if st.status = .ended then .ended else .halted, granted := false, run := 0 }

/-- Every stream of a task is ENDED, as KILL leaves it; the pending delivered traps are discarded (R23). -/
def Task.killAll (t : Task) (fate : Nat × Nat) : Task :=
  let e := fun (st : StreamSt) => { st with status := .ended, granted := false }
  { t with str := ⟨e t.str.s, e t.str.v, e t.str.m, e t.str.c⟩, semQ := [], pend := [], tmode := false, fate := some fate }

/-- The debug agent takes DEBUG in place of the handler (R397). -/
def State.agentStops (s : State) (t : Task) : Bool :=
  s.byder.debug == .full || (s.byder.debug == .user && s.byder.debugPart == t.part)

/-- The trap entry of a task (R389): every stream halts, TPCS to TPCC receive the program counters, the trapping
stream's being `pc`; TCAUSE, TSTAT.ENDED and TINFO are written; the scalar stream enters trap mode at
TVEC + 256 × class. Vector words issued earlier have completed (R132). The handler is not at a quantum end; the stream
goes on with its count after ERET (R298). -/
def Task.enter (t : Task) (k : StreamId) (pc : Dword) (cls sub : Nat) (info : Dword) (lrec deliv : Bool)
    (also : BitVec 4) : Task :=
  let pcOf := fun j => if j = k then pc else (t.st j).pc
  { t with
    tended := t.endedBits, tpcS := pcOf .s, tpcV := pcOf .v, tpcM := pcOf .m, tpcC := pcOf .c,
    tcause := tcauseOf cls sub k lrec deliv also, tinfo := info, tmode := true, semQ := [], flights := [], sb := [],
    str := { s := { t.str.s with pc := t.tvec + BitVec.ofNat 64 (256 * cls), status := .trap, granted := false, run := 0,
                                 qend := false, qheld := t.str.s.qend },
             v := t.str.v.halt, m := t.str.m.halt, c := t.str.c.halt } }

/-- A trap is unhandled when TVEC is 0, or when the handler itself raises it (R396). -/
def Task.unhandled (t : Task) (k : StreamId) : Bool := t.tvec == 0 || (t.tmode && k == .s)

/-- Taking a trap (R387 to R397): the debug agent stops the task; an unhandled trap ends its four streams; otherwise
the lane records are written and the handler is entered. -/
def State.takeTrap (s : State) (t : Task) (k : StreamId) (pc : Dword) (deliv : Bool) (also : BitVec 4) (r : TrapReq) :
    State :=
  if r.cls = clsDebug && s.agentStops t then
    { s.setTask { t with dbgHalt := true, semQ := [], flights := [], sb := [],
                         str := ⟨t.str.s.halt, t.str.v.halt, t.str.m.halt, t.str.c.halt⟩ } with
      wire := s.wire ++ [.stopped t.uid r.sub] }
  else if t.unhandled k then s.setTask (t.killAll (r.cls, r.sub))
  else
    let s := match r.lanes with
      | some rs => s.writeLanes t r.cls rs
      | none => s
    s.setTask (t.enter k pc r.cls r.sub r.info r.lanes.isSome deliv also)

/-- A delivered trap is queued (R390, R391). -/
def Task.deliver (t : Task) (p : PendTrap) : Task := { t with pend := t.pend ++ [p] }

/-- The oldest pending delivered trap is entered, as if it arose at its stream's boundary (R390). -/
def State.enterPending (s : State) (t : Task) : State :=
  match t.pend with
  | [] => s
  | p :: ps =>
    let t := { t with pend := ps }
    s.takeTrap t p.stream (t.st p.stream).pc true p.also { cls := p.cls, sub := p.sub, info := p.info }

/-- A stream resumes at its TPC after ERET: READY unless its ENDED bit is set (R395). -/
def StreamSt.resume (st : StreamSt) (pc : Dword) (ended : Bool) : StreamSt :=
  { st with pc := pc, status := if ended then .ended else .ready, granted := false, run := 0 }

/-- Return from a trap (R169, R395): trap mode is left and every stream resumes at its TPC, or is ENDED. -/
def Task.eret (t : Task) : Task :=
  { t with
    tmode := false,
    str := { s := { t.str.s.resume t.tpcS (t.tended.getLsbD 0) with qend := t.str.s.qend || t.str.s.qheld, qheld := false }, v := t.str.v.resume t.tpcV (t.tended.getLsbD 1),
             m := t.str.m.resume t.tpcM (t.tended.getLsbD 2), c := t.str.c.resume t.tpcC (t.tended.getLsbD 3) } }

/-! ## Retiring -/

/-- The quantum of one stream, Q/4 (R298). -/
def Task.quarter (t : Task) : Nat := t.quantum / 4

/-- A stream after an instruction of `len` parcels that leaves it running (R110, R133, R294, R298): the program counter
moves on, the run and the quantum count the instruction; a run of 32-bit or engine instructions ends after 8, and any run
at the quantum end, where the stream waits for its commit. Handler instructions do not count toward a quantum (R395). -/
def Task.advance (t : Task) (st : StreamSt) (len : Nat) : StreamSt :=
  let n := if t.tmode then st.retired else st.retired + 1
  let q := st.qend || (t.det && !t.tmode && decide (t.quarter ≤ n))
  { st with
    pc := st.pc + BitVec.ofNat 64 (4 * len),
    status := if t.tmode then .trap else .ready,
    retired := n,
    qend := q,
    run := st.run + 1,
    runVec := false,
    granted := st.granted && decide (st.run + 1 < 8) && !q }

/-! ## The droop governor (R337) -/

/-- W at a cycle: the weight of what issued or started in the 16 cycles before it. -/
def Droop.load (d : Droop) (t : Nat) : Nat :=
  ((d.words.filter fun w => decide (w.1 < t) && decide (t ≤ w.1 + 16)).map (·.2)).foldl (· + ·) 0

/-- The count a at a cycle: it counts the cycles in which W is above 0, and starts again at 0 after 64 with W at 0. -/
def Droop.count (d : Droop) (t : Nat) : Nat :=
  match d.words with
  | [] => d.hot
  | w :: _ =>
    if w.1 + 80 ≤ t then 0
    else d.hot + (Nat.min (t + 1) (w.1 + 17) - Nat.max d.upTo (w.1 + 1))

/-- A word or a start of a weight passes the governor at a cycle; weight 0 always does. -/
def Droop.passes (d : Droop) (w t : Nat) : Bool :=
  w == 0 || decide (d.load t + w ≤ Nat.min 48 (16 + d.count t / 8))

/-- The first cycle from `t` on in which every governor of a list lets the weight pass; each bubble is one cycle, and after
17 of them W is 0. -/
def passCycle (ds : List Droop) (w : Nat) : Nat → Nat → Nat
  | 0, t => t
  | f + 1, t => if ds.all fun d => d.passes w t then t else passCycle ds w f (t + 1)

/-- The governor after a word or a start of a weight. -/
def Droop.add (d : Droop) (w t : Nat) : Droop :=
  if w = 0 then d
  else { words := (t, w) :: d.words.filter fun x => decide (t ≤ x.1 + 16), hot := d.count t, upTo := t + 1 }

/-- DROOPCNT after a word or a start that bubbles have delayed (R338). -/
def Task.countDroop (t : Task) (bubbles : Nat) : Task := { t with droop := t.droop + BitVec.ofNat 32 bubbles }

/-- The task has buffered an arrival at a block barrier in this quantum (R298, R300). -/
def Task.buffersArrival (t : Task) (i : Nat) : Bool :=
  [t.str.s, t.str.v, t.str.m, t.str.c].any fun st => st.queue.any fun e => match e.eff with
    | .bara j | .bare j _ => j == i
    | _ => false

/-- The task has buffered an arrival at a span barrier in this quantum (R298, R300). -/
def Task.buffersSpanArrival (t : Task) (i : Nat) : Bool :=
  [t.str.s, t.str.v, t.str.m, t.str.c].any fun st => st.queue.any fun e => match e.eff with
    | .sbara j => j == i
    | _ => false

/-- An instruction of one parcel retires with its stream as `st`. -/
def State.retire (s : State) (t : Task) (k : StreamId) (st : StreamSt) (len : Nat := 1) : State :=
  s.setTask (t.setSt k (t.advance st len))

/-- The stream branches: as `advance`, to another program counter. -/
def State.branch (s : State) (t : Task) (k : StreamId) (st : StreamSt) (pc : Dword) : State :=
  s.setTask (t.setSt k { t.advance st 1 with pc := pc })

/-- An instruction waits: its stream is WAITING on it and its run ends (R15, R133). -/
def State.stall (s : State) (t : Task) (k : StreamId) (w : Wait) : State :=
  s.setTask (t.setSt k { t.st k with status := .waiting w, granted := false, run := 0 })

/-! ## The store queue -/

/-- A stream's queue receives an entry (R96). -/
def State.push (s : State) (t : Task) (k : StreamId) (pc : Dword) (e : Eff) : State × Task :=
  let st := t.st k
  ({ s with seq := s.seq + 1 }, t.setSt k { st with queue := st.queue ++ [{ seq := s.seq, pc := pc, eff := e }] })

/-- The parts in which a store or a completed copy of the queue leaves it. -/
def Eff.parts : Eff → List (List (Loc × Byte))
  | .store us => us
  | .copied bs _ => [bs]
  | _ => []

/-- The bytes that a store or a completed copy of the queue writes. -/
def Eff.bytes (e : Eff) : List (Loc × Byte) := e.parts.flatten

/-- The oldest entry of a queue leaves it (R97). -/
def State.drainOne (s : State) (t : Task) (k : StreamId) : State × Task :=
  let st := t.st k
  match st.queue with
  | [] => (s, t)
  | e :: es => (s.leaveQueue (s.coreOf t) t.block e.eff.parts, t.setSt k { st with queue := es })

/-- Every store of a list leaves its queue, in order. -/
def State.leaveAll (s : State) (core block : Nat) (q : List QEntry) : State :=
  q.foldl (fun s e => s.leaveQueue core block e.eff.parts) s

/-- A stream's store queue drains whole (R97, R99): its stores are performed at .block. Outside deterministic launches it
holds stores alone. -/
def State.drain (s : State) (t : Task) (k : StreamId) : State × Task :=
  if t.det then (s, t)
  else (s.leaveAll (s.coreOf t) t.block (t.st k).queue, t.setSt k { t.st k with queue := [] })

/-- Every store of a stream is performed at a scope (R99): its queue drains, and at .span or wider the core's path
reaches the homes. -/
def State.perform (s : State) (t : Task) (k : StreamId) (scope : Scope) : State × Task :=
  let (s, t) := s.drain t k
  if t.det || decide (scope.code < 2) then (s, t) else (s.landAll (s.coreOf t), t)

/-- The value that queued stores give a byte: the youngest one's (R96). -/
def queueByte (q : List QEntry) (l : Loc) : Option Byte :=
  (q.flatMap fun e => e.eff.bytes).foldl (fun r p => if p.1 = l then some p.2 else r) none

/-- Entries by ascending place in the issue order (insertion). -/
def insertSeq (e : QEntry) : List QEntry → List QEntry
  | [] => [e]
  | x :: xs => if e.seq < x.seq then e :: x :: xs else x :: insertSeq e xs

/-- The buffered entries of all four streams in issue order (R300). -/
def Task.allQueued (t : Task) : List QEntry :=
  (allStreams.flatMap fun k => (t.st k).queue).foldl (fun l e => insertSeq e l) []

/-- The byte of memory that a core's load sees: a present L1 line may hold an older value (R90), the choice whether it
is still present being free (log 15). -/
def State.l1Byte (s : State) (core pa : Nat) : Byte :=
  match (s.core core).l1.find? fun p => p.1 == pa / 128 with
  | none => s.mem.read pa
  | some p =>
    let b := nth p.2 (pa % 128) 0
    if b = s.mem.read pa then b else if Config.choice s.fresh (1 + pa / 128) then b else s.mem.read pa

/-- Loads of global memory bring their lines into L1 (R90); a line that a load did not take from L1 is replaced. -/
def State.l1Fill (s : State) (core : Nat) (ls : List Loc) : State :=
  let lines := dedup (ls.filterMap fun l => match l with | .mem pa => some (pa / 128) | _ => none)
  if lines.isEmpty then s else
  let x := s.core core
  let keep := fun (p : Nat × List Byte) =>
    !(lines.contains p.1) || (p.2 != s.mem.bytes (p.1 * 128) 128 && Config.choice s.fresh (1 + p.1))
  let old := x.l1.filter keep
  let new := (lines.filter fun n => !(old.any fun p => p.1 == n)).map fun n => (n, s.mem.bytes (n * 128) 128)
  s.setCore core { x with l1 := old ++ new }

/-- The bytes that an ordinary load of a stream returns (R90, R96, R97, R300): its own queued stores over the core's path
over L1 and memory; in a deterministic launch the task's buffered stores over committed memory. -/
def State.loadBytes (s : State) (t : Task) (k : StreamId) (ls : List Loc) : List Byte :=
  if t.det then
    let q := t.allQueued
    ls.map fun l => (queueByte q l).getD (s.byteAt l)
  else
    let q := (t.st k).queue
    let core := s.coreOf t
    ls.map fun l => ((queueByte q l).or (s.pathByte core l)).getD (match l with | .mem pa => s.l1Byte core pa | l => s.byteAt l)

/-- The state after an ordinary load: the TLB and L1 hold what it used. A load that only partly finds its bytes in the
queue waits until those stores drain (R96). -/
def State.afterLoad (s : State) (t : Task) (k : StreamId) (va n : Nat) (ls : List Loc) : State × Task :=
  let s := s.tlbFillRange (t.accessor s) va n
  if t.det then (s, t)
  else
    let q := (t.st k).queue
    let inq := ls.filter fun l => (queueByte q l).isSome
    let (s, t) := if inq.isEmpty || inq.length = ls.length then (s, t) else s.drain t k
    if inq.length = ls.length then (s, t) else (s.l1Fill (s.coreOf t) ls, t)

/-- A read-only acquire point of a stream (R105): what an ordinary load of the core would see now. -/
def State.roPoint (s : State) (core : Nat) : RoPoint :=
  let x := s.core core
  let slots := (dedup (x.out.flatten.map fun p => slotAt p.1)).filterMap fun g => match g with | .mem k => some k | _ => none
  { since := s.seq,
    held := slots.map fun k => { core := core, slot := .mem k, val := leNat ((idxFrom (8 * k) 8).map fun a => s.seenByte core (.mem a)),
                                 parts := x.out.filter fun u => u.any fun p => slotAt p.1 == .mem k },
    l1 := x.l1.filter fun p => p.2 != s.mem.bytes (p.1 * 128) 128 }

/-- The value of an 8-byte slot as the parties on a core see it (R97). -/
def State.seenSlot (s : State) (core pa : Nat) : Nat := leNat ((idxFrom (pa / 8 * 8) 8).map fun a => s.seenByte core (.mem a))

/-- What is left on its path of a slot that an acquire point saw there, and when the last of it that has landed did. -/
def State.roLeft (s : State) (since : Nat) (h : RoHeld) : List (List (Loc × Byte)) × Nat :=
  s.landed.foldl (fun r e =>
    if e.1 == h.core && decide (since ≤ e.2.1) && r.1.contains e.2.2 then (r.1.erase e.2.2, e.2.1) else r) (h.parts, 0)

/-- The values of the slot of an address that the read-only path may return (R105): what the core sees now; every value since
the acquire point and what an older line of L1 held then; or, where the core's path held the slot, what the core saw in it
then and, once that has landed, every value since. -/
def State.roValues (s : State) (core : Nat) (r : RoPoint) (pa : Nat) : List Nat :=
  let g := Loc.mem (pa / 8)
  s.seenSlot core pa :: match r.held.find? fun h => h.slot == g with
    | some h =>
      let (left, time) := s.roLeft r.since h
      h.val :: if left.isEmpty then s.slotValues time g else []
    | none => s.slotValues r.since g ++
        ((r.l1.find? fun p => p.1 == pa / 128).map fun p => leNat ((p.2.drop (pa % 128 / 8 * 8)).take 8)).toList

/-- A byte that the read-only path returns (R105), one value for each aligned 8-byte unit (R103), which one being free
(log 10). It never reads the store queue; a deterministic launch reads committed values (R300). -/
def State.roByte (s : State) (t : Task) (k : StreamId) (l : Loc) : Byte :=
  match l with
  | .mem pa =>
    if t.det then s.byteAt l
    else byteIn (s.pickVal (1000000 + pa / 8) (s.roValues (s.coreOf t) (t.st k).ro pa)) l
  | .scr _ _ => s.byteAt l

/-! ## Code fetch -/

/-- A storage page that is away stops the instruction: with STORAGE once its read has failed for the task (R280), else by the
eviction of R277. -/
def State.awayStop (s : State) (t : Task) (va pte e : Nat) : Stop :=
  match (s.blockOf t).bind fun b => b.readErrs.find? fun x => x.task == t.uid && x.op.isNone && x.page == va / 65536 with
  | some x => .trap { cls := clsStorage, sub := x.sub, info := BitVec.ofNat 64 va }
  | none => .page va pte e

/-- One parcel of code, as it stood at the task's start or at some time since, the choice being free (R94). A fault on the
fetch is a MEMORY or POISON trap (R111) or a storage page. -/
def State.fetchParcel (s : State) (t : Task) (k : StreamId) (pc : Nat) : Except Stop Word :=
  let a := t.accessor s
  if inWindow pc then trapWith clsMemory 3 pc
  else
    match s.place a pc false with
    | .bad k => trapWith clsMemory k pc
    | .poisonPte => trapWith clsPoison 3 pc
    | .notRes pte e => .error (s.awayStop t pc pte e)
    | .here (.scr _ _) => trapWith clsMemory 3 pc
    | .here (.mem pa) =>
      if s.locPoison (.mem pa) then trapWith clsPoison 1 pc
      else .ok (BitVec.ofNat 32 (pickOf (s.freeAt t k) (2000000 + pc) (s.slotValues t.codeAt (.mem (pa / 8))) /
        2 ^ (8 * (pa % 8))))

/-- The parcels of the instruction at a program counter: as many as P0 says (R110, R111). -/
def State.fetch (s : State) (t : Task) (k : StreamId) (pc : Dword) : Except Stop (Word × Word × Word) := do
  let a := pc.toNat
  let p0 ← s.fetchParcel t k a
  let p1 ← if 2 ≤ parcels p0 then s.fetchParcel t k ((a + 4) % 2 ^ 64) else .ok 0
  let p2 ← if 3 ≤ parcels p0 then s.fetchParcel t k ((a + 8) % 2 ^ 64) else .ok 0
  return (p0, p1, p2)

end Sys2Proof.Machine
end

