-- ==== Sys2Proof/Machine/Flags.lean ====
section
/-! DEFINITION. The flags of FPFLAGS (R45): their bits, the sticky update, and the ARITH sub-code that the trap enables
select (R46, R175). -/
namespace Sys2Proof.Machine

/-- A set of flags, one bit each (R45). -/
abbrev FFlags := BitVec 8

def flagInvalid : FFlags := 0x01
def flagDivzero : FFlags := 0x02
def flagOverflow : FFlags := 0x04
def flagUnderflow : FFlags := 0x08
def flagInexact : FFlags := 0x10
def flagMxsat : FFlags := 0x20
def flagMxunder : FFlags := 0x40
def flagIntovf : FFlags := 0x80

/-- A flag when a condition holds. -/
def flagIf (c : Bool) (f : FFlags) : FFlags := if c then f else 0

/-- The flags join FPFLAGS; they are sticky (R45, R59). -/
def StreamSt.orFlags (st : StreamSt) (f : FFlags) : StreamSt := { st with fpflags := st.fpflags ||| f.zeroExtend 32 }

/-- FPMODE.TRAPEN (R45). -/
def trapEnables (fpmode : Word) : FFlags := fpmode.extractLsb' 8 8

/-- The lowest flag that is raised and enabled (R46, R175). -/
def lowestEnabled (fpmode : Word) (f : FFlags) : Option Nat :=
  let x := f &&& trapEnables fpmode
  (upto 8).find? fun i => x.getLsbD i

/-- The rounding modes (R59); SR carries the element's 16 random bits (R62). -/
inductive Rm where
  | rne | rtz | rup | rdn
  | sr (r : Nat)
  deriving DecidableEq, Repr

/-- FPMODE.RM (R45). -/
def fpmodeRm (fpmode : Word) : Rm :=
  match fpmode.toNat % 4 with
  | 0 => .rne
  | 1 => .rtz
  | 2 => .rup
  | _ => .rdn

/-- FPMODE.FTZ (R45, R61). -/
def fpmodeFtz (fpmode : Word) : Bool := fpmode.getLsbD 2

/-- SrBits (R62). -/
def srBits (seed n : Word) (e : Nat) : Nat :=
  let x : Word := seed + n * 0x10000 + BitVec.ofNat 32 e
  let x := x ^^^ (x >>> (15 : Nat))
  let x := x * 0x2C1B3C6D
  let x := x ^^^ (x >>> (12 : Nat))
  let x := x * 0x297A2D39
  let x := x ^^^ (x >>> (15 : Nat))
  x.toNat / 65536

end Sys2Proof.Machine
end

