-- ==== Sys2Proof/Machine/Float.lean ====
section
/-! DEFINITION. Number formats, rounding and arithmetic (03): exact dyadic values, RoundToFormat (R53, R57 to R61, R64),
NaNs (R56), sums and products, compares, conversions and MX blocks (R65, R66). -/
namespace Sys2Proof.Machine

/-! ## Formats -/

/-- The signed formats of R53, widest first. -/
inductive Fmt where
  | f64 | f32 | f16 | bf16 | e5m2 | e4m3 | e3m2 | e2m3 | e2m1
  deriving DecidableEq, Repr

/-- Bits of a format (R53). -/
def Fmt.width : Fmt → Nat
  | .f64 => 64
  | .f32 => 32
  | .f16 | .bf16 => 16
  | .e5m2 | .e4m3 => 8
  | .e3m2 | .e2m3 => 6
  | .e2m1 => 4

/-- Mantissa bits: MantBits (R53, R60). -/
def Fmt.mb : Fmt → Nat
  | .f64 => 52
  | .f32 => 23
  | .f16 => 10
  | .bf16 => 7
  | .e5m2 => 2
  | .e4m3 => 3
  | .e3m2 => 2
  | .e2m3 => 3
  | .e2m1 => 1

/-- Exponent bits (R53). -/
def Fmt.eb (f : Fmt) : Nat := f.width - 1 - f.mb

/-- Bias (R53). -/
def Fmt.bias : Fmt → Nat
  | .f64 => 1023
  | .f32 | .bf16 => 127
  | .f16 | .e5m2 => 15
  | .e4m3 => 7
  | .e3m2 => 3
  | .e2m3 | .e2m1 => 1

/-- The format has infinities and IEEE NaNs (R53). -/
def Fmt.ieee : Fmt → Bool
  | .f64 | .f32 | .f16 | .bf16 | .e5m2 => true
  | _ => false

/-- The encoding of the largest finite magnitude (R53). -/
def Fmt.maxEnc (f : Fmt) : Nat :=
  if f.ieee then (2 ^ f.eb - 1) * 2 ^ f.mb - 1 else if f = .e4m3 then 0x7E else 2 ^ (f.width - 1) - 1

/-- The encoding of +Inf in a format that has it. -/
def Fmt.infEnc (f : Fmt) : Nat := f.maxEnc + 1

/-- The binade of the smallest normal: EminNormal (R60). -/
def Fmt.emin (f : Fmt) : Int := 1 - (f.bias : Int)

/-- The sign bit of a format as a value. -/
def Fmt.signBit (f : Fmt) (neg : Bool) : Nat := if neg then 2 ^ (f.width - 1) else 0

/-- The canonical NaN (R56); the formats without a NaN have none and give +0 (R57). -/
def Fmt.canonNaN (f : Fmt) : Nat :=
  if f.ieee then f.infEnc + 2 ^ (f.mb - 1) else if f = .e4m3 then 0x7F else 0

/-! ## Values -/

/-- A decoded value: a NaN with its sign, its payload moved to 52 bits and whether it signals; an infinity; or
±m × 2^e exactly. -/
inductive FVal where
  | nan (neg : Bool) (payload : Nat) (snan : Bool)
  | inf (neg : Bool)
  | fin (neg : Bool) (m : Nat) (e : Int)
  deriving DecidableEq, Repr

/-- The value of an encoding (R53). -/
def Fmt.decode (f : Fmt) (x : Nat) : FVal :=
  let neg := x / 2 ^ (f.width - 1) % 2 == 1
  let ex := x / 2 ^ f.mb % 2 ^ f.eb
  let m := x % 2 ^ f.mb
  if f.ieee && ex == 2 ^ f.eb - 1 then
    (if m = 0 then .inf neg else .nan neg (m * 2 ^ (52 - f.mb)) (m / 2 ^ (f.mb - 1) % 2 == 0))
  else if f = .e4m3 && x % 128 == 127 then .nan neg (m * 2 ^ 49) false
  else if ex = 0 then .fin neg m (f.emin - f.mb)
  else .fin neg (2 ^ f.mb + m) ((ex : Int) - f.bias - f.mb)

/-- The value of an E8M0 byte: 2^(e − 127), or NaN (R53). -/
def decodeE8m0 (x : Nat) : FVal := if x = 255 then .nan false 0 false else .fin false 1 ((x : Int) - 127)

/-- The sign of a value. -/
def FVal.neg : FVal → Bool
  | .nan n _ _ => n
  | .inf n => n
  | .fin n _ _ => n

/-- The value is a NaN. -/
def FVal.isNaN : FVal → Bool
  | .nan _ _ _ => true
  | _ => false

/-- The value is a signalling NaN. -/
def FVal.isSNaN : FVal → Bool
  | .nan _ _ s => s
  | _ => false

/-- The value is ±0. -/
def FVal.isZero : FVal → Bool
  | .fin _ m _ => m == 0
  | _ => false

/-- The value is ±Inf. -/
def FVal.isInf : FVal → Bool
  | .inf _ => true
  | _ => false

/-- The value negated; a NaN keeps its sign. -/
def FVal.negate : FVal → FVal
  | .nan n p s => .nan n p s
  | .inf n => .inf !n
  | .fin n m e => .fin (!n) m e

/-- A subnormal FP32 operand reads as a zero of its sign under FTZ (R61). -/
def ftzOperand (ftz : Bool) (f : Fmt) (v : FVal) : FVal :=
  match v with
  | .fin n m e => if ftz && decide (m < 2 ^ f.mb) then .fin n 0 e else .fin n m e
  | v => v

/-! ## Exact dyadic numbers -/

/-- The exact number m × 2^e. -/
structure Dy where
  m : Int
  e : Int
  deriving DecidableEq, Repr

/-- Zero. -/
def Dy.zero : Dy := { m := 0, e := 0 }

/-- An exact sum. -/
def Dy.add (a b : Dy) : Dy :=
  let e := min a.e b.e
  { m := a.m * 2 ^ (a.e - e).toNat + b.m * 2 ^ (b.e - e).toNat, e := e }

/-- An exact product. -/
def Dy.mul (a b : Dy) : Dy := { m := a.m * b.m, e := a.e + b.e }

/-- Times 2^k. -/
def Dy.scale (a : Dy) (k : Int) : Dy := { a with e := a.e + k }

/-- The number of a finite value. -/
def finDy (neg : Bool) (m : Nat) (e : Int) : Dy := { m := if neg then -(m : Int) else m, e := e }

/-- The difference has this sign: −1, 0 or 1. -/
def Dy.cmp (a b : Dy) : Int := (a.add { b with m := -b.m }).m.sign

/-! ## Rounding -/

/-- A rounded encoding and its flags. -/
structure FRes where
  bits : Nat
  flags : FFlags
  deriving DecidableEq, Repr

/-- A magnitude m × 2^e, or slightly above it when `sticky`, rounded to a multiple of 2^lsb: the multiple and whether it
is inexact (R59, R64). -/
def roundMul (rm : Rm) (neg : Bool) (m : Nat) (e : Int) (sticky : Bool) (lsb : Int) : Nat × Bool :=
  if lsb ≤ e then (m * 2 ^ (e - lsb).toNat, sticky)
  else
    let k := (lsb - e).toNat
    let q := m / 2 ^ k
    let r := m % 2 ^ k
    let inx := r != 0 || sticky
    let up := match rm with
      | .rne => decide (2 ^ k < 2 * r) || (2 * r == 2 ^ k && (sticky || q % 2 == 1))
      | .rtz => false
      | .rup => !neg && inx
      | .rdn => neg && inx
      | .sr rnd =>
        if 16 ≤ k then decide (2 ^ k ≤ r + rnd * 2 ^ (k - 16)) else decide (2 ^ 16 ≤ r * 2 ^ (16 - k) + rnd)
    (if up then q + 1 else q, inx)

/-- The result of an overflow (R57, R59): infinity or the largest finite magnitude. -/
def overflowEnc (f : Fmt) (rm : Rm) (neg : Bool) : Nat :=
  if !f.ieee then f.maxEnc else
  match rm with
  | .rne => f.infEnc
  | .rtz => f.maxEnc
  | .rup => if neg then f.maxEnc else f.infEnc
  | .rdn => if neg then f.infEnc else f.maxEnc
  | .sr _ => f.maxEnc

/-- RoundToFormat of a real ±m × 2^e (R59, R60, R64): the encoding, overflow, underflow and inexact. Under FTZ a tiny
result is a zero of its sign (R61). -/
def roundTo (f : Fmt) (rm : Rm) (ftz neg : Bool) (m : Nat) (e : Int) (sticky : Bool) : FRes :=
  if m = 0 && !sticky then { bits := f.signBit neg, flags := 0 }
  else
    let top : Int := (Nat.log2 m : Int) + e
    let lsb := max top f.emin - f.mb
    let (q, inx) := roundMul rm neg m e sticky lsb
    let tiny :=
      if f.emin ≤ top then false
      else
        let (qu, _) := roundMul rm neg m e sticky (top - f.mb)
        decide (qu < 2 ^ (f.mb + (f.emin - top).toNat))
    if ftz && tiny then { bits := f.signBit neg, flags := flagUnderflow ||| flagInexact }
    else
      let enc := ((lsb + f.mb + f.bias) * 2 ^ f.mb).toNat + q - 2 ^ f.mb
      if f.maxEnc < enc then
        { bits := f.signBit neg + overflowEnc f rm neg, flags := flagOverflow ||| flagInexact }
      else
        { bits := f.signBit neg + enc, flags := flagIf (tiny && inx) flagUnderflow ||| flagIf inx flagInexact }

/-- RoundToFormat of an exact number; `zneg` is the sign of a zero. -/
def roundDy (f : Fmt) (rm : Rm) (ftz zneg : Bool) (d : Dy) : FRes :=
  if d.m = 0 then { bits := f.signBit zneg, flags := 0 } else roundTo f rm ftz (decide (d.m < 0)) d.m.natAbs d.e false

/-- The encoding of an infinity. -/
def infRes (f : Fmt) (neg : Bool) : FRes := { bits := f.signBit neg + f.infEnc, flags := 0 }

/-- The canonical NaN of an invalid operation (R56). -/
def invalidRes (f : Fmt) : FRes := { bits := f.canonNaN, flags := flagInvalid }

/-- A NaN quieted into a format, its payload's high bits kept (R56, R57); a signalling NaN sets invalid. -/
def nanRes (f : Fmt) (neg : Bool) (payload : Nat) (snan : Bool) : FRes :=
  let kept := payload / 2 ^ (52 - f.mb)
  let q := 2 ^ (f.mb - 1)
  let m := if kept / q % 2 = 1 then kept else kept + q
  { bits := f.signBit neg + f.infEnc + m, flags := flagIf snan flagInvalid }

/-- The first NaN of the operands, quieted; a signalling NaN among them sets invalid (R56). -/
def firstNaN (f : Fmt) (ops : List FVal) : Option FRes :=
  match ops.find? FVal.isNaN with
  | some (.nan n p s) =>
    let r := nanRes f n p s
    some { r with flags := flagIf (ops.any FVal.isSNaN) flagInvalid }
  | _ => none

/-! ## Arithmetic -/

/-- The sign of an exact zero sum of terms with signs `a` and `b` (R58). -/
def zeroSign (rm : Rm) (a b : Bool) : Bool := if a = b then a else decide (rm = .rdn)

/-- a + b (R56, R58). -/
def fAdd (f : Fmt) (rm : Rm) (ftz : Bool) (a b : FVal) : FRes :=
  match firstNaN f [a, b] with
  | some r => r
  | none =>
    match a, b with
    | .inf n, .inf n' => if n = n' then infRes f n else invalidRes f
    | .inf n, _ => infRes f n
    | _, .inf n => infRes f n
    | .fin na ma ea, .fin nb mb eb =>
      roundDy f rm ftz (zeroSign rm na nb) ((finDy na ma ea).add (finDy nb mb eb))
    | _, _ => invalidRes f

/-- a − b: a NaN of b keeps its sign (R56). -/
def fSub (f : Fmt) (rm : Rm) (ftz : Bool) (a b : FVal) : FRes := fAdd f rm ftz a b.negate

/-- a × b (R56). -/
def fMul (f : Fmt) (rm : Rm) (ftz : Bool) (a b : FVal) : FRes :=
  match firstNaN f [a, b] with
  | some r => r
  | none =>
    let neg := a.neg != b.neg
    if (a.isInf && b.isZero) || (a.isZero && b.isInf) then invalidRes f
    else if a.isInf || b.isInf then infRes f neg
    else
      match a, b with
      | .fin _ ma ea, .fin _ mb eb => roundTo f rm ftz neg (ma * mb) (ea + eb) false
      | _, _ => invalidRes f

/-- The exact product of two values that are no NaN: none when it is invalid. -/
def FVal.times (a b : FVal) : Option FVal :=
  let neg := a.neg != b.neg
  if (a.isInf && b.isZero) || (a.isZero && b.isInf) then none
  else if a.isInf || b.isInf then some (.inf neg)
  else
    match a, b with
    | .fin _ ma ea, .fin _ mb eb => some (.fin neg (ma * mb) (ea + eb))
    | _, _ => none

/-- a × b + c with one rounding (R56, R177); NaNs are taken in the order a, b, c, and 0 × ∞ is invalid beside a NaN c. -/
def fFma (f : Fmt) (rm : Rm) (ftz : Bool) (a b c : FVal) : FRes :=
  match firstNaN f [a, b, c] with
  | some r =>
    let bad := !a.isNaN && !b.isNaN && (a.times b).isNone
    { r with flags := r.flags ||| flagIf bad flagInvalid }
  | none =>
    match a.times b with
    | none => invalidRes f
    | some p => fAdd f rm ftz p c

/-- c − a × b with one rounding (R177). -/
def fFnma (f : Fmt) (rm : Rm) (ftz : Bool) (a b c : FVal) : FRes := fFma f rm ftz a.negate b c

/-- The order of two values that are no NaN, −0 below +0 (R56). -/
def FVal.ltTotal (a b : FVal) : Bool :=
  match a, b with
  | .inf n, .inf n' => n && !n'
  | .inf n, _ => n
  | _, .inf n => !n
  | .fin na ma ea, .fin nb mb eb =>
    let c := (finDy na ma ea).cmp (finDy nb mb eb)
    c == -1 || (c == 0 && ma == 0 && na && !nb)
  | _, _ => false

/-- The order of two values that are no NaN, the zeros equal. -/
def FVal.lt (a b : FVal) : Bool := if a.isZero && b.isZero then false else a.ltTotal b

/-- Equality of two values that are no NaN. -/
def FVal.eqv (a b : FVal) : Bool := !(a.lt b) && !(b.lt a)

/-- A value that is no NaN, back in the format it came from. -/
def encodeFin (f : Fmt) (v : FVal) : Nat :=
  match v with
  | .fin n m e => (roundTo f .rne false n m e false).bits
  | .inf n => (infRes f n).bits
  | .nan n p s => (nanRes f n p s).bits

/-- Minimum or maximum (R56): the other operand where exactly one is NaN; a signalling NaN sets invalid. -/
def fMinMax (f : Fmt) (isMax : Bool) (a b : FVal) : FRes :=
  let inv := flagIf (a.isSNaN || b.isSNaN) flagInvalid
  if a.isNaN && b.isNaN then (firstNaN f [a, b]).getD (invalidRes f)
  else if a.isNaN then { bits := encodeFin f b, flags := inv }
  else if b.isNaN then { bits := encodeFin f a, flags := inv }
  else
    let pickB := if isMax then a.ltTotal b else b.ltTotal a
    { bits := encodeFin f (if pickB then b else a), flags := 0 }

/-- The compares (R56, R178): equal, not equal, less, less or equal, unordered. -/
inductive FCmp where | eq | ne | lt | le | un
  deriving DecidableEq, Repr

/-- The result of a compare; a signalling NaN sets invalid, and for less and less-or-equal any NaN (R56, R178). -/
def fCompare (c : FCmp) (a b : FVal) : Bool × FFlags :=
  let inv := flagIf (a.isSNaN || b.isSNaN || ((c == .lt || c == .le) && (a.isNaN || b.isNaN))) flagInvalid
  if a.isNaN || b.isNaN then (c == .ne || c == .un, inv)
  else
    (match c with
      | .eq => a.eqv b
      | .ne => !(a.eqv b)
      | .lt => a.lt b
      | .le => !(b.lt a)
      | .un => false, 0)

/-- Rounding to an integral value in the format (FRND, DRND: R180); inexact when the value changes. -/
def fRound (f : Fmt) (rm : Rm) (ftz : Bool) (v : FVal) : FRes :=
  match v with
  | .nan n p s => nanRes f n p s
  | .inf n => infRes f n
  | .fin n m e =>
    let (q, inx) := roundMul rm n m e false (max 0 e)
    let q := if 0 ≤ e then q * 2 ^ e.toNat else q
    let r := roundTo f .rne ftz n q 0 false
    { r with flags := r.flags ||| flagIf inx flagInexact }

/-- FP32 atomic add (R69): RNE, subnormals honoured, NaN results canonical. -/
def fAtomAdd (f : Fmt) (x y : Nat) : Nat :=
  let a := f.decode x
  let b := f.decode y
  if a.isNaN || b.isNaN then f.canonNaN else (fAdd f .rne false a b).bits

/-! ## Conversions -/

/-- A value converted to a format (R57): NaNs, infinities and overflow by the target. -/
def convTo (f : Fmt) (rm : Rm) (v : FVal) : FRes :=
  match v with
  | .fin n m e => roundTo f rm false n m e false
  | .inf n => if f.ieee then infRes f n else { bits := f.signBit n + f.maxEnc, flags := flagOverflow }
  | .nan n p s =>
    if f.ieee then nanRes f n p s
    else if f = .e4m3 then { bits := f.signBit n + 0x7F, flags := flagInvalid }
    else { bits := 0, flags := flagInvalid }

/-- A value converted to an integer type of `w` bits (R57): the encoding modulo 2^w. -/
def convToInt (w : Nat) (signed : Bool) (rm : Rm) (v : FVal) : FRes :=
  let lo : Int := if signed then -(2 ^ (w - 1)) else 0
  let hi : Int := if signed then 2 ^ (w - 1) - 1 else 2 ^ w - 1
  let enc := fun (x : Int) => (x % 2 ^ w).toNat
  match v with
  | .nan _ _ _ => { bits := 0, flags := flagInvalid }
  | .inf n => { bits := enc (if n then lo else hi), flags := flagInvalid }
  | .fin n m e =>
    let (q, inx) := roundMul rm n m e false (max 0 e)
    let q := if 0 ≤ e then q * 2 ^ e.toNat else q
    let x : Int := if n then -(q : Int) else q
    if x < lo then { bits := enc lo, flags := flagInvalid }
    else if hi < x then { bits := enc hi, flags := flagInvalid }
    else { bits := enc x, flags := flagIf inx flagInexact }

/-- An integer converted to a format (R57). -/
def convFromInt (f : Fmt) (rm : Rm) (x : Int) : FRes := roundTo f rm false (decide (x < 0)) x.natAbs 0 false

/-! ## MX blocks -/

/-- The element formats of MX blocks (R55). -/
inductive MxFmt where
  | fp (f : Fmt)
  | i8
  deriving DecidableEq, Repr

/-- emax_elem (R55). -/
def MxFmt.emax : MxFmt → Int
  | .fp .e2m1 => 2
  | .fp .e2m3 => 2
  | .fp .e3m2 => 4
  | .fp .e4m3 => 8
  | .fp .e5m2 => 15
  | .fp _ => 0
  | .i8 => 6

/-- One element of a block: its encoding, inexact, whether its magnitude exceeds MaxFinite before rounding, whether it
rounds to zero (R64, R65). -/
def mxElem (f : MxFmt) (rm : Rm) (neg : Bool) (m : Nat) (e : Int) : Nat × Bool × Bool × Bool :=
  match f with
  | .i8 =>
    let (q, inx) := roundMul rm neg m e false (max 0 e)
    let q := if 0 ≤ e then q * 2 ^ e.toNat else q
    let ovr := decide (0 < ((finDy false m e).cmp { m := 127, e := 0 }))
    let c := Nat.min q 127
    (((if neg then -(c : Int) else c) % 256).toNat, inx || decide (127 < q), ovr, q == 0)
  | .fp g =>
    let mx := match g.decode g.maxEnc with
      | .fin _ mm me => finDy false mm me
      | _ => Dy.zero
    let ovr := decide (0 < ((finDy false m e).cmp mx))
    if ovr then (g.signBit neg + g.maxEnc, true, true, false)
    else
      let r := roundTo g rm false neg m e false
      let enc := Nat.min (r.bits % 2 ^ (g.width - 1)) g.maxEnc
      (g.signBit neg + enc, r.flags.getLsbD 4, false, enc == 0)

/-- floor(log2 |v|) of a finite nonzero value. -/
def ilog2 (m : Nat) (e : Int) : Int := (Nat.log2 m : Int) + e

/-- MxScale (R65): the scale byte, the element encodings and the flags of each element; `rm i` is the rounding of
element i. -/
def mxScale (f : MxFmt) (rm : Nat → Rm) (vs : List FVal) : Nat × List Nat × List FFlags :=
  if vs.any fun v => v.isNaN || v.isInf then (0xFF, vs.map fun _ => 0, vs.map fun _ => 0)
  else
    let logs := vs.filterMap fun v => match v with
      | .fin _ m e => if m = 0 then none else some (ilog2 m e)
      | _ => none
    let x0 : Int := match logs with
      | [] => -127
      | l :: ls => ls.foldl max l - f.emax
    let clamped := decide (127 < x0)
    let x := min 127 (max (-127) x0)
    let es := (vs.zip (upto vs.length)).map fun p => match p.1 with
      | .fin n m e => (mxElem f (rm p.2) n m (e - x), m != 0)
      | _ => ((0, false, false, false), false)
    ((x + 127).toNat, es.map (fun r => r.1.1), es.map fun r =>
      flagIf r.1.2.1 flagInexact ||| flagIf (decide (x = -127) && r.2 && r.1.2.2.2) flagMxunder |||
      flagIf (clamped && r.1.2.2.1) flagMxsat)

/-- An element of a block before its scale (R66). -/
def MxFmt.decode (f : MxFmt) (x : Nat) : FVal :=
  match f with
  | .i8 =>
    let s : Int := if x % 256 < 128 then (x % 256 : Nat) else (x % 256 : Nat) - 256
    .fin (decide (s < 0)) s.natAbs 0
  | .fp g => g.decode x

/-- BlockValue (R66): element × 2^(scale − 127), or NaN when the scale byte is 0xFF. -/
def blockValue (scale : Nat) (v : FVal) : FVal :=
  if scale = 255 then .nan false (2 ^ 51) false
  else match v with
    | .fin n m e => .fin n m (e + ((scale : Int) - 127))
    | v => v

/-! ## Exact accumulation (R67, R68) -/

/-- The products of one block or group: invalid, a NaN, the infinities by sign and the exact finite sum. -/
structure AccSum where
  invalid : Bool
  nan : Bool
  pinf : Bool
  ninf : Bool
  sum : Dy
  deriving DecidableEq, Repr

/-- An empty group. -/
def AccSum.zero : AccSum := { invalid := false, nan := false, pinf := false, ninf := false, sum := .zero }

/-- One product joins the group (R68). -/
def AccSum.addProd (s : AccSum) (a b : FVal) : AccSum :=
  let s := { s with invalid := s.invalid || a.isSNaN || b.isSNaN }
  if a.isNaN || b.isNaN then { s with nan := true }
  else
    match a.times b with
    | none => { s with nan := true, invalid := true }
    | some (.inf true) => { s with ninf := true }
    | some (.inf false) => { s with pinf := true }
    | some (.fin n m e) => { s with sum := s.sum.add (finDy n m e) }
    | some (.nan _ _ _) => { s with nan := true }

/-- A group is added to an FP32 accumulator (R68). -/
def AccSum.into (s : AccSum) (c : Nat) : FRes :=
  let cv := Fmt.f32.decode c
  let opp := s.pinf && s.ninf
  if cv.isNaN then { bits := Fmt.f32.canonNaN, flags := 0 }
  else if s.nan || opp then
    { bits := Fmt.f32.canonNaN, flags := flagIf (s.invalid || opp) flagInvalid }
  else if s.pinf || s.ninf then
    match cv with
    | .inf n => if n = s.ninf then infRes .f32 n else { bits := Fmt.f32.canonNaN, flags := flagIf s.invalid flagInvalid }
    | _ => infRes .f32 s.ninf
  else
    match cv with
    | .inf n => infRes .f32 n
    | .fin n m e =>
      let t := s.sum
      roundDy .f32 .rne false (zeroSign .rne n (decide (t.m < 0))) ((finDy n m e).add t)
    | .nan _ _ _ => { bits := Fmt.f32.canonNaN, flags := 0 }

end Sys2Proof.Machine
end

