-- ==== Sys2Proof/Machine/Caddy.lean ====
section
/-! DEFINITION. The Caddy engines' side of a storage page (R277 to R280, R380 to R385): fault-queue records, frames, the
start of a page read, and its failure. -/
namespace Sys2Proof.Machine

/-- Bytes at a physical address, by an engine of the device; where R368 provides no memory nothing is written. -/
def State.engineWrite (s : State) (pa n v : Nat) : State :=
  if physOk s.byder.cacheMode pa then s.applyBytes (((idxFrom pa n).map Loc.mem).zip (natLe n v)) else s

/-- An indivisible step of an engine at an entry's home (R377, R385): the entry changes where it still holds the value that
the engine left or read; the flag says whether it did. -/
def State.swapEntry (s : State) (pte old new : Nat) : State × Bool :=
  if s.mem.field pte 8 = old then (s.engineWrite pte 8 new, true) else (s, false)

/-- A record of a partition's fault queue, or a count of a dropped one (R381). -/
def State.faultRecord (s : State) (part type sub core launch addr info ssd : Nat) : State :=
  let base := s.mfield (0x600 + 0x20 * part) 5 43 * 32
  let size := 2 ^ s.mfield (0x608 + 0x20 * part) 0 5
  let wr := s.mfield (0x610 + 0x20 * part) 0 32
  let rd := s.mfield (0x618 + 0x20 * part) 0 32
  if (wr + 2 ^ 32 - rd) % 2 ^ 32 = size then
    s.setMfield (0x610 + 0x20 * part) 32 32 (s.mfield (0x610 + 0x20 * part) 32 32 + 1)
  else
    let v := type + sub * 2 ^ 8 + core * 2 ^ 16 + launch * 2 ^ 32 + addr * 2 ^ 64 + info * 2 ^ 128 + ssd * 2 ^ 192
    (s.engineWrite (base + 32 * (wr % size)) 32 v).setMfield (0x610 + 0x20 * part) 0 32 (wr + 1)

/-- Frames of a partition's pool (R380). -/
def State.frameCount (s : State) (part : Nat) : Nat := s.mfield (0x408 + 0x40 * part) 0 24
/-- The address of a frame (R380). -/
def State.frameAddr (s : State) (part i : Nat) : Nat := s.mfield (0x400 + 0x40 * part) 16 32 * 65536 + 65536 * i
/-- STATE of a frame's record (R384). -/
def State.frameState (s : State) (part i : Nat) : Nat := (s.mem.read (s.frameRec part i)).toNat
/-- A frame's record is written whole (R384). -/
def State.setFrame (s : State) (part i state flags pte binding : Nat) : State :=
  s.engineWrite (s.frameRec part i) 32 (state + flags * 2 ^ 8 + pte * 2 ^ 64 + binding * 2 ^ 128)

/-- A free frame; which one is unspecified (R385). -/
def State.freeFrame (s : State) (part : Nat) : Option Nat :=
  let n := s.frameCount part
  let k := (Config.freeWord s.fresh 900).toNat % Nat.max 1 n
  (((idxFrom k n).map (· % Nat.max 1 n)).find? fun i => s.frameState part i == 0)

/-- The SSD, namespace slot and page number of a non-resident entry (R375). -/
def entrySsd (e : Nat) : Nat := bitsOf e 8 3
def entryNs (e : Nat) : Nat := bitsOf e 11 4
def entryPlba (e : Nat) : Nat := bitsOf e 16 48

/-- The namespace ID that an entry's namespace slot holds (R380). -/
def State.nsidOf (s : State) (e : Nat) : Nat := s.mfield (0x1008 + 0x100 * entrySsd e + 8 * entryNs e) 0 32

/-- The first LBA of an entry's 64 KiB (R382): PLBA × 16 of 4 KiB LBAs, × 128 of 512 B ones. -/
def State.entryLba (s : State) (e : Nat) : Nat :=
  entryPlba e * (if s.mfield (0x1008 + 0x100 * entrySsd e + 8 * entryNs e) 33 1 = 1 then 16 else 128)

/-- The logical blocks of an entry's 64 KiB (R382). -/
def State.entryLbas (s : State) (e : Nat) : Nat :=
  if s.mfield (0x1008 + 0x100 * entrySsd e + 8 * entryNs e) 33 1 = 1 then 16 else 128

/-- The Read, or the Write with FUA = 1, of an entry's page (R382). -/
def State.ssdIo (s : State) (e : Nat) (write : Bool) : State :=
  { s with wire := s.wire ++ [.ssdIo (entrySsd e) (s.nsidOf e) (s.entryLba e) (s.entryLbas e) write write] }

/-- A free frame is taken for a read, which goes to the SSD: READING, FFREE falls, and a TYPE 3 record when it reaches
LOWWATER (R381, R385). -/
def State.takeFrame (s : State) (part i pte binding : Nat) : State :=
  let s := s.ssdIo binding false
  let free := s.mfield (0x420 + 0x40 * part) 0 24
  let s := (s.setFrame part i 1 0 pte binding).setMfield (0x420 + 0x40 * part) 0 24 (free - 1)
  if free - 1 = s.mfield (0x418 + 0x40 * part) 0 24 then s.faultRecord part 3 0 0 0 0 (free - 1) 0 else s

/-- A read that waits for a frame takes one when it can (R385). -/
def State.giveFrames (s : State) (part : Nat) : State :=
  s.reads.foldl (fun s r =>
    if r.part = part && r.frame.isNone then
      match s.freeFrame part with
      | some i =>
        let s := s.takeFrame part i r.pte r.entry
        { s with reads := s.reads.map fun x => if x.id == r.id then { x with frame := some i } else x }
      | none => s
    else s) s

/-- A frame is freed (R385, R386). -/
def State.dropFrame (s : State) (part i : Nat) : State :=
  ((s.setFrame part i 0 0 0 0).setMfield (0x420 + 0x40 * part) 0 24 (s.mfield (0x420 + 0x40 * part) 0 24 + 1)).giveFrames part

/-- The binding of an entry holds (R382). -/
def State.bound (s : State) (part e : Nat) : Bool :=
  s.mfield (0x1000 + 0x100 * entrySsd e) 8 3 == part && s.mfield (0x1008 + 0x100 * entrySsd e + 8 * entryNs e) 32 1 == 1

/-- The SSD of an entry is present and ready (R380). -/
def State.ssdUp (s : State) (ssd : Nat) : Bool := s.mfield (0x1000 + 0x100 * ssd) 0 2 == 3

/-- A SPREF no longer waits for a page; a failed read is its fault at the page's offset (R265). -/
def AsyncOp.pageDone (o : AsyncOp) (pte : Nat) (failed : Bool) : AsyncOp :=
  let off := ((o.pages.find? fun p => p.1 == pte).map (·.2)).getD 0
  if o.pages.any fun p => p.1 == pte then
    { o with pages := o.pages.filter fun p => p.1 != pte,
             fault := if failed then (match o.fault with
               | some (x, k) => some (Nat.min x off, k)
               | none => some (off, 8)) else o.fault }
  else o

/-- The blocks that wait for a page are eligible again, with the failure to raise if there is one (R277, R280); one that is
still on its core is evicted first. -/
def State.wakeBlocks (s : State) (pte : Nat) (err : Option Nat) : State :=
  let wake := fun (b : Block) =>
    if b.page = some pte then
      { b with page := none, readErrs := b.readErrs ++
          (err.map fun k => { page := b.faulter.2.2 / 65536, sub := k, task := b.faulter.1, op := b.faulter.2.1 : ReadErr }).toList }
    else b
  { s with blocks := s.blocks.map wake,
           devWaits := s.devWaits.map fun w => if w.pte = pte && w.go.isNone then { w with go := some err.isNone } else w }

/-- What waits for a page goes on (R277, R280); prefetches of the page are served (R265, R279). -/
def State.wakePage (s : State) (pte : Nat) (err : Option Nat) : State :=
  let s := s.wakeBlocks pte err
  { s with tasks := s.tasks.map fun t => { t with cops := t.cops.map fun o => o.pageDone pte err.isSome } }

/-- A read that fails: a TYPE 1 record, and the blocks that wait raise STORAGE (R280, R385). -/
def State.failRead (s : State) (part pte entry va launch core sub : Nat) : State :=
  (s.faultRecord part 1 sub core launch va (entryPlba entry) (entrySsd entry)).wakePage pte (some sub)

/-- An access starts the read of a page that is away (R385): BUSY is set, where the entry has not changed since the walk,
and a frame taken; where a read or a reclaim is in progress it waits for that one (R279). -/
def State.startRead (s : State) (part pte entry va launch core : Nat) : State :=
  if bitsOf entry 5 1 = 1 || s.reads.any (fun r => r.pte == pte) then s
  else if !(s.bound part entry) then s.failRead part pte entry va launch core 4
  else if !(s.ssdUp (entrySsd entry)) then s.failRead part pte entry va launch core 3
  else match s.swapEntry pte entry (entry + 32) with
    | (s, false) => s
    | (s, true) =>
      let r : SsdRead := { id := s.uid, part := part, pte := pte, entry := entry, frame := none, va := va, launch := launch,
                           core := core }
      let s := { s with uid := s.uid + 1 }
      match s.freeFrame part with
      | some i => { s.takeFrame part i pte entry with reads := s.reads ++ [{ r with frame := some i }] }
      | none =>
        let first := !(s.reads.any fun x => x.part == part && x.frame.isNone)
        let s := if first then s.faultRecord part 4 0 0 0 0 0 0 else s
        { s with reads := s.reads ++ [r] }

/-- An access of an instruction, or of the copy `op`, reaches a page that is away (R277): the read starts, and the block,
with its whole span, stops to be evicted. Where the entry has changed since the walk, the access walks again (R385). -/
def State.pageFault (s : State) (t : Task) (va pte entry : Nat) (op : Option Nat) : State :=
  let core := s.coreOf t
  match s.blockOf t with
  | none => s
  | some b =>
    if s.mem.field pte 8 != entry then s.tlbDrop t.part (fun e => e.pte == pte) fun _ => false
    else
      let stop := fun (x : Block) =>
        if x.uid == b.uid then { x with page := some pte, faulter := (t.uid, op, va), held := true }
        else if x.span == b.span then { x with held := true } else x
      let s := { s with blocks := s.blocks.map stop }
      s.startRead t.part pte entry va t.launch core

end Sys2Proof.Machine
end

