-- ==== Sys2Proof/Machine/Issue.lean ====
section
/-! DEFINITION. Issuing: when a stream may issue (R15, R298, R390), the class check (R112), and what a stop of an
instruction leaves (R135, R145, R277). -/
namespace Sys2Proof.Machine

/-- The block of a task is resident (R26, R27). -/
def State.resident (s : State) (t : Task) : Bool :=
  match s.blockOf t with
  | some b => b.st == .resident && !b.held
  | none => false

/-- The task's matrix stream issues nothing while it follows an MMAP (R249). -/
def State.follows (s : State) (t : Task) : Bool := s.tasks.any fun x => x.mops.any fun o => o.follower == some t.uid

/-- The scratch ways of a core in ascending order (R87). -/
def scratchWays (scrway : Word) : List Nat := (upto 16).filter fun w => scrway.getLsbD w

/-- The way that holds a core offset (R87). -/
def wayOf (scrway : Word) (c : Nat) : Option Nat := (scratchWays scrway)[c / 49152]?

/-- The ways whose bits two SCRWAY values give differently (R88). -/
def waysChanged (old new : Word) : List Nat := (upto 16).filter fun w => old.getLsbD w != new.getLsbD w

/-- A footprint in flight on the core, of a task whose block is there, touches a way whose bit a SCRWAY write would change
(R88). -/
def State.waysBusy (s : State) (core : Nat) (new : Word) : Bool :=
  let old := (s.core core).scrway
  let ch := waysChanged old new
  s.tasks.any fun t => s.coreOf t == core && (s.blockOf t).any (fun b => b.st == .resident) &&
    (t.mops ++ t.cops).any fun o => o.foot.any fun f =>
    match f.sp with
    | .scr u => match s.block? u with
      | some b => b.core == core && b.st == .resident && decide (f.lo < f.hi) &&
        (idxFrom ((b.base + f.lo) / 49152) ((b.base + f.hi - 1) / 49152 + 1 - (b.base + f.lo) / 49152)).any fun i =>
          match (scratchWays old)[i]? with
          | some w => ch.contains w
          | none => false
      | none => false
    | _ => false

/-- The operations that run on the matrix array (R223). -/
def onArray (i : Instr) : Bool :=
  match i with
  | .mma .. | .mmap .. | .mmasFull .. | .mmasTri .. => true
  | _ => false

/-- The cycles that an operation occupies the array: 128 for the 6-bit formats (R246), 64 for each pass of an MMAS (R74). -/
def arrayCycles (i : Instr) : Nat :=
  let six := fun (f : Nat) => f == 6 || f == 7
  match i with
  | .mma _ _ _ _ _ _ fa fb _ | .mmap _ _ _ _ _ _ fa fb _ => if six fa.toNat || six fb.toNat then 128 else 64
  | .mmasFull _ _ _ n _ _ => 64 * (n.toNat * n.toNat)
  | .mmasTri _ _ _ n _ _ => 64 * (n.toNat * (n.toNat + 1) / 2)
  | _ => 0

/-- The cores whose arrays an operation of a task takes: the follower's too for an MMAP (R249). -/
def State.opCores (s : State) (t : Task) (o : AsyncOp) : List Nat :=
  s.coreOf t :: ((o.follower.bind s.task?).map s.coreOf).toList

/-- Something that became ready for the array of a core still waits for it or runs on it: a VXM of a stream that is not
halted, or an operation, which a halted block's streams leave behind (R28). -/
def State.arrayLive (s : State) (core : Nat) (e : Nat × Option Nat) : Bool :=
  match s.task? e.1 with
  | none => false
  | some t => match e.2 with
    | none => s.resident t && s.coreOf t == core && t.str.v.status == .waiting .array
    | some id => (s.blockOf t).any (fun b => b.st == .resident) &&
        t.mops.any fun o => o.id == id && (s.opCores t o).contains core

/-- The array of a core is for an operation or a VXM now: nothing that became ready earlier is left (R223, R235). -/
def State.arrayTurn (s : State) (core : Nat) (e : Nat × Option Nat) : Bool :=
  match (s.core core).arrayQ.find? (s.arrayLive core) with
  | none => true
  | some h => h == e

/-- An operation or a VXM has become ready for the array of a core. -/
def State.joinArray (s : State) (core : Nat) (e : Nat × Option Nat) : State :=
  let x := s.core core
  if x.arrayQ.contains e && s.arrayLive core e then s
  else s.setCore core { x with arrayQ := (x.arrayQ.filter fun p => s.arrayLive core p && p != e) ++ [e] }

/-- A stream waits on a condition of the committed state (R298). -/
def StreamSt.blocked (st : StreamSt) : Bool :=
  match st.status with
  | .waiting w => match w with
    | .sem _ _ | .phase _ _ | .spanPhase _ _ | .arrive _ _ | .spanArrive _ _ | .slots => true
    | _ => false
  | _ => false

/-- A wait on a condition of the committed state that needs no grant is over: that of an arrival once a completion has
said so, that for a phase once the phase has changed. -/
def State.phaseOver (s : State) (t : Task) : Wait → Bool
  | .arrive _ ended | .spanArrive _ ended => ended
  | .phase ba par => match s.blockOf t with
    | some b => (nth b.bars ba .init).phase.getLsbD 0 != par
    | none => false
  | .spanPhase sa par => match (s.blockOf t).bind fun b => s.span? b.span with
    | some p => (nth p.sbars sa .init).phase.getLsbD 0 != par
    | none => false
  | _ => false

/-- A stream issues nothing more before the next commit (R298): it has ended, is halted, is at its quantum end, or waits on
the committed state. -/
def State.spent (s : State) (t : Task) (k : StreamId) : Bool :=
  let st := t.st k
  st.status == .ended || st.status == .halted || st.qend || match st.status with
    | .waiting w => st.blocked && !(s.phaseOver t w)
    | _ => false

/-- In a deterministic launch an OCLM is decided in commit order (R302): the tasks of the launch on the core that go before
this one can claim nothing more before the next commit (log 70). -/
def State.claimTurn (s : State) (t : Task) : Bool :=
  s.tasks.all fun x => x.launch != t.launch || s.coreOf x != s.coreOf t ||
    decide (s.bidOf t * 32 + t.taskId ≤ s.bidOf x * 32 + x.taskId) ||
    (!x.dbgHalt && (x.tmode || x.pend.isEmpty) && allStreams.all fun k => s.spent x k)

/-- The wait of a stream is over (R15): its instruction may be tried again. Waits on a semaphore, on slots, on a
page, on a commit and for cycles end by the step that grants them. -/
def State.waitOver (s : State) (t : Task) (k : StreamId) : Wait → Bool
  | .sem _ _ | .slots | .page | .commit | .cycles _ => false
  | .arrive ba e => s.phaseOver t (.arrive ba e)
  | .spanArrive sa e => s.phaseOver t (.spanArrive sa e)
  | .phase ba par => s.phaseOver t (.phase ba par)
  | .spanPhase sa par => s.phaseOver t (.spanPhase sa par)
  | .turn => s.claimTurn t
  | .cwait ops => !(t.cops.any fun o => ops.contains o.id)
  | .queue pops pushes =>
    (pops.all fun q => !(nth t.vqs q []).isEmpty) && pushes.all fun q => decide ((nth t.vqs q []).length < 8)
  | .outside b n => !((s.core (s.coreOf t)).owners.any fun p => decide (b ≤ p.1) && decide (p.1 < b + n))
  | .engine => if k = .m then decide (t.mops.length < 8) else decide (t.cops.length < 64)
  | .hazard ops => !(t.mops.any fun o => ops.contains o.id) && !(t.cops.any fun o => ops.contains o.id)
  | .manifest => s.ring.loaded
  | .pixels die n => decide ((s.pxw.filter fun p => p.die == die).length + n ≤ 4096)
  | .lanes => !(s.pxw.any fun p => p.task == t.uid)
  | .record id cap => match s.nodes.find? fun n => n.id == id with
    | some n => decide (n.recs.length + n.held < cap)
    | none => true
  | .ways new => !(s.waysBusy (s.coreOf t) new)
  | .score => t.sb.isEmpty
  | .array => s.arrayTurn (s.coreOf t) (t.uid, none)

/-- A stream may issue its instruction: its task is resident and not stopped by the debug agent, no delivered trap is
pending outside trap mode (R390), its state lets it, and in a deterministic launch it is not at its quantum end
(R298). -/
def State.canIssue (s : State) (t : Task) (k : StreamId) : Bool :=
  s.resident t && !t.dbgHalt && (t.tmode || t.pend.isEmpty) && !(k == .m && s.follows t) && !(t.st k).qend &&
  match (t.st k).status with
  | .ready => !t.tmode
  | .trap => true
  | .waiting w => s.waitOver t k w
  | _ => false

/-- What a stop of the instruction at the stream's program counter leaves: the trap is taken, the stream waits, or the
block or span is evicted. A STORAGE trap consumes the failure that it reports: a later access tries the read again
(R280). -/
def State.stopped (s : State) (t : Task) (k : StreamId) : Stop → State
  | .trap r =>
    let s := if r.cls = clsStorage then (match s.blockOf t with
      | some b => s.setBlock { b with readErrs := b.readErrs.filter fun x =>
          !(x.task == t.uid && x.op.isNone && x.page == r.info.toNat / 65536) }
      | none => s) else s
    s.takeTrap t k (t.st k).pc false 0 r
  | .wait w =>
    let s := s.stall t k w
    if w = .array then s.joinArray (s.coreOf t) (t.uid, none) else s
  | .page va pte e => s.pageFault t va pte e none

/-- An instruction of the stream in focus: nothing issues where no stream may; a class that the stream does not execute
raises ILLEGAL, sub-code CLASS (R112); otherwise its meaning runs and its stop, if any, is taken. -/
def issue (cls : InstrClass) (s : State) (f : Task → StreamId → Except Stop State) : Out State Fault Refusal :=
  match s.focus with
  | none => .next s
  | some fc =>
    match s.task? fc.task with
    | none => .next s
    | some t =>
      if !(s.canIssue t fc.k) then .next s
      else if !(cls.runsOn fc.k) then .next (s.stopped t fc.k (.trap { cls := clsIllegal, sub := 3 }))
      else
        match f t fc.k with
        | .ok s' => .next s'
        | .error e => .next (s.stopped t fc.k e)

end Sys2Proof.Machine
end

