-- ==== Sys2Proof/Machine/Operands.lean ====
section
/-! DEFINITION. The operand forms of the 32-bit class (R136 to R144): register, pair and immediate results, branch
targets, effective addresses, and the checks of one access in the order of R93, R145 and R109. -/
namespace Sys2Proof.Machine

/-! ## Results in a register or a pair -/

/-- An instruction of the 32-bit class that changes only its own stream. -/
def streamOp (cls : InstrClass) (f : StreamSt → StreamSt) (s : State) : Out State Fault Refusal :=
  issue cls s fun t k => .ok (s.retire t k (f (t.st k)))

/-- d := f(a, b) (R137). -/
def opR (d a b : BitVec 5) (f : Word → Word → Word) (s : State) : Out State Fault Refusal :=
  streamOp .scalar (fun st => st.setReg d (f (st.reg a) (st.reg b))) s

/-- D := f(A, B) on pairs (R137). -/
def opP (d a b : BitVec 4) (f : Dword → Dword → Dword) (s : State) : Out State Fault Refusal :=
  streamOp .scalar (fun st => st.setPair d (f (st.pair a) (st.pair b))) s

/-- D := f(A, b): a pair and a register (R137). -/
def opPR (d a : BitVec 4) (b : BitVec 5) (f : Dword → Word → Dword) (s : State) : Out State Fault Refusal :=
  streamOp .scalar (fun st => st.setPair d (f (st.pair a) (st.reg b))) s

/-- d := f(a, sext(imm14)) (R139). -/
def opI (d a : BitVec 5) (i : BitVec 14) (f : Word → Word → Word) (s : State) : Out State Fault Refusal :=
  streamOp .scalar (fun st => st.setReg d (f (st.reg a) (i.signExtend 32))) s

/-- d := f(a, count) (R139). -/
def opC (d a i : BitVec 5) (f : Word → Nat → Word) (s : State) : Out State Fault Refusal :=
  streamOp .scalar (fun st => st.setReg d (f (st.reg a) i.toNat)) s

/-! ## Branches -/

/-- PC + 4 × sext(off) (R140 to R143). -/
def pcRel {w : Nat} (pc : Dword) (off : BitVec w) : Dword := pc + 4 * off.signExtend 64

/-- A conditional branch (R141). -/
def opB (a b : BitVec 5) (o : BitVec 14) (c : Word → Word → Bool) (s : State) : Out State Fault Refusal :=
  issue .scalar s fun t k =>
    let st := t.st k
    .ok (if c (st.reg a) (st.reg b) then s.branch t k st (pcRel st.pc o) else s.retire t k st)

/-! ## Addresses and access checks -/

/-- The effective address (A + sext(imm14)) mod 2^64 (R144). -/
def StreamSt.ea (st : StreamSt) (a : BitVec 4) (i : BitVec 14) : Nat := (st.pair a + i.signExtend 64).toNat

/-- The queued stores that a stream's accesses come after: its own, or in a deterministic launch the task's (R96,
R300). -/
def Task.ahead (t : Task) (k : StreamId) : List QEntry := if t.det then t.allQueued else (t.st k).queue

/-- The granules that stores of a queue cover whole (R108). -/
def clearedBy (q : List QEntry) : List Loc := q.flatMap fun e =>
  (wholeGranules e.eff.bytes).filter fun g => match e.eff with
    | .copied _ bad => !(bad.contains g)
    | _ => true

/-- The granules that the stores of a queue, and outside deterministic launches those on the core's path, cover whole: their
poison is gone for the task (R108). -/
def State.clearFor (s : State) (t : Task) (q : List QEntry) : List Loc :=
  clearedBy q ++ if t.det then [] else s.pathClears (s.coreOf t)

/-- The checks of one access of `n` bytes: MEMORY, then a storage page that is away, then POISON (R93, R109, R145,
R277); `rd` and `wr` say whether it reads and writes, `ro` that it takes the read-only path, which finds no queued store
(R105). -/
def State.check (s : State) (t : Task) (k : StreamId) (va n al : Nat) (rd wr : Bool) (ro : Bool := false) : Except Stop Unit :=
  let a := t.accessor s
  match s.badRange a va n al wr with
  | some (sub, ad) => trapWith clsMemory sub ad
  | none =>
    match s.awayRange a va n wr with
    | some (v, pte, e) => .error (s.awayStop t v pte e)
    | none =>
      match s.poisonRange a va n (!rd) (if ro then [] else s.clearFor t (t.ahead k)) with
      | some (sub, ad) => trapWith clsPoison sub ad
      | none => .ok ()

/-- A pixel lane of the stream has not been performed (R219): a release waits for it. -/
def State.lanesPending (s : State) (t : Task) (k : StreamId) : Bool := k == .v && s.pxw.any fun p => p.task == t.uid

/-- FENCE.rel at a scope (R99, R219): the stream's stores are performed at it; pixel lanes of the stream must have been
performed. -/
def State.release (s : State) (t : Task) (k : StreamId) (scope : Scope) : Except Stop (State × Task) :=
  if s.lanesPending t k then .error (.wait .lanes) else .ok (s.perform t k scope)

/-- FENCE.acq at a scope (R90, R99): at .span or wider the core's L1 is invalidated. Every load has its value when it
retires. -/
def State.acquire (s : State) (t : Task) (scope : Scope) : State :=
  if t.det then s else if scope.code < 2 then s else s.l1Clear (s.coreOf t)

/-! ## Read-modify-writes -/

/-- The value a read-modify-write leaves (R69, R147, R261): `n` bytes wide. -/
def atomVal (op : AtomOp) (n old v : Nat) : Nat :=
  let w := 8 * n
  let sgn := fun (x : Nat) => (BitVec.ofNat w x).toInt
  let minMax := fun (f : Fmt) (max : Bool) => (fMinMax f max (f.decode old) (f.decode v)).bits
  match op with
  | .add => (old + v) % 2 ^ w
  | .minI => if sgn v < sgn old then v else old
  | .maxI => if sgn old < sgn v then v else old
  | .minB => Nat.min old v
  | .maxB => Nat.max old v
  | .and => old &&& v
  | .or => old ||| v
  | .xor => old ^^^ v
  | .exch => v
  | .addF32 => fAtomAdd .f32 old v
  | .addB16 => fAtomAdd .bf16 old v
  | .minF b => minMax (atomFmt b) false
  | .maxF b => minMax (atomFmt b) true
where
  atomFmt (b : Bool) : Fmt := if b then .bf16 else .f32

/-- A read-modify-write at its home, behind the core's earlier stores to its slots: the old value (R102). It acts when it is
performed, so that those of one stream arrive in program order (R69; log 86). -/
def State.applyRmw (s : State) (core : Nat) (r : Rmw) : State × Nat :=
  let s := s.landAt core r.locs
  let n := r.locs.length
  let old := leNat (s.readLocs r.locs)
  ((s.applyBytes (r.locs.zip (natLe n (atomVal r.op n old r.val)))).l1Drop core r.locs, old)

/-- A compare-and-swap at its home: the old value (R148). -/
def State.applyCas (s : State) (core : Nat) (c : Cas) : State × Nat :=
  let s := s.landAt core c.locs
  let n := c.locs.length
  let old := leNat (s.readLocs c.locs)
  (if old = c.cmp then (s.applyBytes (c.locs.zip (natLe n c.new))).l1Drop core c.locs else s.l1Drop core c.locs, old)

/-- The result of a returning operation reaches its register (R301). -/
def StreamSt.putRet (st : StreamSt) (r : RetTo) (v : Nat) : StreamSt :=
  match r with
  | .sreg d => st.setReg d (BitVec.ofNat 32 v)
  | .pair d => st.setPair d (BitVec.ofNat 64 v)
  | _ => st

/-- A buffered effect of a deterministic launch: it enters the buffer, and after a returning operation the stream is at
its quantum end (R298, R300, R301). -/
def State.buffer (s : State) (t : Task) (k : StreamId) (e : Eff) (returning : Bool) (len : Nat := 1) : State :=
  let pc := (t.st k).pc
  let (s, t) := s.push t k pc e
  let st := t.st k
  s.retire t k { st with qend := st.qend || returning } len

end Sys2Proof.Machine
end

