-- ==== Sys2Proof/Machine/Access.lean ====
section
/-! DEFINITION. Scalar memory access (R144 to R146), atomics (R147, R148) and fences (R99, R155). -/
namespace Sys2Proof.Machine

/-! ## Loads and stores -/

/-- A scalar load of `n` bytes (R144, R145): `put` writes the value. A read-only load of global memory takes the
read-only path; of a window it is an ordinary load (R146). -/
def loadOp (a : BitVec 4) (i : BitVec 14) (n : Nat) (ro : Bool) (put : StreamSt → Nat → StreamSt) (s : State) :
    Out State Fault Refusal :=
  issue .scalar s fun t k => do
    let va := (t.st k).ea a i
    s.check t k va n n true false (ro && !inWindow va)
    let acc := t.accessor s
    let ls := s.locs acc va n false
    if ro && !inWindow va then
      return (s.tlbFillRange acc va n).retire t k (put (t.st k) (leNat (ls.map (s.roByte t k))))
    else
      let v := leNat (s.loadBytes t k ls)
      let (s, t) := s.afterLoad t k va n ls
      return s.retire t k (put (t.st k) v)

/-- A scalar store of `n` bytes (R144, R145): it enters the stream's store queue (R96). -/
def storeOp (a : BitVec 4) (i : BitVec 14) (n : Nat) (val : StreamSt → Nat) (s : State) : Out State Fault Refusal :=
  issue .scalar s fun t k => do
    let st := t.st k
    let va := st.ea a i
    s.check t k va n n false true
    let acc := t.accessor s
    let (s, t) := (s.tlbFillRange acc va n).push t k st.pc (.store [(s.locs acc va n true).zip (natLe n (val st))])
    return s.retire t k (t.st k)

/-- LD.b8 (R144). -/
def execLdB8 (d : BitVec 5) (a : BitVec 4) (i : BitVec 14) (s : State) : Out State Fault Refusal :=
  loadOp a i 1 false (fun st v => st.setReg d (BitVec.ofNat 32 v)) s
/-- LD.i8 (R144). -/
def execLdI8 (d : BitVec 5) (a : BitVec 4) (i : BitVec 14) (s : State) : Out State Fault Refusal :=
  loadOp a i 1 false (fun st v => st.setReg d ((BitVec.ofNat 8 v).signExtend 32)) s
/-- LD.b16 (R144). -/
def execLdB16 (d : BitVec 5) (a : BitVec 4) (i : BitVec 14) (s : State) : Out State Fault Refusal :=
  loadOp a i 2 false (fun st v => st.setReg d (BitVec.ofNat 32 v)) s
/-- LD.i16 (R144). -/
def execLdI16 (d : BitVec 5) (a : BitVec 4) (i : BitVec 14) (s : State) : Out State Fault Refusal :=
  loadOp a i 2 false (fun st v => st.setReg d ((BitVec.ofNat 16 v).signExtend 32)) s
/-- LD.w (R144). -/
def execLdW (d : BitVec 5) (a : BitVec 4) (i : BitVec 14) (s : State) : Out State Fault Refusal :=
  loadOp a i 4 false (fun st v => st.setReg d (BitVec.ofNat 32 v)) s
/-- LD.d (R144). -/
def execLdD (d : BitVec 4) (a : BitVec 4) (i : BitVec 14) (s : State) : Out State Fault Refusal :=
  loadOp a i 8 false (fun st v => st.setPair d (BitVec.ofNat 64 v)) s
/-- ST.b8 (R144). -/
def execStB8 (d : BitVec 5) (a : BitVec 4) (i : BitVec 14) (s : State) : Out State Fault Refusal :=
  storeOp a i 1 (fun st => (st.reg d).toNat) s
/-- ST.b16 (R144). -/
def execStB16 (d : BitVec 5) (a : BitVec 4) (i : BitVec 14) (s : State) : Out State Fault Refusal :=
  storeOp a i 2 (fun st => (st.reg d).toNat) s
/-- ST.w (R144). -/
def execStW (d : BitVec 5) (a : BitVec 4) (i : BitVec 14) (s : State) : Out State Fault Refusal :=
  storeOp a i 4 (fun st => (st.reg d).toNat) s
/-- ST.d (R144). -/
def execStD (d : BitVec 4) (a : BitVec 4) (i : BitVec 14) (s : State) : Out State Fault Refusal :=
  storeOp a i 8 (fun st => (st.pair d).toNat) s
/-- LDRO.w (R146). -/
def execLdroW (d : BitVec 5) (a : BitVec 4) (i : BitVec 14) (s : State) : Out State Fault Refusal :=
  loadOp a i 4 true (fun st v => st.setReg d (BitVec.ofNat 32 v)) s
/-- LDRO.d (R146). -/
def execLdroD (d : BitVec 4) (a : BitVec 4) (i : BitVec 14) (s : State) : Out State Fault Refusal :=
  loadOp a i 8 true (fun st v => st.setPair d (BitVec.ofNat 64 v)) s

/-! ## Atomics -/

/-- The operand value of an atomic: s_b, or the pair that starts there (R147). -/
def StreamSt.wideVal (st : StreamSt) (b : BitVec 5) (wide : Bool) : Nat :=
  if wide then (st.pair (b.extractLsb' 1 4)).toNat else (st.reg b).toNat

/-- The destination of a returned old value (R147). -/
def atomDest (d : BitVec 5) (ret wide : Bool) : RetTo :=
  if !ret then .none else if wide then .pair (d.extractLsb' 1 4) else .sreg d

/-- ATOM (R102, R147): FENCE.rel, the read-modify-write at its home, FENCE.acq; in a deterministic launch it is
buffered (R300, R301). -/
def atomOp (op : AtomOp) (d : BitVec 5) (a : BitVec 4) (b : BitVec 5) (ret : Bool) (scope : Scope) (wide : Bool)
    (s : State) : Out State Fault Refusal :=
  issue .scalar s fun t k => do
    let st := t.st k
    let n := if wide then 8 else 4
    let va := (st.pair a).toNat
    s.check t k va n n true true
    let acc := t.accessor s
    let r : Rmw := { locs := s.locs acc va n true, op := op, val := st.wideVal b wide, ret := atomDest d ret wide }
    let s := s.tlbFillRange acc va n
    if t.det then return s.buffer t k (.atom [r]) ret
    else
      let (s, t) ← s.release t k scope
      let (s, old) := s.applyRmw acc.core r
      return (s.acquire t scope).retire t k ((t.st k).putRet r.ret old)

/-- ATOMCAS (R102, R148): the old value is always returned. -/
def casOp (ret : RetTo) (a : BitVec 4) (n : Nat) (cmp new : StreamSt → Nat) (scope : Scope) (s : State) :
    Out State Fault Refusal :=
  issue .scalar s fun t k => do
    let st := t.st k
    let va := (st.pair a).toNat
    s.check t k va n n true true
    let acc := t.accessor s
    let c : Cas := { locs := s.locs acc va n true, cmp := cmp st, new := new st, ret := ret }
    let s := s.tlbFillRange acc va n
    if t.det then return s.buffer t k (.cas [c]) true
    else
      let (s, t) ← s.release t k scope
      let (s, old) := s.applyCas acc.core c
      return (s.acquire t scope).retire t k ((t.st k).putRet ret old)

/-- ATOM add (R147). -/
def execAtomAdd (d : BitVec 5) (a : BitVec 4) (b : BitVec 5) (ret : Bool) (scope : Scope) (wide : Bool) (s : State) :
    Out State Fault Refusal := atomOp .add d a b ret scope wide s
/-- ATOM min, signed (R147). -/
def execAtomMinI (d : BitVec 5) (a : BitVec 4) (b : BitVec 5) (ret : Bool) (scope : Scope) (wide : Bool) (s : State) :
    Out State Fault Refusal := atomOp .minI d a b ret scope wide s
/-- ATOM max, signed (R147). -/
def execAtomMaxI (d : BitVec 5) (a : BitVec 4) (b : BitVec 5) (ret : Bool) (scope : Scope) (wide : Bool) (s : State) :
    Out State Fault Refusal := atomOp .maxI d a b ret scope wide s
/-- ATOM min, unsigned (R147). -/
def execAtomMinB (d : BitVec 5) (a : BitVec 4) (b : BitVec 5) (ret : Bool) (scope : Scope) (wide : Bool) (s : State) :
    Out State Fault Refusal := atomOp .minB d a b ret scope wide s
/-- ATOM max, unsigned (R147). -/
def execAtomMaxB (d : BitVec 5) (a : BitVec 4) (b : BitVec 5) (ret : Bool) (scope : Scope) (wide : Bool) (s : State) :
    Out State Fault Refusal := atomOp .maxB d a b ret scope wide s
/-- ATOM and (R147). -/
def execAtomAnd (d : BitVec 5) (a : BitVec 4) (b : BitVec 5) (ret : Bool) (scope : Scope) (wide : Bool) (s : State) :
    Out State Fault Refusal := atomOp .and d a b ret scope wide s
/-- ATOM or (R147). -/
def execAtomOr (d : BitVec 5) (a : BitVec 4) (b : BitVec 5) (ret : Bool) (scope : Scope) (wide : Bool) (s : State) :
    Out State Fault Refusal := atomOp .or d a b ret scope wide s
/-- ATOM xor (R147). -/
def execAtomXor (d : BitVec 5) (a : BitVec 4) (b : BitVec 5) (ret : Bool) (scope : Scope) (wide : Bool) (s : State) :
    Out State Fault Refusal := atomOp .xor d a b ret scope wide s
/-- ATOM exch (R147). -/
def execAtomExch (d : BitVec 5) (a : BitVec 4) (b : BitVec 5) (ret : Bool) (scope : Scope) (wide : Bool) (s : State) :
    Out State Fault Refusal := atomOp .exch d a b ret scope wide s
/-- ATOM add.f32 (R69, R147). -/
def execAtomAddF32 (d : BitVec 5) (a : BitVec 4) (b : BitVec 5) (ret : Bool) (scope : Scope) (s : State) :
    Out State Fault Refusal := atomOp .addF32 d a b ret scope false s
/-- ATOMCAS, 32 bits (R148). -/
def execAtomcasB32 (d : BitVec 5) (a b : BitVec 4) (scope : Scope) (s : State) : Out State Fault Refusal :=
  casOp (.sreg d) a 4 (fun st => (st.reg (pairLo b)).toNat) (fun st => (st.reg (pairHi b)).toNat) scope s
/-- ATOMCAS, 64 bits (R148): compare in the pair 4b, new in the pair 4b + 2. -/
def execAtomcasB64 (d a : BitVec 4) (b : BitVec 3) (scope : Scope) (s : State) : Out State Fault Refusal :=
  casOp (.pair d) a 8 (fun st => (st.pair (b ++ 0#1)).toNat) (fun st => (st.pair (b ++ 1#1)).toNat) scope s

/-! ## Fences -/

/-- FENCE.rel (R99, R219). -/
def execFenceRel (scope : Scope) (s : State) : Out State Fault Refusal :=
  issue .scalar s fun t k => do
    let (s, t) ← s.release t k scope
    return s.retire t k (t.st k)

/-- FENCE.acq (R90, R99). -/
def execFenceAcq (scope : Scope) (s : State) : Out State Fault Refusal :=
  issue .scalar s fun t k => .ok ((s.acquire t scope).retire t k (t.st k))

/-- FENCE.ar (R99). -/
def execFenceAr (scope : Scope) (s : State) : Out State Fault Refusal :=
  issue .scalar s fun t k => do
    let (s, t) ← s.release t k scope
    return (s.acquire t scope).retire t k (t.st k)

/-- FENCE.ro (R99, R105): the store queue is empty, and the stream has a new read-only acquire point: memory as an ordinary
load would see it. -/
def execFenceRo (s : State) : Out State Fault Refusal :=
  issue .scalar s fun t k =>
    let (s, t) := s.drain t k
    .ok (({ s with seq := s.seq + 1 } : State).retire t k { t.st k with ro := s.roPoint (s.coreOf t) })

end Sys2Proof.Machine
end

