-- ==== Sys2Proof/Machine/Arbiter.lean ====
section
/-! DEFINITION. The issue arbiters of a core (R133, R294, R295): one grant, and the record of earlier grants. -/
namespace Sys2Proof.Machine

/-- The priority of a task: PRIO of its launch's packet (R282). -/
def State.prio (s : State) (t : Task) : Nat := ((s.launch? t.launch).map fun l => l.pkt.shape % 8).getD 0

/-- What an arbiter remembers of a task (R295). -/
def CoreSt.arbOf (x : CoreSt) (k : StreamId) (task : Nat) : ArbEnt :=
  (x.arb.find? fun e => e.k == k && e.task == task).getD { k := k, task := task, refused := 0, lastEnd := none }

/-- A stream is READY for its arbiter (R15, R335): it may issue, and no stall count of its task holds it; the run that it
has goes on through a stall. -/
def State.ready (s : State) (t : Task) (k : StreamId) : Bool :=
  s.canIssue t k && !(k == .v && decide (s.now < t.vready) && !(t.st k).granted)

/-- `a` is granted before `b` (R295): 31 refusals, then PRIO, then the earlier last run, then the lower SLOT. Where several
tasks have been refused for 31 run slots, the same order decides among them (log 70). -/
def State.arbBefore (s : State) (x : CoreSt) (k : StreamId) (a b : Task) : Bool :=
  let ea := x.arbOf k a.uid
  let eb := x.arbOf k b.uid
  if decide (31 ≤ ea.refused) != decide (31 ≤ eb.refused) then decide (31 ≤ ea.refused)
  else if s.prio a != s.prio b then decide (s.prio b < s.prio a)
  else
    let la := (ea.lastEnd.map (· + 1)).getD 0
    let lb := (eb.lastEnd.map (· + 1)).getD 0
    if la != lb then decide (la < lb) else decide (a.slot ≤ b.slot)

/-- The first of a list in an order. -/
def bestOf {α : Type} (before : α → α → Bool) : List α → Option α
  | [] => none
  | x :: xs => some (xs.foldl (fun b y => if before y b then y else b) x)

/-- One grant of an arbiter (R295): the stream that holds an unfinished run keeps it; otherwise the chosen task's run
starts, every other READY task counts a refusal, a task that is not READY has not been refused in this run slot, and RUNCNT
counts the run (R338). -/
def State.grantRun (s : State) (core : Nat) (k : StreamId) : State :=
  let ready := s.tasks.filter fun t => s.coreOf t == core && s.ready t k
  match ready.find? fun t => (t.st k).granted with
  | some t => { s with focus := some { task := t.uid, k := k } }
  | none =>
    let x := s.core core
    match bestOf (s.arbBefore x k) ready with
    | none => s
    | some t =>
      let ents := ready.map fun c =>
        let e := x.arbOf k c.uid
        if c.uid == t.uid then { e with refused := 0, lastEnd := some s.fresh } else { e with refused := e.refused + 1 }
      let keep := (x.arb.filter fun e => !(e.k == k && ready.any fun c => c.uid == e.task)).map fun e =>
        if e.k == k then { e with refused := 0 } else e
      let s := s.setCore core { x with arb := ents ++ keep }
      let t := { t with runcnt := t.runcnt + 1 }
      let s := s.setTask (t.setSt k { t.st k with granted := true, run := 0, runVec := false })
      { s with focus := some { task := t.uid, k := k } }

/-- RUN_GRANT (R294, R295): a core's arbiter of one stream kind grants; an unfinished run goes on. -/
def execRunGrant (core : Nat) (k : StreamId) (s : State) : Out State Fault Refusal := .next (s.grantRun core k)

/-- The task has a delivered trap that it may enter now (R390). -/
def State.mayEnter (s : State) (t : Task) : Bool := s.resident t && !t.tmode && !t.dbgHalt && !t.pend.isEmpty

/-- TRAP_ENTRY (R389 to R391): the oldest delivered trap of a task is entered. -/
def execTrapEntry (task : Nat) (s : State) : Out State Fault Refusal :=
  .next (match s.task? task with
    | some t => if s.mayEnter t then s.enterPending t else s
    | none => s)

end Sys2Proof.Machine
end

