-- ==== Sys2Proof/Machine/Sync.lean ====
section
/-! DEFINITION. Semaphores (R16 to R19, R149), block and span barriers (R150 to R154) and CWAIT (R156). -/
namespace Sys2Proof.Machine

/-! ## Semaphores -/

/-- A semaphore's count (R16). -/
def Task.sem (t : Task) (i : Nat) : Nat := nth t.sems i 0
/-- Set a semaphore's count. -/
def Task.setSem (t : Task) (i v : Nat) : Task := { t with sems := t.sems.set i v }

/-- What an operation of a stream that issues now follows: all of its own stream, and of each other stream what handoffs
have ordered before it (R17). -/
def State.seenBy (s : State) (t : Task) (k : StreamId) : List Nat := (t.st k).seen.set k.idx s.seq

/-- A SIG by `n` on a semaphore (R17): what the stream that gives it has issued and follows comes before what the taker of
any of its count issues. -/
def Task.noteSig (t : Task) (i n : Nat) (seen : List Nat) : Task :=
  { t with semSeen := t.semSeen.set i (nth t.semSeen i [] ++ [(n, seen)]) }

/-- `k` units of a semaphore are consumed, those of the earliest SIG first (log 79): what their SIGs order before the taker,
and what is left. -/
def takeFront : Nat → List (Nat × List Nat) → List Nat × List (Nat × List Nat)
  | _, [] => ([0, 0, 0, 0], [])
  | 0, q => ([0, 0, 0, 0], q)
  | k + 1, (n, x) :: q =>
    if n ≤ k + 1 then
      let r := takeFront (k + 1 - n) q
      (if n = 0 then r.1 else List.zipWith Nat.max x r.1, r.2)
    else (x, (n - (k + 1), x) :: q)

/-- A stream takes `n` from a semaphore (R17, R101): what the SIGs whose count it consumes order comes before what the stream
issues next. -/
def Task.takeSeen (t : Task) (i n : Nat) (k : StreamId) : Task :=
  let r := takeFront n (nth t.semSeen i [])
  let st := t.st k
  ({ t with semSeen := t.semSeen.set i r.2 }).setSt k { st with seen := List.zipWith Nat.max st.seen r.1 }

/-- A WAIT takes its count: the count falls and what the SIGs order comes before the stream (R16, R17). -/
def Task.takeSem (t : Task) (i n : Nat) (k : StreamId) : Task := (t.setSem i (t.sem i - n)).takeSeen i n k

/-- The waiting stream's WAIT takes its count and retires. -/
def Task.grantWait (t : Task) (w : SemWait) : Task :=
  let t := { t with semQ := t.semQ.filter fun x => !(x.stream == w.stream) }
  let t := t.takeSem w.sem w.k w.stream
  t.setSt w.stream (t.advance (t.st w.stream) 1)

/-- Waiters of a semaphore are served in the order in which they began; one that cannot be satisfied blocks the later
ones (R16). The fuel is the number of waiters. -/
def Task.serveSem (t : Task) (i : Nat) : Nat → Task
  | 0 => t
  | f + 1 =>
    match t.semQ.find? fun w => w.sem == i with
    | some w => if w.k ≤ t.sem i then (t.grantWait w).serveSem i f else t
    | none => t

/-- A count grows by `k` and its waiters are served; the caller has checked the limit of 255 (R16, R18). The waiters of
a deterministic task test the count that its commit leaves (R300), so that the commit serves them. -/
def Task.addSem (t : Task) (i k : Nat) : Task :=
  let t := t.setSem i (t.sem i + k)
  if t.det then t else t.serveSem i t.semQ.length

/-- The waiters of a task test the committed counts (R300). -/
def Task.serveSems (t : Task) : Task := (upto 16).foldl (fun t i => t.serveSem i t.semQ.length) t

/-- An outstanding operation carries a SIG completion action for the task (R19): one of its own, or an MMAP whose
follower it is (R249; log 84). -/
def State.sigPending (s : State) (t : Task) : Bool :=
  ((t.mops ++ t.cops).any fun o => o.act.sem.isSome) ||
  s.tasks.any fun u => u.mops.any fun o => o.act.sem.isSome && o.follower == some t.uid

/-- A buffered SIG, or SIG action, of a deterministic launch (R19). -/
def Task.sigBuffered (t : Task) : Bool :=
  allStreams.any fun k => (t.st k).queue.any fun e => match e.eff with
    | .sig _ _ _ => true
    | .acts act _ _ _ _ => act.sem.isSome
    | _ => false

/-- A stream waits on a semaphore. -/
def StreamSt.inSem (st : StreamSt) : Bool :=
  match st.status with
  | .waiting (.sem _ _) => true
  | _ => false

/-- The conditions of DEADLOCK (R19). A queued waiter that could be served has been served, so each one waits
unsatisfiably. -/
def State.deadlocked (s : State) (t : Task) : Bool :=
  (allStreams.any fun k => (t.st k).inSem) && (allStreams.all fun k => (t.st k).status == .ended || (t.st k).inSem) &&
  !(s.sigPending t) && !(t.det && t.sigBuffered)

/-- DEADLOCK in the stream that began waiting last (R18, R19). -/
def State.raiseDeadlock (s : State) (t : Task) : State :=
  match t.semQ.getLast? with
  | some w => s.takeTrap t w.stream (t.st w.stream).pc false 0 { cls := clsSem, sub := 3 }
  | none => s

/-- The test of R19 outside deterministic launches, after a wait, an END or a completion. -/
def State.testDeadlock (s : State) (u : Nat) : State :=
  match s.task? u with
  | some t => if !t.det && s.deadlocked t then s.raiseDeadlock t else s
  | none => s

/-- SIG (R149): RANGE and OVERFLOW are precise; in a deterministic launch it is buffered (R300). -/
def execSig (sem : BitVec 5) (k : BitVec 8) (s : State) : Out State Fault Refusal :=
  issue .scalar s fun t j =>
    let i := sem.toNat
    if t.nsems ≤ i then trapWith clsSem 1
    else if t.det then .ok (s.buffer t j (.sig i k.toNat (s.seenBy t j)) false)
    else if 255 < t.sem i + k.toNat then trapWith clsSem 2
    else
      let (s, t) := s.drain t j
      .ok (s.setTask (((t.noteSig i k.toNat (s.seenBy t j)).setSt j (t.advance (t.st j) 1)).addSem i k.toNat))

/-- WAIT (R149): it takes the count at once, or its stream joins the waiters (R16) and R19 is tested. -/
def execWait (sem : BitVec 5) (k : BitVec 8) (s : State) : Out State Fault Refusal :=
  issue .scalar s fun t j =>
    let i := sem.toNat
    if t.nsems ≤ i then trapWith clsSem 1
    else if k.toNat ≤ t.sem i && !(t.semQ.any fun w => w.sem == i) then
      let t := t.takeSem i k.toNat j
      .ok (s.setTask (t.setSt j (t.advance (t.st j) 1)))
    else
      let t := { t with semQ := t.semQ ++ [{ sem := i, stream := j, k := k.toNat }] }
      .ok ((s.stall t j (.sem i k.toNat)).testDeadlock t.uid)

/-! ## Block barriers -/

/-- A barrier of a block. -/
def Block.bar (b : Block) (i : Nat) : BarSt := nth b.bars i .init
/-- Set a barrier of a block. -/
def Block.setBar (b : Block) (i : Nat) (x : BarSt) : Block := { b with bars := b.bars.set i x }

/-- The tasks of a block that have not retired, by TASKID. -/
def State.liveTasks (s : State) (b : Block) : List Nat := (s.tasks.filter fun t => t.block == b.uid).map (·.taskId)

/-- What a phase completion makes of the wait of a stream (R15): a BARW or SBARW that waits for it retires (R153), and an
arrival that waits for it may arrive in the new phase, whoever arrives there first (R151). -/
inductive PhaseEnd where
  | stays
  | retires
  | mayArrive (w : Wait)

/-- What the completion of a phase of a block barrier does to a wait. -/
def barEnd (i : Nat) : Wait → PhaseEnd
  | .phase j _ => if j = i then .retires else .stays
  | .arrive j _ => if j = i then .mayArrive (.arrive j true) else .stays
  | _ => .stays

/-- What the completion of a phase of a span barrier does to a wait. -/
def sbarEnd (i : Nat) : Wait → PhaseEnd
  | .spanPhase j _ => if j = i then .retires else .stays
  | .spanArrive j _ => if j = i then .mayArrive (.spanArrive j true) else .stays
  | _ => .stays

/-- The streams of a task meet the completion of a phase (R15, R151, R153). -/
def Task.endWaits (t : Task) (w : Wait → PhaseEnd) : Task :=
  allStreams.foldl (fun t k =>
    let st := t.st k
    match st.status with
    | .waiting x => match w x with
      | .stays => t
      | .retires => t.setSt k (t.advance st 1)
      | .mayArrive y => t.setSt k { st with status := .waiting y }
    | _ => t) t

/-- Phase completion (R152): every task that has not retired has arrived and the balance is 0. The waits for it end. -/
def State.testBar (s : State) (u i : Nat) : State :=
  match s.block? u with
  | none => s
  | some b =>
    let x := b.bar i
    let live := s.liveTasks b
    if !live.isEmpty && (live.all fun n => x.abits.getLsbD n) && x.bal == 0 then
      let s := s.setBlock (b.setBar i { abits := 0, bal := 0, phase := ~~~x.phase })
      { s with tasks := s.tasks.map fun t => if t.block == u then t.endWaits (barEnd i) else t }
    else s

/-- An arrival of a task, with the bytes that a BARE declares (R151). -/
def State.arrive (s : State) (t : Task) (i : Nat) (bytes : Word) : State :=
  match s.blockOf t with
  | none => s
  | some b =>
    let x := b.bar i
    (s.setBlock (b.setBar i { x with abits := x.abits ||| (1 <<< t.taskId), bal := x.bal + bytes })).testBar b.uid i

/-- A byte completion action subtracts from the balance (R151). -/
def State.deliverBytes (s : State) (u i n : Nat) : State :=
  match s.block? u with
  | none => s
  | some b =>
    let x := b.bar i
    (s.setBlock (b.setBar i { x with bal := x.bal - BitVec.ofNat 32 n })).testBar u i

/-- The task has arrived in the current phase: in the committed state, or by a buffered arrival of its own (R151,
R298). -/
def State.arrived (s : State) (t : Task) (i : Nat) : Bool :=
  (match s.blockOf t with
    | some b => (b.bar i).abits.getLsbD t.taskId
    | none => false) || t.buffersArrival i

/-- BARA and BARE (R151): a second arrival in one phase waits for the phase to complete, and then arrives. -/
def arriveOp (ba : BitVec 4) (bytes : StreamSt → Word) (eff : Word → Eff) (s : State) : Out State Fault Refusal :=
  issue .scalar s fun t k =>
    let n := bytes (t.st k)
    if s.arrived t ba.toNat && (t.st k).status != .waiting (.arrive ba.toNat true) then .error (.wait (.arrive ba.toNat false))
    else if t.det then .ok (s.buffer t k (eff n) false)
    else
      let (s, t) := s.drain t k
      .ok ((s.retire t k (t.st k)).arrive t ba.toNat n)

/-- BARA (R151). -/
def execBara (ba : BitVec 4) (s : State) : Out State Fault Refusal := arriveOp ba (fun _ => 0) (fun _ => .bara ba.toNat) s
/-- BARE (R151). -/
def execBare (ba : BitVec 4) (a : BitVec 5) (s : State) : Out State Fault Refusal :=
  arriveOp ba (fun st => st.reg a) (fun n => .bare ba.toNat n) s

/-- The parity that BARW and SBARW wait to leave (R153). -/
def waitParity (st : StreamSt) (a : BitVec 5) (k : BitVec 1) : Bool := (st.reg a).getLsbD 0 != k.getLsbD 0

/-- BARW (R153). -/
def execBarw (ba : BitVec 4) (a : BitVec 5) (k : BitVec 1) (s : State) : Out State Fault Refusal :=
  issue .scalar s fun t j =>
    let par := waitParity (t.st j) a k
    let ph := ((s.blockOf t).map fun b => (b.bar ba.toNat).phase.getLsbD 0).getD false
    if ph != par then .ok (s.retire t j (t.st j)) else .error (.wait (.phase ba.toNat par))

/-! ## Span barriers -/

/-- A barrier of a span. -/
def Span.bar (p : Span) (i : Nat) : SBarSt := nth p.sbars i .init

/-- The blocks of a span that still live, by position. -/
def State.spanBlocks (s : State) (u : Nat) : List Block :=
  s.blocks.filter fun b => b.span == u

/-- A stream of the task waits in an SBARW of the span barrier. -/
def Task.spanWaits (t : Task) (i : Nat) : Bool :=
  allStreams.any fun k => match (t.st k).status with
    | .waiting (.spanPhase j _) => j == i
    | _ => false

/-- Phase completion of a span barrier (R154): every task of the span that has not retired has arrived. The waits for it end,
each SBARW an acquire at .span. -/
def State.testSbar (s : State) (u i : Nat) : State :=
  match s.span? u with
  | none => s
  | some p =>
    let x := p.bar i
    let need := (s.spanBlocks u).flatMap fun b => (s.liveTasks b).map fun n => b.pos * 32 + n
    if !need.isEmpty && need.all fun n => x.abits.getLsbD n then
      let s := s.setSpan { p with sbars := p.sbars.set i { abits := 0, phase := ~~~x.phase } }
      let ts := s.tasks.filter fun t => (s.spanBlocks u).any (fun b => b.uid == t.block)
      ts.foldl (fun s t => (if t.spanWaits i then s.acquire t .span else s).mapTask t.uid fun t => t.endWaits (sbarEnd i)) s
    else s

/-- The bit of a task in a span barrier: span position × 32 + TASKID (R154). -/
def State.spanBit (s : State) (t : Task) : Nat := ((s.blockOf t).map fun b => b.pos * 32).getD 0 + t.taskId

/-- The span of a task. -/
def State.spanOf (s : State) (t : Task) : Option Span := (s.blockOf t).bind fun b => s.span? b.span

/-- An arrival at a span barrier (R154). -/
def State.spanArrive (s : State) (t : Task) (i : Nat) : State :=
  match s.spanOf t with
  | none => s
  | some p =>
    let x := p.bar i
    (s.setSpan { p with sbars := p.sbars.set i { x with abits := x.abits ||| (1 <<< s.spanBit t) } }).testSbar p.uid i

/-- The task has arrived at the span barrier, or a buffered arrival of its own is pending. -/
def State.spanArrived (s : State) (t : Task) (i : Nat) : Bool :=
  (match s.spanOf t with
    | some p => (p.bar i).abits.getLsbD (s.spanBit t)
    | none => false) || t.buffersSpanArrival i

/-- SBARA (R154). -/
def execSbara (sa : BitVec 2) (s : State) : Out State Fault Refusal :=
  issue .scalar s fun t k =>
    if s.spanArrived t sa.toNat && (t.st k).status != .waiting (.spanArrive sa.toNat true) then
      .error (.wait (.spanArrive sa.toNat false))
    else if t.det then .ok (s.buffer t k (.sbara sa.toNat) false)
    else
      let (s, t) := s.perform t k .span
      .ok ((s.retire t k (t.st k)).spanArrive t sa.toNat)

/-- SBARW (R154). -/
def execSbarw (sa : BitVec 2) (a : BitVec 5) (k : BitVec 1) (s : State) : Out State Fault Refusal :=
  issue .scalar s fun t j =>
    let par := waitParity (t.st j) a k
    let ph := ((s.spanOf t).map fun p => (p.bar sa.toNat).phase.getLsbD 0).getD false
    if ph != par then .ok ((s.acquire t .span).retire t j (t.st j)) else .error (.wait (.spanPhase sa.toNat par))

/-! ## CWAIT -/

/-- The copies that a CWAIT still waits for (R156): of those issued, all but the `n` most recent, completed or not. -/
def Task.cwaitSet (t : Task) (n : Nat) : List Nat :=
  ((t.cops.filter fun o => decide (o.num + n < t.copies)).map (·.id))

/-- CWAIT (R156): the copies are counted when it begins to wait. -/
def execCwait (a : BitVec 5) (n : BitVec 13) (s : State) : Out State Fault Refusal :=
  issue .scalar s fun t k =>
    let st := t.st k
    let ops := match st.status with
      | .waiting (.cwait ops) => ops.filter fun i => t.cops.any fun o => o.id == i
      | _ => t.cwaitSet (st.reg a + n.zeroExtend 32).toNat
    if ops.isEmpty then .ok (s.retire t k (t.st k)) else .error (.wait (.cwait ops))

end Sys2Proof.Machine
end

