-- ==== Sys2Proof/Machine/Grid.lean ====
section
/-! DEFINITION. Grids: dispatch packets (R282, R283), placement variants (R353), the checks of R25, logical units (R297),
submission; futures and continuation records (R286 to R289); work graphs (R290 to R293); the end of a launch (R22). -/
namespace Sys2Proof.Machine

/-- A list cut into groups of `n`, a remainder dropped; the fuel is its length. -/
def groupsOf {α : Type} (n : Nat) : Nat → List α → List (List α)
  | 0, _ => []
  | f + 1, l => if l.length < n || n = 0 then [] else l.take n :: groupsOf n f (l.drop n)

/-! ## The device's own accesses on behalf of a partition -/

/-- The places of a range that the device reads or writes by virtual address (R283, R287); none where some byte leads
nowhere, in a window, or to a page that is away. -/
def State.devLocs (s : State) (part va n : Nat) (wr : Bool) : Option (List Loc) :=
  let ls := s.locs (deviceAccessor part) va n wr
  if ls.length = n then some ls else none

/-- Bytes by virtual address, for the device; unmapped bytes read as none. -/
def State.devRead (s : State) (part va n : Nat) : Option (List Byte) := (s.devLocs part va n false).map s.readLocs

/-- The physical address of a virtual one, for the device. -/
def State.devPa (s : State) (part va : Nat) (wr : Bool) : Option Nat :=
  match s.place (deviceAccessor part) va wr with
  | .here (.mem pa) => some pa
  | _ => none

/-- A little-endian field of the bytes of a record. -/
def fieldOf (bs : List Byte) (off n : Nat) : Nat := leNat ((bs.drop off).take n)

/-- Bytes at a physical address, as a write to its home with DIRTY (R384). -/
def State.writePa (s : State) (pa n v : Nat) : State := s.applyBytes (((idxFrom pa n).map Loc.mem).zip (natLe n v))

/-! ## Packets -/

/-- The fields of a packet (R282). -/
def packetOf (b : List Byte) : Packet :=
  { type := fieldOf b 0 1, flags := fieldOf b 1 1, shape := fieldOf b 2 1, tasks := fieldOf b 3 1, grid := fieldOf b 4 4,
    codebase := BitVec.ofNat 64 (fieldOf b 8 8), entryS := BitVec.ofNat 32 (fieldOf b 16 4),
    entryV := BitVec.ofNat 32 (fieldOf b 20 4), entryM := BitVec.ofNat 32 (fieldOf b 24 4),
    entryC := BitVec.ofNat 32 (fieldOf b 28 4), vregs := fieldOf b 32 1, rows := fieldOf b 33 1, acc := fieldOf b 34 1,
    sems := fieldOf b 35 1, scratch := fieldOf b 36 2, detUnits := fieldOf b 38 2,
    future := BitVec.ofNat 64 (fieldOf b 40 8), variant := BitVec.ofNat 64 (fieldOf b 48 8),
    args := BitVec.ofNat 64 (fieldOf b 56 8) }

/-- PAIR, DET, the quantum Q and ORDER of FLAGS; the span size and PRIO of SHAPE (R282). -/
def Packet.pair (p : Packet) : Bool := p.flags % 2 == 1
def Packet.det (p : Packet) : Bool := p.flags / 2 % 2 == 1
def Packet.quantum (p : Packet) : Nat := 256 * 4 ^ (p.flags / 4 % 4)
def Packet.ordered (p : Packet) : Bool := p.flags / 16 % 2 == 1
def Packet.spanLog (p : Packet) : Nat := p.shape / 8 % 8
def Packet.spanSize (p : Packet) : Nat := 2 ^ p.spanLog
def Packet.prioOf (p : Packet) : Nat := p.shape % 8
/-- The four entry offsets. -/
def Packet.entries (p : Packet) : List Word := [p.entryS, p.entryV, p.entryM, p.entryC]

/-- The packet of a grid can be interpreted (R283). -/
def Packet.readable (p : Packet) : Bool := p.flags < 32 && p.shape < 64 && p.future.toNat % 16 == 0

/-! ## Partitions, cores and units -/

/-- The octants of a partition, in force (R425). -/
def State.octants (s : State) (part : Nat) : Nat := s.mfield (0x13000 + 0x40 * part) 0 8

/-- The enabled cores of a partition in ascending number (R424, R425). -/
def State.partCores (s : State) (part : Nat) : List CoreLoc :=
  (sortOn (·.core) s.coreMap).filter fun c => (BitVec.ofNat 8 (s.octants part)).getLsbD (c.core / 64)

/-- The groups of `n` cores that spans of one router may take: consecutive cores, or with PAIR whole twins (R12,
R297). -/
def spanGroups (cs : List CoreLoc) (n : Nat) (pair : Bool) : List (List Nat) :=
  if n = 1 then cs.map fun c => [c.core]
  else
    let routers := dedup (cs.map (·.router))
    let gs := routers.flatMap fun r =>
      let own := sortOn (·.pos) (cs.filter fun c => c.router == r)
      let own := if pair then own.filter fun c => own.any fun d => d.pos == (if c.pos % 2 = 0 then c.pos + 1 else c.pos - 1)
        else own
      groupsOf n own.length (own.map (·.core))
    sortOn (fun g => g.foldl Nat.min 0xFFFFFF) gs

/-- The logical units that a partition forms (R297). -/
def State.unitsOf (s : State) (part : Nat) (p : Packet) : List (List Nat) := spanGroups (s.partCores part) p.spanSize p.pair

/-- The lowest reason code of R25 that a packet meets. -/
def State.gridCode (s : State) (part : Nat) (p : Packet) : Option Nat :=
  let n := p.spanSize
  if p.grid = 0 || 2 ^ 31 < p.grid then some 0x1
  else if p.tasks = 0 || 32 < p.tasks then some 0x2
  else if 3 < p.spanLog || p.grid % n != 0 then some 0x3
  else if p.pair && n == 1 then some 0x4
  else if p.vregs = 0 || 124 < p.vregs || 16 < p.sems then some 0x5
  else if p.rows % 16 != 0 || 128 < p.rows || 2048 < p.tasks * p.rows then some 0x6
  else if 32 < p.tasks * p.acc then some 0x7
  else if 192 < p.scratch then some 0x8
  else if (s.unitsOf part p).isEmpty then some 0x9
  else if p.codebase.toNat % 4 != 0 || p.entries.any (fun e => e.toNat % 4 != 0) || p.entries.all (· == 0) then some 0xA
  else if (p.detUnits != 0 && !p.det) || (p.det && decide ((s.unitsOf part p).length < p.detUnits)) then some 0xD
  else none

/-- The packet that a grid's packet becomes with its chosen variant, and the address of the variant's packet if there is
one, or the refusal 0x000B or 0x000C (R352, R353). -/
def State.variantOf (s : State) (part : Nat) (p : Packet) : Except Nat (Packet × Option Nat) :=
  if p.variant = 0 then .ok (p, none) else
  let va := p.variant.toNat
  match s.devRead part va 16 with
  | none => .error 0xC
  | some h =>
    let count := fieldOf h 0 2
    match s.devRead part (va + 16) (16 * count) with
    | none => .error 0xC
    | some es =>
      let ent := fun i => (es.drop (16 * i)).take 16
      let bad := fun (e : List Byte) => 1 < fieldOf e 4 1 || fieldOf e 5 3 != 0
      if va % 16 != 0 || count = 0 || 255 < count || fieldOf h 2 14 != 0 || (upto count).any (fun i => bad (ent i)) then .error 0xC
      else
        let sig := s.mfield (0x3008 + 0x40 * part) 0 32
        match (upto count).find? fun i => fieldOf (ent i) 4 1 == 1 || fieldOf (ent i) 0 4 == sig with
        | none => .error 0xB
        | some i =>
          let addr := fieldOf (ent i) 8 8
          match s.devRead part addr 64 with
          | none => .error 0xB
          | some b =>
            let q := packetOf b
            .ok ({ p with codebase := q.codebase, entryS := q.entryS, entryV := q.entryV, entryM := q.entryM,
                          entryC := q.entryC, vregs := q.vregs, rows := q.rows, acc := q.acc, sems := q.sems,
                          scratch := q.scratch }, some addr)

/-- The first page of a packet's variant table, or of the chosen variant, that is away (R277, R353): address, entry address
and entry. -/
def State.variantAway (s : State) (part : Nat) (p : Packet) : Option (Nat × Nat × Nat) :=
  if p.variant = 0 then none else
  let va := p.variant.toNat
  let away := s.awayRange (deviceAccessor part)
  match away va 16 false with
  | some x => some x
  | none =>
    let count := ((s.devRead part va 16).map fun h => fieldOf h 0 2).getD 0
    match away (va + 16) (16 * count) false with
    | some x => some x
    | none =>
      let es := (s.devRead part (va + 16) (16 * count)).getD []
      let ent := fun i => (es.drop (16 * i)).take 16
      let sig := s.mfield (0x3008 + 0x40 * part) 0 32
      match (upto count).find? fun i => fieldOf (ent i) 4 1 == 1 || fieldOf (ent i) 0 4 == sig with
      | some i => away (fieldOf (ent i) 8 8) 64 false
      | none => none

/-! ## The device's accesses to pages that may be away (R277, R385) -/

/-- Where the device finds an address of a partition. -/
inductive DevPlace where
  | here (pa : Nat)
  | away (pte entry : Nat)
  | none
  deriving DecidableEq, Repr

/-- Where the device finds an address of a partition: memory, a storage page that is away, or nowhere. -/
def State.devPlace (s : State) (part va : Nat) (wr : Bool) : DevPlace :=
  match s.place (deviceAccessor part) va wr with
  | .here (.mem pa) => .here pa
  | .notRes pte e => .away pte e
  | _ => .none

/-- The first page of a range that is away, for the device: address, entry address and entry. -/
def State.devAway (s : State) (part va n : Nat) (wr : Bool) : Option (Nat × Nat × Nat) :=
  s.awayRange (deviceAccessor part) va n wr

/-- Work of the device waits for a page, whose read starts (R277, R385). -/
def State.devAwait (s : State) (part va pte e : Nat) (w : DevWork) : State :=
  let s := s.startRead part pte e va 0 0
  let busy := s.reads.any (fun r => r.pte == pte) || s.reclaims.any (fun r => r.pte == pte)
  { s with devWaits := s.devWaits ++ [{ work := w, pte := pte, go := if busy then none else some false }] }

/-- A store of the device at a virtual address of a partition; where the page is away it waits, and where the address leads
nowhere it is dropped (log 89). -/
def State.devStore (s : State) (part va n v : Nat) : State :=
  match s.devAway part va n true with
  | some (ad, pte, e) => s.devAwait part ad pte e (.store part va n v)
  | none => match s.devLocs part va n true with
    | some ls => s.applyBytes (ls.zip (natLe n v))
    | none => s

/-! ## Futures -/

/-- STATE of a future at a physical address: 0 EMPTY, 1 WAITING, 2 RESOLVED, 3 FAULTED (R286). -/
def State.futState (s : State) (pa : Nat) : Nat := s.mem.field pa 1 % 4

/-- The records that wait on the future at a physical address, the latest registered first (R287). -/
def State.chainAt (s : State) (pa : Nat) : List Chained :=
  s.chained.filter fun c => s.devPa c.part c.fut false == some pa

/-- The records that a resolve releases: the chain, where HEAD still names its first record; where software has stored to
the waiting future, each of its records or not, by a free choice (R288; log 74). -/
def State.releasedAt (s : State) (pa : Nat) : List Chained :=
  let mine := s.chainAt pa
  if (mine.head?).all fun c => c.record == s.mem.field (pa + 8) 8 then mine
  else ((mine.zip (upto mine.length)).filter fun p => Config.choice s.fresh (8000000 + p.2)).map (·.1)

/-- A record that a future releases moves on. -/
def Chained.moves (c : Chained) (fault : Bool) : RecRef :=
  { part := c.part, va := c.record, image := c.image, start := none, flt := fault }

/-- One resolve or fault of a future at its home (R287): the new state, what it found when it was done already, and the
records it releases. -/
def State.resolve (s : State) (pa : Nat) (res : Word) (fault : Bool) : State × Option Nat × List RecRef :=
  let st := s.futState pa
  if 2 ≤ st then (s, some st, [])
  else
    let out := s.releasedAt pa
    let gen := bitsOf (s.mem.field pa 8) 2 14
    let s := { s with chained := s.chained.filter fun c => !(out.contains c) }
    (s.writePa pa 16 ((if fault then 3 else 2) + gen * 4 + res.toNat * 2 ^ 32), none, out.map (Chained.moves · fault))

/-- A resolve or fault by the device at a virtual address, which raises nothing (R22, R281): it waits for a page that is
away; address 0 names no future. -/
def State.resolveVa (s : State) (part va : Nat) (res : Word) (fault : Bool) : State × List RecRef :=
  if va = 0 then (s, []) else
  match s.devPlace part va true with
  | .here pa =>
    let (s, _, r) := s.resolve pa res fault
    (s, r)
  | .away pte e => (s.devAwait part va pte e (.future part va res fault), [])
  | .none => (s, [])

/-- Registration of a record on a future (R287): pushed at HEAD, WAITERS saturating. -/
def State.register (s : State) (r : RecRef) (fut pa : Nat) : State :=
  let w := s.mem.field pa 8
  let head := s.mem.field (pa + 8) 8
  let waiters := Nat.min 0xFFFF (bitsOf w 16 16 + 1)
  let s := { s with chained := { part := r.part, fut := fut, record := r.va, image := r.image } :: s.chained }
  let s := s.writePa pa 16 (1 + bitsOf w 2 14 * 4 + waiters * 2 ^ 16 + bitsOf w 32 32 * 2 ^ 32 + r.va * 2 ^ 64)
  s.devStore r.part (r.va + 40) 8 head

/-! ## Work graphs: the count of outstanding work -/

/-- The count of outstanding work in bytes 56 to 63 of the GRAPH packet (R293). -/
def State.graphCount (s : State) (pa : Nat) : Nat := s.mem.field (pa + 56) 8

/-- A graph by its number. -/
def State.graph? (s : State) (id : Nat) : Option Graph := s.graphs.find? fun g => g.id == id

/-- Replace a graph. -/
def State.setGraph (s : State) (g : Graph) : State :=
  { s with graphs := s.graphs.map fun x => if x.id == g.id then g else x }

/-- No work of a graph is left: its root grid has retired and its work is done. -/
def Graph.over (g : Graph) : Bool := g.rootDone && g.work == 0

/-- The open graph whose GRAPH packet lies at a physical address. -/
def State.graphAt (s : State) (pa : Nat) : Option Graph :=
  s.graphs.find? fun g => !g.over && s.devPa g.part g.va false == some pa

/-- A graph that is over leaves the device with its nodes. -/
def State.dropGraph (s : State) (id : Nat) : State :=
  { s with graphs := s.graphs.filter fun x => x.id != id, nodes := s.nodes.filter fun n => n.graph != id }

/-- A graph's future resolves under R22 (R293). -/
def State.resolveGraph (s : State) (g : Graph) : State × List RecRef :=
  match g.failed with
  | none => s.resolveVa g.part g.fut 0 false
  | some (c, k) => s.resolveVa g.part g.fut (BitVec.ofNat 32 (c * 256 + k)) true

/-- A graph whose count may have changed: at 0 after the root grid has retired its future resolves (R293). Once software has
stored over the count, the future resolves at some time or never (State.strayNext), and the graph goes on until its work is
done. -/
def State.graphTest (s : State) (g : Graph) : State × List RecRef :=
  let s := s.setGraph g
  if !g.over then (s, [])
  else if g.spoiled then
    (if g.resolved then s.dropGraph g.id else { s with nodes := s.nodes.filter fun n => n.graph != g.id }, [])
  else if g.shown = 0 then (s.dropGraph g.id).resolveGraph g
  else (s, [])

/-- The count in bytes 56 to 63 of a graph's GRAPH packet changes (R293). The device counts on from the number that the
packet holds, also where software has stored over it (log 25); a packet on a page that is away is awaited, and one that the
device cannot reach any more is counted without it. -/
def State.graphShow (s : State) (id add sub : Nat) : State × List RecRef :=
  match s.graph? id with
  | none => (s, [])
  | some g =>
    match s.devPlace g.part g.va true with
    | .away pte e => (s.devAwait g.part g.va pte e (.count id add sub), [])
    | .none => s.graphTest { g with shown := (g.shown + add + 2 ^ 64 - sub) % 2 ^ 64 }
    | .here pa =>
      let old := s.graphCount pa
      let c := (old + add + 2 ^ 64 - sub) % 2 ^ 64
      (s.writePa (pa + 56) 8 c).graphTest { g with shown := c, spoiled := g.spoiled || old != g.shown }

/-- The outstanding work of a graph changes, and the count with it (R293). -/
def State.graphCountBy (s : State) (id add sub : Nat) : State × List RecRef :=
  match s.graph? id with
  | none => (s, [])
  | some g => (s.setGraph { g with work := g.work + add - sub }).graphShow id add sub

/-- Work is added to a graph. -/
def State.graphAdd (s : State) (id n : Nat) : State := (s.graphCountBy id n 0).1

/-- Work of a graph is done (R293). -/
def State.graphSub (s : State) (id n : Nat) : State × List RecRef := s.graphCountBy id 0 n

/-- What software has disturbed while it waited goes on at some time or never: a record whose future it has stored over
(R288; log 74), and the future of a graph whose count it has stored over (R293; log 25). -/
def State.strayNext (s : State) : Option (State × List RecRef) :=
  match s.chained.find? fun c => match s.devPa c.part c.fut false with
    | some pa => s.futState pa != 1 && Config.choice s.fresh (8100000 + c.record)
    | none => false with
  | some c => some ({ s with chained := s.chained.erase c }, [c.moves false])
  | none => (s.graphs.find? fun g => g.spoiled && !g.resolved && Config.choice s.fresh (8200000 + g.id)).map fun g =>
      (if g.over then s.dropGraph g.id else s.setGraph { g with resolved := true }).resolveGraph g

/-- A node by its number. -/
def State.node? (s : State) (id : Nat) : Option Node := s.nodes.find? fun n => n.id == id
/-- The node whose descriptor lies at a physical address. -/
def State.nodeAt (s : State) (pa : Nat) : Option Node := s.nodes.find? fun n => s.devPa n.part n.va true == some pa
/-- Replace a node. -/
def State.setNode (s : State) (n : Node) : State :=
  { s with nodes := s.nodes.map fun x => if x.id == n.id then n else x }

/-- A batch of `n` records leaves a node's buffer: its entry task has taken them, or its grid was refused (R290). -/
def State.nodeFree (s : State) (id n : Nat) : State :=
  match s.node? id with
  | some x => s.setNode { x with held := x.held - n }
  | none => s

/-! ## Submission -/

/-- A launch with its number, before it is admitted. -/
def State.newLaunch (s : State) (part image : Nat) (p : Packet) (addr : Nat) : State × Launch :=
  let l : Launch := { Launch.init with
    num := s.nextLaunch.toNat, pkt := p, addr := BitVec.ofNat 64 addr, code := addr, part := part, image := image, seq := s.seq,
    live := false }
  ({ s with nextLaunch := s.nextLaunch + 1, seq := s.seq + 1, launches := s.launches ++ [l] }, l)

/-- Submission of a launch (R25, R284, R353): the variant is chosen and the grid checked; its blocks then wait for
placement, in the order of submission. A refused grid is removed, and its reason returned. -/
def State.enrol (s : State) (l : Launch) : State × Option Nat :=
  let chk : Except Nat (Packet × Option Nat) := do
    let p ← s.variantOf l.part l.pkt
    match s.gridCode l.part p.1 with
    | some c => .error c
    | none => .ok p
  match chk with
  | .error c => ({ s with launches := s.launches.filter fun x => x.num != l.num }, some c)
  | .ok (p, code) =>
    let units := s.unitsOf l.part p
    let u := if p.detUnits = 0 then units.length else p.detUnits
    let us := if p.det then units.take u else []
    (({ s with seq := s.seq + 1 } : State).setLaunch { l with
      pkt := p, code := code.getD l.code, left := p.grid, live := true, awaits := false, seq := s.seq, units := us, unitNext := us.map fun _ => 0 }, none)

/-- A refused grid (R25): its future is faulted with the reason; a batch and its records count as done (R293); a graph whose
root grid is refused does not open. -/
def State.refuse (s : State) (l : Launch) (c : Nat) : State × List RecRef :=
  let (s, r1) := s.resolveVa l.part l.pkt.future.toNat (BitVec.ofNat 32 c) true
  match l.node, l.graph with
  | some n, some g =>
    let (s, r2) := (s.nodeFree n l.records.length).graphSub g (1 + l.records.length)
    (s, r1 ++ r2)
  | none, some g => (match s.graph? g with
    | some x => (s.dropGraph g).devStore x.part (x.va + 56) 8 0
    | none => s, r1)
  | _, _ => (s, r1)

/-- A launch is admitted: its variant table is read, where a page of it is away after a wait; then it is enrolled or
refused. -/
def State.admitGrid (s : State) (l : Launch) : State × List RecRef :=
  match s.variantAway l.part l.pkt with
  | some (va, pte, e) => ((s.setLaunch { l with awaits := true }).devAwait l.part va pte e (.admitGrid l.num), [])
  | none => match s.enrol l with
    | (s, none) => (s, [])
    | (s, some c) => s.refuse l c

/-- The packet at an address, as TLAUNCH, a record or a node names it: TYPE must be 0x01 (R282, R283). -/
def State.packetAt (s : State) (part va : Nat) : Option Packet :=
  match s.devRead part va 64 with
  | none => none
  | some b =>
    let p := packetOf b
    if p.type = 1 && p.readable && va % 64 == 0 then some p else none

/-! ## Batches of a node -/

/-- The first batch of a node leaves the batches that wait for their submission. -/
def State.popBatch (s : State) (n : Node) : State := s.setNode { n with cut := n.cut.tail }

/-- A batch whose grid cannot be submitted: it and its records count as done (R293). -/
def State.loseBatch (s : State) (n : Node) : State × List RecRef :=
  let k := (n.cut.headD []).length
  ((s.popBatch n).nodeFree n.id k).graphSub n.graph (1 + k)

/-- The first batch of a node that waits becomes the entry task of a one-task block (R291, R292), once the node's packet can
be read. -/
def State.launchBatch (s : State) (n : Node) : State × List RecRef :=
  match s.devAway n.part n.pkt 64 false with
  | some (va, pte, e) => (s.devAwait n.part va pte e (.batch n.id), [])
  | none =>
    match s.packetAt n.part n.pkt with
    | none => s.loseBatch n
    | some p =>
      let image := ((s.graph? n.graph).map (·.image)).getD 0
      let (s, l) := (s.popBatch n).newLaunch n.part image { p with grid := 1, tasks := 1 } n.pkt
      let l := { l with node := some n.id, graph := some n.graph, records := n.cut.headD [] }
      (s.setLaunch l).admitGrid l

/-- A batch of a node is cut, and counts in its graph: its records keep their room in the buffer until the entry task takes
them (R290, R291, R293). -/
def State.cutBatch (s : State) (n : Node) (k : Nat) : State × List RecRef :=
  let batch := n.recs.take k
  ((s.setNode { n with recs := n.recs.drop k, held := n.held + batch.length, cut := n.cut ++ [batch.map (·.val)] }).graphAdd
    n.graph 1, [])

/-- Some task of a graph is running or pending (R291). -/
def State.graphBusy (s : State) (id : Nat) : Bool :=
  s.launches.any (fun l => l.graph == some id) || s.nodes.any fun n => n.graph == id && !n.cut.isEmpty

/-- The first batch of a node may be submitted: no earlier one of the node waits for a page (R292). -/
def State.batchNext (s : State) (n : Node) : Bool :=
  !n.cut.isEmpty && !(s.launches.any fun l => l.node == some n.id && l.awaits) &&
  !(s.devWaits.any fun w => w.work == .batch n.id)

/-- The next step of the device on its nodes (R291, R292): a batch that may be submitted; a full batch to cut; the rest of a
node of a graph none of whose tasks is running or pending. -/
def State.nodeStep (s : State) : Option (State × List RecRef) :=
  match s.nodes.find? s.batchNext with
  | some n => some (s.launchBatch n)
  | none => match s.nodes.find? fun n => decide (96 ≤ n.recs.length) with
    | some n => some (s.cutBatch n 96)
    | none => (s.nodes.find? fun n => !n.recs.isEmpty && !(s.graphBusy n.graph)).map fun n =>
        s.cutBatch n (Nat.min 96 n.recs.length)

/-! ## Completion of launches and the records that they release -/

/-- The first held launch that waits for no grid any more is submitted, in the order of their numbers (R281). -/
def State.heldStep (s : State) : Option (State × List RecRef) :=
  (s.launches.find? fun l => !l.live && !l.awaits && !(l.order.any fun n => s.launches.any fun x => x.num == n)).map
    s.admitGrid

/-- A launch whose last block has retired completes (R22): its future, or the graph that it roots. -/
def State.completeLaunch (s : State) (l : Launch) : State × List RecRef :=
  let (res, fault) : Word × Bool := match l.result with
    | none => (0, false)
    | some (c, k) => (BitVec.ofNat 32 (c * 256 + k), true)
  let s := { s with launches := s.launches.filter fun x => x.num != l.num }
  match l.graph, l.node with
  | some g, none =>
    let s := match s.graph? g with
      | some x => s.setGraph { x with rootDone := true }
      | none => s
    s.graphSub g 0
  | _, _ => s.resolveVa l.part l.pkt.future.toNat res fault

/-! ## Continuation records -/

/-- What a record that moves on comes to: it waits on the future of an index, none is left, or the page of the future of
an index is away. -/
inductive NextFut where
  | on (i : Nat)
  | all
  | away (i va pte entry : Nat)
  deriving DecidableEq, Repr

/-- The next used future of a record, from index `i`, that is not done (R289); `flt` says that a done one was FAULTED. A
future that leads nowhere counts as done (log 26). -/
def State.nextFuture (s : State) (r : RecRef) (b : List Byte) (flt : Bool) : Nat → Nat → State × NextFut × Bool
  | 0, _ => (s, .all, flt)
  | f + 1, i =>
    if 4 ≤ i then (s, .all, flt) else
    let va := fieldOf b (8 + 8 * i) 8
    if va = 0 then s.nextFuture r b flt f (i + 1)
    else match s.devPlace r.part va true with
      | .none => s.nextFuture r b flt f (i + 1)
      | .away pte e => (s, .away i va pte e, flt)
      | .here pa =>
        let st := s.futState pa
        if 2 ≤ st then s.nextFuture r b (flt || st == 3) f (i + 1)
        else (s.register r va pa, .on i, flt)

/-- A record moves on (R289): from the future after the one that released it, or from its start; when none is left its
grid is submitted. What lies on a page that is away is awaited (R277). A record whose PACKET can be read but not interpreted
submits nothing, and its word still says that it was launched (DESIGN CHOICE, log 26). -/
def State.moveOn (s : State) (r : RecRef) : State × List RecRef :=
  match s.devPlace r.part r.va true with
  | .none => (s, [])
  | .away pte e => (s.devAwait r.part r.va pte e (.record r), [])
  | .here pa =>
    let b := s.mem.bytes pa 64
    let was := fieldOf b 48 4
    let (s, n, flt) := s.nextFuture r b (r.flt || was / 8 % 2 == 1) 5 (r.start.getD (was % 8 + 1))
    let state := fun (s : State) (j : Nat) => s.writePa (pa + 48) 4 (j + flt.toNat * 8)
    match n with
    | .on j => (state s j, [])
    | .away j va pte e => ((state s j).devAwait r.part va pte e (.record { r with start := some j, flt := flt }), [])
    | .all =>
      let s := state s 4
      let addr := fieldOf b 0 8
      match s.devAway r.part addr 64 false with
      | some (va, pte, e) => (s.devAwait r.part va pte e (.record { r with start := some 4, flt := flt }), [])
      | none => match s.packetAt r.part addr with
        | none => (s.writePa (pa + 52) 4 0, [])
        | some p =>
          let (s, l) := s.newLaunch r.part r.image p addr
          (s.writePa (pa + 52) 4 l.num).admitGrid l

/-- Released records move on one by one, and so do those that they release in turn. The fuel bounds what one step moves; the
others move on in later steps (log 18). -/
def State.runRecs (s : State) : Nat → List RecRef → State
  | 0, rs => { s with devWaits := s.devWaits ++ rs.map fun r => { work := .record r, pte := 0, go := some true } }
  | _, [] => s
  | f + 1, r :: rs =>
    let (s, more) := s.moveOn r
    s.runRecs f (rs ++ more)

/-- The device submits what it may: held launches and batches of nodes, with the records that they release. -/
def State.submitNext (s : State) : Nat → State
  | 0 => s
  | f + 1 =>
    match s.heldStep.or s.nodeStep with
    | some (s, rs) => (s.runRecs 0x10000 rs).submitNext f
    | none => s

/-- The held launches and the steps on nodes that a state has before it: one for each launch, batch and record. -/
def State.submitWork (s : State) : Nat :=
  s.launches.length + s.nodes.foldl (fun k n => k + 2 * n.recs.length + n.cut.length) 0

/-- The records that a step releases move on (R287). -/
def State.settle (sr : State × List RecRef) : State := sr.1.runRecs 0x10000 sr.2

/-- As `settle`, and what then may be submitted is (R281, R291). -/
def State.settleAll (sr : State × List RecRef) : State :=
  let s := State.settle sr
  s.submitNext s.submitWork

/-- A packet is submitted (R25, R281), at once unless it waits for the live grids of `order`: the LAUNCH number, and the
records that a refusal releases. -/
def State.submit (s : State) (part image : Nat) (p : Packet) (addr : Nat) (queue graph : Option Nat) (order : List Nat) :
    State × Nat × List RecRef :=
  let (s, l) := s.newLaunch part image p addr
  let l := { l with queue := queue, graph := graph, order := order.filter fun n => s.launches.any fun x => x.num == n }
  let s := s.setLaunch l
  if !l.order.isEmpty then (s, l.num, [])
  else
    let (s, r) := s.admitGrid l
    (s, l.num, r)

end Sys2Proof.Machine
end

