-- ==== Sys2Proof/Machine/Futures.lean ====
section
/-! DEFINITION. Futures, launches and graph records of the 32-bit class (R157 to R162). -/
namespace Sys2Proof.Machine

/-- The checks of an address operand of R157: a window address raises WINDOW; the rest as for an atomic, WRITE only for
the instructions that write there. -/
def State.futCheck (s : State) (t : Task) (k : StreamId) (va n al : Nat) (wr : Bool) : Except Stop Nat :=
  if inWindow va then trapWith clsMemory 3 va
  else do
    s.check t k va n al true wr
    match s.place (t.accessor s) va wr with
    | .here (.mem pa) => return pa
    | _ => trapWith clsMemory 6 va

/-- A device operation on an address drops the line from the core's L1 (R90). -/
def State.homeOp (s : State) (t : Task) (pa : Nat) : State := s.l1Drop (s.coreOf t) [.mem pa]

/-- The image that a task's grids belong to (R404). -/
def State.imageOf (s : State) (t : Task) : Nat := ((s.launch? t.launch).map (·.image)).getD 0

/-- FRES and FFLT (R158): a release at .pkg; one that reads RESOLVED is an acquire at .pkg too, and raises FUTURE (R101). -/
def resolveOp (a : BitVec 4) (b : BitVec 5) (fault : Bool) (s : State) : Out State Fault Refusal :=
  issue .scalar s fun t k => do
    let st := t.st k
    let va := (st.pair a).toNat
    let pa ← s.futCheck t k va 16 16 true
    let res := st.reg b
    if t.det then return s.buffer t k (.fres (st.pair a) pa res fault) false
    else
      let (s, t) ← s.release t k .pkg
      let found := fun (s : State) (sub : Nat) => s.takeTrap t k st.pc false 0 { cls := clsFuture, sub := sub }
      match s.resolve pa res fault with
      | (_, some 2, _) => return found ((s.homeOp t pa).acquire t .pkg) 1
      | (_, some _, _) => return found s 2
      | (s, none, recs) => return State.settle ((s.homeOp t pa).retire t k (t.st k), recs)

/-- FRES (R158). -/
def execFres (a : BitVec 4) (b : BitVec 5) (s : State) : Out State Fault Refusal := resolveOp a b false s
/-- FFLT (R158). -/
def execFflt (a : BitVec 4) (b : BitVec 5) (s : State) : Out State Fault Refusal := resolveOp a b true s

/-- FTRY (R158): 0 when it resolves the future, 1 when it was RESOLVED (an acquire at .pkg), 2 when FAULTED. -/
def execFtry (d : BitVec 5) (a : BitVec 4) (b : BitVec 5) (s : State) : Out State Fault Refusal :=
  issue .scalar s fun t k => do
    let st := t.st k
    let pa ← s.futCheck t k (st.pair a).toNat 16 16 true
    let res := st.reg b
    if t.det then return s.buffer t k (.ftry (st.pair a) pa res d) true
    else
      let (s, t) ← s.release t k .pkg
      match s.resolve pa res false with
      | (s, none, recs) => return State.settle ((s.homeOp t pa).retire t k ((t.st k).setReg d 0), recs)
      | (_, some 2, _) => return ((s.homeOp t pa).acquire t .pkg).retire t k ((t.st k).setReg d 1)
      | (_, some _, _) => return (s.homeOp t pa).retire t k ((t.st k).setReg d 2)

/-- FSTAT (R159): bytes 0 to 7 of the future, read as an atomic at .pkg. -/
def execFstat (d a : BitVec 4) (s : State) : Out State Fault Refusal :=
  issue .scalar s fun t k => do
    let pa ← s.futCheck t k ((t.st k).pair a).toNat 16 16 false
    if t.det then return s.buffer t k (.fstat pa d) true
    else
      let (s, t) ← s.release t k .pkg
      let v := BitVec.ofNat 64 (s.mem.field pa 8)
      return ((s.homeOp t pa).acquire t .pkg).retire t k ((t.st k).setPair d v)

/-- A TLAUNCH of a packet's bytes (R160, R281, R283): the LAUNCH number, 0 for a packet that cannot be interpreted. -/
def State.launchPkt (s : State) (t : Task) (b : List Byte) (va : Nat) : State × Task × Nat × List RecRef :=
  let p := packetOf b
  if p.type = 1 && p.readable then
    let (s, n, recs) := s.submit t.part (s.imageOf t) p va none none (if p.ordered then t.launched else [])
    (s, { t with launched := t.launched ++ [n] }, n, recs)
  else (s, t, 0, [])

/-- TLAUNCH (R160). -/
def execTlaunch (d : BitVec 5) (a : BitVec 4) (s : State) : Out State Fault Refusal :=
  issue .scalar s fun t k => do
    let va := ((t.st k).pair a).toNat
    let _ ← s.futCheck t k va 64 64 false
    let ls := s.locs (t.accessor s) va 64 false
    if t.det then return s.buffer t k (.tlaunch (BitVec.ofNat 64 va) (s.loadBytes t k ls) d) true
    else
      let (s, t) ← s.release t k .pkg
      let (s, t, n, recs) := s.launchPkt t (s.readLocs ls) va
      return State.settle (s.retire t k ((t.st k).setReg d (BitVec.ofNat 32 n)), recs)

/-- The used futures of a continuation record's bytes (R289). -/
def recFutures (b : List Byte) : List Nat := ((upto 4).map fun i => fieldOf b (8 + 8 * i) 8).filter (· != 0)

/-- TJOIN on a record (R161): every named future is checked before any is touched; the count of those done, and the
records released by a refused grid. -/
def State.joinRec (s : State) (t : Task) (k : StreamId) (va : Nat) : Except Stop (State × Nat × List RecRef) := do
  let b := s.readLocs (s.locs (t.accessor s) va 64 false)
  let fs := recFutures b
  if fs.isEmpty || fs.any (fun f => f % 16 != 0) then trapWith clsFuture 4
  else
    let pas ← fs.mapM fun f => s.futCheck t k f 16 16 true
    let n := (pas.filter fun pa => decide (2 ≤ s.futState pa)).length
    match s.place (t.accessor s) va true with
    | .here (.mem pa) =>
      let (s, recs) := ((s.writePa (pa + 48) 4 0).homeOp t pa).moveOn
        { part := t.part, va := va, image := s.imageOf t, start := some 0, flt := false }
      return (s, n, recs)
    | _ => trapWith clsMemory 6 va

/-- TJOIN (R161). -/
def execTjoin (d : BitVec 5) (a : BitVec 4) (s : State) : Out State Fault Refusal :=
  issue .scalar s fun t k => do
    let va := ((t.st k).pair a).toNat
    let _ ← s.futCheck t k va 64 64 true
    if t.det then return s.buffer t k (.tjoin (BitVec.ofNat 64 va) d) true
    else
      let (s, t) ← s.release t k .pkg
      let (s, n, recs) ← s.joinRec t k va
      return State.settle (s.retire t k ((t.st k).setReg d (BitVec.ofNat 32 n)), recs)

/-- A node descriptor that keeps the rules of R290: the number of its graph and its capacity. -/
def State.nodeOk (s : State) (part : Nat) (b : List Byte) : Option (Nat × Nat) :=
  let cap := fieldOf b 24 4
  let buf := fieldOf b 16 8
  match s.packetAt part (fieldOf b 0 8), s.devPa part (fieldOf b 8 8) true with
  | some p, some g =>
    if p.spanLog = 0 && buf % 4 == 0 && (idxFrom 7 18).any (fun i => cap == 2 ^ i) then
      (s.graphAt g).map fun g => (g.id, cap)
    else none
  | _, _ => none

/-- A record is accepted by a node (R291, R293): it joins the buffer and the graph's count. The node is the one at the
descriptor's physical address `pa`, its virtual address `va`. -/
def State.acceptRec (s : State) (part graph va pa : Nat) (r : Rec) : State × List RecRef :=
  if (s.graph? graph).isNone then (s, []) else
  let (s, n) := match s.nodeAt pa with
    | some n => (s, n)
    | none =>
      let n : Node := { id := s.uid, part := part, va := va, graph := graph, pkt := 0, recs := [], held := 0, appended := 0, cut := [] }
      ({ s with uid := s.uid + 1, nodes := s.nodes ++ [n] }, n)
  let cap := s.mem.field (pa + 24) 4
  let s := s.devStore part ((s.mem.field (pa + 16) 8 + 4 * (n.appended % Nat.max 1 cap)) % 2 ^ 64) 4 r.val.toNat
  let s := s.setNode { n with pkt := s.mem.field pa 8, recs := n.recs ++ [r], appended := n.appended + 1 }
  s.graphCountBy graph 1 0

/-- GREC (R162, R290): a broken descriptor, as the stream's earlier stores leave it, raises MATRIX, RECORD; a full buffer
makes the stream wait until a batch is taken. A PACKET or GRAPH on a page that is away stops the instruction as an access
of its own would (R277). -/
def execGrec (a : BitVec 4) (b : BitVec 5) (s : State) : Out State Fault Refusal :=
  issue .scalar s fun t k => do
    let va := ((t.st k).pair a).toNat
    let val := (t.st k).reg b
    let pa ← s.futCheck t k va 64 64 true
    let v := (s.perform t k .pkg).1
    let b := v.mem.bytes pa 64
    match (v.devAway t.part (fieldOf b 0 8) 64 false).or (v.devAway t.part (fieldOf b 8 8) 64 true) with
    | some (x, pte, e) => .error (s.awayStop t x pte e)
    | none =>
    match v.nodeOk t.part b with
    | none => trapWith clsMatrix 7
    | some (g, cap) =>
      let n := s.nodeAt pa
      if decide (cap ≤ (n.map fun n => n.recs.length + n.held).getD 0) then .error (.wait (.record ((n.map (·.id)).getD 0) cap))
      else
        let idx := t.recIdx
        if t.det then return s.buffer { t with recIdx := idx + 1 } k (.grec (BitVec.ofNat 64 va) val idx g) false
        else
          let (s, t) ← s.release t k .pkg
          let bid := ((s.blockOf t).map (·.bid)).getD 0
          let r : Rec := { val := val, grid := t.launch, bid := bid, taskId := t.taskId, idx := idx }
          let sr := s.acceptRec t.part g va pa r
          return State.settleAll (sr.1.retire { t with recIdx := idx + 1 } k (t.st k), sr.2)

/-- The records that wait in a node are cut into a partial batch, outside deterministic mode (R291). -/
def State.flushNode (s : State) (node : Nat) : State :=
  match s.node? node with
  | some n =>
    if n.recs.isEmpty || ((s.graph? n.graph).map (·.det)).getD true then s
    else State.settleAll (s.cutBatch n (Nat.min 96 n.recs.length))
  | none => s

/-- BATCH_FLUSH_TIMEOUT (R291): records have waited FLUSH units. -/
def execBatchFlushTimeout (node : Nat) (s : State) : Out State Fault Refusal := .next (s.flushNode node)

end Sys2Proof.Machine
end

