-- ==== Sys2Proof/Machine/Slots.lean ====
section
/-! DEFINITION. Operand slots: their bytes and claims, OCLM (R241), ORLS (R242) and the passing of slots (R302). -/
namespace Sys2Proof.Machine

/-- Where data byte `i` of the slots from `b` on lies in a core's slot memory: 4,096 data bytes of each 4,352. -/
def slotAddr (b i : Nat) : Nat := (b + i / 4096) * 4352 + i % 4096
/-- Where side byte `j` of the slots from `b` on lies (R247). -/
def sideAddr (b j : Nat) : Nat := (b + j / 256) * 4352 + 4096 + j % 256

/-- The slots `b` to `b + n − 1` are claimed by the task (R43). -/
def Task.owns (t : Task) (b n : Nat) : Bool :=
  match t.claim with
  | some (c, m) => decide (c ≤ b) && decide (b + n ≤ c + m)
  | none => false

/-- A footprint in flight touches a slot. -/
def Task.touchesSlot (t : Task) (slot : Nat) : Bool :=
  (t.mops ++ t.cops).any fun o => o.foot.any fun f => f.sp == .slot && decide (f.lo ≤ slot) && decide (slot < f.hi)

/-- A buffered ORLS still holds a slot until its commit (R302). -/
def Task.orlsHolds (t : Task) (slot : Nat) : Bool :=
  t.str.m.queue.any fun e => match e.eff with
    | .orls b n => decide (b ≤ slot) && decide (slot < b + n)
    | _ => false

/-- A slot stays with its owner: a claim, an operation in flight or a buffered release holds it (R242, R302). -/
def State.slotKept (s : State) (u slot : Nat) : Bool :=
  match s.task? u with
  | some t => t.owns slot 1 || t.touchesSlot slot || t.orlsHolds slot
  | none => false

/-- None of a range of slots of a core has an owner. A task's own slots have one while operations that use them are
outstanding, so that its OCLM waits for them too (DESIGN CHOICE, log 101). -/
def CoreSt.slotsFree (x : CoreSt) (b n : Nat) : Bool := !(x.owners.any fun p => decide (b ≤ p.1) && decide (p.1 < b + n))

/-- Two slot ranges share a slot. -/
def slotsMeet (x y : Nat × Nat × Nat) : Bool := decide (x.2.1 < y.2.1 + y.2.2) && decide (y.2.1 < x.2.1 + x.2.2)

/-- The claim of a task begins. -/
def State.takeSlots (s : State) (t : Task) (b n : Nat) : State × Task :=
  let core := s.coreOf t
  let x := s.core core
  (s.setCore core { x with owners := x.owners ++ (idxFrom b n).map fun i => (i, t.uid) }, { t with claim := some (b, n) })

/-- A waiting OCLM is served: its claim begins and it retires. -/
def State.grantOclm (s : State) (t : Task) (b n : Nat) : State :=
  let (s, t) := s.takeSlots t b n
  s.setTask (t.setSt .m (t.advance (t.st .m) 2))

/-- Waiting OCLMs of a core that `ok` admits are served in their order: none is served past an earlier one that waits
for a slot of its own (R241). An entry whose stream has stopped waiting leaves the queue. -/
def State.serveOclm (s : State) (core : Nat) (ok : Task → Bool) : State :=
  let r := (s.core core).oclmQ.foldl (fun (r : State × List (Nat × Nat × Nat)) e =>
    match r.1.task? e.1 with
    | some t =>
      if (t.st .m).status != .waiting .slots then r
      else if ok t && (r.1.core core).slotsFree e.2.1 e.2.2 && !(r.2.any (slotsMeet e)) then
        (r.1.grantOclm t e.2.1 e.2.2, r.2)
      else (r.1, r.2 ++ [e])
    | none => r) (s, [])
  r.1.setCore core { r.1.core core with oclmQ := r.2 }

/-- Slots that nothing holds any more pass on (R242), outside deterministic launches to the waiting OCLMs at once. -/
def State.passSlots (s : State) (core : Nat) : State :=
  let x := s.core core
  let s := s.setCore core { x with owners := x.owners.filter fun p => s.slotKept p.2 p.1 }
  s.serveOclm core fun t => !t.det

/-- The slots of its core that are held, as a task of a deterministic launch finds them until the next commit (R302). -/
def State.noteSlots (s : State) (u : Nat) : State :=
  s.mapTask u fun t => { t with slotsAt := (s.core (s.coreOf t)).owners.map (·.1) }

/-- What an OCLM of a deterministic launch waits for at issue (R302): its turn among the tasks of the launch on the
core; with slots held at the last commit, or with an OCLM of the launch blocked on one, a commit; with slots that
another launch has taken since, their release; with slots that a task of the launch has claimed since, a commit (log
70). -/
def State.oclmWait (s : State) (t : Task) (b n : Nat) : Option Wait :=
  let x := s.core (s.coreOf t)
  let mine := fun (u : Nat) => (s.task? u).any fun y => y.launch == t.launch
  let queued := x.oclmQ.any fun f => f.1 != t.uid && mine f.1 && slotsMeet (t.uid, b, n) f
  if !(s.claimTurn t) then some .turn
  else if queued || (t.slotsAt.any fun i => decide (b ≤ i) && decide (i < b + n)) then some .slots
  else if x.slotsFree b n then none
  else if x.owners.any fun p => decide (b ≤ p.1) && decide (p.1 < b + n) && mine p.2 then some .slots
  else some (.outside b n)

/-- OCLM (R241): the whole claim at once, or a wait in order of arrival; in a deterministic launch by the slots of the last
commit (R302). -/
def execOclm (b : BitVec 6) (n : BitVec 7) (s : State) : Out State Fault Refusal :=
  issue .matrix s fun t k =>
    if t.claim.isSome then trapWith clsMatrix 5
    else
      let core := s.coreOf t
      let x := s.core core
      let e := (t.uid, b.toNat, n.toNat)
      let q := x.oclmQ.filter fun f => f.1 != t.uid
      if t.det then
        match s.oclmWait t e.2.1 e.2.2 with
        | none =>
          let (s, t) := s.takeSlots t e.2.1 e.2.2
          .ok (s.retire t k (t.st k) 2)
        | some .slots => .ok ((s.setCore core { x with oclmQ := q ++ [e] }).stall t k .slots)
        | some w => .error (.wait w)
      else if x.slotsFree e.2.1 e.2.2 && !(q.any (slotsMeet e)) then
        let (s, t) := s.takeSlots t e.2.1 e.2.2
        .ok (s.retire t k (t.st k) 2)
      else .ok ((s.setCore core { x with oclmQ := q ++ [e] }).stall t k .slots)

/-- ORLS (R242): the claim ends at once; the slots pass on when no operation touches them, in a deterministic launch
at the commit (R302). -/
def execOrls (s : State) : Out State Fault Refusal :=
  issue .matrix s fun t k =>
    match t.claim with
    | none => .ok (s.retire t k (t.st k) 2)
    | some (b, n) =>
      let t' := { t with claim := none }
      if t.det then .ok (s.buffer t' k (.orls b n) false 2)
      else .ok ((s.retire t' k (t'.st k) 2).passSlots (s.coreOf t))

/-- MSEED (R253). -/
def execMseed (a : BitVec 5) (s : State) : Out State Fault Refusal :=
  issue .matrix s fun t k => .ok (s.retire { t with srseed := (t.st k).reg a } k (t.st k) 2)

end Sys2Proof.Machine
end

