-- ==== Sys2Proof/Machine/Engine.lean ====
section
/-! DEFINITION. The engines: footprints (R106, R107, R240), the checks at issue (R237, R239), the start of an operation
(R233, R234), its status word (R238), its completion actions (R120, R121, R314) and the delivered traps (R391). -/
namespace Sys2Proof.Machine

/-! ## Footprints -/

/-- Two ranges of one resource meet, one of them writing (R107). -/
def Fp.clash (x y : Fp) : Bool :=
  x.sp == y.sp && decide (x.lo < x.hi) && decide (y.lo < y.hi) && decide (x.lo < y.hi) && decide (y.lo < x.hi) &&
  (x.wr || y.wr)

/-- Two footprints conflict. -/
def footClash (f g : List Fp) : Bool := f.any fun x => g.any fun y => x.clash y

/-- The scratch window's first address (R86). -/
def winBase : Nat := 0x01FFF00000000000

/-- The footprint of a range of addresses: global bytes, and the scratch bytes that a window reaches; a range that begins
below the window may run on into it. -/
def State.fpVa (s : State) (a : Accessor) (va n : Nat) (wr : Bool) : List Fp :=
  let win := fun (va n : Nat) => match s.window a va with
    | .here (.scr b o) => [{ sp := .scr b, lo := o, hi := o + n, wr := wr : Fp }]
    | _ => []
  if inWindow va then win va n
  else if va < winBase && decide (winBase < va + n) then
    { sp := .glob, lo := va, hi := winBase, wr := wr } :: win winBase (va + n - winBase)
  else [{ sp := .glob, lo := va, hi := va + n, wr := wr }]

/-- The footprint of a scratch range of the task's block. -/
def Task.fpScr (t : Task) (off n : Nat) (wr : Bool) : Fp := { sp := .scr t.block, lo := off, hi := off + n, wr := wr }
/-- The footprint of slots. -/
def fpSlot (b n : Nat) (wr : Bool) : Fp := { sp := .slot, lo := b, hi := b + n, wr := wr }
/-- The footprint of acc tiles. -/
def Task.fpAcc (t : Task) (c n : Nat) (wr : Bool) : Fp := { sp := .acc t.uid, lo := c, hi := c + n, wr := wr }
/-- The footprint of a queue register. -/
def fpQueue (q : Nat) (wr : Bool) : Fp := { sp := .queue, lo := q, hi := q + 1, wr := wr }

/-- The task's operations that a footprint of the matrix stream must wait for: those that it overlaps and follows (R17,
R107). -/
def State.blockers (s : State) (t : Task) (foot : List Fp) : List Nat :=
  let seen := s.seenBy t .m
  ((t.mops.filter fun o => footClash o.foot foot) ++
    t.cops.filter fun o => decide (o.seq < nth seen StreamId.c.idx 0) && footClash o.foot foot).map (·.id)

/-- The operations of a task that one of its operations follows (R17): of the matrix stream, then of the copy stream. -/
def Task.before (t : Task) (o : AsyncOp) : List AsyncOp :=
  (t.mops.filter fun e => decide (e.seq < nth o.seen StreamId.m.idx 0)) ++
  t.cops.filter fun e => decide (e.seq < nth o.seen StreamId.c.idx 0)

/-- An operation may complete: nothing that it overlaps and follows is outstanding, of its own task or for an MMAP of its
follower (R17, R107, R235, R249), and its block is resident. -/
def State.mayComplete (s : State) (t : Task) (o : AsyncOp) (inOrder : Bool) : Bool :=
  (match s.blockOf t with
    | some b => b.st == .resident
    | none => false) &&
  !((t.before o).any fun e => footClash e.foot o.foot) &&
  !((((o.follower.bind s.task?).map (·.mops)).getD []).any fun e => decide (e.seq < o.seq) && footClash e.foot o.foot) &&
  !(inOrder && t.mops.any fun e => decide (e.seq < o.seq) && e.board.isNone)

/-- The operations of the array of a core that have become ready take their places, each on every array that it takes
(R235). -/
def State.noteArray (s : State) (core : Nat) : State :=
  let ops := s.tasks.flatMap fun t => (t.mops.filter fun o =>
    onArray o.instr && (s.opCores t o).contains core && s.mayComplete t o true).map fun o => (t, o)
  (sortOn (fun (p : Task × AsyncOp) => p.2.seq) ops).foldl (fun s p =>
    (s.opCores p.1 p.2).foldl (fun s c => s.joinArray c (p.1.uid, some p.2.id)) s) s

/-! ## Checks at issue -/

/-- The size of a task's block allocation. -/
def State.scrSize (s : State) (t : Task) : Nat := ((s.blockOf t).map (·.size)).getD 0

/-- SCRBOUND and ALIGN of a range at a scratch offset (R86, R93). -/
def State.scrBad (s : State) (t : Task) (off n al : Nat) : List (Nat × Nat) :=
  let size := s.scrSize t
  (if n != 0 && decide (size < off + n) then [(4, winBase + Nat.max off size)] else []) ++
  (if off % al != 0 then [(5, winBase + off)] else [])

/-- What a copy checks of an address range at issue (R237): NONCANON and NULL over a global bounding range, WINDOW and
SCRBOUND over a window range. -/
def State.copyBad (s : State) (a : Accessor) (va n : Nat) : List (Nat × Nat) :=
  let win := fun (va n : Nat) => match s.window a va with
    | .here (.scr b o) =>
      let size := ((s.block? b).map (·.size)).getD 0
      if size < o + n then [(4, va + (size - o))] else []
    | .bad k => [(k, va)]
    | _ => []
  if n = 0 then []
  else if inWindow va then win va n
  else
    (if 2 ^ 57 < va + n then [(1, Nat.max va (2 ^ 57))] else []) ++ (if va < 0x10000 then [(2, va)] else []) ++
    (if va < winBase && decide (winBase < va + n) then win winBase (va + n - winBase) else [])

/-- The lowest sub-code of a list of conditions with their addresses, the earlier of equals (R93). -/
def lowestCond (l : List (Nat × Nat)) : Option (Nat × Nat) :=
  l.foldl (fun best c => match best with
    | none => some c
    | some b => if c.1 < b.1 then some c else some b) none

/-- The future that an action field names, by its address (R120, R121). -/
def futOf (st : StreamSt) (act : Act) : Option Dword :=
  if act.fut = 0 then none else some (st.pair (BitVec.ofNat 4 (act.fut.toNat + 7)))

/-- The MEMORY conditions of the future's address (R121, R157). -/
def State.futBad (s : State) (a : Accessor) (fut : Option Dword) : List (Nat × Nat) :=
  match fut with
  | none => []
  | some f =>
    let va := f.toNat
    (if inWindow va then [(3, va)] else []) ++ (s.badRange a va 16 16 true).toList

/-- SEM, RANGE for the semaphore of the action field (R18, R239 step 1). -/
def semRange (t : Task) (act : Act) : Except Stop Unit :=
  if act.sige = 1 && decide (t.nsems ≤ act.sem.toNat) then trapWith clsSem 1 else .ok ()

/-- The record that an instruction reads at issue (R239 step 2): MEMORY with ALIGN, POISON, then a page that is away. -/
def State.readRecord (s : State) (t : Task) (va : Nat) : Except Stop (List Byte) :=
  let a := t.accessor s
  match s.badRange a va 64 64 false with
  | some (sub, ad) => trapWith clsMemory sub ad
  | none =>
    let q := if t.det then t.allQueued else []
    match s.poisonRange a va 64 false (s.clearFor t q) with
    | some (sub, ad) => trapWith clsPoison sub ad
    | none =>
      match s.awayRange a va 64 false with
      | some (v, pte, e) => .error (s.awayStop t v pte e)
      | none => .ok ((s.locs a va 64 false).map fun l => (queueByte q l).getD (if t.det then s.byteAt l else s.seenByte a.core l))

/-- What an instruction checks at issue after its MATRIX conditions: its own MEMORY conditions; for a matrix instruction
the global ranges with their alignment as (address, bytes, writes); the slots that it reads (R109, R236, R239). -/
structure IssueChk where
  bad : List (Nat × Nat) := []
  ranges : List (Nat × Nat × Bool) := []
  slots : List Nat := []

/-- Steps 3 to 6 of R239: MATRIX, MEMORY with the FUT address, POISON, a page that is away. -/
def State.issueChecks (s : State) (t : Task) (matrix : List Nat) (fut : Option Dword) (c : IssueChk) : Except Stop Unit :=
  let a := t.accessor s
  match lowestCond (matrix.map fun m => (m, 0)) with
  | some (m, _) => trapWith clsMatrix m
  | none =>
    match lowestCond (c.bad ++ c.ranges.flatMap (fun r => (s.badRange a r.1 r.2.1 1 r.2.2).toList) ++ s.futBad a fut) with
    | some (sub, ad) => trapWith clsMemory sub ad
    | none =>
      if c.slots.any fun i => (s.core a.core).slotPoison.contains i then trapWith clsPoison 4
      else
        let all := c.ranges ++ (match fut with
          | some f => [(f.toNat, 16, true)]
          | none => [])
        let clear := s.clearFor t (if t.det then t.allQueued else [])
        match all.findSome? fun r => s.poisonRange a r.1 r.2.1 r.2.2 clear with
        | some (sub, ad) => trapWith clsPoison sub ad
        | none =>
          match all.findSome? fun r => s.awayRange a r.1 r.2.1 r.2.2 with
          | some (v, pte, e) => .error (s.awayStop t v pte e)
          | none => .ok ()

/-- The pieces of a range, each from its first place on. -/
def State.pieceLocs (s : State) (a : Accessor) (va n : Nat) (wr : Bool) : List (Loc × Nat) :=
  (rangePieces va n).filterMap fun p => match s.place a p.1 wr with
    | .here l => some (l, p.2)
    | _ => none

/-- The places of pieces, byte by byte. -/
def expandPieces (ps : List (Loc × Nat)) : List Loc :=
  ps.flatMap fun p => match p.1 with
    | .mem pa => (idxFrom pa p.2).map Loc.mem
    | .scr b o => (idxFrom o p.2).map (Loc.scr b)

/-! ## The start of an operation -/

/-- The actions as captured at issue (R121, R240). -/
def State.captureAct (s : State) (t : Task) (act : Act) (fut : Option Dword) (bytes : Nat) : ActCap :=
  { stat := if act.stat = 31 then none else some act.stat,
    sem := if act.sige = 1 then some act.sem.toNat else none,
    bar := if act.byte = 1 then some act.bar.toNat else none,
    bytes := bytes,
    fut := fut.bind fun f => match s.place (t.accessor s) f.toNat true with
      | .here (.mem pa) => some (f, pa)
      | _ => none }

/-- An operation holds a deterministic quantum: it writes memory or scratch, or carries a SIG, BYTE or FUT (R299). -/
def AsyncOp.holdsQuantum (o : AsyncOp) : Bool :=
  o.act.sem.isSome || o.act.bar.isSome || o.act.fut.isSome || o.foot.any fun f => f.wr && match f.sp with
    | .scr _ | .glob => true
    | _ => false

/-- A new operation of a stream, before its footprint and values are filled in. -/
def State.newOp (s : State) (t : Task) (k : StreamId) (i : Instr) (act : ActCap) (foot : List Fp) (vals : List Nat) :
    AsyncOp :=
  { id := s.uid, seq := s.seq, instr := i, vals := vals, record := [], xl := [], act := act, pc := (t.st k).pc,
    foot := foot, fpmode := (t.st k).fpmode, srseed := t.srseed, srcnt := (t.st k).srcnt, board := none,
    follower := none, pages := [], prog := 0, fault := none, hurt := none, num := t.copies, readAt := s.seq,
    path := dedup ((s.core (s.coreOf t)).out.flatten.map fun p => slotAt p.1), seen := s.seenBy t k, key := s.freeAt t k, out := none }

/-- The operation starts and its instruction retires (R233); in a deterministic launch its place among the buffered
effects is kept (R303). -/
def State.startOp (s : State) (t : Task) (k : StreamId) (o : AsyncOp) : State :=
  let st := t.st k
  let st := if t.det && o.holdsQuantum then { st with queue := st.queue ++ [{ seq := s.seq, pc := st.pc, eff := .op o.id }] } else st
  let t := if k = .m then { t with mops := t.mops ++ [o] } else { t with cops := t.cops ++ [o], copies := t.copies + 1 }
  ({ s with uid := s.uid + 1, seq := s.seq + 1 }.retire t k st 2).noteArray (s.coreOf t)

/-- A matrix instruction issues (R233, R234, R239): it waits for room and for its footprint, is checked, and starts. -/
def State.matrixIssue (s : State) (t : Task) (k : StreamId) (i : Instr) (act : Act) (foot : List Fp) (bytes : Nat)
    (matrix : List Nat) (chk : IssueChk) (vals : List Nat := []) (fill : AsyncOp → AsyncOp := id) : Except Stop State := do
  if 8 ≤ t.mops.length then throw (.wait .engine)
  let ops := s.blockers t foot
  if !ops.isEmpty then throw (.wait (.hazard ops))
  semRange t act
  let fut := futOf (t.st k) act
  s.issueChecks t matrix fut chk
  let xl := chk.ranges.flatMap fun r => s.pieceLocs (t.accessor s) r.1 r.2.1 r.2.2
  let s := chk.ranges.foldl (fun s r => s.tlbFillRange (t.accessor s) r.1 r.2.1) s
  let o := s.newOp t k i (s.captureAct t act fut bytes) foot vals
  return s.startOp t k (fill { o with xl := xl })

/-- A copy instruction issues at once (R233): it waits only for room among the 64. -/
def State.copyIssue (s : State) (t : Task) (k : StreamId) (i : Instr) (act : Act) (foot : List Fp) (bytes : Nat)
    (matrix : List Nat) (chk : IssueChk) (vals : List Nat := []) (record : List Byte := []) : Except Stop State := do
  let fut := futOf (t.st k) act
  s.issueChecks t matrix fut chk
  let o := s.newOp t k i (s.captureAct t act fut bytes) foot vals
  return s.startOp t k { o with record := record }

/-- What every copy instruction checks first: room among the 64 operations, and SEM, RANGE (R234, R239). -/
def copyFirst (t : Task) (act : Act) : Except Stop Unit := do
  if 64 ≤ t.cops.length then throw (.wait .engine)
  semRange t act

/-! ## Completion -/

/-- The place of a delivered condition in the order of R391. -/
def Cond.rank (c : Cond) : Nat :=
  if c.cls = clsAsync then 0 else if c.cls = clsMatrix then 1 else if c.cls = clsArith then 2
  else if c.cls = clsPoison then 3 else if c.cls = clsFuture then 4 else 5

/-- The ALSO bit of a condition (R392). -/
def Cond.also (c : Cond) : BitVec 4 :=
  if c.cls = clsArith then 1 else if c.cls = clsPoison then 2 else if c.cls = clsFuture then 4
  else if c.cls = clsSem then 8 else 0

/-- The conditions of one operation become one pending delivered trap (R391); a task that KILL or an unhandled trap has
ended discards it (R23). -/
def Task.deliverConds (t : Task) (k : StreamId) (cs : List Cond) : Task :=
  if t.fate.isSome then t else
  match sortOn Cond.rank cs with
  | [] => t
  | c :: rest =>
    t.deliver { cls := c.cls, sub := c.sub, stream := k, info := c.info, also := (rest.map Cond.also).foldl (· ||| ·) 0 }

/-- A SIG action (R16 to R18): a count above 255 becomes 255. -/
def Task.sigAction (t : Task) (i : Nat) (seen : List Nat) : Task × Bool :=
  if t.sem i < 255 then ((t.noteSig i 1 seen).addSem i 1, false) else (t.setSem i 255, true)

/-- The SIG, BYTE and FUT actions of an operation take effect in this order (R233), and its delivered conditions are
queued; the continuation records that the FUT releases are returned. -/
def State.runActs (s : State) (u : Nat) (k : StreamId) (pc : Dword) (act : ActCap) (status : Word) (conds : List Cond)
    (follower : Option Nat) (seen : List Nat) : State × List RecRef :=
  match s.task? u with
  | none => (s, [])
  | some t =>
    let (t, ov) := match act.sem with
      | some i => t.sigAction i seen
      | none => (t, false)
    let s := s.setTask t
    let (s, ovf) := match act.sem, follower.bind s.task? with
      | some i, some f =>
        let (f, o) := f.sigAction i [0, 0, 0, 0]
        (s.setTask f, o)
      | _, _ => (s, false)
    let s := match act.bar with
      | some b => s.deliverBytes t.block b act.bytes
      | none => s
    let (s, fc, recs) := match act.fut with
      | none => (s, [], [])
      | some (va, pa) =>
        if s.locPoison (.mem pa) then (s, [{ cls := clsPoison, sub := 1, info := va : Cond }], [])
        else
          match s.resolve pa status false with
          | (s, none, recs) => (s.homeOp t pa, [], recs)
          | (s, some _, _) => (s, [{ cls := clsFuture, sub := 3, info := pc : Cond }], [])
    let sc := if ov || ovf then [{ cls := clsSem, sub := 2, info := 0 : Cond }] else []
    (s.mapTask u fun t => t.deliverConds k (conds ++ fc ++ sc), recs)

/-- A copy's bytes reach their homes; each granule that received a poisoned byte is poisoned (R90, R108). -/
def State.applyCopied (s : State) (core : Nat) (bytes : List (Loc × Byte)) (poison : List Loc) : State :=
  (poison.foldl State.setPoison (s.applyBytes bytes)).l1Drop core (bytes.map (·.1))

/-- The slots of a core after an operation's writes (R108). -/
def CoreSt.putSlots (x : CoreSt) (o : OpOut) : CoreSt :=
  { x with slots := o.slots.foldl (fun m r => m.writeBytes r.1 r.2) x.slots,
           slotPoison := dedup (o.slotBad ++ x.slotPoison.filter fun n => !(o.slotWhole.contains n)) }

/-- The slots of a core after an operation's writes, if it writes any. -/
def State.putSlots (s : State) (core : Nat) (o : OpOut) : State :=
  if o.slots.isEmpty then s else s.setCore core ((s.core core).putSlots o)

/-- The status word (R238): SUB and OFFSET of a fault, or the first poisoned offset; offsets in bytes. -/
def statusWord (fault : Option (Nat × Nat)) (hurt : Option Nat) : Word :=
  let sat := fun (o : Nat) => Nat.min 0xFFFFFF (o / 32)
  BitVec.ofNat 32 (2 ^ 31 + hurt.isSome.toNat * 2 ^ 29 + (match fault, hurt with
    | some (off, sub), _ => 2 ^ 30 + sub * 2 ^ 24 + sat off
    | none, some off => sat off
    | none, none => 0))

/-- The operations that follow one which has written read what it wrote or something later (R107). -/
def Task.readAfter (t : Task) (o : AsyncOp) (k : StreamId) (seq : Nat) : Task :=
  let on := fun (e : AsyncOp) => if decide (o.seq < nth e.seen k.idx 0) && footClash o.foot e.foot then { e with readAt := seq } else e
  { t with mops := t.mops.map on, cops := t.cops.map on }

/-- The buffered entries of a completed operation take the place of its own (R303). -/
def replaceOp (q : List QEntry) (id seq : Nat) (pc : Dword) (es : List Eff) : List QEntry :=
  let new := es.map fun e => { seq := seq, pc := pc, eff := e : QEntry }
  if q.any fun e => e.eff == .op id then q.flatMap fun e => if e.eff == .op id then new else [e]
  else (q.filter fun e => decide (e.seq < seq)) ++ new ++ q.filter fun e => decide (seq ≤ e.seq)

/-- What the completion action of an operation orders before its observer (R17, R101): the operation and what it follows. -/
def AsyncOp.after (o : AsyncOp) (k : StreamId) : List Nat := o.seen.set k.idx (o.seq + 1)

/-- An operation completes (R233): its writes, its flags (R45, R46), its status word, its actions and its delivered
traps; slots that it touched pass on (R242), and R19 is tested, of the follower of an MMAP too. -/
def State.finishOp (s : State) (u : Nat) (k : StreamId) (o : AsyncOp) (x : OpOut) : State :=
  match s.task? u with
  | none => s
  | some t =>
    let t := { t with mops := t.mops.filter (·.id != o.id), cops := t.cops.filter (·.id != o.id) }
    let st := (t.st k).orFlags x.flags
    let st := match o.act.stat with
      | some d => st.setReg d x.status
      | none => st
    let t := t.setSt k st
    let arith := if k = .m then ((lowestEnabled o.fpmode x.flags).map fun f =>
      { cls := clsArith, sub := f + 1, info := o.pc : Cond }).toList else []
    let conds := x.conds ++ arith
    let act := if x.acts then o.act else { o.act with sem := none, bar := none, fut := none }
    let s := s.putSlots (s.coreOf t) x
    if t.det then
      let es := (if x.writes.isEmpty && x.poison.isEmpty then [] else [.copied x.writes x.poison]) ++
        (if x.rmws.isEmpty then [] else [.atom x.rmws]) ++
        (if act.sem.isNone && act.bar.isNone && act.fut.isNone && conds.isEmpty then []
         else [.acts act x.status conds o.follower (o.after k)])
      let st := t.st k
      ((s.setTask (t.setSt k { st with queue := replaceOp st.queue o.id o.seq o.pc es })).passSlots (s.coreOf t)).noteArray
        (s.coreOf t)
    else
      let core := s.coreOf t
      let t := t.readAfter o k s.seq
      let s := (s.setTask t).applyCopied core x.writes x.poison
      let s := x.rmws.foldl (fun s r => (s.applyRmw core r).1) s
      let (s, recs) := ({ s with seq := s.seq + 1 } : State).runActs u k o.pc act x.status conds o.follower (o.after k)
      let s := (o.follower.toList ++ [u]).foldl State.testDeadlock (s.passSlots core)
      State.settle (s.noteArray core, recs)

/-- Distinct numbers of the choices that an operation makes on slots. -/
def slotCode : Loc → Nat
  | .mem n => 2 * n
  | .scr b n => 2 * (b * 2 ^ 20 + n) + 1

/-- What becomes of the outcome of an operation that has run: it completes, or a part of it lands. -/
abbrev Finish := State → Nat → StreamId → AsyncOp → OpOut → State

/-- A part of an operation's writes lands before it completes (R107): a load of its destination returns old or new values by
8-byte units, which of them new being free (log 5). The operation keeps its outcome, from which it completes; a
read-modify-write acts once. -/
def State.landSome (s : State) (u : Nat) (k : StreamId) (o : AsyncOp) (x : OpOut) : State :=
  match s.task? u with
  | none => s
  | some t =>
    let core := s.coreOf t
    let now := fun (g : Loc) => Config.choice s.fresh (8000000 + slotCode g)
    let nowR := fun (r : Rmw) => (r.locs.head?).any fun l => now (slotAt l)
    let ws := x.writes.filter fun w => now (slotAt w.1)
    let mem := (s.core core).slots
    let nowS := fun (i : Nat) => now (.scr 0 (i / 8))
    let runs := x.slots.map fun r => (r.1, (r.2.zip (idxFrom r.1 r.2.length)).map fun p => if nowS p.2 then p.1 else mem.read p.2)
    let bad := x.slotBad.filter fun n => x.slots.any fun r => (idxFrom r.1 r.2.length).any fun i => i / 4352 == n && nowS i
    let keep := fun (e : AsyncOp) => if e.id == o.id then { e with out := some { x with rmws := x.rmws.filter fun r => !(nowR r) } } else e
    let s := s.setTask (if k = .m then { t with mops := t.mops.map keep } else { t with cops := t.cops.map keep })
    let s := (s.putSlots core { slots := runs, slotBad := bad }).applyCopied core ws
      (x.poison.filter fun g => ws.any fun w => granule w.1 == g)
    let s := (x.rmws.filter nowR).foldl (fun s r => (s.applyRmw core r).1) s
    { s with seq := s.seq + 1 }

/-- A byte that an operation reads (R107): of each 8-byte slot the value that it holds or one that it has held since the
operation issued, which one being free (log 5). In a deterministic launch the task's buffered writes ahead of the operation
lie over committed memory (R300). -/
def State.opByte (s : State) (t : Task) (o : AsyncOp) (l : Loc) : Byte :=
  if t.det then (queueByte (t.allQueued.filter fun e => decide (e.seq < o.seq)) l).getD (s.byteAt l)
  else
    let g := slotAt l
    byteIn (s.pickVal (7000000 + slotCode g) (if o.path.contains g then [s.slotVal g] else s.slotValues o.readAt g)) l

/-- A byte that an operation reads lies in a poisoned granule. -/
def State.opPoison (s : State) (t : Task) (o : AsyncOp) (l : Loc) : Bool :=
  s.locPoison l && !(t.det && (clearedBy (t.allQueued.filter fun e => decide (e.seq < o.seq))).contains (granule l)) ||
  (t.det && t.allQueued.any fun e => decide (e.seq < o.seq) && match e.eff with
    | .copied _ bad => bad.contains (granule l)
    | _ => false)

end Sys2Proof.Machine
end

