-- ==== Sys2Proof/Machine/Tensor.lean ====
section
/-! DEFINITION. Tensor layout records and the addresses of their elements (R255). -/
namespace Sys2Proof.Machine

/-- The fields of a tensor layout record (R255); the lists run over the dimensions 0 to 5. -/
structure Tensor where
  base : Nat
  sbase : Nat
  ext : List Nat
  str : List Nat
  box : List Nat
  type : Nat
  ndim : Nat
  swz : Nat
  fill : Nat
  spare : Nat
  deriving DecidableEq, Repr

/-- A little-endian field of bytes. -/
def recField (b : List Byte) (off n : Nat) : Nat := leNat ((b.drop off).take n)

/-- A record from its 64 bytes. -/
def tensorOf (b : List Byte) : Tensor :=
  { base := recField b 0 8, sbase := recField b 8 8,
    ext := (upto 6).map fun d => recField b (16 + 3 * d) 3,
    str := 0 :: (upto 5).map fun d => recField b (34 + 4 * d) 4,
    box := (upto 6).map fun d => recField b (54 + d) 1 + 1,
    type := recField b 60 1 % 32, ndim := recField b 60 1 / 32 + 1, swz := recField b 61 1 % 4,
    fill := recField b 62 2, spare := recField b 61 1 / 4 }

/-- Bits of an element by its type code (R53, R190). -/
def typeBits (t : Nat) : Nat :=
  if t = 1 || t = 12 || t = 13 then 64
  else if t = 0 || t = 10 || t = 11 then 32
  else if t = 2 || t = 3 then 16
  else if t = 6 || t = 7 then 6
  else if t = 8 then 4
  else 8

/-- A type that an MX tensor may have (R255). -/
def typeMx (t : Nat) : Bool := (4 ≤ t && t ≤ 8) || t == 14

/-- A record that keeps the rules of R255; dimensions at or above NDIM take no part. -/
def Tensor.ok (r : Tensor) : Bool :=
  r.type < 15 && r.ndim ≤ 6 && r.spare == 0 && r.base % 16 == 0 &&
  ((r.ext.take r.ndim).all (· != 0)) &&
  (r.sbase == 0 || (typeMx r.type && nth r.box 0 1 % 32 == 0))

/-- The extent of a dimension: 1 at or above NDIM. -/
def Tensor.extOf (r : Tensor) (d : Nat) : Nat := if d < r.ndim then nth r.ext d 1 else 1
/-- The box size of a dimension: 1 at or above NDIM. -/
def Tensor.boxOf (r : Tensor) (d : Nat) : Nat := if d < r.ndim then nth r.box d 1 else 1

/-- The offset in bits of an element from BASE (R255). -/
def Tensor.bitOff (r : Tensor) (j : List Int) : Int :=
  (nth j 0 0) * (typeBits r.type : Int) +
  128 * (((idxFrom 1 (r.ndim - 1)).map fun d => nth j d 0 * Int.ofNat (nth r.str d 0)).foldl (· + ·) 0)

/-- A coordinate lies in the tensor. -/
def Tensor.inside (r : Tensor) (j : List Int) : Bool :=
  (upto r.ndim).all fun d => decide (0 ≤ nth j d 0) && decide (nth j d 0 < (r.extOf d : Int))

/-- flat of R255: the dimensions 1 to NDIM − 1, j1 fastest. -/
def Tensor.flat (r : Tensor) (j : List Int) : Int :=
  (idxFrom 1 (r.ndim - 1)).foldr (fun d acc => nth j d 0 + (r.extOf d : Int) * acc) 0

/-- The address of the scale of an element's block (R255). -/
def Tensor.scaleAt (r : Tensor) (j : List Int) : Nat :=
  ((r.sbase : Int) + (ceilDiv (r.extOf 0) 32 : Int) * r.flat j + nth j 0 0 / 32).toNat

/-- The pattern of an element out of bounds (R255); of an element of 4 or 6 bits the low bits of FILL (DESIGN CHOICE,
log 98). -/
def Tensor.fillBits (r : Tensor) : Nat :=
  match typeBits r.type with
  | 64 => r.fill * 2 ^ 48
  | 32 => r.fill * 2 ^ 16
  | n => r.fill % 2 ^ n

end Sys2Proof.Machine
end

