-- ==== Sys2Proof/Machine/Matrix.lean ====
section
/-! DEFINITION. The matrix stream's tile and product instructions: MOLD (R243), MACZ and MACLD (R245), MMA and MMAP (R244,
R246 to R249) and MACST (R251, R252). Each has its checks at issue and its effect at completion. -/
namespace Sys2Proof.Machine

/-! ## Acc groups -/

/-- Where element (m, n) of the acc group C lies in a task's acc memory (R244). -/
def accAddr (c m n : Nat) : Nat := 16384 * (c + 2 * (m / 64) + n / 64) + 4 * (64 * (m % 64) + n % 64)

/-- An element of an acc group. -/
def Task.accGet (t : Task) (c m n : Nat) : Nat := t.acc.field (accAddr c m n) 4

/-- A write to acc tiles that meet acc0 to acc25 leaves the WFA undefined (R84). -/
def Task.spoilWfa (t : Task) (c : Nat) : Task := if c < 26 then { t with wfa := { t.wfa with defined := false } } else t

/-- Corners of tiles no longer hold the WFA (R84). -/
def Task.coverWfa (t : Task) (es : List (Nat × Nat × Nat)) : Task :=
  { t with wfaOver := t.wfaOver.map fun l => dedup (es ++ l) }

/-- The corners of the four tiles of an acc group that an m × n region covers (R244). -/
def groupCorners (c m n : Nat) : List (Nat × Nat × Nat) :=
  (upto 4).map fun q => (c + q, Nat.min 64 (m - 64 * (q / 2)), Nat.min 64 (n - 64 * (q % 2)))

/-- Write the elements (i, j, value) of an m × n region of an acc group. -/
def Task.accPut (t : Task) (c m n : Nat) (es : List (Nat × Nat × Nat)) : Task :=
  (({ t with acc := es.foldl (fun mm e => mm.setField (accAddr c e.1 e.2.1) 4 e.2.2) t.acc } : Task).spoilWfa c).coverWfa
    (groupCorners c m n)

/-- An element of an acc group lies where the WFA stood last (R84). -/
def Task.overWfa (t : Task) (c m n : Nat) : Bool :=
  let tile := c + 2 * (m / 64) + n / 64
  decide (tile < 26) && match t.wfaOver with
    | none => false
    | some l => !(l.any fun e => e.1 == tile && decide (m % 64 < e.2.1) && decide (n % 64 < e.2.2))

/-- An element of an acc group as an instruction reads it that does not work on the WFA: unspecified where the WFA stands
(R84; log 11). -/
def Task.accRead (t : Task) (fresh c m n : Nat) : Nat :=
  if t.overWfa c m n then (Config.freeWord fresh (9000000 + accAddr c m n)).toNat else t.accGet c m n

/-- m or n of a region: 16(Q + 1). -/
def quad (q : BitVec 3) : Nat := 16 * (q.toNat + 1)

/-- ACCRANGE for tiles up to `c + n − 1` (R239). -/
def Task.accRange (t : Task) (c n : Nat) : List Nat := if t.nacc < c + n then [2] else []
/-- SLOT for slots that the task has not claimed (R239). -/
def Task.slotChk (t : Task) (b n : Nat) : List Nat := if t.owns b n then [] else [1]

/-! ## MOLD -/

/-- MOLD (R243): the checks. -/
def execMold (act : Act) (b : BitVec 6) (n : BitVec 7) (a : BitVec 5) (side : Bool) (s : State) : Out State Fault Refusal :=
  issue .matrix s fun t k =>
    let off := ((t.st k).reg a).toNat
    let size := (if side then 4352 else 4096) * n.toNat
    s.matrixIssue t k (.mold act b n a side) act [t.fpScr off size false, fpSlot b.toNat n.toNat true] size
      (t.slotChk b.toNat n.toNat) { bad := s.scrBad t off size 64 } [off]

/-- A MOLD completes (R243): its slots, poisoned by any poisoned byte; only a whole slot clears poison (R108). The status
word's OFFSET counts the bytes that it writes (R238; log 32). -/
def State.doneMold (s : State) (t : Task) (o : AsyncOp) (b n : Nat) (side : Bool) : OpOut :=
  let size := if side then 4352 else 4096
  let off := o.vals.headD 0
  let locs := fun i => (idxFrom (off + size * i) size).map fun a => Loc.scr t.block a
  let first := ((upto n).flatMap fun i => (locs i).zip (idxFrom (size * i) size)).find? fun p => s.opPoison t o p.1
  { slots := (upto n).map fun i => ((b + i) * 4352, (locs i).map (s.opByte t o)),
    slotWhole := if side then idxFrom b n else [],
    slotBad := ((upto n).filter fun i => (locs i).any (s.opPoison t o)).map (b + ·),
    status := statusWord none (first.map (·.2)) }

/-! ## MACZ and MACLD -/

/-- MACZ (R245): the checks. -/
def execMacz (act : Act) (c k : BitVec 5) (s : State) : Out State Fault Refusal :=
  issue .matrix s fun t j =>
    let n := k.toNat + 1
    s.matrixIssue t j (.macz act c k) act [t.fpAcc c.toNat n true] 0 (t.accRange c.toNat n) {}

/-- A MACZ completes: +0.0 in every element of its tiles. -/
def Task.doneMacz (t : Task) (c n : Nat) : Task :=
  (({ t with acc := t.acc.filter fun p => p.1 < 16384 * c || 16384 * (c + n) ≤ p.1 } : Task).spoilWfa c).coverWfa
    ((idxFrom c n).map fun i => (i, 64, 64))

/-- The rows of a region in memory: `m` rows of `len` bytes, `pitch` apart from `va` on (addresses modulo 2^64). -/
def rowsAt (va : Nat) (pitch m : Nat) : List Nat := (upto m).map fun i => (va + i * pitch) % 2 ^ 64

/-- ALIGN of a base address. -/
def alignBad (va al : Nat) : List (Nat × Nat) := if va % al = 0 then [] else [(5, va)]

/-- SHAPE of a pitch (R245, R250, R251). -/
def pitchBad (p al : Nat) : List Nat := if p % al = 0 then [] else [8]

/-- MACLD (R245): the checks. -/
def execMacld (act : Act) (a : BitVec 4) (p c : BitVec 5) (mq nq : BitVec 3) (s : State) : Out State Fault Refusal :=
  issue .matrix s fun t k =>
    let st := t.st k
    let va := (st.pair a).toNat
    let pitch := (st.reg p).toNat
    let m := quad mq
    let n := quad nq
    let rows := rowsAt va pitch m
    s.matrixIssue t k (.macld act a p c mq nq) act
      (rows.flatMap (fun v => s.fpVa (t.accessor s) v (4 * n) false) ++ [t.fpAcc c.toNat 4 true]) (4 * m * n)
      (t.accRange c.toNat 4 ++ pitchBad pitch 16)
      { bad := alignBad va 16, ranges := rows.map fun v => (v, 4 * n, false) }

/-- A MACLD completes: its elements are in the group. -/
def State.doneMacld (s : State) (t : Task) (o : AsyncOp) (c m n : Nat) : Task :=
  let bs := (expandPieces o.xl).map (s.opByte t o)
  t.accPut c m n ((upto m).flatMap fun i => (upto n).map fun j => (i, j, recField bs (4 * (i * n + j)) 4))

/-! ## Products -/

/-- The element format of an MMA code, whether it is an MX format, K, the slots w, the row bytes RB and the length of
the unit of exact summation (R67, R246). -/
def mmaFmt (code : Nat) : MxFmt × Bool × Nat × Nat × Nat × Nat :=
  match code with
  | 0 => (.i8, false, 64, 2, 64, 64)
  | 1 => (.i8, true, 64, 2, 64, 32)
  | 2 => (.fp .e4m3, false, 64, 2, 64, 32)
  | 3 => (.fp .e5m2, false, 64, 2, 64, 32)
  | 4 => (.fp .e4m3, true, 64, 2, 64, 32)
  | 5 => (.fp .e5m2, true, 64, 2, 64, 32)
  | 6 => (.fp .e2m3, true, 128, 3, 96, 32)
  | 7 => (.fp .e3m2, true, 128, 3, 96, 32)
  | 8 => (.fp .e2m1, true, 128, 2, 64, 32)
  | 9 => (.fp .bf16, false, 32, 2, 64, 16)
  | _ => (.fp .f16, false, 32, 2, 64, 16)

/-- K of a format. -/
def mmaK (code : Nat) : Nat := (mmaFmt code).2.2.1
/-- Slots of an operand. -/
def mmaW (code : Nat) : Nat := (mmaFmt code).2.2.2.1
/-- The unit of exact summation. -/
def mmaUnit (code : Nat) : Nat := (mmaFmt code).2.2.2.2.2

/-- Bits of an element. -/
def MxFmt.bits : MxFmt → Nat
  | .i8 => 8
  | .fp f => f.width

/-- A NaN of an 8-bit or MX format counts as quiet (R68). -/
def quietNaN : FVal → FVal
  | .nan n p _ => .nan n p false
  | v => v

/-- The K values of row `r` (or column) of the operand in the slots from `b` on (R66, R247). -/
def operandRow (sl : Memory) (b code r : Nat) : List FVal :=
  let (f, mx, kk, _, rb, _) := mmaFmt code
  let bits := leNat ((idxFrom (rb * r) rb).map fun i => sl.read (slotAddr b i))
  (upto kk).map fun j =>
    let v := f.decode (bitsOf bits (j * f.bits) f.bits)
    let v := if code < 9 then quietNaN v else v
    if mx then blockValue (sl.read (sideAddr b (128 * (j / 32) + r))).toNat v else v

/-- The K integers of row `r` of an i8 operand. -/
def operandInts (sl : Memory) (b r : Nat) : List Int :=
  (idxFrom (64 * r) 64).map fun i => (sl.read (slotAddr b i)).toInt

/-- One FP32 output element: its blocks or groups in ascending K (R67, R68). -/
def dotInto (unit : Nat) (xs ys : List FVal) (c : Nat) : FRes :=
  (groupsOf unit xs.length (xs.zip ys)).foldl (fun (r : FRes) g =>
    let q := (g.foldl (fun (s : AccSum) p => s.addProd p.1 p.2) .zero).into r.bits
    { bits := q.bits, flags := r.flags ||| q.flags }) { bits := c, flags := 0 }

/-- One INT32 output element: exact over the whole K, wrapping with INTOVF (R67). -/
def dotInts (xs ys : List Int) (c : Nat) : FRes :=
  let t := ((xs.zip ys).map fun p => p.1 * p.2).foldl (· + ·) (BitVec.ofNat 32 c).toInt
  { bits := (t % 2 ^ 32).toNat, flags := flagIf (decide (t < -2 ^ 31) || decide (2 ^ 31 ≤ t)) flagIntovf }

/-- The elements (i, j, result) of a product of the slots from `sa` and `sb` on, over the group C of a task, and the
flags (R248). What an undefined WFA leaves in the group is unspecified (R84). -/
def Task.product (t : Task) (fresh : Nat) (sl : Memory) (fa fb sa sb c m n : Nat) (z : Bool) :
    List (Nat × Nat × Nat) × FFlags :=
  let start := fun i j => if z then 0 else if t.wfa.defined then t.accGet c i j else t.accRead fresh c i j
  let rs : List (Nat × Nat × FRes) :=
    if fa = 0 then
      let bs := (upto n).map fun j => operandInts sl sb j
      (upto m).flatMap fun i =>
        let xs := operandInts sl sa i
        (bs.zip (upto n)).map fun p => (i, p.2, dotInts xs p.1 (start i p.2))
    else
      let bs := (upto n).map fun j => operandRow sl sb fb j
      (upto m).flatMap fun i =>
        let xs := operandRow sl sa fa i
        (bs.zip (upto n)).map fun p => (i, p.2, dotInto (mmaUnit fa) xs p.1 (start i p.2))
  (rs.map fun r => (r.1, r.2.1, r.2.2.bits), rs.foldl (fun f r => f ||| r.2.2.flags) 0)

/-- MMA (R246, R248): the checks. -/
def execMma (act : Act) (sa sb : BitVec 6) (c : BitVec 5) (mq nq : BitVec 3) (fa fb : BitVec 4) (z : Bool) (s : State) :
    Out State Fault Refusal :=
  issue .matrix s fun t k =>
    let w := mmaW fa.toNat
    s.matrixIssue t k (.mma act sa sb c mq nq fa fb z) act
      [fpSlot sa.toNat w false, fpSlot sb.toNat w false, t.fpAcc c.toNat 4 true] 0
      (t.slotChk sa.toNat w ++ t.slotChk sb.toNat w ++ t.accRange c.toNat 4)
      { slots := idxFrom sa.toNat w ++ idxFrom sb.toNat w }

/-- An MMA completes. -/
def State.doneMma (s : State) (t : Task) (o : AsyncOp) (sa sb c m n fa fb : Nat) (z : Bool) : Task × OpOut :=
  let r := t.product (s.freeOp t o) (s.core (s.coreOf t)).slots fa fb sa sb c m n z
  (t.accPut c m n r.1, { flags := r.2 })

/-- The follower of a task (R249): the task with its TASKID in block 2m + 1 of a span launched with PAIR, for a task in
block 2m. -/
def State.followerOf (s : State) (t : Task) : Option Nat :=
  match s.blockOf t, s.launch? t.launch with
  | some b, some l =>
    if l.pkt.pair && b.pos % 2 == 0 then
      match s.blocks.find? fun x => x.span == b.span && x.pos == b.pos + 1 with
      | some x => (s.tasks.find? fun y => y.block == x.uid && y.taskId == t.taskId).map (·.uid)
      | none => none
    else none
  | _, _ => none

/-- MMAP (R249): the checks; the follower's tiles are part of the footprint. -/
def execMmap (act : Act) (sa sb : BitVec 6) (c : BitVec 5) (mq nq : BitVec 3) (fa fb : BitVec 4) (z : Bool) (s : State) :
    Out State Fault Refusal :=
  issue .matrix s fun t k =>
    let w := mmaW fa.toNat
    let f := s.followerOf t
    let facc := match f with
      | some u => [{ sp := .acc u, lo := c.toNat, hi := c.toNat + 4, wr := true : Fp }]
      | none => []
    s.matrixIssue t k (.mmap act sa sb c mq nq fa fb z) act
      ([fpSlot sa.toNat w false, fpSlot sb.toNat (2 * w) false, t.fpAcc c.toNat 4 true] ++ facc) 0
      (t.slotChk sa.toNat w ++ t.slotChk sb.toNat (2 * w) ++ t.accRange c.toNat 4 ++ (if f.isNone then [6] else []))
      { slots := idxFrom sa.toNat w ++ idxFrom sb.toNat (2 * w) } [] fun o => { o with follower := f }

/-- An MMAP completes: the leader's and the follower's group (R249). -/
def State.doneMmap (s : State) (t : Task) (o : AsyncOp) (sa sb c m n fa fb : Nat) (z : Bool) : State × Task × OpOut :=
  let sl := (s.core (s.coreOf t)).slots
  let r := t.product (s.freeOp t o) sl fa fb sa sb c m n z
  match o.follower.bind s.task? with
  | some f =>
    let r' := f.product (s.freeOp t o) sl fa fb sa (sb + mmaW fa) c m n z
    (s.setTask (f.accPut c m n r'.1), t.accPut c m n r.1, { flags := r.2 ||| r'.2 })
  | none => (s, t.accPut c m n r.1, { flags := r.2 })

/-! ## MACST -/

/-- The element format of a MACST FMT and whether it is MX (R251). -/
def macstFmt (fmt : Nat) : MxFmt × Bool :=
  match fmt with
  | 0 => (.fp .f32, false)
  | 1 => (.fp .bf16, false)
  | 2 => (.fp .e4m3, false)
  | 3 => (.fp .e5m2, false)
  | 4 => (.fp .e4m3, true)
  | 5 => (.fp .e5m2, true)
  | 6 => (.fp .e2m3, true)
  | 7 => (.fp .e3m2, true)
  | _ => (.fp .e2m1, true)

/-- MACST (R251, R252): the checks; with SR it reads SRSEED and SRCNT at issue and increments SRCNT (R62). -/
def execMacst (act : Act) (d : BitVec 4) (p c : BitVec 5) (mq nq : BitVec 3) (fmt : BitVec 4) (sr : Bool) (sc : BitVec 4)
    (s : State) : Out State Fault Refusal :=
  issue .matrix s fun t k => do
    let st := t.st k
    let va := (st.pair d).toNat
    let pitch := (st.reg p).toNat
    let m := quad mq
    let n := quad nq
    let (f, mx) := macstFmt fmt.toNat
    let rb := n * f.bits / 8
    let ranges := (rowsAt va pitch m).map (fun v => (v, rb, true)) ++
      (if mx then [((st.pair sc).toNat, m * (n / 32), true)] else [])
    let s ← s.matrixIssue t k (.macst act d p c mq nq fmt sr sc) act
      (t.fpAcc c.toNat 4 false :: ranges.flatMap fun r => s.fpVa (t.accessor s) r.1 r.2.1 true)
      (m * rb + if mx then m * (n / 32) else 0) (t.accRange c.toNat 4 ++ pitchBad pitch 16)
      { bad := alignBad va 16, ranges := ranges }
    return if sr then s.mapTask t.uid fun t =>
      t.setSt k { t.st k with srcnt := (t.st k).srcnt + 1 } else s

/-- Elements packed from bit 0 upward (R54). -/
def packBits (w : Nat) (xs : List Nat) : List Byte :=
  natLe (xs.length * w / 8) (xs.foldr (fun x acc => x % 2 ^ w + acc * 2 ^ w) 0)

/-- The stored rows, the scales and the flags of a MACST (R252). Of tiles that hold the WFA the values are unspecified, and
their scales with them (R84); they raise no flag (R7). -/
def Task.macstData (t : Task) (fresh : Nat) (o : AsyncOp) (c m n fmt : Nat) (sr : Bool) : List Byte × List Byte × FFlags :=
  let (f, mx) := macstFmt fmt
  let rm := fun (e : Nat) => if sr then Rm.sr (srBits o.srseed o.srcnt e) else .rne
  let row := fun (i : Nat) => (upto n).map fun j => t.accRead fresh c i j
  let sure := fun (i j w : Nat) (fl : FFlags) => if (idxFrom j w).any (t.overWfa c i) then 0 else fl
  if fmt = 0 then ((upto m).flatMap fun i => packBits 32 (row i), [], 0)
  else if !mx then
    let g : Fmt := match f with
      | .fp g => g
      | .i8 => .f32
    let rs := (upto m).map fun i =>
      ((row i).zip (upto n)).map fun p =>
        let r := convTo g (rm (i * n + p.2)) (Fmt.f32.decode p.1)
        { r with flags := sure i p.2 1 r.flags }
    (rs.flatMap fun r => packBits g.width (r.map (·.bits)), [], rs.foldl (fun a r => r.foldl (fun a x => a ||| x.flags) a) 0)
  else
    let rs := (upto m).map fun i => (upto (n / 32)).map fun g =>
      let (sc, es, fl) := mxScale f (fun e => rm (i * n + 32 * g + e)) (((row i).drop (32 * g)).take 32 |>.map Fmt.f32.decode)
      (sc, es, fl.map (sure i (32 * g) 32))
    (rs.flatMap fun r => packBits f.bits (r.flatMap (·.2.1)), rs.flatMap fun r => r.map fun b => BitVec.ofNat 8 b.1,
      rs.foldl (fun a r => r.foldl (fun a x => x.2.2.foldl (· ||| ·) a) a) 0)

/-- Bytes that are unspecified (log 11). -/
def State.freeBytes (s : State) (t : Task) (o : AsyncOp) (n : Nat) : List Byte :=
  (upto n).map fun i => Config.freeByte (s.freeOp t o) (3000000 + i)

/-- A MACST completes (R252). -/
def State.doneMacst (s : State) (t : Task) (o : AsyncOp) (c m n fmt : Nat) (sr : Bool) : OpOut :=
  let (bs, sc, fl) := t.macstData (s.freeOp t o) o c m n fmt sr
  { writes := (expandPieces o.xl).zip (bs ++ sc), flags := fl }

end Sys2Proof.Machine
end

