-- ==== Sys2Proof/Machine/Wfa.lean ====
section
/-! DEFINITION. Sliced FP64 (R71 to R84, R250): OSLICE's digit planes, the wide fixed-point accumulator, MMAS, MWCLR and
MWST, the bound and EXACT. -/
namespace Sys2Proof.Machine

/-! ## Slices -/

/-- The exponents of special and zero groups, and the marks of NaN and infinite elements (R71, R75). -/
def expSpecial : Int := 0x7FFF
def expZero : Int := -32768
def ewInf : Int := 0x7FFE

/-- The nearest integer of m × 2^e, ties to even, and whether it is inexact (R72). -/
def nearest (neg : Bool) (m : Nat) (e : Int) : Int × Bool :=
  let (q, inx) := roundMul .rne neg m e false (max 0 e)
  let q := if 0 ≤ e then q * 2 ^ e.toNat else q
  (if neg then -(q : Int) else q, inx)

/-- The balanced radix-128 digits of M, from d_(s−1) down to d_0 (R72); the answer runs from d_0 up. -/
def digits : Nat → Int → List Int → List Int
  | 0, _, ds => ds
  | 1, v, ds => v :: ds
  | s + 2, v, ds =>
    let d := (v + 64) % 128 - 64
    digits (s + 1) ((v - d) / 128) (d :: ds)

/-- SliceGroup with R71: the exponent of a group of 32 FP64 elements, the digits of each element and the descriptor
byte. -/
def sliceGroup (s : Nat) (xs : List FVal) : Int × List (List Int) × Nat :=
  let zeros := xs.map fun _ => List.replicate s (0 : Int)
  if xs.any fun v => v.isNaN || v.isInf then (expSpecial, zeros, 0)
  else
    let logs := xs.filterMap fun v => match v with
      | .fin _ m e => if m = 0 then none else some (ilog2 m e)
      | _ => none
    match logs with
    | [] => (expZero, zeros, 0)
    | l :: ls =>
      let e := ls.foldl max l + 2
      let ms := xs.map fun v => match v with
        | .fin n m ex => nearest n m (ex + 7 * s - e)
        | _ => (0, false)
      let ds := ms.map fun p => digits s p.1 []
      let nz := (upto s).foldl (fun r i => if ds.any fun d => nth d i 0 != 0 then i + 1 else r) 0
      (e, ds, nz + (if ms.any (·.2) then 16 else 0))

/-- A 16-bit two's complement field. -/
def int16 (v : Nat) : Int := (BitVec.ofNat 16 v).toInt
/-- A number modulo 2^w. -/
def wrapTo (w : Nat) (v : Int) : Nat := (v % 2 ^ w).toNat

/-- The images of the 2s slots of a sliced operand (R73, R258): `val r k` is the FP64 element of row (or column) r at K
position k; rows at or above `count` are zero groups. -/
def sliceImage (s count : Nat) (val : Nat → Nat → FVal) : Memory :=
  (upto 128).foldl (fun m r => (upto 2).foldl (fun m g =>
    let (e, ds, desc) := if r < count then sliceGroup s ((upto 32).map fun k => val r (32 * g + k))
      else (expZero, List.replicate 32 (List.replicate s 0), 0)
    let m := m.setField (g * 4352 + 4096 + 2 * r) 2 (wrapTo 16 e)
    let m := m.write (2 * 4352 + 4096 + 128 * g + r) (BitVec.ofNat 8 desc)
    (ds.zip (upto 32)).foldl (fun m p => (upto s).foldl (fun m i =>
      m.write (slotAddr (2 * i) (64 * r + 32 * g + p.2)) (BitVec.ofNat 8 (wrapTo 8 (nth p.1 i 0)))) m) m) m) []

/-! ## The accumulator -/

/-- Where W of element (m, n) lies in the acc memory (R75). -/
def wAddr (m n : Nat) : Nat := 24 * (128 * m + n)
/-- Where Ew lies (R75). -/
def ewAddr (m n : Nat) : Nat := 24 * 16384 + 2 * (128 * m + n)
/-- W of an element. -/
def Task.wGet (t : Task) (m n : Nat) : Int := (BitVec.ofNat 192 (t.acc.field (wAddr m n) 24)).toInt
/-- Ew of an element. -/
def Task.ewGet (t : Task) (m n : Nat) : Int := int16 (t.acc.field (ewAddr m n) 2)

/-- One WfaGroup step (R77): W, Ew, the exponents at which SHIFT, TERM and RENORM dropped bits, and RENORM and OVF. The
group sum is t × 2^(ee − 14s). -/
structure WfaStep where
  w : Int
  ew : Int
  shift : Option Int := none
  term : Option Int := none
  renorm : Option Int := none
  renormed : Bool := false
  ovf : Bool := false

/-- ⌊x × 2^k⌋ and whether bits were dropped. -/
def floorScale (x : Int) (k : Int) : Int × Bool :=
  if 0 ≤ k then (x * 2 ^ k.toNat, false)
  else
    let d : Int := 2 ^ (-k).toNat
    (x / d, x % d != 0)

/-- WfaGroup (R77, R79). -/
def wfaGroup (s : Nat) (w ew t ee : Int) : WfaStep :=
  let (w, d1) := if ew < ee then (if w = 0 then (0, false) else floorScale w (ew - ee)) else (w, false)
  let ew := max ew ee
  let (a, d2) := floorScale t (ee - 14 * s - ew + 168)
  let w := w + a
  let sh := if d1 then some ew else none
  let tm := if d2 then some ew else none
  if 2 ^ 190 ≤ w || w ≤ -2 ^ 190 then
    let (w, d3) := floorScale w (-16)
    let ew := ew + 16
    if 1018 ≤ ew then { w := w, ew := ewInf, shift := sh, term := tm, renormed := true, ovf := true }
    else { w := w, ew := ew, shift := sh, term := tm, renorm := if d3 then some ew else none, renormed := true }
  else { w := w, ew := ew, shift := sh, term := tm }

/-- 2^k joins the bound register (R79): exact while the terms span 64 binades, else rounded up at B's last place, which is 63
binades below its largest term (log 30). -/
def WfaBound.addPow (b : WfaBound) (k : Int) : WfaBound :=
  if b.m = 0 then { b with m := 1, e := k, top := k }
  else
    let top := max b.top k
    let e := max (min b.e k) (top - 63)
    let old := if b.e ≤ e then ceilDiv b.m (2 ^ (e - b.e).toNat) else b.m * 2 ^ (b.e - e).toNat
    { b with m := old + (if k ≤ e then 1 else 2 ^ (k - e).toNat), e := e, top := top }

/-- MWCLR (R76). -/
def Task.clearWfa (t : Task) : Task :=
  let keep := t.acc.filter fun p => 26 * 16384 ≤ p.1
  let ew := ((upto 16384).map fun i => (24 * 16384 + 2 * i + 1, (0x80 : Byte)))
  { t with acc := ew ++ keep, wfaOver := some [],
           wfa := { defined := true, m := 0, e := 0, top := 0, exact := true, renorm := false, ovf := false, special := false } }

/-- The operands of an MMAS as it reads them (R73): the digits by plane, position and K, the exponents and the
descriptors of row or column r and group g. -/
def planeDigit (sl : Memory) (b i r k : Nat) : Int := (sl.read (slotAddr (b + 2 * i) (64 * r + k))).toInt
def groupExp (sl : Memory) (b g r : Nat) : Int := int16 (sl.field (sideAddr (b + g) (2 * r)) 2)
def groupDesc (sl : Memory) (b g r : Nat) : Nat := (sl.read (sideAddr (b + 2) (128 * g + r))).toNat

/-- The group sum of an output element as a multiple of 2^(Ea + Eb − 14s) (R74, R77). -/
def pairSum (tri : Bool) (s : Nat) (da db : List (List Int)) : Int :=
  let term := fun (i j : Nat) =>
    (((nth da i []).zip (nth db j [])).map fun p => p.1 * p.2).foldl (· + ·) 0 * 2 ^ (14 * s - 7 * (i + j + 2))
  ((upto s).flatMap fun i => (upto s).map fun j => if tri && decide (s ≤ i + j) then 0 else term i j).foldl (· + ·) 0

/-- The largest of the ordinary exponents (R79). -/
def maxExp (es : List Int) : Option Int :=
  match es.filter fun e => e != expSpecial && e != expZero with
  | [] => none
  | x :: xs => some (xs.foldl max x)

/-- The largest of the exponents at which a step dropped bits. -/
def maxDrop (l : List (Option Int)) : Option Int :=
  match l.filterMap fun x => x with
  | [] => none
  | x :: xs => some (xs.foldl max x)

/-- The stored Ew of a step, 16 bits; where software has written exponents whose sum leaves that range the spec gives no
value (R75, R77; log 11). -/
def ewStored (fresh i : Nat) (ew : Int) : Nat :=
  if -32768 ≤ ew && ew ≤ 32767 then wrapTo 16 ew else (Config.freeWord fresh (9600000 + i)).toNat % 65536

/-- One K-group of an MMAS over the m × n region (R77, R79, R81). -/
def Task.mmasGroup (t : Task) (fresh : Nat) (sl : Memory) (tri : Bool) (s sa sb m n g : Nat) : Task :=
  let eas := (upto m).map (groupExp sl sa g)
  let ebs := (upto n).map (groupExp sl sb g)
  let das := (upto m).map fun r => (upto s).map fun i => (upto 32).map fun k => planeDigit sl sa i r (32 * g + k)
  let dbs := (upto n).map fun r => (upto s).map fun i => (upto 32).map fun k => planeDigit sl sb i r (32 * g + k)
  let das' := (eas.zip das).zip (upto m)
  let dbs' := (ebs.zip dbs).zip (upto n)
  let steps : List (Nat × Nat × Option WfaStep) := das'.flatMap fun a => dbs'.filterMap fun b =>
    let ew := t.ewGet a.2 b.2
    if a.1.1 = expSpecial || b.1.1 = expSpecial then some (a.2, b.2, none)
    else if a.1.1 = expZero || b.1.1 = expZero || ew = expSpecial || ew = ewInf then none
    else some (a.2, b.2, some (wfaGroup s (t.wGet a.2 b.2) ew (pairSum tri s a.1.2 b.1.2) (a.1.1 + b.1.1)))
  let acc := steps.foldl (fun mm p => match p.2.2 with
    | none => mm.setField (ewAddr p.1 p.2.1) 2 0x7FFF
    | some x => (mm.setField (wAddr p.1 p.2.1) 24 (wrapTo 192 x.w)).setField (ewAddr p.1 p.2.1) 2
      (ewStored fresh (32768 * g + 128 * p.1 + p.2.1) x.ew)) t.acc
  let xs := steps.filterMap (·.2.2)
  let nan := steps.any fun p => p.2.2.isNone
  let drops := [maxDrop (xs.map (·.shift)), maxDrop (xs.map (·.term)), maxDrop (xs.map (·.renorm))].filterMap fun x => x
  let dropped := xs.any fun x => x.shift.isSome || x.term.isSome || x.renorm.isSome
  let descs := (upto m).map (groupDesc sl sa g) ++ (upto n).map (groupDesc sl sb g)
  let nzMax := fun (l : List Nat) => (l.map (· % 16)).foldl Nat.max 0
  let lost := tri && decide (s + 1 < nzMax ((upto m).map (groupDesc sl sa g)) + nzMax ((upto n).map (groupDesc sl sb g)))
  let inx := descs.any fun d => d / 16 % 2 == 1
  let b := t.wfa
  let b := match maxExp eas, maxExp ebs with
    | some x, some y => b.addPow (x + y + 5 + (if tri then 2 else 1) - 7 * s)
    | _, _ => b
  let b := drops.foldl (fun b e => b.addPow (e - 168)) b
  { t with
    acc := acc,
    wfa := { b with exact := b.exact && !inx && !lost && !dropped && !nan && !(xs.any (·.ovf)),
                    renorm := b.renorm || xs.any (·.renormed), ovf := b.ovf || xs.any (·.ovf),
                    special := b.special || nan } }

/-- An MMAS completes (R77, R84): an undefined WFA stays undefined, and its tiles hold unspecified values. -/
def State.doneMmas (st : State) (t : Task) (tri : Bool) (sa sb s m n : Nat) : Task :=
  let t := { t with wfaOver := some [] }
  if !t.wfa.defined then t
  else
    let sl := (st.core (st.coreOf t)).slots
    (t.mmasGroup st.fresh sl tri s sa sb m n 0).mmasGroup st.fresh sl tri s sa sb m n 1

/-- The checks of MMAS (R250). -/
def mmasOp (i : Instr) (act : Act) (sa sb s : Nat) (st : State) : Out State Fault Refusal :=
  issue .matrix st fun t k =>
    st.matrixIssue t k i act [fpSlot sa (2 * s) false, fpSlot sb (2 * s) false, t.fpAcc 0 26 true] 0
      (t.slotChk sa (2 * s) ++ t.slotChk sb (2 * s) ++ t.accRange 0 26)
      { slots := idxFrom sa (2 * s) ++ idxFrom sb (2 * s) }

/-- MMAS in pair mode FULL (R74, R250). -/
def execMmasFull (act : Act) (sa sb : BitVec 6) (n : BitVec 4) (mq nq : BitVec 3) (s : State) : Out State Fault Refusal :=
  mmasOp (.mmasFull act sa sb n mq nq) act sa.toNat sb.toNat n.toNat s
/-- MMAS in pair mode TRI (R74, R250). -/
def execMmasTri (act : Act) (sa sb : BitVec 6) (n : BitVec 4) (mq nq : BitVec 3) (s : State) : Out State Fault Refusal :=
  mmasOp (.mmasTri act sa sb n mq nq) act sa.toNat sb.toNat n.toNat s

/-- MWCLR (R76, R250). -/
def execMwclr (act : Act) (s : State) : Out State Fault Refusal :=
  issue .matrix s fun t k => s.matrixIssue t k (.mwclr act) act [t.fpAcc 0 26 true] 0 (t.accRange 0 26) {}

/-- MWST (R78, R250): the checks. -/
def execMwst (act : Act) (d : BitVec 4) (p : BitVec 5) (mq nq : BitVec 3) (s : State) : Out State Fault Refusal :=
  issue .matrix s fun t k =>
    let st := t.st k
    let va := (st.pair d).toNat
    let pitch := (st.reg p).toNat
    let n := quad nq
    let rows := rowsAt va pitch (quad mq)
    s.matrixIssue t k (.mwst act d p mq nq) act
      (t.fpAcc 0 26 false :: rows.flatMap fun v => s.fpVa (t.accessor s) v (8 * n) true) (8 * quad mq * n)
      (t.accRange 0 26 ++ pitchBad pitch 8) { bad := alignBad va 8, ranges := rows.map fun v => (v, 8 * n, true) }

/-- One stored element (R78). -/
def Task.mwstElem (t : Task) (m n : Nat) : FRes :=
  let w := t.wGet m n
  let ew := t.ewGet m n
  if ew = expSpecial then invalidRes .f64
  else if ew = ewInf then { infRes .f64 (decide (w < 0)) with flags := flagOverflow ||| flagInexact }
  else roundDy .f64 .rne false false { m := w, e := ew - 168 }

/-- ceil(log2 B) of a bound m × 2^e that is not 0 (R82). -/
def boundLog (b : WfaBound) : Int :=
  max (-32767) (min 32767 (b.e + (Nat.log2 b.m : Int) + if 2 ^ Nat.log2 b.m = b.m then 0 else 1))

/-- MBNDA, MBNDU and MBNDF of stored elements (R82). -/
def boundRegs (b : WfaBound) (stored : List Nat) : Word × Word × Word :=
  let ex := fun (x : Nat) => x / 2 ^ 52 % 2048
  let special := stored.any fun x => ex x == 2047
  let ulps := (stored.filter fun x => ex x != 2047 && x % 2 ^ 63 != 0).map fun x => (Nat.max (ex x) 1 : Int) - 1075
  let raw : Option Nat := match ulps with
    | [] => if b.m = 0 then some 0 else none
    | u :: us =>
      let k := b.e + 4 - us.foldl min u
      some (if 0 ≤ k then b.m * 2 ^ k.toNat else ceilDiv b.m (2 ^ (-k).toNat))
  let sat := special || match raw with
    | none => true
    | some r => decide (0xFFFF < r)
  let u := if sat then 0xFFFF else raw.getD 0
  (if b.m = 0 then 0xFFFF8000 else BitVec.ofInt 32 (boundLog b), BitVec.ofNat 32 u,
    BitVec.ofNat 32 (b.exact.toNat + 2 * b.renorm.toNat + 4 * b.ovf.toNat + 8 * sat.toNat + 16 * b.special.toNat))

/-- An MWST completes (R78, R82); of an undefined WFA it stores undefined values and writes undefined bounds (R76,
R84). -/
def State.doneMwst (s : State) (t : Task) (o : AsyncOp) (m n : Nat) : Task × OpOut :=
  let ls := expandPieces o.xl
  if !t.wfa.defined then
    ({ t with mbnda := Config.freeWord (s.freeOp t o) 901, mbndu := Config.freeWord (s.freeOp t o) 902 &&& 0xFFFF,
              mbndf := Config.freeWord (s.freeOp t o) 903 &&& 0x1F },
      { writes := ls.zip (s.freeBytes t o ls.length) })
  else
    let rs := (upto m).flatMap fun i => (upto n).map fun j => t.mwstElem i j
    let (a, u, f) := boundRegs t.wfa (rs.map (·.bits))
    ({ t with mbnda := a, mbndu := u, mbndf := f },
      { writes := ls.zip (rs.flatMap fun r => natLe 8 r.bits), flags := rs.foldl (fun x r => x ||| r.flags) 0 })

end Sys2Proof.Machine
end

