-- ==== Sys2Proof/Machine/Copy.lean ====
section
/-! DEFINITION. Copies byte by byte (R108, R109, R237, R238), and the linear, indexed and tensor copies: CPY (R259), TCOPY
and TCOPYO (R255 to R257), OSLICE (R258), GATHER and SCATTER (R260). -/
namespace Sys2Proof.Machine

/-! ## Bytes of a copy -/

/-- Where a copied byte goes: an address, or a byte of the core's slot memory. -/
inductive CopyDst where
  | va (a : Nat)
  | slot (i : Nat)
  deriving DecidableEq, Repr

/-- One destination byte of a copy: its offset in the destination order of R238; its source address, if it has one, and
the bits that come from there; the other bits (none: they keep their value); addresses that it depends on besides; and
whether its value is unspecified. -/
structure CopyByte where
  off : Nat
  src : Option Nat
  mask : Nat := 0xFF
  fill : Option Nat := none
  dst : CopyDst
  also : List Nat := []
  free : Bool := false
  deriving DecidableEq, Repr

/-- A byte moved from one address to another. -/
def moveByte (off src dst : Nat) : CopyByte := { off := off, src := some src, dst := .va dst }

/-- The addresses that a byte reads, an index before the row that it names (R260). -/
def CopyByte.reads (c : CopyByte) : List Nat := c.also ++ c.src.toList

/-- What stops a byte: a status sub-code of R238, or a page that is away. -/
inductive CopyStop where
  | fault (sub : Nat)
  | away (va pte entry : Nat)
  deriving DecidableEq, Repr

/-- What an address does to a copy after issue (R237). -/
def State.copyStop (s : State) (a : Accessor) (va : Nat) (wr : Bool) : Option CopyStop :=
  match s.place a va wr with
  | .bad 7 => some (.fault 7)
  | .bad _ => some (.fault 6)
  | .notRes pte e => some (.away va pte e)
  | _ => none

/-- A byte that changes nothing: every bit of it keeps its value. -/
def CopyByte.idle (c : CopyByte) : Bool := c.mask == 0 && c.fill.isNone

/-- What stops a byte of a copy; one that changes nothing reads at most its index (R260). -/
def State.byteStop (s : State) (a : Accessor) (c : CopyByte) : Option CopyStop :=
  match (if c.idle then c.also else c.reads).findSome? fun v => s.copyStop a v false with
  | some x => some x
  | none => match c.dst with
    | .va v => if c.idle then none else s.copyStop a v true
    | .slot _ => none

/-- The value at an address for an operation and whether it is poisoned; a page whose entry is of kind 3 reads as poison
of unspecified value (R108). -/
def State.opVa (s : State) (t : Task) (o : AsyncOp) (va : Nat) : Byte × Bool :=
  match s.place (o.accessor t s) va false with
  | .here l => (s.opByte t o l, s.opPoison t o l)
  | .poisonPte => (Config.freeByte (s.freeOp t o) va, true)
  | _ => (0, false)

/-- A little-endian word at an address for an operation. -/
def State.opWord (s : State) (t : Task) (o : AsyncOp) (va : Nat) : Word :=
  BitVec.ofNat 32 (leNat ((upto 4).map fun i => (s.opVa t o (va + i)).1))

/-- One byte as it is written: its place, or none where it is discarded (R109), its value and its poison. -/
structure CopyWrite where
  loc : Option Loc
  slot : Option Nat
  val : Byte
  bad : Bool
  off : Nat
  deriving DecidableEq, Repr

/-- The write of a byte that nothing stops. -/
def State.byteWrite (s : State) (t : Task) (o : AsyncOp) (c : CopyByte) : CopyWrite :=
  let src := match c.src with
    | some v => s.opVa t o v
    | none => (0, false)
  let bad := src.2 || c.also.any fun v => (s.opVa t o v).2
  let (loc, slot, old) := match c.dst with
    | .slot i => (none, some i, ((s.core (s.coreOf t)).slots.read i))
    | .va v => match s.place (o.accessor t s) v true with
      | .here l => (some l, none, s.opByte t o l)
      | _ => (none, none, 0)
  let rest := match c.fill with
    | some f => BitVec.ofNat 8 f
    | none => old
  let m : Byte := BitVec.ofNat 8 c.mask
  { loc := loc, slot := slot, bad := bad, off := c.off,
    val := if c.free then Config.freeByte (s.freeOp t o) (5000000 + c.off) else (src.1 &&& m) ||| (rest &&& ~~~m) }

/-- The places whose last write was poisoned. -/
def lastBad : List CopyWrite → List Loc
  | [] => []
  | w :: ws =>
    match w.loc with
    | some l => if w.bad && !(ws.any fun x => x.loc == some l) then l :: lastBad ws else lastBad ws
    | none => lastBad ws

/-- What a copy leaves, or the page that it waits for (R237, R238). -/
inductive CopyEnd where
  | away (va pte entry : Nat)
  | done (ws : List CopyWrite) (fault : Option (Nat × Nat)) (hurt : Option Nat)

/-- The pages whose reads have failed for a copy (R280). -/
def State.failedPages (s : State) (t : Task) (o : AsyncOp) : List ReadErr :=
  ((s.blockOf t).map fun b => b.readErrs.filter fun x => x.task == t.uid && x.op == some o.id).getD []

/-- A copy runs over its bytes in destination order (R237): up to the first faulting unit every byte is written; from
there on each byte that can be reached keeps its value or is written. A page whose read has failed is a STORAGE fault
(R280). -/
def State.runBytes (s : State) (t : Task) (o : AsyncOp) (cs : List CopyByte) : CopyEnd :=
  let a := o.accessor t s
  let failed := s.failedPages t o
  let stop := cs.findSome? fun c => match s.byteStop a c with
    | some (.fault k) => some (c.off, CopyStop.fault k)
    | some (.away va p e) => match failed.find? fun f => f.page == va / 65536 with
      | some _ => some (c.off, .fault 8)
      | none => some (c.off, .away va p e)
    | none => none
  match stop with
  | some (_, .away va p e) => .away va p e
  | _ =>
    let fault := match stop with
      | some (off, .fault k) => some (off, k)
      | _ => none
    let cut := fault.map fun f => f.1 / 32 * 32
    let take := fun (c : CopyByte) => !c.idle && match cut with
      | none => true
      | some n => decide (c.off < n) ||
        ((s.byteStop a c).isNone && Config.choice (s.freeOp t o) (4000000 + c.off))
    let ws := (cs.filter take).map (s.byteWrite t o)
    let hurt := (ws.filter fun w => w.bad || (w.loc.isNone && w.slot.isNone)).map (·.off)
    .done ws fault (match hurt with
      | [] => none
      | x :: xs => some (xs.foldl Nat.min x))

/-- The slots that the bytes of a copy write (R108): a slot is poisoned by a poisoned byte, and cleared when it is written
whole. -/
def slotWrites (ws : List CopyWrite) (x : OpOut) : OpOut :=
  let bs := ws.filterMap fun w => w.slot.map fun i => (i, w.val, w.bad)
  let slots := dedup (bs.map fun b => b.1 / 4352)
  { x with
    slots := bs.map fun b => (b.1, [b.2.1]),
    slotWhole := slots.filter fun n => (dedup ((bs.filter fun b => b.1 / 4352 == n).map (·.1))).length == 4352,
    slotBad := dedup ((bs.filter fun b => b.2.2).map fun b => b.1 / 4352) }

/-- The failures that a copy has reported are consumed (R280). -/
def State.clearReadErr (s : State) (t : Task) (o : AsyncOp) : State :=
  match s.blockOf t with
  | some b => s.setBlock { b with readErrs := b.readErrs.filter fun x => !(x.task == t.uid && x.op == some o.id) }
  | none => s

/-- ASYNC of a faulting copy (R237, R392). -/
def asyncCond (o : AsyncOp) (fault : Option (Nat × Nat)) : List Cond :=
  (fault.map fun f => { cls := clsAsync, sub := f.2, info := o.pc : Cond }).toList

/-- A copy reaches a page that is away (R237, R277): it stays at its saved point and its block stops. -/
def State.copyPage (s : State) (t : Task) (o : AsyncOp) (va pte e : Nat) : State :=
  match s.blockOf t with
  | some b => if b.page.isSome then s else s.pageFault t va pte e (some o.id)
  | none => s

/-- A copy of bytes completes, faults, or waits for a page. -/
def State.doneBytes (s : State) (t : Task) (o : AsyncOp) (cs : List CopyByte) (fin : Finish := State.finishOp) : State :=
  match s.runBytes t o cs with
  | .away va p e => s.copyPage t o va p e
  | .done ws fault hurt =>
    let s := if fault.any fun f => f.2 == 8 then s.clearReadErr t o else s
    fin s t.uid .c o (slotWrites ws {
      writes := ws.filterMap fun w => w.loc.map fun l => (l, w.val),
      poison := dedup ((lastBad ws).map granule),
      status := statusWord fault hurt,
      conds := asyncCond o fault })

/-! ## CPY -/

/-- CPY (R259): the checks. -/
def execCpy (act : Act) (d a : BitVec 4) (n : BitVec 5) (s : State) : Out State Fault Refusal :=
  issue .copy s fun t k => do
    let st := t.st k
    let dst := (st.pair d).toNat
    let src := (st.pair a).toNat
    let len := (st.reg n).toNat
    copyFirst t act
    let ac := t.accessor s
    s.copyIssue t k (.cpy act d a n) act (if len = 0 then [] else s.fpVa ac src len false ++ s.fpVa ac dst len true) len []
      { bad := s.copyBad ac src len ++ s.copyBad ac dst len } [dst, src, len]

/-- The bytes of a CPY; a destination byte that lies in the source range too is unspecified (R259). -/
def State.cpyBytes (s : State) (t : Task) (dst src len : Nat) : List CopyByte :=
  let ac := t.accessor s
  let from_ := s.fpVa ac src len false
  let meets := fun (i : Nat) => footClash from_ (s.fpVa ac (dst + i) 1 true)
  (upto len).map fun i => { moveByte i (src + i) (dst + i) with free := meets i }

/-! ## Tensor boxes -/

/-- SWZ of a byte offset (R256). -/
def swizzle (swz o : Nat) : Nat := o ^^^ ((o / 128 % 2 ^ swz) * 16)

/-- Rows of a box: the product of its dimensions 1 to 5 (R256). -/
def Tensor.rows (r : Tensor) : Nat := (idxFrom 1 5).foldl (fun n d => n * r.boxOf d) 1
/-- Bytes of a box row. -/
def Tensor.rowBytes (r : Tensor) : Nat := r.boxOf 0 * typeBits r.type / 8
/-- Bytes of the element area. -/
def Tensor.area (r : Tensor) : Nat := r.rows * r.rowBytes
/-- The tensor has scales. -/
def Tensor.mx (r : Tensor) : Bool := r.sbase != 0
/-- Scale bytes of a box. -/
def Tensor.scales (r : Tensor) : Nat := if r.mx then r.rows * (r.boxOf 0 / 32) else 0
/-- Where the scale bytes begin in packed box order. -/
def Tensor.scaleOff (r : Tensor) : Nat := roundUp r.area 16
/-- Scratch bytes that a box reaches. -/
def Tensor.span (r : Tensor) : Nat :=
  let top := (upto (ceilDiv r.area 16)).foldl (fun m i => Nat.max m (swizzle r.swz (16 * i) + Nat.min 16 (r.area - 16 * i))) 0
  if r.scales = 0 then top else Nat.max top (r.scaleOff + r.scales)

/-- The coordinates of position 0 of dimension 0 in box row `q` (R256). -/
def Tensor.rowCoord (r : Tensor) (org : List Int) (q : Nat) : List Int :=
  let f := (idxFrom 1 5).foldl (fun (acc : Nat × List Int) d =>
    (acc.1 / r.boxOf d, acc.2 ++ [(if d < r.ndim then nth org d 0 else 0) + ((acc.1 % r.boxOf d : Nat) : Int)])) (q, [])
  nth org 0 0 :: f.2

/-- The coordinates with dimension 0 moved on by `i`. -/
def shiftCoord (j : List Int) (i : Nat) : List Int := match j with
  | x :: xs => (x + (i : Int)) :: xs
  | [] => []

/-- The bounding ranges of the in-bounds elements and their scales, as (address, bytes) (R256). -/
def Tensor.bounds (r : Tensor) (org : List Int) : List (Nat × Nat) :=
  let lo := (upto r.ndim).map fun d => max 0 (nth org d 0)
  let hi := (upto r.ndim).map fun d => min (r.extOf d : Int) (nth org d 0 + (r.boxOf d : Int))
  if (lo.zip hi).any fun p => decide (p.2 ≤ p.1) then []
  else
    let last := hi.map (· - 1)
    let a := ((r.base : Int) + r.bitOff lo / 8).toNat
    let b := ((r.base : Int) + (r.bitOff last + typeBits r.type + 7) / 8).toNat
    (a, b - a) :: if r.mx then [(r.scaleAt lo, r.scaleAt last + 1 - r.scaleAt lo)] else []

/-- The bits of byte `x` of a box row whose elements are in bounds. -/
def Tensor.byteMask (r : Tensor) (j : List Int) (x : Nat) : Nat :=
  ((upto 8).map fun b => if r.inside (shiftCoord j ((8 * x + b) / typeBits r.type)) then 2 ^ b else 0).foldl (· + ·) 0

/-- The bits that FILL gives byte `x` of a box row. -/
def Tensor.fillByte (r : Tensor) (x : Nat) : Nat :=
  ((upto 8).map fun b => bitsOf r.fillBits ((8 * x + b) % typeBits r.type) 1 * 2 ^ b).foldl (· + ·) 0

/-- The address of byte `x` of a box row in the tensor; it means something where a bit of the byte is in bounds. -/
def Tensor.byteAt (r : Tensor) (j : List Int) (x : Nat) : Nat := ((r.base : Int) + r.bitOff j / 8 + x).toNat

/-- The scales of a box: position in box order, coordinates, row and block (R256). -/
def Tensor.scaleList (r : Tensor) (org : List Int) : List (Nat × List Int × Nat × Nat) :=
  let per := r.boxOf 0 / 32
  if r.mx then
    (upto r.rows).flatMap fun q => (upto per).map fun g => (r.scaleOff + q * per + g, shiftCoord (r.rowCoord org q) (32 * g), q, g)
  else []

/-- The bytes of a box that is loaded, to the destinations that `dst` gives an element byte and `sdst` a scale (R255 to
R257). -/
def Tensor.loadBytes (r : Tensor) (org : List Int) (dst : Nat → CopyDst) (sdst : Nat → Nat → Nat → CopyDst) : List CopyByte :=
  let es := (upto r.rows).flatMap fun q =>
    let j := r.rowCoord org q
    (upto r.rowBytes).map fun x =>
      let m := r.byteMask j x
      { off := q * r.rowBytes + x, src := if m = 0 then none else some (r.byteAt j x), mask := m,
        fill := some (r.fillByte x), dst := dst (q * r.rowBytes + x) : CopyByte }
  es ++ (r.scaleList org).map fun p =>
    let inb := r.inside p.2.1
    { off := p.1, src := if inb then some (r.scaleAt p.2.1) else none, mask := if inb then 0xFF else 0,
      fill := some 0x7F, dst := sdst p.1 p.2.2.1 p.2.2.2 : CopyByte }

/-- The bytes of a box that is stored from scratch addresses (R256): only in-bounds bits change. -/
def Tensor.storeBytes (r : Tensor) (org : List Int) (src : Nat → Nat) (ssrc : Nat → Nat) : List CopyByte :=
  let es := (upto r.rows).flatMap fun q =>
    let j := r.rowCoord org q
    (upto r.rowBytes).map fun x =>
      let m := r.byteMask j x
      { off := q * r.rowBytes + x, src := if m = 0 then none else some (src (q * r.rowBytes + x)), mask := m,
        dst := .va (if m = 0 then 0 else r.byteAt j x) : CopyByte }
  es ++ ((r.scaleList org).filter fun p => r.inside p.2.1).map fun p =>
    { off := p.1, src := some (ssrc p.1), dst := .va (r.scaleAt p.2.1) : CopyByte }

/-- The coordinate registers C to C + NDIM − 1 as signed numbers; a dimension at or above NDIM is at 0 (R255, R256). -/
def coordsOf (st : StreamSt) (c : BitVec 5) (r : Tensor) : List Int :=
  (upto 6).map fun d => if d < r.ndim then (st.reg (c + BitVec.ofNat 5 d)).toInt else 0

/-- RECORD of a tensor record (R255). -/
def recordBad (r : Tensor) : List Nat := if r.ok then [] else [7]

/-- SHAPE of the coordinates of a box (R256). -/
def shapeBad (r : Tensor) (c : BitVec 5) (org : List Int) : List Nat :=
  let al : Nat := if r.mx then 32 else if typeBits r.type = 4 then 2 else if typeBits r.type = 6 then 4 else 1
  if 31 < c.toNat + r.ndim || nth org 0 0 % (al : Int) != 0 || r.boxOf 0 % al != 0 then [8] else []

/-- Coordinates as captured values, each modulo 2^32. -/
def coordVals (org : List Int) : List Nat := org.map (wrapTo 32)
/-- Captured coordinates. -/
def valsCoord (vs : List Nat) : List Int := vs.map fun v => (BitVec.ofNat 32 v).toInt

/-- TCOPY in one direction (R256): the checks. -/
def tcopyOp (i : Instr) (act : Act) (rp : BitVec 4) (a c : BitVec 5) (st : Bool) (s : State) : Out State Fault Refusal :=
  issue .copy s fun t k => do
    let x := t.st k
    copyFirst t act
    let b ← s.readRecord t (x.pair rp).toNat
    let r := tensorOf b
    let off := (x.reg a).toNat
    let org := coordsOf x c r
    if !r.ok then trapWith clsMatrix 7
    else
      let ac := t.accessor s
      let gs := r.bounds org
      s.copyIssue t k i act (t.fpScr off r.span (!st) :: gs.flatMap fun g => s.fpVa ac g.1 g.2 st) (r.area + r.scales)
        (shapeBad r c org) { bad := s.scrBad t off r.span 16 ++ gs.flatMap fun g => s.copyBad ac g.1 g.2 }
        (off :: coordVals org) b

/-- TCOPY, loading (R256). -/
def execTcopy (act : Act) (r : BitVec 4) (a c : BitVec 5) (s : State) : Out State Fault Refusal :=
  tcopyOp (.tcopy act r a c) act r a c false s
/-- TCOPY, storing (R256). -/
def execTcopySt (act : Act) (r : BitVec 4) (a c : BitVec 5) (s : State) : Out State Fault Refusal :=
  tcopyOp (.tcopySt act r a c) act r a c true s

/-- The bytes of a TCOPY. -/
def AsyncOp.tcopyBytes (o : AsyncOp) (st : Bool) : List CopyByte :=
  let r := tensorOf o.record
  let sa := winBase + o.vals.headD 0
  let org := valsCoord o.vals.tail
  let el := fun p => sa + swizzle r.swz p
  if st then r.storeBytes org el (sa + ·) else r.loadBytes org (fun p => .va (el p)) fun p _ _ => .va (sa + p)

/-- The slots that a TCOPYO box occupies (R257). -/
def Tensor.slotCount (r : Tensor) : Nat :=
  Nat.max (ceilDiv r.area 4096) (if r.mx then ceilDiv (128 * ceilDiv (r.boxOf 0) 32) 256 else 0)

/-- What TCOPYO requires of its record besides R255 (R257). -/
def Tensor.flatBox (r : Tensor) : Bool :=
  2 ≤ r.ndim && r.boxOf 1 ≤ 128 && (idxFrom 2 4).all fun d => r.boxOf d == 1

/-- TCOPYO (R257): the checks; RECORD, then SHAPE of a box that runs past os63, then SLOT and the other SHAPE
conditions. -/
def execTcopyo (act : Act) (rp : BitVec 4) (b : BitVec 6) (c : BitVec 5) (s : State) : Out State Fault Refusal :=
  issue .copy s fun t k => do
    let x := t.st k
    copyFirst t act
    let bs ← s.readRecord t (x.pair rp).toNat
    let r := tensorOf bs
    let org := coordsOf x c r
    if !r.ok || !r.flatBox then trapWith clsMatrix 7
    else if 64 < b.toNat + r.slotCount then trapWith clsMatrix 8
    else
      let ac := t.accessor s
      let gs := r.bounds org
      s.copyIssue t k (.tcopyo act rp b c) act
        (fpSlot b.toNat r.slotCount true :: gs.flatMap fun g => s.fpVa ac g.1 g.2 false) r.area
        (t.slotChk b.toNat r.slotCount ++ shapeBad r c org) { bad := gs.flatMap fun g => s.copyBad ac g.1 g.2 }
        (coordVals org) bs

/-- The bytes of a TCOPYO (R247, R257). -/
def AsyncOp.tcopyoBytes (o : AsyncOp) (b : Nat) : List CopyByte :=
  (tensorOf o.record).loadBytes (valsCoord o.vals) (fun p => .slot (slotAddr b p)) fun _ q g => .slot (sideAddr b (128 * g + q))

/-! ## OSLICE -/

/-- OSLICE (R258): the checks. -/
def osliceOp (i : Instr) (act : Act) (a : BitVec 5) (b n count : Nat) (opb : Bool) (s : State) : Out State Fault Refusal :=
  issue .copy s fun t k => do
    copyFirst t act
    let off := ((t.st k).reg a).toNat
    let size := if opb then 65536 else 512 * count
    s.copyIssue t k i act [t.fpScr off size false, fpSlot b (2 * n) true] (512 * count) (t.slotChk b (2 * n))
      { bad := s.scrBad t off size 8 } [off]

/-- OSLICE of an A tile (R258). -/
def execOsliceA (act : Act) (a : BitVec 5) (b : BitVec 6) (n : BitVec 4) (rq : BitVec 3) (s : State) :
    Out State Fault Refusal := osliceOp (.osliceA act a b n rq) act a b.toNat n.toNat (quad rq) false s
/-- OSLICE of a B tile (R258). -/
def execOsliceB (act : Act) (a : BitVec 5) (b : BitVec 6) (n : BitVec 4) (rq : BitVec 3) (s : State) :
    Out State Fault Refusal := osliceOp (.osliceB act a b n rq) act a b.toNat n.toNat (quad rq) true s

/-- An OSLICE completes (R71 to R73, R258): its slots are written whole; a poisoned element poisons the slots that its
digits, its group's exponent and its descriptor stand in; the status word's OFFSET counts whole slots (R238; log 32). -/
def State.doneOslice (s : State) (t : Task) (o : AsyncOp) (b n count : Nat) (opb : Bool) (fin : Finish := State.finishOp) :
    State :=
  let at_ := fun (r k : Nat) => o.vals.headD 0 + 8 * (if opb then 128 * k + r else 64 * r + k)
  let locs := fun (r k : Nat) => (idxFrom (at_ r k) 8).map fun x => Loc.scr t.block x
  let val := fun (r k : Nat) => Fmt.f64.decode (leNat ((locs r k).map (s.opByte t o)))
  let img := sliceImage n count val
  let hit := (upto count).flatMap fun r => (upto 64).flatMap fun k =>
    if (locs r k).any (s.opPoison t o) then
      ((upto n).map fun i => slotAddr (2 * i) (64 * r + k)) ++ [k / 32 * 4352 + 4096 + 2 * r, 2 * 4352 + 4096 + 128 * (k / 32) + r]
    else []
  let hurt := dedup (hit.map fun a => b + a / 4352)
  let first := match hit with
    | [] => none
    | a :: as => some (as.foldl Nat.min a)
  fin s t.uid .c o {
    slots := (upto (2 * n)).map fun i => ((b + i) * 4352, img.bytes (4352 * i) 4352),
    slotWhole := idxFrom b (2 * n), slotBad := hurt, status := statusWord none first }

/-! ## GATHER and SCATTER -/

/-- GATHER and SCATTER (R260): the checks. -/
def indexedOp (i : Instr) (act : Act) (d : BitVec 5) (a ix : BitVec 4) (n w tr : BitVec 5) (st : Bool) (s : State) :
    Out State Fault Refusal :=
  issue .copy s fun t k => do
    let x := t.st k
    copyFirst t act
    let ac := t.accessor s
    let off := (x.reg d).toNat
    let tbl := (x.pair a).toNat
    let idx := (x.pair ix).toNat
    let cnt := (x.reg n).toNat
    let wid := (x.reg w).toNat
    let rows := (x.reg tr).toNat
    let shape := if wid = 0 || 65536 < wid then [8] else []
    s.copyIssue t k i act
      ([t.fpScr off (cnt * wid) (!st)] ++ s.fpVa ac idx (4 * cnt) false ++ s.fpVa ac tbl (rows * wid) st) (cnt * wid) shape
      { bad := s.scrBad t off (cnt * wid) 1 ++ alignBad idx 4 ++ s.copyBad ac idx (4 * cnt) ++ s.copyBad ac tbl (rows * wid) }
      [off, tbl, idx, cnt, wid, rows]

/-- GATHER (R260). -/
def execGather (act : Act) (d : BitVec 5) (a i : BitVec 4) (n w t : BitVec 5) (s : State) : Out State Fault Refusal :=
  indexedOp (.gather act d a i n w t) act d a i n w t false s
/-- SCATTER (R260). -/
def execScatter (act : Act) (d : BitVec 5) (a i : BitVec 4) (n w t : BitVec 5) (s : State) : Out State Fault Refusal :=
  indexedOp (.scatter act d a i n w t) act d a i n w t true s

/-- The bytes of a GATHER or SCATTER, row by row in the order of the index list (R260). -/
def State.indexedBytes (s : State) (t : Task) (o : AsyncOp) (st : Bool) : List CopyByte :=
  match o.vals with
  | [off, tbl, idx, cnt, wid, rows] => (upto cnt).flatMap fun i =>
    let ia := (idxFrom (idx + 4 * i) 4)
    let x := (s.opWord t o (idx + 4 * i)).toInt
    let inT := decide (0 ≤ x) && decide (x < (rows : Int))
    (upto wid).map fun j =>
      let g := tbl + x.toNat * wid + j
      let l := winBase + off + i * wid + j
      if st then
        { off := i * wid + j, src := if inT then some l else none, mask := if inT then 0xFF else 0,
          dst := .va (if inT then g else 0), also := ia : CopyByte }
      else
        { off := i * wid + j, src := if inT then some g else none, mask := if inT then 0xFF else 0, fill := some 0,
          dst := .va l, also := ia : CopyByte }
  | _ => []

end Sys2Proof.Machine
end

