-- ==== Sys2Proof/Machine/Mgmt.lean ====
section
/-! DEFINITION. When Byder serves the management window (R357, R409, R411, R417), the roles of the ports (R354) and the
fabric ranks (R367). -/
namespace Sys2Proof.Machine

/-- Byder serves management commands: the package has reached host ready and has power (R409, R411, R417). -/
def State.mgmtOpen (s : State) : Bool :=
  s.byder.mode == .normal && s.byder.stage == 8 && s.byder.power != .off && s.byder.power != .sleep

/-- The cores run, and with them the dispatcher and the queue scheduler: the package is ACTIVE or IDLE (R416, R417). -/
def State.dispatching (s : State) : Bool := s.byder.power == .active || s.byder.power == .idle

/-- Work returns an idle package to ACTIVE (R417). -/
def State.wakeIdle (s : State) : State :=
  if s.byder.power = .idle then { s with byder := { s.byder with power := .active } } else s

/-- A management command: refused without effect where Byder does not serve it; it returns an idle package to ACTIVE
(R417) and then acts. -/
def State.command (s : State) (f : State → Out State Fault Refusal) : Out State Fault Refusal :=
  if s.mgmtOpen then
    f s.wakeIdle
  else .next s

/-! ## Ports and ranks -/

/-- The registers of an Ethernet port (R433). -/
def portRegs (port : Nat) : Nat := 0x3600 + 0x20 * port

/-- HOSTPORTS names the port as a host port (R367). -/
def State.hostPort (s : State) (port : Nat) : Bool := (s.mreg 0x4038).getLsbD port

/-- The role of a port in force is that of a peer port (R354, R367): a change of HOSTPORTS takes effect only while the
link is down, and PEER holds the role since it came up (R433). -/
def State.peerPort (s : State) (port : Nat) : Bool :=
  if s.mfield (portRegs port + 0x18) 0 1 = 1 then s.mfield (portRegs port + 0x18) 1 1 == 1 else !(s.hostPort port)

/-- The role of a port in force is that of a host port. -/
def State.hostRole (s : State) (port : Nat) : Bool := decide (port < 16) && !(s.peerPort port)

/-- This package's fabric rank (R367). -/
def State.rank (s : State) : Nat := s.mfield 0x4030 0 12

/-- A rank that the table holds as reachable (R367). -/
def State.reachable (s : State) (r : Nat) : Bool :=
  decide (r < s.mfield 0x4028 0 13) && (s.mem.read (s.mfield 0x4020 5 43 * 32 + 32 * r + 23)).getLsbD 0

/-- The peer ports have power. -/
def State.flaoriOn (s : State) : Bool :=
  s.byder.mode == .normal && s.byder.stage == 8 && s.byder.power != .off && s.byder.power != .sleep

/-- The peer port of a rank (R367). -/
def State.rankPort (s : State) (r : Nat) : Nat := (s.mem.read (s.mfield 0x4020 5 43 * 32 + 32 * r + 22)).toNat % 16

/-- A rank that is reachable at a port that has the peer role (R354, R367). -/
def State.peerUp (s : State) (r : Nat) : Bool := s.reachable r && s.peerPort (s.rankPort r)

end Sys2Proof.Machine
end

