-- ==== Sys2Proof/Machine/Reduce.lean ====
section
/-! DEFINITION. CPYRED (R261), QFILL and QSINK (R262), SPREF (R265) and CSTAT (R266). -/
namespace Sys2Proof.Machine

/-! ## Element operations -/

/-- Bytes of an element of a reduction TYPE (R261). -/
def redSize (ty : Nat) : Nat := if ty = 3 then 2 else 4
/-- The float format of a reduction TYPE. -/
def redFmt (ty : Nat) : Option Fmt := if ty = 2 then some .f32 else if ty = 3 then some .bf16 else none

/-- The read-modify-write Op(M, source) of an OP and TYPE (R56, R69, R261). -/
def redAtom (op ty : Nat) : AtomOp :=
  match op with
  | 0 => if ty = 2 then .addF32 else if ty = 3 then .addB16 else .add
  | 1 => if ty = 0 then .minI else if ty = 1 then .minB else .minF (ty == 3)
  | 2 => if ty = 0 then .maxI else if ty = 1 then .maxB else .maxF (ty == 3)
  | 3 => .and
  | _ => .or

/-! ## CPYRED -/

/-- CPYRED (R261): the checks; floating types raise DETERMINISM, FPRED in a deterministic launch (R304), after SEM RANGE and
before the other checks (DESIGN CHOICE, log 99). -/
def execCpyred (act : Act) (d : BitVec 4) (a n : BitVec 5) (op : BitVec 3) (ty : BitVec 2) (s : State) :
    Out State Fault Refusal :=
  issue .copy s fun t k => do
    let st := t.st k
    copyFirst t act
    let dst := (st.pair d).toNat
    let off := (st.reg a).toNat
    let len := (st.reg n).toNat
    let es := redSize ty.toNat
    if t.det && decide (2 ≤ ty.toNat) then trapWith clsDeterminism 1
    else
      let ac := t.accessor s
      let win := if inWindow dst then [(3, dst)] else s.copyBad ac dst len
      s.copyIssue t k (.cpyred act d a n op ty) act (t.fpScr off len false :: s.fpVa ac dst len true) len []
        { bad := win ++ s.scrBad t off len es ++ alignBad dst es ++ (if len % es = 0 then [] else [(5, dst)]) }
        [dst, off, len]

/-- A CPYRED completes (R108, R237, R261): each element once at its home; a poisoned granule stays poisoned. -/
def State.doneCpyred (s : State) (t : Task) (o : AsyncOp) (op ty : Nat) (fin : Finish := State.finishOp) : State :=
  match o.vals with
  | [dst, off, len] =>
    let es := redSize ty
    let cs := (upto len).map fun i => moveByte i (winBase + off + i) (dst + i)
    match s.runBytes t o cs with
    | .away va p e => s.copyPage t o va p e
    | .done ws fault hurt =>
      let elem := fun (j : Nat) => (ws.filter fun w => w.off / es == j)
      let els := ((upto (len / es)).map elem).filter fun l => l.length == es && l.all (·.loc.isSome)
      let rmw := fun (l : List CopyWrite) =>
        { locs := l.filterMap (·.loc), op := redAtom op ty, val := leNat (l.map (·.val)), ret := .none : Rmw }
      let rs := els.map rmw
      let dirtyDst := (els.filter fun l => l.any fun w => w.loc.any (s.opPoison t o)).map fun l => (l.map (·.off)).headD 0
      let kept := els.flatMap fun l => (l.filterMap (·.loc)).filterMap fun x => if s.opPoison t o x then some (granule x) else none
      let hurt := match hurt.toList ++ dirtyDst with
        | [] => none
        | x :: xs => some (xs.foldl Nat.min x)
      let s := if fault.any fun f => f.2 == 8 then s.clearReadErr t o else s
      let out : OpOut := { status := statusWord fault hurt, conds := asyncCond o fault,
                           poison := dedup ((lastBad ws).map granule ++ kept) }
      fin s t.uid .c o { out with rmws := rs }
  | _ => s

/-! ## QFILL and QSINK -/

/-- QFILL and QSINK (R262): the checks. -/
def queueOp (i : Instr) (act : Act) (q : Nat) (a : BitVec 4) (l e n : BitVec 5) (sink : Bool) (s : State) :
    Out State Fault Refusal :=
  issue .copy s fun t k => do
    let st := t.st k
    copyFirst t act
    let va := (st.pair a).toNat
    let ls := (st.reg l).toNat
    let es := (st.reg e).toNat
    let cnt := (st.reg n).toNat
    let ac := t.accessor s
    let size := if cnt = 0 then 0 else (cnt - 1) * es + 95 * ls + 4
    let al := alignBad va 4 ++ (if ls % 4 = 0 && es % 4 = 0 then [] else [(5, va)])
    s.copyIssue t k i act (if cnt = 0 then [] else fpQueue q true :: s.fpVa ac va size sink) (384 * cnt) []
      { bad := al ++ s.copyBad ac va size } [va, ls, es, cnt]

/-- QFILL (R262). -/
def execQfill (act : Act) (q : BitVec 2) (a : BitVec 4) (l e n : BitVec 5) (s : State) : Out State Fault Refusal :=
  queueOp (.qfill act q a l e n) act q.toNat a l e n false s
/-- QSINK (R262). -/
def execQsink (act : Act) (q : BitVec 2) (a : BitVec 4) (l e n : BitVec 5) (s : State) : Out State Fault Refusal :=
  queueOp (.qsink act q a l e n) act q.toNat a l e n true s

/-- The earlier of two offsets with their sub-codes. -/
def firstFault (a b : Option (Nat × Nat)) : Option (Nat × Nat) :=
  match a, b with
  | some x, some y => if x.1 ≤ y.1 then a else b
  | some _, none => a
  | none, _ => b

/-- The earlier of two offsets. -/
def firstOff (a b : Option Nat) : Option Nat :=
  match a, b with
  | some x, some y => some (Nat.min x y)
  | some _, none => a
  | none, _ => b

/-- The state with an outstanding copy changed. -/
def State.setCop (s : State) (u : Nat) (o : AsyncOp) : State :=
  s.mapTask u fun t => { t with cops := t.cops.map fun x => if x.id == o.id then o else x }

/-- An outstanding QFILL or QSINK has moved all its entries: it completes. -/
def State.doneQueue (s : State) (u : Nat) (o : AsyncOp) (fin : Finish := State.finishOp) : State :=
  fin s u .c o { status := statusWord o.fault o.hurt, conds := asyncCond o o.fault }

/-- One entry of a QFILL (R262): read and pushed; a lane that faults is pushed as 0. -/
def State.stepQfill (s : State) (t : Task) (o : AsyncOp) (q : Nat) (fin : Finish := State.finishOp) : State :=
  match o.vals with
  | [va, ls, es, cnt] =>
    if cnt ≤ o.prog then s.doneQueue t.uid o fin
    else if 8 ≤ (nth t.vqs q []).length then s
    else
      let a := o.accessor t s
      let lane := fun (l : Nat) => va + o.prog * es + l * ls
      let failed := s.failedPages t o
      let stop := fun (l : Nat) => match (idxFrom (lane l) 4).findSome? fun v => s.copyStop a v false with
        | some (CopyStop.away v p e) =>
          if failed.any fun f => f.page == v / 65536 then some (CopyStop.fault 8) else some (.away v p e)
        | x => x
      let stops := (upto 96).map stop
      match stops.findSome? fun x => match x with
        | some (.away v p e) => some (v, p, e)
        | _ => none with
      | some (v, p, e) => s.copyPage t o v p e
      | none =>
        let vals := (stops.zip (upto 96)).map fun x => if x.1.isSome then 0 else s.opWord t o (lane x.2)
        let flt := (stops.zip (upto 96)).findSome? fun x => match x.1 with
          | some (.fault k) => some (o.prog * 384 + 4 * x.2, k)
          | _ => none
        let bad := ((upto 96).find? fun l => (idxFrom (lane l) 4).any fun v => (s.opVa t o v).2).map fun l => o.prog * 384 + 4 * l
        let s := if flt.any fun f => f.2 == 8 then s.clearReadErr t o else s
        let o := { o with prog := o.prog + 1, fault := firstFault o.fault flt, hurt := firstOff o.hurt bad }
        let s := s.mapTask t.uid fun t => { t with vqs := t.vqs.set q (nth t.vqs q [] ++ [vals]) }
        let s := s.setCop t.uid o
        if cnt ≤ o.prog then s.doneQueue t.uid o fin else s
  | _ => s

/-- One entry of a QSINK (R262): popped and written. -/
def State.stepQsink (s : State) (t : Task) (o : AsyncOp) (q : Nat) (fin : Finish := State.finishOp) : State :=
  match o.vals with
  | [va, ls, es, cnt] =>
    if cnt ≤ o.prog then s.doneQueue t.uid o fin
    else match nth t.vqs q [] with
      | [] => s
      | ent :: rest =>
        let byte := fun (l b : Nat) =>
          { off := o.prog * 384 + 4 * l + b, src := none, mask := 0, fill := some (bitsOf (nth ent l 0).toNat (8 * b) 8),
            dst := .va (va + o.prog * es + l * ls + b) : CopyByte }
        let cs := (upto 96).flatMap fun l => (upto 4).map (byte l)
        match s.runBytes t o cs with
        | .away v p e => s.copyPage t o v p e
        | .done ws flt bad =>
          let s := if flt.any fun f => f.2 == 8 then s.clearReadErr t o else s
          let o := { o with prog := o.prog + 1, fault := firstFault o.fault flt, hurt := firstOff o.hurt bad }
          let bs := ws.filterMap fun w => w.loc.map fun l => (l, w.val)
          let s := s.mapTask t.uid fun t => { t with vqs := t.vqs.set q rest }
          let s := if t.det then
              s.mapTask t.uid fun t =>
                let st := t.st .c
                t.setSt .c { st with queue := replaceOp st.queue o.id o.seq o.pc [.copied bs [], .op o.id] }
            else s.applyCopied (s.coreOf t) bs []
          let s := s.setCop t.uid o
          if cnt ≤ o.prog then s.doneQueue t.uid o fin else s
  | _ => s

/-! ## SPREF and CSTAT -/

/-- SPREF (R265): the checks. -/
def execSpref (act : Act) (a : BitVec 4) (n : BitVec 5) (s : State) : Out State Fault Refusal :=
  issue .copy s fun t k => do
    let st := t.st k
    copyFirst t act
    let va := (st.pair a).toNat
    let len := (st.reg n).toNat
    let ac := t.accessor s
    s.copyIssue t k (.spref act a n) act (if len = 0 then [] else s.fpVa ac va len false) len []
      { bad := s.copyBad ac va len } [va, len]

/-- The pages of a range that are away: address, entry address, entry and offset in the range. -/
def State.awayPages (s : State) (a : Accessor) (va n : Nat) : List (Nat × Nat × Nat × Nat) :=
  let ps := (rangePieces va n).filterMap fun p => match s.place a p.1 false with
    | .notRes pte e => some (p.1, pte, e, p.1 - va)
    | _ => none
  ps.foldl (fun l p => if l.any fun x => x.2.1 == p.2.1 then l else l ++ [p]) []

/-- A SPREF runs (R265): it requests the pages that are away, and completes when each has been served. A page that an EVICT
issued after it reclaims is still resident for it (R278). -/
def State.stepSpref (s : State) (t : Task) (o : AsyncOp) : State :=
  match o.vals with
  | [va, len] =>
    let s := if o.prog = 0 then
        let ps := s.awayPages (o.accessor t s) va len
        let o := { o with prog := 1, pages := ps.map fun p => (p.2.1, p.2.2.2) }
        ps.foldl (fun s p => s.startRead t.part p.2.1 p.2.2.1 p.1 t.launch (s.coreOf t)) (s.setCop t.uid o)
      else s
    match (s.task? t.uid).bind fun t => t.cops.find? fun x => x.id == o.id with
    | some o => if o.pages.isEmpty then s.finishOp t.uid .c o { status := statusWord o.fault none } else s
    | none => s
  | _ => s

/-- CSTAT (R266). -/
def execCstat (d : BitVec 5) (s : State) : Out State Fault Refusal :=
  issue .copy s fun t k =>
    let pend := t.pend.any fun p => p.stream == k && p.cls == clsAsync
    .ok (s.retire t k ((t.st k).setReg d (BitVec.ofNat 32 (Nat.min 0xFFFF t.cops.length + pend.toNat * 65536))) 2)

end Sys2Proof.Machine
end

