-- ==== Sys2Proof/Machine/Sha.lean ====
section
/-! DEFINITION. The hashes of firmware images and of partition signatures: SHA-256 (R414, R415) and CRC-32C (R351). -/
namespace Sys2Proof.Machine

/-! ## SHA-256 -/

/-- The largest number below 2^k more than `r`, in steps of single bits, whose power `e` stays within `n`. -/
def rootBits (e n : Nat) : Nat → Nat → Nat
  | 0, r => r
  | k + 1, r => rootBits e n k (if (r + 2 ^ k) ^ e ≤ n then r + 2 ^ k else r)

/-- The first 64 primes, from which the standard takes its constants. -/
def shaPrimes : List Nat := (idxFrom 2 310).filter fun p => (idxFrom 2 (p - 2)).all fun d => p % d != 0

/-- The first 32 bits of the fraction of a prime's root: the `e`-th root of p × 2^(32e), modulo 2^32. -/
def rootFraction (e p : Nat) : Word := BitVec.ofNat 32 (rootBits e (p * 2 ^ (32 * e)) 38 0)

/-- The round constants: fractions of cube roots. -/
def shaK : List Word := shaPrimes.map (rootFraction 3)

/-- The first chaining value: fractions of square roots. -/
def shaInit : List Word := (shaPrimes.take 8).map (rootFraction 2)

/-- The big-endian value of bytes. -/
def beNat (bs : List Byte) : Nat := leNat bs.reverse

/-- The `n` bytes of a value, highest first. -/
def natBe (n v : Nat) : List Byte := (natLe n v).reverse

/-- A message with its padding: a one bit, zeros, and its length in bits, to a multiple of 64 bytes. -/
def shaPad (m : List Byte) : List Byte :=
  m ++ [0x80] ++ List.replicate ((119 - m.length % 64) % 64) 0 ++ natBe 8 (8 * m.length)

/-- The next word of the message schedule, from the last sixteen, newest first. -/
def shaNext (w : List Word) : Word :=
  let a := nth w 14 0
  let b := nth w 1 0
  let s0 := a.rotateRight 7 ^^^ a.rotateRight 18 ^^^ (a >>> 3)
  let s1 := b.rotateRight 17 ^^^ b.rotateRight 19 ^^^ (b >>> 10)
  nth w 15 0 + s0 + nth w 6 0 + s1

/-- The message schedule, newest first: `n` words more. -/
def shaSchedule : Nat → List Word → List Word
  | 0, w => w
  | n + 1, w => shaSchedule n (shaNext w :: w)

/-- One round. -/
def shaRound (v : List Word) (k w : Word) : List Word :=
  match v with
  | [a, b, c, d, e, f, g, h] =>
    let s1 := e.rotateRight 6 ^^^ e.rotateRight 11 ^^^ e.rotateRight 25
    let ch := (e &&& f) ^^^ (~~~e &&& g)
    let t1 := h + s1 + ch + k + w
    let s0 := a.rotateRight 2 ^^^ a.rotateRight 13 ^^^ a.rotateRight 22
    let maj := (a &&& b) ^^^ (a &&& c) ^^^ (b &&& c)
    [t1 + s0 + maj, a, b, c, d + t1, e, f, g]
  | v => v

/-- One block of 64 bytes. -/
def shaBlock (h : List Word) (b : List Byte) : List Word :=
  let w0 := (upto 16).map fun i => (BitVec.ofNat 32 (beNat ((b.drop (4 * i)).take 4)) : Word)
  let w := (shaSchedule 48 w0.reverse).reverse
  let v := (shaK.zip w).foldl (fun v p => shaRound v p.1 p.2) h
  (h.zip v).map fun p => p.1 + p.2

/-- The blocks of a padded message; the fuel is their number. -/
def shaBlocks : Nat → List Word → List Byte → List Word
  | 0, h, _ => h
  | n + 1, h, b => shaBlocks n (shaBlock h (b.take 64)) (b.drop 64)

/-- SHA-256 (FIPS 180-4), which R414 and R415 name. -/
def sha256 (m : List Byte) : List Byte :=
  let p := shaPad m
  (shaBlocks (p.length / 64) shaInit p).flatMap fun w => natBe 4 w.toNat

/-! ## CRC-32C -/

/-- One byte of a CRC-32C: eight steps of the reflected polynomial. -/
def crcByte (c : Word) (b : Byte) : Word :=
  (upto 8).foldl (fun c _ => (c >>> 1) ^^^ (if c.getLsbD 0 then 0x82F63B78 else 0)) (c ^^^ b.zeroExtend 32)

/-- CRC-32C (Castagnoli) of bytes, as R269 and R351 use it. -/
def crc32c (bs : List Byte) : Word := ~~~(bs.foldl crcByte 0xFFFFFFFF)

end Sys2Proof.Machine
end

