-- ==== Sys2Proof/Machine/Coll.lean ====
section
/-! DEFINITION. The fabric collectives (R263, R264, R305, R327): group records, the messages that a collective announces
and awaits, and its result. -/
namespace Sys2Proof

/-- An operation of the whole group, not of two members. -/
def CollKind.ofGroup : CollKind → Bool
  | .red _ _ _ | .bc => true
  | .send | .recv => false

/-- Operations of these kinds meet: two of the whole group, or a SEND and a RECV (R264). -/
def CollKind.meets : CollKind → CollKind → Bool
  | .send, k => k == .recv
  | .recv, k => k == .send
  | a, b => a.ofGroup && b.ofGroup

/-- Two operations that meet agree: the same kind, OP and TYPE (R263). -/
def CollKind.agrees : CollKind → CollKind → Bool
  | .red o t _, .red o' t' _ => o == o' && t == t'
  | .bc, .bc => true
  | .send, .recv => true
  | .recv, .send => true
  | _, _ => false

end Sys2Proof

namespace Sys2Proof.Machine

/-! ## Group records -/

/-- The fields of a group record (R263). -/
structure Group where
  members : Nat
  p : Nat
  me : Nat
  tag : Nat
  root : Nat
  rest : Nat
  deriving DecidableEq, Repr

/-- A group record from its bytes. -/
def groupOf (b : List Byte) : Group :=
  { members := recField b 0 8, p := recField b 8 4, me := recField b 12 4, tag := recField b 16 4, root := recField b 20 4,
    rest := recField b 24 40 }

/-- The ranks of the members, read with the record (R263): the checks of a load, after those of the record that need no
member and before those that do (DESIGN CHOICE, log 100). -/
def State.readMembers (s : State) (t : Task) (g : Group) : Except Stop (List Byte) :=
  let a := t.accessor s
  let n := 4 * g.p
  match s.badRange a g.members n 1 false with
  | some (sub, ad) => trapWith clsMemory sub ad
  | none =>
    match s.poisonRange a g.members n false (s.clearFor t (if t.det then t.allQueued else [])) with
    | some (sub, ad) => trapWith clsPoison sub ad
    | none =>
      match s.awayRange a g.members n false with
      | some (v, pte, e) => .error (s.awayStop t v pte e)
      | none => .ok ((s.locs a g.members n false).map fun l => (queueByte (if t.det then t.allQueued else []) l).getD (if t.det then s.byteAt l else s.seenByte a.core l))

/-- The record of a collective and its members' ranks as bytes; RECORD where a rule of R263 is broken. -/
def State.readGroup (s : State) (t : Task) (va : Nat) (bc : Bool) : Except Stop (List Byte) := do
  let b ← s.readRecord t va
  let g := groupOf b
  if g.p = 0 || 4096 < g.p || g.p ≤ g.me || g.rest != 0 || (bc && g.p ≤ g.root) then trapWith clsMatrix 7
  else
    let ms ← s.readMembers t g
    if recField ms (4 * g.me) 4 = s.rank then .ok (b ++ ms) else trapWith clsMatrix 7

/-- The rank of a member of a collective. -/
def AsyncOp.memberRank (o : AsyncOp) (i : Nat) : Nat := recField o.record (64 + 4 * i) 4

/-! ## Issue -/

/-- A counter of issue or arrival order (R263, R366). -/
def State.takeOrd (s : State) (key : List Nat) : State × Nat :=
  let n := ((s.collSeq.find? fun p => p.1 == key).map (·.2)).getD 0
  ({ s with collSeq := (key, n + 1) :: s.collSeq.filter fun p => p.1 != key }, n)

/-- The members that an operation of member `me` concerns: the other ones of the group, or the one that it sends to or
receives from. -/
def collPeersOf (kind : CollKind) (p me peer : Nat) : List Nat :=
  if kind.ofGroup then (upto p).filter (· != me) else [peer]

/-- The counters of a kind: a member counts its operations of the whole group, and by member those that it sends and those
that it receives; `c` keeps the counts of issue and of arrival apart. -/
def ordKey (kind : CollKind) (tag me peer c : Nat) : List Nat :=
  match kind with
  | .send => [tag, me, peer, c + 1]
  | .recv => [tag, me, peer, c + 2]
  | _ => if c = 0 then [tag, me, 0] else [tag, me, peer, c + 3]

/-- A collective takes its place in the order of its TAG (R263, R264): its ordinal among the operations of its kind, and
towards each member that it concerns its place among all that concern that one (log 29). -/
def State.takePlaces (s : State) (tag me peer p : Nat) (kind : CollKind) : State × List Nat :=
  let step := fun (r : State × List Nat) (key : List Nat) =>
    let (s, n) := r.1.takeOrd key
    (s, r.2 ++ [n])
  ((ordKey kind tag me peer 0 :: (collPeersOf kind p me peer).map fun m => [tag, me, m, 0]).foldl step (s, []))

/-- The issue of a collective. `d` and `a` are the destination and source offsets, `peer` the other member of a SEND or
RECV. -/
def State.collIssue (s : State) (t : Task) (k : StreamId) (i : Instr) (act : Act) (rec_ : List Byte) (kind : CollKind)
    (d a n peer : Nat) (foot : List Fp) (matrix : List Nat) (bad : List (Nat × Nat)) : Except Stop State := do
  let g := groupOf rec_
  let (s', ords) := s.takePlaces g.tag g.me peer g.p kind
  s'.copyIssue t k i act foot n matrix { bad := bad } (d :: a :: n :: peer :: ords) rec_

/-- ALIGN of the offsets and the length of a reduction (R264). -/
def redAlign (es d a n : Nat) : List (Nat × Nat) :=
  (if n % es = 0 then [] else [(5, winBase + d)]) ++ alignBad (winBase + d) es ++ alignBad (winBase + a) es

/-- COLLRED (R264); arrival mode raises DETERMINISM, ARRIVAL in a deterministic launch (R304), after SEM RANGE and before
the group record is read (DESIGN CHOICE, log 99). -/
def execCollred (act : Act) (g : BitVec 4) (d a n : BitVec 5) (op : BitVec 3) (ty : BitVec 2) (arr : Bool) (s : State) :
    Out State Fault Refusal :=
  issue .copy s fun t k => do
    let st := t.st k
    copyFirst t act
    if t.det && arr then trapWith clsDeterminism 2
    else
      let b ← s.readGroup t (st.pair g).toNat false
      let dst := (st.reg d).toNat
      let src := (st.reg a).toNat
      let len := (st.reg n).toNat
      let es := redSize ty.toNat
      s.collIssue t k (.collred act g d a n op ty arr) act b (.red op ty arr) dst src len 0
        [t.fpScr src len false, t.fpScr dst len true] []
        (s.scrBad t src len 1 ++ s.scrBad t dst len 1 ++ redAlign es dst src len)

/-- COLLBC (R264). -/
def execCollbc (act : Act) (g : BitVec 4) (d n : BitVec 5) (s : State) : Out State Fault Refusal :=
  issue .copy s fun t k => do
    let st := t.st k
    copyFirst t act
    let b ← s.readGroup t (st.pair g).toNat true
    let dst := (st.reg d).toNat
    let len := (st.reg n).toNat
    let root := (groupOf b).root == (groupOf b).me
    s.collIssue t k (.collbc act g d n) act b .bc dst dst len 0 [t.fpScr dst len (!root)] [] (s.scrBad t dst len 1)

/-- COLLSEND in one direction (R264). -/
def collsendOp (i : Instr) (act : Act) (g : BitVec 4) (m a n : BitVec 5) (kind : CollKind) (s : State) :
    Out State Fault Refusal :=
  issue .copy s fun t k => do
    let st := t.st k
    copyFirst t act
    let b ← s.readGroup t (st.pair g).toNat false
    let off := (st.reg a).toNat
    let len := (st.reg n).toNat
    let peer := (st.reg m).toNat
    s.collIssue t k i act b kind off off len peer [t.fpScr off len (kind == .recv)]
      (if (groupOf b).p ≤ peer then [8] else []) (s.scrBad t off len 1)

/-- COLLSEND, sending (R264). -/
def execCollsendSend (act : Act) (g : BitVec 4) (t a n : BitVec 5) (s : State) : Out State Fault Refusal :=
  collsendOp (.collsendSend act g t a n) act g t a n .send s
/-- COLLSEND, receiving (R264). -/
def execCollsendRecv (act : Act) (g : BitVec 4) (t a n : BitVec 5) (s : State) : Out State Fault Refusal :=
  collsendOp (.collsendRecv act g t a n) act g t a n .recv s

/-! ## Messages -/

/-- The operation that an instruction carries over the fabric. -/
def collKind (i : Instr) : Option CollKind :=
  match i with
  | .collred _ _ _ _ _ op ty arr => some (.red op ty arr)
  | .collbc .. => some .bc
  | .collsendSend .. => some .send
  | .collsendRecv .. => some .recv
  | _ => none

/-- The offsets of the chunks of a message that the receiver pulls: none for a RECV, which carries no data. -/
def chunksOf (m : FlaoriMsg) : List Nat :=
  match m.kind with
  | .recv => []
  | _ => (upto (ceilDiv m.len 4096)).map (4096 * ·)

/-- Every byte of a message has been pulled. -/
def FlaoriIn.whole (f : FlaoriIn) : Bool := (upto (ceilDiv f.msg.len 4096)).all fun i => f.got.contains (4096 * i)

/-- The members whose messages a collective awaits. -/
def AsyncOp.collPeers (o : AsyncOp) (kind : CollKind) : List Nat :=
  let g := groupOf o.record
  collPeersOf kind g.p g.me (nth o.vals 3 0)

/-- The ordinal of a collective among its member's operations of its kind on the TAG. -/
def AsyncOp.collOrd (o : AsyncOp) : Nat := nth o.vals 4 0

/-- The place of a collective among the operations that concern a member (R263). -/
def AsyncOp.placeFor (o : AsyncOp) (kind : CollKind) (m : Nat) : Nat :=
  match ((o.collPeers kind).zip (o.vals.drop 5)).find? fun p => p.1 == m with
  | some p => p.2
  | none => 0

/-- The message of a member is one to this operation's member on its TAG. -/
def AsyncOp.hears (o : AsyncOp) (f : FlaoriIn) : Bool :=
  f.msg.tag.toNat == (groupOf o.record).tag && f.msg.peer == (groupOf o.record).me

/-- The message of a member that an operation awaits: the one for the operation that meets this one (R263, R264). -/
def State.awaited (s : State) (o : AsyncOp) (kind : CollKind) (m : Nat) : Option FlaoriIn :=
  s.flaori.find? fun f => o.hears f && f.msg.member == m && kind.meets f.msg.kind && f.ord == o.collOrd

/-- An operation and a message stand at the same place of the order of two members and cannot meet: one is of the whole
group (R263; log 29). -/
def AsyncOp.clashes (o : AsyncOp) (kind : CollKind) (f : FlaoriIn) : Bool :=
  o.hears f && (o.collPeers kind).contains f.msg.member && f.pos == o.placeFor kind f.msg.member &&
    f.msg.kind.ofGroup != kind.ofGroup

/-- An operation that has been announced and has not come to its end. -/
def AsyncOp.announced (o : AsyncOp) : Bool := o.prog != 0 && o.fault.isNone && o.out.isNone

/-- The next place in this package's order of announcements to a rank on a TAG (R366). -/
def State.takeSeq (s : State) (tag dst : Nat) : State × Nat := s.takeOrd [tag, dst, 1]

/-- A member's operation of the whole group has met a different kind (R263): it ends with MISMATCH at that member. -/
def State.noteBad (s : State) (tag m ord : Nat) : State :=
  if s.collBad.contains (tag, m, ord) then s else { s with collBad := (tag, m, ord) :: s.collBad }

/-- Every member of a group learns that an operation of the group has met a different kind (R263): those of this package at
once, the others by an announcement. -/
def State.tellMismatch (s : State) (o : AsyncOp) (kind : CollKind) : State :=
  if !kind.ofGroup then s
  else
    let g := groupOf o.record
    (upto g.p).foldl (fun s m =>
      let dst := o.memberRank m
      if dst = s.rank then s.noteBad g.tag m o.collOrd
      else if s.peerUp dst then
        let (s, seq) := s.takeSeq g.tag dst
        let msg : FlaoriMsg := { src := s.rank, tag := BitVec.ofNat 32 g.tag, seq := seq, member := g.me, peer := m,
                                 kind := kind, len := 0, crc := crc32c [], poison := [], bad := some o.collOrd }
        { s with wire := s.wire ++ [.announce dst msg] }
      else s) s

/-- An outstanding operation has met a different kind: it ends with MISMATCH, and so does the whole group's (R263). -/
def State.spoilOp (s : State) (t : Task) (o : AsyncOp) (kind : CollKind) : State :=
  (s.setCop t.uid { o with fault := some (0, 0xA) }).tellMismatch o kind

/-- A message has arrived; an announced operation that it clashes with ends with MISMATCH, and what it was meant for does
too (R263). -/
def State.arriveMsg (s : State) (f : FlaoriIn) : State :=
  let hit := s.tasks.flatMap fun t => t.cops.filterMap fun o =>
    (collKind o.instr).bind fun kind => if o.announced && o.clashes kind f then some (t, o, kind) else none
  let s := { s with flaori := s.flaori ++ [if hit.isEmpty then f else { f with fault := some 0xA }] }
  hit.foldl (fun s h => s.spoilOp h.1 h.2.1 h.2.2) s

/-- The collective announces its message to each member that it concerns (R263, R366): to members of this package it is
there at once; to the others an announcement goes onto the wire, and its data are held for the peer to pull. -/
def State.announce (s : State) (t : Task) (o : AsyncOp) (kind : CollKind) : State :=
  let g := groupOf o.record
  let a := nth o.vals 1 0
  let n := nth o.vals 2 0
  let data := (idxFrom a n).map fun x => s.opByte t o (.scr t.block x)
  let bad := (upto n).filter fun i => s.opPoison t o (.scr t.block (a + i))
  (o.collPeers kind).foldl (fun s m =>
    let dst := o.memberRank m
    let (s, seq) := s.takeSeq g.tag dst
    let msg : FlaoriMsg := { src := s.rank, tag := BitVec.ofNat 32 g.tag, seq := seq, member := g.me, peer := m,
                             kind := kind, len := n, crc := crc32c data, poison := bad, bad := none }
    if dst = s.rank then
      s.arriveMsg { msg := msg, ord := o.collOrd, pos := o.placeFor kind m, data := Memory.writeBytes [] 0 data,
                    got := (upto (ceilDiv n 4096)).map (4096 * ·), fails := 0, fault := none }
    else if s.peerUp dst then
      { s with wire := s.wire ++ [.announce dst msg],
               flaoriOut := if (chunksOf msg).isEmpty then s.flaoriOut
                 else s.flaoriOut ++ [{ msg := msg, dst := dst, op := o.id, data := data, pulled := [] }] }
    else s) s

/-- An earlier operation of the same member on the same TAG is still to be announced: announcements leave in issue order
(R366). -/
def State.announceHeld (s : State) (o : AsyncOp) : Bool :=
  s.tasks.any fun t => t.cops.any fun e => decide (e.id < o.id) && e.prog == 0 && e.out.isNone && (collKind e.instr).isSome &&
    (groupOf e.record).tag == (groupOf o.record).tag && (groupOf e.record).me == (groupOf o.record).me

/-- A collective starts (R263, R366): it is announced; one that clashes with a message already there ends with MISMATCH, and
so does what that message was meant for. -/
def State.startColl (s : State) (t : Task) (o : AsyncOp) (kind : CollKind) : State :=
  let hit := s.flaori.any (o.clashes kind)
  let s := { s with flaori := s.flaori.map fun f => if o.clashes kind f then { f with fault := some 0xA } else f }
  let s := (s.announce t o kind).setCop t.uid { o with prog := 1 }
  if hit then s.spoilOp t { o with prog := 1 } kind else s

/-- A message has been used. -/
def State.useMsg (s : State) (f : FlaoriIn) : State := { s with flaori := s.flaori.filter (· != f) }

/-! ## Results -/

/-- The identity of an OP and TYPE (R201, R264). -/
def collIdent (op ty : Nat) : Nat :=
  match redFmt ty with
  | some f => if op = 0 then f.signBit true else f.signBit (op == 2) + f.infEnc
  | none =>
    match op with
    | 1 => if ty = 0 then 0x7FFFFFFF else 0xFFFFFFFF
    | 2 => if ty = 0 then 0x80000000 else 0
    | 3 => 0xFFFFFFFF
    | _ => 0

/-- One step of a collective reduction; NaNs follow R56. -/
def redStep (op ty x y : Nat) : Nat :=
  match redFmt ty with
  | none => atomVal (redAtom op ty) 4 x y
  | some f =>
    let a := f.decode x
    let b := f.decode y
    if op = 0 then (fAdd f .rne false a b).bits else (fMinMax f (op == 2) a b).bits

/-- One level of the tree: neighbours combine, the lower index on the left. -/
def redPairs (op ty : Nat) : List Nat → List Nat
  | x :: y :: r => redStep op ty x y :: redPairs op ty r
  | r => r

/-- The binary tree over a power-of-two number of leaves; the fuel is its depth. -/
def collTree (op ty : Nat) : Nat → List Nat → Nat
  | 0, l => l.headD 0
  | f + 1, l => collTree op ty f (redPairs op ty l)

/-- The depth of the tree over `p` leaves. -/
def treeDepth (p : Nat) : Nat := if p ≤ 1 then 0 else Nat.log2 (p - 1) + 1

/-- One element in tree mode (R264, R305): the leaves in member order. -/
def redElem (op ty : Nat) (det : Bool) (l : List Nat) : Nat :=
  let d := treeDepth l.length
  let full := l ++ List.replicate (2 ^ d - l.length) (collIdent op ty)
  match (if det then redFmt ty else none).bind fun f => (l.map f.decode).findSome? fun v => match v with
      | .nan n p s => some (nanRes f n p s).bits
      | _ => none with
  | some x => x
  | none => collTree op ty d full

/-- An order of arrival of `p` partials (R327): any order may occur; every member of the group sees the same one, which goes
by the operation's ordinal among those of the whole group (log 10). -/
def arrivalOrder (tag ord : Nat) : Nat → List Nat → List Nat
  | 0, _ => []
  | f + 1, l =>
    let i := (Config.freeWord (tag + 2 ^ 32 * ord) (6000000 + f)).toNat % Nat.max 1 l.length
    match l[i]? with
    | some x => x :: arrivalOrder tag ord f (l.eraseIdx i)
    | none => []

/-- One element in arrival mode (R327). -/
def redArrive (op ty : Nat) : List Nat → Nat
  | [] => 0
  | x :: xs => xs.foldl (redStep op ty) x

/-- A collective ends with a status sub-code and an unspecified destination (R237, R263); one that ends with MISMATCH holds
what it has announced no longer. -/
def State.collFail (s : State) (t : Task) (o : AsyncOp) (sub : Nat) (dst : Option Nat) (n : Nat)
    (fin : Finish := State.finishOp) : State :=
  let ws := match dst with
    | some d => ((idxFrom d n).map (Loc.scr t.block)).zip (s.freeBytes t o n)
    | none => []
  let s := if sub = 0xA then { s with flaoriOut := s.flaoriOut.filter fun x => x.op != o.id } else s
  fin s t.uid .c o { writes := ws, status := statusWord (some (0, sub)) none, conds := asyncCond o (some (0, sub)) }

/-- The messages that a collective awaits, with their members; none while one has not arrived. -/
def State.collMsgs (s : State) (o : AsyncOp) (kind : CollKind) : Option (List (Nat × FlaoriIn)) :=
  (o.collPeers kind).mapM fun m => (s.awaited o kind m).map fun f => (m, f)

/-- How a collective fails: it has been told so, or a message that it awaits has failed (R263, R366). -/
def State.collLost (s : State) (o : AsyncOp) (kind : CollKind) : Option Nat :=
  match o.fault with
  | some f => some f.2
  | none =>
    let g := groupOf o.record
    if kind.ofGroup && s.collBad.contains (g.tag, g.me, o.collOrd) then some 0xA
    else (o.collPeers kind).findSome? fun m => (s.awaited o kind m).bind (·.fault)

/-- A collective runs (R263, R264): first it is announced; when every message that it awaits is there and its own data have
been pulled it completes, with MISMATCH where the members disagree and FABRIC where a peer is lost. A COLLRED whose
D overlaps its S in part leaves unspecified bytes in D (R264; log 11). -/
def State.stepColl (s : State) (t : Task) (o : AsyncOp) (kind : CollKind) (fin : Finish := State.finishOp) : State :=
  match o.vals with
  | d :: a :: n :: _ :: ord :: _ =>
    let g := groupOf o.record
    let dst := match kind with
      | .send => none
      | .bc => if g.root = g.me then none else some d
      | _ => some d
    if o.prog = 0 then (if s.announceHeld o then s else s.startColl t o kind)
    else
      let seen := (o.collPeers kind).filterMap fun m => (s.awaited o kind m).map fun f => (m, f)
      let used := fun (s : State) => seen.foldl (fun s p => s.useMsg p.2) s
      match s.collLost o kind with
      | some sub => (used s).collFail t o sub dst n fin
      | none =>
      if seen.any fun p => !(kind.agrees p.2.msg.kind) || p.2.msg.len != n then (used s).collFail t o 0xA dst n fin
      else
      match s.collMsgs o kind with
      | none => s
      | some ms =>
        if s.flaoriOut.any fun x => x.op == o.id then s
        else
          let need := ms.filter fun p => match kind with
            | .red _ _ _ => true
            | .bc => p.1 == g.root
            | .recv => true
            | .send => false
          if need.any fun p => !p.2.whole then s
          else
            let own := (idxFrom a n).map fun x => s.opByte t o (.scr t.block x)
            let ownBad := (upto n).filter fun i => s.opPoison t o (.scr t.block (a + i))
            let srcBad := (match kind with
              | .recv => []
              | .bc => if g.root = g.me then ownBad else []
              | _ => ownBad) ++ need.flatMap fun p => p.2.msg.poison
            let bytes : List Byte := match kind with
              | .red op ty arr =>
                let es := redSize ty.toNat
                let part := fun (m : Nat) => if m = g.me then own else match need.find? fun p => p.1 == m with
                  | some p => p.2.data.bytes 0 n
                  | none => []
                let parts := (upto g.p).map part
                let order := arrivalOrder g.tag ord g.p (upto g.p)
                if d != a && decide (d < a + n) && decide (a < d + n) then s.freeBytes t o n else
                (upto (n / es)).flatMap fun j =>
                  let l := parts.map fun b => recField b (j * es) es
                  natLe es (if arr then redArrive op.toNat ty.toNat (order.map fun i => nth l i 0)
                    else redElem op.toNat ty.toNat t.det l)
              | _ => match need with
                | p :: _ => p.2.data.bytes 0 n
                | [] => []
            let unit := match kind with
              | .red _ ty _ => redSize ty.toNat
              | _ => 1
            let hurt := (upto n).filter fun i => srcBad.any fun b => b / unit == i / unit
            let first := match hurt with
              | [] => none
              | x :: xs => some (xs.foldl Nat.min x)
            let locs := match dst with
              | some d => (idxFrom d n).map (Loc.scr t.block)
              | none => []
            let poison := match dst with
              | some d => dedup (hurt.map fun i => granule (.scr t.block (d + i)))
              | none => []
            fin (used s) t.uid .c o { writes := locs.zip bytes, poison := poison, status := statusWord none first }
  | _ => s

end Sys2Proof.Machine
end

