-- ==== Sys2Proof/Machine/Context.lean ====
section
/-! DEFINITION. Contexts as bytes (R398, R399): their sizes, their layout, and what an engine reads of a shadow region where
they stand (R368, R402). -/
namespace Sys2Proof.Machine

/-! ## Registers that a context gathers -/

/-- The 2-bit tag (R35). -/
def VReg.tag : VReg → Nat
  | .undef => 0
  | .uniform _ => 1
  | .affine _ _ => 2
  | .general _ _ => 3

/-- Rows that GENERAL registers hold: ROWS.INUSE (R47, R340). -/
def Task.inUse (t : Task) : Nat := (t.vregs.filter fun v => match v with
  | .general _ _ => true
  | _ => false).length

/-- PEND of TSTAT: stream k has a further delivered trap pending (R392). -/
def Task.pendBits (t : Task) : Nat :=
  (allStreams.map fun k => if t.pend.any fun p => p.stream == k then 2 ^ k.idx else 0).foldl (· + ·) 0

/-- TSTAT (R392). -/
def Task.tstat (t : Task) : Word := BitVec.ofNat 32 (t.tended.toNat + t.pendBits * 16 + t.tmode.toNat * 256)

/-- The trap program counter of a stream (R392). -/
def Task.tpc (t : Task) : StreamId → Dword
  | .s => t.tpcS
  | .v => t.tpcV
  | .m => t.tpcM
  | .c => t.tpcC

/-! ## Sizes -/

/-- The size of a task's context (R398). -/
def Task.ctxSize (t : Task) : Nat :=
  roundUp (0x5000 + 384 * t.inUse + 4352 * (t.claim.map (·.2)).getD 0 + 16384 * t.nacc) 64

/-- The tasks of a block that have not retired. -/
def State.tasksOf (s : State) (b : Block) : List Task := s.tasks.filter fun t => t.block == b.uid

/-- The size of a block's context (R399). -/
def State.ctxSize (s : State) (b : Block) : Nat :=
  roundUp (0x300 + b.size / 64) 64 + roundUp b.size 64 + ((s.tasksOf b).map Task.ctxSize).foldl (· + ·) 0

/-! ## Layout -/

/-- A field of a layout: its offset, its width in bytes and its value; none is a value that the layout does not fix. -/
abbrev CtxField := Nat × Nat × Option Nat

/-- A field with a value. -/
def ctxField (off n v : Nat) : CtxField := (off, n, some v)

/-- Fields of equal width one after the other. -/
def ctxRun (off n : Nat) (vs : List Nat) : List CtxField := (vs.zip (upto vs.length)).map fun p => ctxField (off + n * p.2) n p.1

/-- The descriptor of a register (R35); `row` is the place of its row in the rows part. -/
def VReg.descriptor (v : VReg) (row : Nat) : Nat :=
  match v with
  | .undef => 0
  | .uniform c => c.toNat
  | .affine b s => b.toNat + s.toNat * 2 ^ 32
  | .general _ _ => row

/-- The GENERAL registers of a task, ascending, with their rows (R398). -/
def Task.generals (t : Task) : List (Nat × Lanes) :=
  ((upto t.vregs.length).zip t.vregs).filterMap fun p => match p.2 with
    | .general _ ls => some (p.1, ls)
    | _ => none

/-- The program counters that a context holds: in trap mode that of the handler and TPCx (R398). -/
def Task.ctxPc (t : Task) (k : StreamId) : Dword := if t.tmode && k != .s then t.tpc k else (t.st k).pc

/-- TCAUSE of a pending trap (R391, R392). -/
def PendTrap.cause (p : PendTrap) : Nat := p.sub + p.cls * 2 ^ 8 + p.stream.idx * 2 ^ 12 + 2 ^ 15 + p.also.toNat * 2 ^ 16

/-- The fixed part of a task's context (R398); p31 is true in every lane (R40). Saved points, the WFA's bound state and the
count, read index and progress of queue registers have no layout of their own, and the model puts the oldest entry of a queue
at the first of its eight places (DESIGN CHOICE, log 23). -/
def Task.ctxHead (t : Task) : List CtxField :=
  let gs := t.generals
  let word := fun (w : Word) => w.toNat
  let (base, count) := t.claim.getD (0, 0)
  [ctxField 0 2 1, ctxField 2 1 t.taskId, ctxField 4 4 t.ctxSize,
   ctxField 8 1 ((allStreams.map fun k => if (t.st k).status == .ended then 2 ^ k.idx else 0).foldl (· + ·) 0 + 16 * t.pendBits),
   ctxField 9 1 t.tmode.toNat] ++
  ctxRun 0x10 8 (allStreams.map fun k => (t.ctxPc k).toNat) ++
  [ctxField 0x30 4 (word t.tcause), ctxField 0x34 4 (word t.tstat), ctxField 0x38 8 t.tinfo.toNat, ctxField 0x40 8 t.tvec.toNat,
   ctxField 0x48 8 t.tpcS.toNat] ++
  ctxRun 0x50 4 [word t.tsave0, word t.tsave1, word t.tsave2, word t.tsave3] ++
  ctxRun 0x60 4 (allStreams.flatMap fun k => (t.st k).regs.toList.map word) ++
  ctxRun 0x260 4 (allStreams.flatMap fun k =>
    let st := t.st k
    [word st.fpmode, word st.fpflags, word st.srcnt, word (st.cyc.getD 0)]) ++
  ctxRun 0x2A0 4 [word t.srseed, t.chk.toNat + 2 * t.det.toNat, t.nrows % 256 + t.inUse * 256, word t.mbnda, word t.mbndu,
    word t.mbndf, word t.droop, word t.runcnt] ++
  [ctxField 0x2C0 32 ((t.vregs.zip (upto 124)).foldl (fun n p => n + p.1.tag * 4 ^ p.2) 0)] ++
  ctxRun 0x2E0 8 ((t.vregs.zip (upto 124)).map fun p =>
    p.1.descriptor ((gs.findIdx? fun g => g.1 == p.2).getD 0)) ++
  ctxRun 0x6C0 4 ((upto 96).map fun l =>
    ((t.preds.zip (upto 31)).foldl (fun n p => n + (p.1.getLsbD l).toNat * 2 ^ p.2) (2 ^ 31))) ++
  ctxRun 0x840 1 t.sems ++
  [ctxField 0x850 1 t.nv, ctxField 0x851 1 t.nrows, ctxField 0x852 1 t.nacc, ctxField 0x853 1 t.nsems, ctxField 0x854 1 base,
   ctxField 0x855 1 count, ctxField 0x858 8 ((t.slotSavePoison.map (2 ^ ·)).foldl (· + ·) 0), (0x860, 32, none),
   (0x880, 64 * (t.mops.filter fun o => o.board.isSome).length, none), (0xA80, 64 * t.cops.length, none)] ++
  ((t.pend.zip (upto 80)).flatMap fun p => [ctxField (0x1A80 + 16 * p.2) 4 p.1.cause, ctxField (0x1A84 + 16 * p.2) 8 p.1.info.toNat]) ++
  [(0x1F80, 128, none)] ++
  (((t.vqs.zip (upto 4)).flatMap fun q => (q.1.zip (upto 8)).flatMap fun e =>
    ctxRun (0x2000 + 3072 * q.2 + 384 * e.2) 4 (e.1.map word)))

/-- A task's context (R398): the fixed part, the rows of its GENERAL registers, the slots that it claims, its acc tiles. -/
def Task.context (t : Task) : List CtxField :=
  let gs := t.generals
  let (base, count) := t.claim.getD (0, 0)
  let slots := 0x5000 + 384 * gs.length
  t.ctxHead ++ ((gs.zip (upto gs.length)).flatMap fun g => ctxRun (0x5000 + 384 * g.2) 4 (g.1.2.map BitVec.toNat)) ++
  ((t.slotSave.filter fun c => decide (4352 * base ≤ c.1) && decide (c.1 < 4352 * (base + count))).map fun c =>
    ctxField (slots + (c.1 - 4352 * base)) 1 c.2.toNat) ++
  t.acc.map fun c => ctxField (slots + 4352 * count + c.1) 1 c.2.toNat

/-- A block's context (R399): its fields, its scratch with the poison of each 8-byte word, and its tasks' contexts. -/
def State.blockContext (s : State) (b : Block) : List CtxField :=
  let l := (s.launch? b.launch).getD .init
  let ts := s.tasksOf b
  let data := roundUp (0x300 + b.size / 64) 64
  let first := data + roundUp b.size 64
  let at_ := fun (t : Task) => first + ((ts.filter fun u => decide (u.taskId < t.taskId)).map Task.ctxSize).foldl (· + ·) 0
  [ctxField 0 2 1, ctxField 2 2 (l.pkt.tasks - 1 + 32 * b.pos), ctxField 4 4 b.ctxBytes, ctxField 8 4 b.bid, ctxField 0xC 4 b.launch,
   ctxField 0x10 8 l.code, ctxField 0x18 4 b.size, ctxField 0x1C 4 (!b.ctxPart).toNat] ++
  ((b.bars.zip (upto 16)).flatMap fun x => [ctxField (0x20 + 16 * x.2) 4 x.1.abits.toNat, ctxField (0x24 + 16 * x.2) 4 x.1.bal.toNat,
    ctxField (0x28 + 16 * x.2) 1 x.1.phase.toNat]) ++
  (if b.pos = 0 then ((((s.span? b.span).map (·.sbars)).getD []).zip (upto 4)).flatMap fun x =>
    [ctxField (0x120 + 48 * x.2) 32 x.1.abits.toNat, ctxField (0x140 + 48 * x.2) 1 x.1.phase.toNat] else []) ++
  (ts.map fun t => ctxField (0x200 + 8 * t.taskId) 8 (at_ t)) ++
  [ctxField 0x300 (b.size / 64) ((b.poison.map (2 ^ ·)).foldl (· + ·) 0)] ++
  (b.scratch.map fun c => ctxField (data + c.1) 1 c.2.toNat) ++
  ts.flatMap fun t => t.context.map fun f => (at_ t + f.1, f.2)

/-! ## The shadow region -/

/-- The context pool of a die: the part of its shadow region behind the four image areas (R402; log 23). -/
def poolBase (die : Nat) : Nat := die * 0x2000000000 + 0x1FC0000000 + 640 * 2 ^ 20

/-- A byte of a layout: of the last field that covers it, a free value where the layout fixes none, otherwise 0. -/
def ctxByte (fresh pa off : Nat) (fs : List CtxField) : Byte :=
  match fs.reverse.find? fun f => decide (f.1 ≤ off) && decide (off < f.1 + f.2.1) with
  | some (o, _, some v) => BitVec.ofNat 8 (v / 256 ^ (off - o))
  | some (_, _, none) => Config.freeByte fresh pa
  | none => 0

/-- A byte of a shadow region: of the context that stands there; elsewhere a free value (log 23). -/
def State.shadowByte (s : State) (pa : Nat) : Byte :=
  match s.blocks.find? fun b => b.st == .evicted && decide (b.ctxAt ≤ pa) && decide (pa < b.ctxAt + b.ctxBytes) with
  | some b => ctxByte s.fresh pa (pa - b.ctxAt) (s.blockContext b)
  | none => Config.freeByte s.fresh pa

/-- The place of a new context of `n` bytes in a die's pool: the first that is free (log 23). -/
def State.poolPlace (s : State) (die n : Nat) : Nat :=
  let own := s.blocks.filter fun b => b.st == .evicted && b.ctxDie == die
  let ends := sortOn id (poolBase die :: own.map fun b => b.ctxAt + b.ctxBytes)
  (ends.find? fun a => !(own.any fun b => decide (a < b.ctxAt + b.ctxBytes) && decide (b.ctxAt < a + n))).getD (poolBase die)

/-- The bytes that an engine of the device reads at physical addresses; where R368 provides no memory the spec gives no value
(log 81). -/
def State.physBytes (s : State) (pa n : Nat) : List Byte :=
  (idxFrom pa n).map fun a =>
    if inShadow a then s.shadowByte a
    else if (physDie s.byder.cacheMode a).isSome then s.mem.read a
    else Config.freeByte s.fresh a

end Sys2Proof.Machine
end

