-- ==== Sys2Proof/Machine/Ring.lean ====
section
/-! DEFINITION. Samovar: RBOARD (R254), the passage of tiles (R267 to R276), the ring status record (R271), the manifest
and the speed (R420 to R423). -/
namespace Sys2Proof.Machine

/-- The ring speed: 0 full, 1 half, 2 quarter, 3 paused (R270). -/
def State.ringSpeed (s : State) : Nat := s.mfield 0x2000 0 2
/-- RINGRETRY (R274). -/
def State.ringRetry (s : State) : Nat := s.mfield 0x2000 4 4

/-! ## RBOARD -/

/-- The first condition of R254 that an RBOARD meets. -/
def State.boardBad (s : State) (t : Task) (b l f n : Nat) : List Nat :=
  if n < 1 || 32 < n || 64 < b + 2 * n then [8]
  else if !(t.owns b (2 * n)) then [1]
  else if !s.ring.loaded then [0xA]
  else match s.ring.layers[l]? with
    | some x => if x.tiles < f + n then [9] else []
    | none => [9]

/-- RBOARD (R254): the checks, in their own order; the capture begins. -/
def execRboard (act : Act) (b : BitVec 6) (l f n m : BitVec 5) (s : State) : Out State Fault Refusal :=
  issue .matrix s fun t k =>
    let st := t.st k
    let layer := (st.reg l).toNat
    let first := (st.reg f).toNat
    let count := (st.reg n).toNat
    let lap := (st.reg m).toNat
    s.matrixIssue t k (.rboard act b l f n m) act [fpSlot b.toNat (2 * count) true] (8704 * count)
      (s.boardBad t b.toNat layer first count) {} [layer, first, count, lap] fun o =>
        { o with board := some { layer := layer, first := first, count := count, minLap := lap, base := b.toNat,
                                 bitmap := List.replicate count false, fails := List.replicate count 0 } }

/-- The state with an outstanding matrix operation changed. -/
def State.setMop (s : State) (u : Nat) (o : AsyncOp) : State :=
  s.mapTask u fun t => { t with mops := t.mops.map fun x => if x.id == o.id then o else x }

/-- An RBOARD ends through RINGCRC at a tile (R254): the status word carries FAULT at the tile's place in the
destination (R238), no other action takes effect, and MATRIX is delivered. -/
def State.endBoard (s : State) (t : Task) (o : AsyncOp) (tile : Nat) : State :=
  s.finishOp t.uid .m o { status := statusWord (some (8704 * tile, 0xB)) none, acts := false,
                          conds := [{ cls := clsMatrix, sub := 4, info := o.pc }] }

/-- A resumed RBOARD ends because the manifest no longer holds its tiles (R275): FAULT at the first one that it lacks,
and MATRIX RINGRANGE is delivered before any stream of the task issues, in a deterministic launch too. -/
def State.endRange (s : State) (t : Task) (o : AsyncOp) : State :=
  let lacks := ((o.board.bind fun b => b.bitmap.findIdx? fun got => !got)).getD 0
  (s.finishOp t.uid .m o { status := statusWord (some (8704 * lacks, 0xC)) none, acts := false }).mapTask t.uid fun t =>
    t.deliverConds .m [{ cls := clsMatrix, sub := 9, info := o.pc }]

/-- A tile fills the two slots of its request (R254), whole slots and so without their poison (R108). -/
def CoreSt.putTile (x : CoreSt) (b : Nat) (tile : List Byte) : CoreSt :=
  let put := fun (m : Memory) (i : Nat) =>
    (m.writeBytes ((b + i) * 4352) ((tile.drop (4096 * i)).take 4096)).writeBytes ((b + i) * 4352 + 4096)
      ((tile.drop (8192 + 256 * i)).take 256)
  { x with slots := put (put x.slots 0) 1, slotPoison := x.slotPoison.filter fun n => n != b && n != b + 1 }

/-- A passage of a tile as one waiting RBOARD meets it (R272, R274). -/
def State.boardPass (s : State) (t : Task) (o : AsyncOp) (lap layer tile : Nat) (good : Bool) (bytes : List Byte) : State :=
  match o.board with
  | none => s
  | some b =>
    let i := tile - b.first
    if layer != b.layer || decide (tile < b.first) || decide (b.count ≤ i) || decide (lap < b.minLap) || nth b.bitmap i true then s
    else if good then
      let core := s.coreOf t
      let s := s.setCore core ((s.core core).putTile (b.base + 2 * i) bytes)
      let b := { b with bitmap := b.bitmap.set i true }
      if b.bitmap.all id then s.finishOp t.uid .m o {} else s.setMop t.uid { o with board := some b }
    else
      let n := nth b.fails i 0 + 1
      if s.ringRetry ≤ n then s.endBoard t o i
      else s.setMop t.uid { o with board := some { b with fails := b.fails.set i n } }

/-! ## Passages -/

/-- A byte that a loader reads after its acquire at the layer's start (R276): of its 8-byte unit a value that it held then or
later (log 10). -/
def State.loaderByte (s : State) (pa : Nat) : Byte :=
  byteIn (s.pickVal (4000000 + pa / 8) (s.slotValues s.ring.since (.mem (pa / 8)))) (.mem pa)

/-- The loader finds poison in the sectors of a tile (R269). -/
def State.loaderPoison (s : State) (pa n : Nat) : Bool :=
  (idxFrom (pa / 32) (n / 32)).any fun g =>
    let old := s.ring.snapBad.contains g
    let new := s.poison.contains g
    if old = new then new else Config.choice s.fresh (5000000 + g)

/-- The tap of a core in the layer that loads; a tap of an earlier layer is at the layer's first tile. -/
def State.tapOf (s : State) (core : Nat) : Tap :=
  match (s.core core).tap with
  | some x => if x.start = s.ring.starts then x else { start := s.ring.starts, seq := 0, tile := 0 }
  | none => { start := s.ring.starts, seq := 0, tile := 0 }

/-- The tap after one passage: the next tile, or the next sequence of the layer (R267). -/
def Tap.next (x : Tap) (l : Layer) : Tap :=
  if x.tile + 1 < l.tiles then { x with tile := x.tile + 1 } else { x with seq := x.seq + 1, tile := 0 }

/-- A passage at the tap of a core (R267, R269, R272): the next tile of the layer; `crcOk` says that its CRC checks and
that its TILE agrees with the tap's count. A tile of poisoned source data fails and is reported (R422). Every waiting
RBOARD of the core's resident tasks meets it. -/
def State.passTile (s : State) (core : Nat) (crcOk : Bool) : State :=
  match s.ring.layers[s.ring.layer]? with
  | none => s
  | some l =>
    let x := s.tapOf core
    if !s.ring.loaded || s.ringSpeed == 3 || decide (l.dwell ≤ x.seq) then s
    else
      let src := l.src + 8704 * x.tile
      let bad := s.loaderPoison src 8704
      let s := if bad then { s with ring := { s.ring with reports := s.ring.reports + 1 } } else s
      let good := crcOk && !bad
      let bytes := (idxFrom src 8704).map s.loaderByte
      let s := s.setCore core { s.core core with tap := some (x.next l) }
      let us := (s.tasks.filter fun t => s.coreOf t == core && (s.blockOf t).any fun b => b.st == .resident).map (·.uid)
      us.foldl (fun s u =>
        match s.task? u with
        | some t => (t.mops.filter fun o => o.board.isSome).foldl (fun s o =>
            match s.task? u with
            | some t => s.boardPass t o s.ring.lap.toNat s.ring.layer x.tile good bytes
            | none => s) s
        | none => s) s

/-- TILE_PASSAGE (R267, R269, R272), while Samovar has power (R417). -/
def execTilePassage (core : Nat) (crcOk : Bool) (s : State) : Out State Fault Refusal :=
  .next (if s.mgmtOpen then s.passTile core crcOk else s)

/-! ## Layer starts and the status record -/

/-- The ring status record (R271), where firmware has set its address. -/
def State.ringRecord (s : State) : State :=
  let pa := s.mfield 0x2008 4 44 * 16
  let v := s.ring.lap.toNat + s.ring.layer % 65536 * 2 ^ 32 + s.ringSpeed * 2 ^ 48 + s.ring.mgen.toNat * 2 ^ 64
  if pa = 0 || !s.ring.loaded then s else s.engineWrite pa 16 v

/-- A loader starts a layer (R268, R271, R276): the lap counts each start of layer 0, the loader acquires, and the record
is written. -/
def State.startLayer (s : State) (layer : Nat) : State :=
  let r := s.ring
  ({ s with ring := { r with layer := layer, lap := if layer = 0 then r.lap + 1 else r.lap, starts := r.starts + 1,
                             since := s.seq, snapBad := s.poison }, seq := s.seq + 1 } : State).ringRecord

/-- A tile of the layer is still to pass a waiting RBOARD that would capture it. -/
def State.ringOwes (s : State) : Bool :=
  s.tasks.any fun t => ((s.blockOf t).any fun b => b.st == .resident) && t.mops.any fun o =>
    match o.board, s.ring.layers[s.ring.layer]? with
    | some b, some l => b.layer == s.ring.layer && decide (b.minLap ≤ s.ring.lap.toNat) &&
        decide ((s.tapOf (s.coreOf t)).seq < l.dwell)
    | _, _ => false

/-- The next layer starts once the layer's tiles have passed (R267). -/
def State.nextLayer (s : State) : State :=
  if !s.ring.loaded || s.ringSpeed == 3 || s.ringOwes then s
  else s.startLayer (if s.ring.layer + 1 < s.ring.layers.length then s.ring.layer + 1 else 0)

/-- LAYER_START (R267, R271), while Samovar has power (R417). -/
def execLayerStart (s : State) : Out State Fault Refusal := .next (if s.mgmtOpen then s.nextLayer else s)

/-! ## The manifest and the speed -/

/-- Every byte of a physical range lies in memory that R368 provides, outside every shadow region. -/
def State.physRange (s : State) (pa n : Nat) : Bool :=
  let last := pa + n - 1
  physOk s.byder.cacheMode pa && physOk s.byder.cacheMode last &&
    (decide (0x8000000000 ≤ pa) || decide (last < 0x8000000000) && pa / 0x2000000000 == last / 0x2000000000)

/-- A manifest entry that keeps the rules of R421. -/
def State.layerOf (s : State) (b : List Byte) : Option Layer :=
  let src := fieldOf b 0 8
  let tiles := fieldOf b 8 4
  let fmt := fieldOf b 12 1
  let dwell := fieldOf b 13 1
  if src % 64 == 0 && decide (1 ≤ tiles) && decide (tiles ≤ 2 ^ 24) && (decide (4 ≤ fmt) && decide (fmt ≤ 8) || fmt == 14) &&
    decide (1 ≤ dwell) && fieldOf b 14 18 == 0 && s.physRange src (8704 * tiles) then
    some { src := src, tiles := tiles, fmt := fmt, dwell := dwell }
  else none

/-- A resident RBOARD waits (R422). -/
def State.boardWaits (s : State) : Bool :=
  s.tasks.any fun t => ((s.blockOf t).any fun b => b.st == .resident) && t.mops.any fun o => o.board.isSome

/-- RESULT of a LOAD with the layers that it installs (R422): 3 for a poisoned sector, 1 for a bad entry or count, 2 while
a resident RBOARD waits. -/
def State.loadCheck (s : State) (base count : Nat) : Except Nat (List Layer) :=
  if count = 0 || 65536 < count then .error 1
  else if (idxFrom (base / 32) count).any fun g => s.poison.contains g then .error 3
  else match (upto count).mapM fun k => s.layerOf (s.physBytes (base + 32 * k) 32) with
    | none => .error 1
    | some ls => if s.boardWaits then .error 2 else .ok ls

/-- LOAD (R422). Entries where R368 provides no memory are checked as what the loader then reads (log 81). -/
def State.loadManifest (s : State) : State :=
  let base := s.mfield 0x2010 5 43 * 32
  let count := s.mfield 0x2018 0 17
  match s.loadCheck base count with
  | .error r => s.setMfield 0x2000 12 4 r
  | .ok ls =>
    let r := s.ring
    let s := { s with ring := { r with layers := ls, loaded := true, mgen := r.mgen + 1,
                                       manifest := s.physBytes base (32 * count) } }
    (s.startLayer 0).setMfield 0x2000 12 4 0

/-- LOAD (R420, R422). -/
def execLoad (s : State) : Out State Fault Refusal := s.command fun s => .next s.loadManifest

/-- A write of the ring control register (R420, R423): SPEED, then RINGRETRY unless 0, then LOAD. -/
def execSpeedWrite (cmd : Dword) (s : State) : Out State Fault Refusal :=
  let v := cmd.toNat
  s.command fun s =>
    let s := s.setMfield 0x2000 0 2 v
    let s := if bitsOf v 4 4 = 0 then s else s.setMfield 0x2000 4 4 (bitsOf v 4 4)
    let s := if bitsOf v 10 1 = 1 then s.setMfield 0x2000 10 1 0 else s
    let s := s.ringRecord
    .next (if bitsOf v 8 1 = 1 then s.loadManifest else s)

end Sys2Proof.Machine
end

