-- ==== Sys2Proof/Machine/Complete.lean ====
section
/-! DEFINITION. The completion of an asynchronous operation (R233, R235): MATRIX_OP_COMPLETION and COPY_COMPLETION. -/
namespace Sys2Proof.Machine

/-- What a matrix operation leaves in its task and core, and what it writes (R243 to R252, R76 to R78). -/
def State.matrixEffect (s : State) (t : Task) (o : AsyncOp) : State × Task × OpOut :=
  match o.instr with
  | .mold _ b n _ side => (s, t, s.doneMold t o b.toNat n.toNat side)
  | .macz _ c k => (s, t.doneMacz c.toNat (k.toNat + 1), {})
  | .macld _ _ _ c mq nq => (s, s.doneMacld t o c.toNat (quad mq) (quad nq), {})
  | .mma _ sa sb c mq nq fa fb z => (s, s.doneMma t o sa.toNat sb.toNat c.toNat (quad mq) (quad nq) fa.toNat fb.toNat z)
  | .mmap _ sa sb c mq nq fa fb z => s.doneMmap t o sa.toNat sb.toNat c.toNat (quad mq) (quad nq) fa.toNat fb.toNat z
  | .mmasFull _ sa sb n mq nq => (s, s.doneMmas t false sa.toNat sb.toNat n.toNat (quad mq) (quad nq), {})
  | .mmasTri _ sa sb n mq nq => (s, s.doneMmas t true sa.toNat sb.toNat n.toNat (quad mq) (quad nq), {})
  | .mwclr _ => (s, t.clearWfa, {})
  | .mwst _ _ _ mq nq => (s, s.doneMwst t o (quad mq) (quad nq))
  | .macst _ _ _ c mq nq fmt sr _ => (s, t, s.doneMacst t o c.toNat (quad mq) (quad nq) fmt.toNat sr)
  | _ => (s, t, {})

/-- An operation of the array starts (R337): once its arrays are free of the operation before, each takes it in the first
cycle that the governor lets it, and holds it for its cycles (R74, R246); the bubbles are counted. -/
def State.startArray (s : State) (t : Task) (o : AsyncOp) : State × Task :=
  if onArray o.instr then
    let cs := s.opCores t o
    let ready := (cs.map fun c => (s.core c).arrayFree).foldl Nat.max s.now
    let at_ := passCycle (cs.map fun c => (s.core c).droop) 8 17 ready
    (cs.foldl (fun s c => s.setCore c { s.core c with
        droop := (s.core c).droop.add 8 at_, arrayFree := at_ + arrayCycles o.instr }) { s with now := at_ },
      t.countDroop (at_ - ready))
  else (s, t)

/-- A matrix operation completes (R233), behind the stores that its core's path holds (R107; log 6). -/
def State.completeMop (s : State) (t : Task) (o : AsyncOp) (fin : Finish := State.finishOp) : State :=
  let s := s.landAll (s.coreOf t)
  match o.out with
  | some x => fin s t.uid .m o x
  | none =>
    let (s, t) := s.startArray t o
    let (s, t, x) := s.matrixEffect t o
    fin (s.setTask t) t.uid .m o x

/-- The matrix operations of a task that may complete: in issue order, those of an RBOARD apart, and on the array in the
order in which what it serves became ready (R223, R235). -/
def State.readyMop (s : State) (t : Task) (o : AsyncOp) : Bool :=
  o.board.isNone && s.mayComplete t o true &&
  (!onArray o.instr || (s.opCores t o).all fun c => s.arrayTurn c (t.uid, some o.id))

/-- MATRIX_OP_COMPLETION (R233, R235). -/
def execMatrixOpCompletion (task op : Nat) (s : State) : Out State Fault Refusal :=
  .next (match s.task? task with
    | some t => match t.mops.find? fun o => o.id == op with
      | some o => if s.readyMop t o then s.completeMop t o else s
      | none => s
    | none => s)

/-- The bytes of a copy that moves bytes alone (R256, R257, R259, R260). -/
def State.copyBytes (s : State) (t : Task) (o : AsyncOp) : Option (List CopyByte) :=
  match o.instr, o.vals with
  | .cpy .., [dst, src, len] => some (s.cpyBytes t dst src len)
  | .tcopy .., _ => some (o.tcopyBytes false)
  | .tcopySt .., _ => some (o.tcopyBytes true)
  | .tcopyo _ _ b _, _ => some (o.tcopyoBytes b.toNat)
  | .gather .., _ => some (s.indexedBytes t o false)
  | .scatter .., _ => some (s.indexedBytes t o true)
  | _, _ => none

/-- A copy runs: to its end, or to a saved point where a page, a queue register or a message is awaited (R233, R237); the
stores that its core's path holds come first (R107; log 6). -/
def State.runCop (s : State) (t : Task) (o : AsyncOp) (fin : Finish := State.finishOp) : State :=
  let s := s.landAll (s.coreOf t)
  match o.out with
  | some x => fin s t.uid .c o x
  | none =>
  match s.copyBytes t o with
  | some cs => s.doneBytes t o cs fin
  | none =>
  match o.instr with
  | .osliceA _ _ b n rq => s.doneOslice t o b.toNat n.toNat (quad rq) false fin
  | .osliceB _ _ b n rq => s.doneOslice t o b.toNat n.toNat (quad rq) true fin
  | .cpyred _ _ _ _ op ty => s.doneCpyred t o op.toNat ty.toNat fin
  | .qfill _ q .. => s.stepQfill t o q.toNat fin
  | .qsink _ q .. => s.stepQsink t o q.toNat fin
  | .spref .. => s.stepSpref t o
  | i => match collKind i with
    | some kind => s.stepColl t o kind fin
    | none => s

/-! ## Part of the writes -/

/-- The operations whose writes to memory, scratch or operand slots may land in part (R107). -/
def AsyncOp.lands (o : AsyncOp) : Bool :=
  match o.instr with
  | .mold .. | .mwst .. | .macst .. => true
  | .macz .. | .macld .. | .mma .. | .mmap .. | .mmasFull .. | .mmasTri .. | .mwclr .. | .rboard .. | .spref .. => false
  | _ => o.foot.any (·.wr)

/-- An outstanding operation's writes may land in part now, outside deterministic launches, where a commit applies them. -/
def State.mayPart (s : State) (t : Task) (k : StreamId) (o : AsyncOp) : Bool :=
  !t.det && o.lands && if k = .m then s.readyMop t o else s.mayComplete t o false

/-- An operation of the task whose writes land in part now. -/
def State.partNext (s : State) (t : Task) : Option State :=
  match t.mops.find? fun o => s.mayPart t .m o with
  | some o => some (s.completeMop t o State.landSome)
  | none => (t.cops.find? fun o => s.mayPart t .c o).map fun o => s.runCop t o State.landSome

/-- COPY_COMPLETION (R233, R235). -/
def execCopyCompletion (task op : Nat) (s : State) : Out State Fault Refusal :=
  .next (match s.task? task with
    | some t => match t.cops.find? fun o => o.id == op with
      | some o => if s.mayComplete t o false then s.runCop t o else s
      | none => s
    | none => s)

end Sys2Proof.Machine
end

