-- ==== Sys2Proof/Machine/Retire.lean ====
section
/-! DEFINITION. The retirement of tasks and blocks (R20 to R23), and their share in launches and work graphs (R22, R293). -/
namespace Sys2Proof.Machine

/-- A task may retire (R20, R23): its streams have ended, its operations have completed, and no delivered trap waits. -/
def Task.over (t : Task) : Bool :=
  (allStreams.all fun k => (t.st k).status == .ended) && t.mops.isEmpty && t.cops.isEmpty && t.pend.isEmpty && !t.dbgHalt

/-- The first task that ended through a trap or KILL gives its launch's result (R22), and its graph's (R293). -/
def State.noteFate (s : State) (t : Task) : State :=
  match t.fate, s.launch? t.launch with
  | some f, some l =>
    let s := if l.result.isNone then s.setLaunch { l with result := some f } else s
    match l.graph.bind s.graph? with
    | some g => if g.failed.isNone then s.setGraph { g with failed := some f } else s
    | none => s
  | _, _ => s

/-- A block whose last task has retired (R22): its core is free, and the launch completes with its last block. -/
def State.retireBlock (s : State) (b : Block) : State × List RecRef :=
  let s := { s with blocks := s.blocks.filter fun x => x.uid != b.uid }
  let s := if s.blocks.any fun x => x.span == b.span then s else { s with spans := s.spans.filter fun p => p.uid != b.span }
  match s.launch? b.launch with
  | none => (s, [])
  | some l =>
    let l := { l with left := l.left - 1 }
    let s := s.setLaunch l
    if l.left = 0 then s.completeLaunch l else (s, [])

/-- A retired task leaves its graph's count with the records that it consumed (R21, R293). -/
def State.graphLeave (s : State) (t : Task) : State × List RecRef :=
  match s.launch? t.launch with
  | some l => match l.graph with
    | some g => s.graphSub g (1 + l.records.length)
    | none => (s, [])
  | none => (s, [])

/-- A task retires (R20 to R22): its stores are visible, its slots pass on, barriers no longer await it. -/
def State.retireTask (s : State) (t : Task) : State :=
  let core := s.coreOf t
  let s := (allStreams.foldl (fun s k => s.leaveAll core t.block (t.st k).queue) s).landAll core
  let s := s.noteFate t
  let ts := s.tasks.filter fun x => x.uid != t.uid
  let s := { s with tasks := ts, past := if ts.isEmpty && !s.ring.loaded then [] else s.past }
  let x := s.core core
  let s := (s.setCore core { x with arb := x.arb.filter fun e => e.task != t.uid }).passSlots core
  let (s, r1) := s.graphLeave t
  match s.block? t.block with
  | none => State.settleAll (s, r1)
  | some b =>
    if (s.liveTasks b).isEmpty then
      let (s, r2) := s.retireBlock b
      State.settleAll ((upto 4).foldl (fun s i => s.testSbar b.span i) s, r1 ++ r2)
    else
      let s := (upto 16).foldl (fun s i => s.testBar b.uid i) s
      State.settleAll ((upto 4).foldl (fun s i => s.testSbar b.span i) s, r1)

/-- TASK_RETIRE (R20); a task of a deterministic launch retires with a commit (R303). -/
def execTaskRetire (task : Nat) (s : State) : Out State Fault Refusal :=
  .next (match s.task? task with
    | some t => if t.over && !t.det && s.resident t then s.retireTask t else s
    | none => s)

end Sys2Proof.Machine
end

