-- ==== Sys2Proof/Machine/Evict.lean ====
section
/-! DEFINITION. Saving and restoring blocks (R27, R28, R398 to R402): the saved points of their operations, the size of a
context, eviction and resumption. -/
namespace Sys2Proof.Machine

/-- Bytes of a die's context pool in use (R402). -/
def State.poolUsed (s : State) (die : Nat) : Nat :=
  ((s.blocks.filter fun b => b.st == .evicted && b.ctxDie == die).map (·.ctxBytes)).foldl (· + ·) 0

/-- The blocks of a span that still live. -/
def State.blocksOf (s : State) (span : Nat) : List Block := s.blocks.filter fun b => b.span == span

/-- The pools of the dies have room for the contexts of blocks (R402). -/
def State.poolRoom (s : State) (bs : List Block) : Bool :=
  (upto 4).all fun d =>
    let more := ((bs.filter fun b => b.core / 128 == d).map s.ctxSize).foldl (· + ·) 0
    decide (s.poolUsed d + more ≤ 384 * 2 ^ 20)

/-! ## Saved points -/

/-- The first operation that became ready for the array of a core. -/
def State.arrayOp (s : State) (core : Nat) : Option (Nat × Option Nat) :=
  (s.core core).arrayQ.find? fun e => e.2.isSome && s.arrayLive core e

/-- A matrix operation may complete before a context is saved (R28, R84): as outside an eviction, but for the VXMs that wait
for the array, which touch nothing of the operation and whose streams stand meanwhile. -/
def State.savedMop (s : State) (t : Task) (o : AsyncOp) : Bool :=
  o.board.isNone && s.mayComplete t o true &&
  (!onArray o.instr || (s.opCores t o).all fun c => match s.arrayOp c with
    | some e => e == (t.uid, some o.id)
    | none => true)

/-- The array of a core serves the operations that became ready for it, in order (R235); the fuel is how many they are. -/
def State.serveArray (s : State) (core : Nat) : Nat → State
  | 0 => s
  | f + 1 => match s.arrayOp core with
    | some (u, some id) =>
      match (s.task? u).bind fun t => (t.mops.find? fun o => o.id == id).map fun o => (t, o) with
      | some (t, o) => if s.savedMop t o then (s.completeMop t o).serveArray core f else s
      | none => s
    | _ => s

/-- Each operation of a task that may run runs once (R28). -/
def State.runOps (s : State) (u : Nat) : State :=
  match s.task? u with
  | none => s
  | some t =>
    let s := (dedup (s.coreOf t :: t.mops.flatMap (s.opCores t))).foldl (fun s c => s.serveArray c (s.core c).arrayQ.length) s
    let s := t.mops.foldl (fun s o =>
      match (s.task? u).bind fun t => (t.mops.find? fun x => x.id == o.id).map fun o => (t, o) with
      | some (t, o) => if s.savedMop t o then s.completeMop t o else s
      | none => s) s
    t.cops.foldl (fun s o =>
      match (s.task? u).bind fun t => (t.cops.find? fun x => x.id == o.id).map fun o => (t, o) with
      | some (t, o) => if s.mayComplete t o false then s.runCop t o else s
      | none => s) s

/-- The operations of the tasks of blocks run until each has completed or stands at its saved point (R28, R401); the fuel
is more than any number of steps that they can take. -/
def State.quiesce (s : State) (us : List Nat) : Nat → State
  | 0 => s
  | f + 1 =>
    let ids := fun (s : State) => s.tasks.filterMap fun t =>
      if us.contains t.block then some ((t.mops ++ t.cops).map fun o => (o.id, o.prog)) else none
    let s' := (s.tasks.filter fun t => us.contains t.block).foldl (fun s t => s.runOps t.uid) s
    if ids s' == ids s then s' else s'.quiesce us f

/-! ## Halting and saving -/

/-- A stream of an evicted block as it will restart: at its instruction, which has not taken effect if it was waiting
(R389, R401). -/
def StreamSt.park (st : StreamSt) (tmode : Bool) : StreamSt :=
  { st with granted := false, run := 0,
            status := match st.status with
              | .waiting _ => if tmode then .trap else .ready
              | x => x }

/-- A task of a halted block (R401): its words have completed, its streams stand at their boundaries, and the slots that
it holds are saved with their contents: those it claims, and those it has released into which an RBOARD still captures
(R242, R275). -/
def Task.park (t : Task) (x : CoreSt) : Task :=
  let held := (x.owners.filter fun p => p.2 == t.uid).map (·.1)
  { t with
    str := ⟨t.str.s.park t.tmode, t.str.v.park false, t.str.m.park false, t.str.c.park false⟩,
    semQ := [], flights := [], sb := [],
    slotHeld := held, slotSave := x.slots.filter fun p => held.contains (p.1 / 4352),
    slotSavePoison := x.slotPoison.filter held.contains }

/-- Blocks stop and leave their cores (R401 steps 1 to 4): operations reach their ends or saved points, store queues
drain to the homes, and the state of each block becomes `st`. -/
def State.saveBlocks (s : State) (us : List Nat) (st : Block → Block) : State :=
  let s := s.quiesce us 0x100000
  let s := (s.tasks.filter fun t => us.contains t.block).foldl (fun s t =>
    let (s, t) := allStreams.foldl (fun (p : State × Task) k => p.1.drain p.2 k) (s, t)
    s.setTask (t.park (s.core (s.coreOf t)))) s
  let s := s.landEvery
  let cores := dedup ((s.blocks.filter fun b => us.contains b.uid).map (·.core))
  let mine := (s.tasks.filter fun t => us.contains t.block).map (·.uid)
  let s := { s with blocks := s.blocks.map fun b => if us.contains b.uid then st b else b }
  cores.foldl (fun s c =>
    let x := s.core c
    (s.setCore c { x with owners := x.owners.filter fun p => !(mine.contains p.2) }).serveOclm c fun t => !t.det) s

/-- A block's context takes its place in the pool of the die where the block ran (R401, R402). -/
def State.putContext (s : State) (part : Bool) (u : Nat) : State :=
  match s.block? u with
  | none => s
  | some b =>
    let n := s.ctxSize b
    let die := b.core / 128
    s.setBlock { b with st := .evicted, held := false, evictedAt := s.seq, ctxBytes := n, ctxDie := die, ctxAt := s.poolPlace die n,
                        ctxPart := part }

/-- Blocks are evicted to the context pools (R401); `part` marks a partial eviction (R285). -/
def State.evict (s : State) (us : List Nat) (part : Bool) : State :=
  let s := us.foldl (State.putContext · part) (s.saveBlocks us fun b => { b with st := .evicted, ctxBytes := 0, ctxAt := 0 })
  { s with seq := s.seq + 1 }

/-- A block that waits for a storage page leaves its core, with its whole span, where the pools have room (R277); where they
have none the span stays, halted, and goes on once none of its pages is awaited (R402). -/
def State.leaveHeld (s : State) (b : Block) : Option State :=
  let bs := s.blocksOf b.span
  if !b.held || bs.any (fun x => x.st != .resident) then none
  else if s.poolRoom bs then some (s.evict (bs.map (·.uid)) false)
  else if bs.all fun x => x.page.isNone then
    some { s with blocks := s.blocks.map fun x => if x.span == b.span then { x with held := false } else x }
  else none

/-- BLOCK_EVICTION (R277, R401, R402). -/
def execBlockEviction (block : Nat) (s : State) : Out State Fault Refusal :=
  .next (((s.block? block).bind s.leaveHeld).getD s)

/-! ## Room on a core -/

/-- What a block needs of a core (R26). -/
structure Need where
  tasks : Nat
  rows : Nat
  acc : Nat
  size : Nat
  deriving DecidableEq, Repr

/-- The needs of a block that starts. -/
def Packet.need (p : Packet) : Need :=
  { tasks := p.tasks, rows := p.tasks * p.rows, acc := p.tasks * p.acc, size := 4096 * p.scratch }

/-- The needs of a block that resumes. -/
def State.needOf (s : State) (b : Block) : Need :=
  let ts := s.tasksOf b
  { tasks := ts.length, rows := (ts.map (·.nrows)).foldl (· + ·) 0, acc := (ts.map (·.nacc)).foldl (· + ·) 0, size := b.size }

/-- The resident blocks of a core but for those that leave. -/
def State.blocksOn (s : State) (core : Nat) (gone : List Nat) : List Block :=
  s.blocks.filter fun b => b.core == core && b.st == .resident && !(gone.contains b.uid)

/-- A scratch base is free on a core (R26, R87). -/
def State.baseFree (s : State) (core base : Nat) (gone : List Nat) (n : Need) : Bool :=
  base % 12288 == 0 && decide (base + n.size ≤ 49152 * (scratchWays (s.core core).scrway).length) &&
  !((s.blocksOn core gone).any fun b => decide (base < b.base + b.size) && decide (b.base < base + n.size))

/-- A core has the task slots, rows and acc tiles that a block needs (R26). -/
def State.coreFits (s : State) (core : Nat) (gone : List Nat) (n : Need) : Bool :=
  let ns := (s.blocksOn core gone).map s.needOf
  decide ((ns.map (·.tasks)).foldl (· + ·) 0 + n.tasks ≤ 32) && decide ((ns.map (·.rows)).foldl (· + ·) 0 + n.rows ≤ 2048) &&
  decide ((ns.map (·.acc)).foldl (· + ·) 0 + n.acc ≤ 32)

/-- The lowest free base of a core. -/
def State.findBase (s : State) (core : Nat) (gone : List Nat) (n : Need) : Option Nat :=
  ((upto 64).map (12288 * ·)).find? fun b => s.baseFree core b gone n

/-- The task slots of a core that no resident task holds, ascending (R43). -/
def State.freeTaskSlots (s : State) (core : Nat) : List Nat :=
  let used := (s.tasks.filter fun t => s.coreOf t == core && (s.blockOf t).any fun b => b.st == .resident).map (·.slot)
  (upto 32).filter fun i => !(used.contains i)

/-- The slots that an evicted task held are free on a core once the blocks `gone` have left. -/
def State.claimFree (s : State) (t : Task) (core : Nat) (gone : List Nat) : Bool :=
  t.slotHeld.all fun i => !((s.core core).owners.any fun p => p.1 == i && !((s.task? p.2).any fun x => gone.contains x.block))

/-! ## Resumption -/

/-- A restored task holds its slots again, with their contents. -/
def State.restoreClaim (s : State) (t : Task) (core : Nat) : State :=
  if t.slotHeld.isEmpty then s else
  let x := s.core core
  let rest := x.slots.filter fun p => !(t.slotHeld.contains (p.1 / 4352))
  s.setCore core { x with
    owners := x.owners ++ t.slotHeld.map fun i => (i, t.uid),
    slots := t.slotSave.foldl (fun (m : Memory) p => Memory.write m p.1 p.2) rest,
    slotPoison := t.slotSavePoison ++ x.slotPoison.filter fun i => !(t.slotHeld.contains i) }

/-- An RBOARD of a resumed task whose tiles a new manifest no longer holds ends (R275). -/
def State.checkBoards (s : State) (t : Task) : State :=
  t.mops.foldl (fun s o =>
    match o.board, s.task? t.uid with
    | some b, some t =>
      let there := s.ring.loaded && match s.ring.layers[b.layer]? with
        | some l => decide (b.first + b.count ≤ l.tiles)
        | none => false
      if there then s else s.endRange t o
    | _, _ => s) s

/-- An uncorrectable error in its private state ends a task as KILL does, and is counted (R430). -/
def State.killByError (s : State) (t : Task) : State :=
  (s.mapTask t.uid fun t => { t.killAll (clsUser, 0) with doomed := false }).countMreg (0x3220 + 0x80 * (s.coreOf t / 128)) 0

/-- A task whose saved state holds such an error ends when it is resumed (R430). -/
def State.checkDoom (s : State) (t : Task) : State := if t.doomed then s.killByError t else s

/-- A block is restored on a core (R27, R400, R401): new task slots, the operand slots that it held with their contents,
L1 invalid. -/
def State.restoreBlock (s : State) (b : Block) (core base : Nat) : State :=
  let s := (s.setBlock { b with st := .resident, core := core, base := base, held := false, ctxPart := false,
                                placedAt := s.seq }).l1Clear core
  (s.tasksOf b).foldl (fun s t =>
    let s := s.setTask { t with slot := (s.freeTaskSlots core).headD t.slot, slotHeld := [], slotSave := [], slotSavePoison := [] }
    (s.restoreClaim t core).noteSlots t.uid) s

/-- What the tasks of restored blocks meet first (R275, R430). -/
def State.checkRestored (s : State) (us : List Nat) : State :=
  (s.tasks.filter fun t => us.contains t.block).foldl (fun s t => (s.checkBoards t).checkDoom t) s

end Sys2Proof.Machine
end

