-- ==== Sys2Proof/Machine/Ras.lean ====
section
/-! DEFINITION. Channels, slices and errors: the hashes of R369 and R370, self-refresh (R373), scrubbing (R428), soft errors
(R429, R430), slice retirement (R431, R432), the error counters (R427) and the Ethernet links (R354, R433). -/
namespace Sys2Proof.Machine

/-! ## Channels and slices -/

/-- The exclusive or of the `n`-bit fields of an address from bit `lo` on, `k` of them. -/
def xorFields (pa n : Nat) : Nat → Nat → Nat
  | _, 0 => 0
  | lo, k + 1 => bitsOf pa lo n ^^^ xorFields pa n (lo + n) k

/-- The hash c[6:0] of an HBM address (R369): the stack in [2:0], the channel of the die's eight in [5:3], the pseudo-channel
in [6]. -/
def hbmHash (pa : Nat) : BitVec 7 := BitVec.ofNat 7 (xorFields pa 7 9 4)

/-- The pseudo-channel of a byte of HBM (R369). -/
def pseudoOf (pa : Nat) : Bool := (hbmHash pa).getLsbD 6

/-- The channel of a byte of memory (R369): of HBM the stack and the channel, which holds two pseudo-channels. -/
def channelOf (cache : Bool) (pa : Nat) : Option Channel :=
  (physDie cache pa).map fun x =>
    if x.2.2 then .hbm x.1 ((hbmHash pa).extractLsb' 0 6)
    else .lp6 x.1 (BitVec.ofNat 4 (xorFields pa 4 9 7 ^^^ bitsOf pa 37 2))

/-- The bucket of an address (R370). -/
def bucketOf (pa : Nat) : Nat := xorFields pa 6 7 6

/-- The home slice of an address: entry b of its die's bucket table (R370). -/
def State.homeSlice (s : State) (pa : Nat) : Option (Nat × Nat) :=
  (physDie s.byder.cacheMode pa).map fun x => (x.1, nth (nth s.buckets x.1 []) (bucketOf pa) 0)

/-! ## Self-refresh -/

/-- The die of a channel. -/
def Channel.dieNo : Channel → Nat
  | .hbm d _ => d
  | .lp6 d _ => d

/-- SELF_REFRESH_ENTRY (R373): the idle timer of a channel expires; IDLE 0 disables entry. -/
def execSelfRefreshEntry (ch : Channel) (s : State) : Out State Fault Refusal :=
  .next (if s.mfield 0x188 0 16 = 0 || 4 ≤ Channel.dieNo ch || s.selfRefresh.contains ch then s
    else { s with selfRefresh := s.selfRefresh ++ [ch] })

/-- A channel leaves self-refresh. -/
def State.wakeChannel (s : State) (ch : Channel) : State := { s with selfRefresh := s.selfRefresh.filter (· != ch) }

/-- SELF_REFRESH_EXIT (R373): the exit time has passed; in SLEEP every channel stays in self-refresh (R417). -/
def execSelfRefreshExit (ch : Channel) (s : State) : Out State Fault Refusal :=
  .next (if s.byder.power = .sleep then s else s.wakeChannel ch)

/-! ## Counters -/

/-- The counters of a die start at this offset (R427). -/
def dieRegs (die : Nat) : Nat := 0x3200 + 0x80 * die

/-- CLR (R427): every counter of the die becomes 0 in one step. -/
def execClr (die : Nat) (s : State) : Out State Fault Refusal :=
  s.command fun s => .next (if die < 4 then (upto 5).foldl (fun s i => s.setMreg (dieRegs die + 8 * i) 0) s else s)

/-- The counter of a sector's memory on a die: HBMCE with HBMUE, or LP6CE with LP6UE (R427). -/
def sectorReg (die : Nat) (hbm : Bool) : Nat := dieRegs die + (if hbm then 0 else 8)

/-- A die's shadow region holds contexts or an image (R402, R428). -/
def State.shadowHeld (s : State) (die : Nat) : Bool :=
  (s.blocks.any fun b => b.st != .resident && (if b.st == .evicted then b.ctxDie else b.core / 128) == die) ||
  s.images.any fun x => x.core / 128 == die

/-- In CACHE mode the LP6 sector of the die that a sector of its HBM holds at this moment, if it holds one; which is
unspecified (R372; log 82). -/
def State.cachedSector (s : State) (die : Nat) : Option Nat :=
  if Config.choice s.fresh 8300000 then
    some ((0x10000000000 + die * 0x8000000000) / 32 +
      ((Config.freeWord s.fresh 8300001).toNat + 2 ^ 32 * (Config.freeWord s.fresh 8300002).toNat) % 2 ^ 34)
  else none

/-- What stands at a place of a die's HBM or LP6: the die, whether it is HBM, and the sector whose data stand there. In CACHE
mode HBM holds sectors of LP6 (R372). -/
def State.dramAt (s : State) (sector : Nat) : Option (Nat × Bool × Option Nat) :=
  match physDie s.byder.cacheMode (32 * sector) with
  | some x => some (x.1, x.2.2, some sector)
  | none => (physDie false (32 * sector)).map fun x => (x.1, true, s.cachedSector x.1)

/-- The place as the patrol scrubber examines it: not in a shadow region that holds no context (R428). -/
def State.scrubAt (s : State) (sector : Nat) : Option (Nat × Bool × Option Nat) :=
  (s.dramAt sector).bind fun x =>
    if (physDie s.byder.cacheMode (32 * sector)).isSome && inShadow (32 * sector) && !(s.shadowHeld x.1) then none else some x

/-- SCRUB_READ (R428): an error is corrected in place, or marks its sector poisoned, unless a write has reached the sector
since. Its read is a request to the channel (R373); nothing is read in SLEEP (R417). -/
def execScrubRead (sector : Nat) (found : ScrubFound) (raced : Bool) (s : State) : Out State Fault Refusal :=
  .next (match s.scrubAt sector with
    | some (die, hbm, at') =>
      if s.mfield (dieRegs die + 0x30) 0 16 = 0 || !s.mgmtOpen then s
      else
        let s := match channelOf false (32 * sector) with
          | some c => s.wakeChannel c
          | none => s
        if raced then s
        else match found with
          | .clean => s
          | .correctable => s.countMreg (sectorReg die hbm) 0
          | .uncorrectable => ((at'.map fun g => s.setPoison (.mem g)).getD s).countMreg (sectorReg die hbm) 32
    | none => s)

/-! ## Soft errors -/

/-- The die where an error site lies, if it exists. -/
def State.siteDie (s : State) (site : ErrSite) : Option Nat :=
  match site with
  | .dram g => (s.dramAt g).map (·.1)
  | .l2 g => (physDie s.byder.cacheMode (32 * g)).map (·.1)
  | .scratch b w => match s.block? b with
    | some x => if x.st == .resident && decide (8 * w < x.size) then some (x.core / 128) else none
    | none => none
  | .l1 c _ => if s.coreMap.any fun x => x.core == c then some (c / 128) else none
  | .slot c i => if (s.coreMap.any fun x => x.core == c) && decide (i < 64) then some (c / 128) else none
  | .taskState t => (s.task? t).map fun t => s.coreOf t / 128

/-- The counters of an error's storage on a die (R427). -/
def State.siteReg (s : State) (site : ErrSite) (die : Nat) : Nat :=
  match site with
  | .dram g => sectorReg die (((s.dramAt g).map (·.2.1)).getD false)
  | .l2 _ => dieRegs die + 0x10
  | _ => dieRegs die + 0x18

/-- An uncorrectable error: a sector in memory or in its L2 slice is poisoned (R108, R419); core SRAM acts by its kind (R429,
R430), and one that a context save meets is marked in the context. -/
def State.hardError (s : State) (site : ErrSite) : State :=
  match site with
  | .dram g => (((s.dramAt g).bind (·.2.2)).map fun x => s.setPoison (.mem x)).getD s
  | .l2 g => s.setPoison (.mem g)
  | .scratch b w => s.setPoison (.scr b w)
  | .l1 c line => s.setCore c { s.core c with l1 := (s.core c).l1.filter fun p => p.1 != line }
  | .slot c i => s.setCore c { s.core c with slotPoison := dedup (i :: (s.core c).slotPoison) }
  | .taskState u => match s.task? u with
    | some t => if (s.blockOf t).any fun b => b.st == .resident then s.killByError t else s.setTask { t with doomed := true }
    | none => s

/-! ## Slice retirement -/

/-- The registers of a die's slices (R431). -/
def sliceRegs (die : Nat) : Nat := 0x3400 + 0x40 * die

/-- RETIRED of a die. -/
def State.retiredMask (s : State) (die : Nat) : BitVec 16 := BitVec.ofNat 16 (s.mfield (sliceRegs die) 16 16)

/-- The unretired slice that holds the fewest buckets, the lowest number of equals (R432). -/
def leastSlice (tbl : List Nat) (retired : BitVec 16) : Nat :=
  let free := (upto 16).filter fun k => !(retired.getLsbD k)
  let count := fun (k : Nat) => (tbl.filter (· == k)).length
  match free with
  | [] => 0
  | k :: ks => ks.foldl (fun best k => if count k < count best then k else best) k

/-- The buckets of a slice move, in ascending order, one by one (R432 step 1). -/
def moveBuckets (retired : BitVec 16) (k : Nat) (tbl : List Nat) : List Nat :=
  (upto 64).foldl (fun t b => if nth t b 0 = k then t.set b (leastSlice (t.set b 99) retired) else t) tbl

/-- A slice retires (R431, R432); Byder's persistent record holds it. -/
def State.retireSlice (s : State) (die : Nat) (k : BitVec 4) : State :=
  let mask := s.retiredMask die ||| (1 <<< k.toNat)
  let s := s.setMfield (sliceRegs die) 16 16 mask.toNat
  { s with buckets := s.buckets.set die (moveBuckets mask k.toNat (nth s.buckets die [])),
           byder := { s.byder with retired := (die, mask) :: s.byder.retired.filter fun x => x.1 != die } }

/-- The number of slices of a die that have retired. -/
def State.retiredCount (s : State) (die : Nat) : Nat := ((upto 16).filter fun k => (s.retiredMask die).getLsbD k).length

/-- RETIRE (R431, R432). -/
def execRetire (die : Nat) (slice : BitVec 4) (s : State) : Out State Fault Refusal :=
  s.command fun s => .next (
    if 4 ≤ die then s
    else
      let s := s.setMfield (sliceRegs die) 0 4 slice.toNat
      let done := fun (s : State) (r : Nat) => s.setMfield (sliceRegs die) 8 4 r
      if (s.retiredMask die).getLsbD slice.toNat then done s 1
      else if 4 ≤ s.retiredCount die then done s 2
      else done (s.retireSlice die slice) 0)

/-- The place of a slice's corrected-error count: register and bit (R431). -/
def sliceCe (die : Nat) (k : BitVec 4) : Nat × Nat := (sliceRegs die + 0x10 + 8 * (k.toNat / 4), 16 * (k.toNat % 4))

/-- A corrected error of a slice is counted for the slice, where the count saturates, and for its die (R427, R431). -/
def State.countSlice (s : State) (die : Nat) (k : BitVec 4) (n : Nat) : State :=
  let (reg, lo) := sliceCe die k
  (s.setMfield reg lo 16 (Nat.min 0xFFFF (s.mfield reg lo 16 + n))).setMfield (dieRegs die + 0x10) 0 32
    (Nat.min 0xFFFFFFFF (s.mfield (dieRegs die + 0x10) 0 32 + n))

/-- Byder retires a slice whose corrected errors have reached THRESH, unless four of its die have retired (R431). -/
def State.autoRetire (s : State) (die : Nat) (k : BitVec 4) : State :=
  let thresh := s.mfield (sliceRegs die + 8) 0 16
  if thresh = 0 || decide (s.mfield (sliceCe die k).1 (sliceCe die k).2 16 < thresh) || s.byder.mode != .normal ||
      (s.retiredMask die).getLsbD k.toNat || 4 ≤ s.retiredCount die then s
  else s.retireSlice die k

/-- SOFT_ERROR (R427, R429): a single-bit error is corrected and counted; an uncorrectable one is counted and acts by the
storage that it hits. Corrected errors of a slice may retire it (R431). -/
def execSoftError (site : ErrSite) (double : Bool) (s : State) : Out State Fault Refusal :=
  .next (match s.siteDie site with
    | some d =>
      if double then (s.countMreg (s.siteReg site d) 32).hardError site
      else match site with
        | .l2 g =>
          let k := BitVec.ofNat 4 (((s.homeSlice (32 * g)).map (·.2)).getD 0)
          (s.countSlice d k 1).autoRetire d k
        | _ => s.countMreg (s.siteReg site d) 0
    | none => s)

/-- SLICE_AUTO_RETIRE (R431): corrected errors bring a slice's count to THRESH (log 40), which counts for the die too (R427),
and Byder retires it. -/
def execSliceAutoRetire (die : Nat) (slice : BitVec 4) (s : State) : Out State Fault Refusal :=
  .next (
    let thresh := s.mfield (sliceRegs die + 8) 0 16
    if 4 ≤ die || thresh = 0 || s.byder.mode != .normal then s
    else
      let (reg, lo) := sliceCe die slice
      (s.countSlice die slice (thresh - s.mfield reg lo 16)).autoRetire die slice)

/-! ## Links -/

/-- LINK_DOWN (R354, R433): the link is down and counted; a changed role takes effect. -/
def execLinkDown (port : Nat) (s : State) : Out State Fault Refusal :=
  .next (
    if 16 ≤ port || s.mfield (portRegs port + 0x18) 0 1 = 0 then s
    else ((s.countMreg (portRegs port + 0x10) 32).setMfield (portRegs port + 0x18) 0 1 0).setMfield (portRegs port + 0x18) 1 1
      (!(s.hostPort port)).toNat)

/-- LINK_UP (R354, R433): the link comes up with the port's role, unless firmware holds it down (R367); in Dawn mode and in
SLEEP port 0 alone has power (R411, R417). -/
def execLinkUp (port : Nat) (s : State) : Out State Fault Refusal :=
  .next (
    if 16 ≤ port || (s.mreg 0x4038).getLsbD (16 + port) || s.byder.mode == .off || s.byder.power == .off ||
        ((s.byder.mode == .dawn || s.byder.power == .sleep) && port != 0) then s
    else (s.setMfield (portRegs port + 0x18) 0 1 1).setMfield (portRegs port + 0x18) 1 1 (!(s.hostPort port)).toNat)

/-- DROPPED_FRAME (R354, R355, R366, R433): a frame is dropped; a bad FCS, and a bad ICRC or Flaori CRC, have counters
of R433; a frame of another protocol is counted by port where no register shows it. -/
def execDroppedFrame (port : Nat) (why : DropWhy) (s : State) : Out State Fault Refusal :=
  .next (
    if 16 ≤ port then s
    else match why with
      | .fcs => s.countMreg (portRegs port) 0
      | .crc => s.countMreg (portRegs port) 32
      | .protocol => { s with protoDrops := s.protoDrops.set port (nth s.protoDrops port 0 + 1) })

end Sys2Proof.Machine
end

