-- ==== Sys2Proof/Machine/Storage.lean ====
section
/-! DEFINITION. Caddy and the translation caches as the driver commands them (R278 to R280, R378 to R386, R433): reads that
end, reclaims and write-backs, admin commands, SSDs that come and go, and TLBICMD. -/
namespace Sys2Proof.Machine

/-! ## The SSDs' data -/

/-- Where the 64 KiB page of an entry lies in the SSDs' data: by SSD, namespace and page number (R382). -/
def State.ssdBase (s : State) (e : Nat) : Nat := ((entrySsd e * 2 ^ 32 + s.nsidOf e) * 2 ^ 48 + entryPlba e) * 65536

/-- The bytes of a memory from `a` up to `a + n`, moved to stand from `b` on over another memory. -/
def moveBytes (src : Memory) (a n : Nat) (dst : Memory) (b : Nat) : Memory :=
  (src.filter fun p => decide (a ≤ p.1) && decide (p.1 < a + n)).foldl
    (fun (m : Memory) p => Memory.write m (b + (p.1 - a)) p.2)
    (dst.filter fun p => p.1 < b || b + n ≤ p.1)

/-- L1 lines of a range leave every core. -/
def State.l1Forget (s : State) (pa n : Nat) : State :=
  { s with cores := s.cores.map fun c =>
      (c.1, { c.2 with l1 := c.2.l1.filter fun p => p.1 * 128 + 128 ≤ pa || pa + n ≤ p.1 * 128 }) }

/-- The LBA size of an entry's namespace, and whether its protection is of type 3 (R380, R382). -/
def State.lbaSize (s : State) (e : Nat) : Nat := if s.mfield (0x1008 + 0x100 * entrySsd e + 8 * entryNs e) 33 1 = 1 then 4096 else 512
def State.pt3 (s : State) (e : Nat) : Bool := s.mfield (0x1008 + 0x100 * entrySsd e + 8 * entryNs e) 34 1 == 1

/-- The places of an entry's logical blocks in the SSDs' data. -/
def State.lbaBases (s : State) (e : Nat) : List Nat :=
  (upto (65536 / s.lbaSize e)).map fun i => s.ssdBase e + s.lbaSize e * i

/-- The protection information of the logical block `i` of an entry, for the bytes `b` (R383): its guard (log 77) and
reference tag, the low 48 bits of the LBA. -/
def State.protection (s : State) (e i : Nat) (b : List Byte) : Dword × Nat :=
  (Config.guard64 b, (s.entryLba e + i) % 2 ^ 48)

/-- The protection information of an entry's logical blocks checks (R383): the guard, and for type 1 the reference tag.
Blocks that no write-back has written hold what their writer computed (log 77). -/
def State.guardOk (s : State) (e : Nat) : Bool :=
  ((s.lbaBases e).zip (upto 128)).all fun p => match s.ssdPi.find? fun x => x.1 == p.1 with
    | none => true
    | some (_, g, r) =>
      let (g', r') := s.protection e p.2 (s.ssd.bytes p.1 (s.lbaSize e))
      g == g' && (s.pt3 e || r == r')

/-- A write-back stores a frame's data with the protection information computed from it (R383). -/
def State.ssdWrite (s : State) (e pa : Nat) : State :=
  let n := s.lbaSize e
  let pi := ((s.lbaBases e).zip (upto 128)).map fun p =>
    let x := s.protection e p.2 (s.mem.bytes (pa + n * p.2) n)
    (p.1, x.1, x.2)
  { s with ssd := moveBytes s.mem pa 65536 s.ssd (s.ssdBase e),
           ssdPi := pi ++ s.ssdPi.filter fun x => x.1 < s.ssdBase e || s.ssdBase e + 65536 ≤ x.1 }

/-- A frame is filled with the page of an entry (R383, R385): every sector written whole. -/
def State.fillFrame (s : State) (pa entry : Nat) : State :=
  (({ s with mem := moveBytes s.ssd (s.ssdBase entry) 65536 s.mem pa,
             poison := s.poison.filter fun g => 32 * g < pa || pa + 65536 ≤ 32 * g } : State).l1Forget pa 65536).forgetPast pa 65536

/-- The resident value of an entry in a frame (R375). -/
def residentEntry (entry frame : Nat) : Nat := entry % 16 + 16 + frame

/-! ## Reads -/

/-- The STORAGE sub-code of a read's end (R280). -/
def readSub (r : ReadResult) : Nat :=
  match r with
  | .ok => 0
  | .media => 1
  | .guard => 2
  | .nodev => 3

/-- A read ends (R385): the page is installed, or the entry is restored and the failure reported; the blocks that wait
resume. Where the driver has changed the entry meanwhile, its value stays and the frame stays out of the pool (R386). -/
def State.endRead (s : State) (r : SsdRead) (i : Nat) (res : ReadResult) : State :=
  let s := { s with reads := s.reads.filter fun x => x.id != r.id }
  let res : ReadResult := match res with
    | .ok => if s.guardOk r.entry then .ok else .guard
    | x => x
  match res with
  | .ok =>
    let pa := s.frameAddr r.part i
    let s := (s.fillFrame pa r.entry).setFrame r.part i 2 0 r.pte r.entry
    match s.swapEntry r.pte (r.entry + 32) (residentEntry r.entry pa) with
    | (s, _) => s.wakePage r.pte none
  | res =>
    let s := match s.swapEntry r.pte (r.entry + 32) r.entry with
      | (s, true) => s.dropFrame r.part i
      | (s, false) => s
    s.failRead r.part r.pte r.entry r.va r.launch r.core (readSub res)

/-- A read with its frame ends. -/
def State.readDone (s : State) (id : Nat) (res : ReadResult) : State :=
  match s.reads.find? fun x => x.id == id with
  | some r => match r.frame with
    | some i => s.endRead r i res
    | none => s
  | none => s

/-- PAGE_READ_DONE (R280, R385), while Caddy has power (R417). -/
def execPageReadDone (id : Nat) (res : ReadResult) (s : State) : Out State Fault Refusal :=
  .next (if s.mgmtOpen then s.readDone id res else s)

/-! ## Reclaiming frames -/

/-- The places that a buffered effect has yet to write or has translated (R278, R300). -/
def State.effPlaces (s : State) (part : Nat) : Eff → List Loc
  | .atom ops => ops.flatMap (·.locs)
  | .cas ops => ops.flatMap (·.locs)
  | .pxw lanes => lanes.flatMap fun p => p.order ++ p.pixel.map (·.1)
  | .fres _ pa _ _ | .ftry _ pa _ _ | .fstat pa _ => [.mem pa]
  | .tjoin va _ | .grec va _ _ _ => ((s.devPa part va.toNat true).map Loc.mem).toList
  | .acts act _ _ _ _ => (act.fut.map fun f => Loc.mem f.2).toList
  | e => e.bytes.map (·.1)

/-- A store that passed its checks against a frame has not been performed (R278): it waits in a queue or a buffer, on a
core's path, or as a pixel lane. -/
def State.storesInto (s : State) (pa : Nat) : Bool :=
  let hits := fun (l : Loc) => match l with
    | .mem x => decide (pa ≤ x) && decide (x < pa + 65536)
    | _ => false
  (s.tasks.any fun t => t.allQueued.any fun e => (s.effPlaces t.part e.eff).any hits) ||
  (s.cores.any fun c => c.2.out.any fun u => u.any fun p => hits p.1) ||
  s.pxw.any fun p => (p.order ++ p.pixel.map (·.1)).any hits

/-- A range of virtual addresses of a partition covers the page of an entry. -/
def State.coversPage (s : State) (part lo hi pte : Nat) : Bool :=
  (idxFrom (lo / 65536) (ceilDiv hi 65536 - lo / 65536)).any fun p => match s.walk part (p * 65536) with
    | .leaf _ _ _ x => x == pte
    | _ => false

/-- An operation issued before a reclaim has a range, or a FUT address, that the page covers (R278). -/
def State.opsOver (s : State) (r : Reclaim) : Bool :=
  let pa := s.frameAddr r.part r.frame
  s.tasks.any fun t => t.part == r.part && (t.mops ++ t.cops).any fun o => decide (o.seq < r.seq) &&
    ((o.foot.any fun f => f.sp == .glob && decide (f.lo < f.hi) && s.coversPage t.part f.lo f.hi r.pte) ||
     o.act.fut.any fun f => decide (pa ≤ f.2) && decide (f.2 < pa + 65536))

/-- RESULT of an eviction; BUSY clears (R380). -/
def State.evictResult (s : State) (part r : Nat) : State :=
  (s.setMfield (0x430 + 0x40 * part) 4 4 r).setMfield (0x430 + 0x40 * part) 0 1 0

/-- A reclaim ends without freeing its frame (R386 step 4). -/
def State.reclaimFailed (s : State) (r : Reclaim) (sub : Nat) : State :=
  let pa := s.frameAddr r.part r.frame
  let s := { s with reclaims := s.reclaims.filter fun x => x.seq != r.seq }
  let flags := (s.mem.read (s.frameRec r.part r.frame + 1)).toNat
  let s := s.setFrame r.part r.frame 2 flags r.pte r.entry
  let s := (s.swapEntry r.pte (residentEntry r.entry pa + 32) (residentEntry r.entry pa)).1
  let s := s.faultRecord r.part 2 sub 0 0 pa (entryPlba r.entry) (entrySsd r.entry)
  (s.evictResult r.part 3).wakePage r.pte none

/-- Prefetches that met a page in its reclaim request it now (R265, R279). -/
def State.prefetchAgain (s : State) (r : Reclaim) : State :=
  let waits := s.tasks.findSome? fun t => t.cops.findSome? fun o =>
    (o.pages.find? fun p => p.1 == r.pte).map fun p => (t, o.vals.headD 0 + p.2)
  match waits with
  | some (t, va) =>
    let s := s.startRead r.part r.pte r.entry va t.launch (s.coreOf t)
    if s.reads.any fun x => x.pte == r.pte then s else s.wakePage r.pte none
  | none => s

/-- A reclaim frees its frame (R386 step 5), unless the driver has changed the entry meanwhile: then its value stays and the
frame stays out of the pool. -/
def State.reclaimDone (s : State) (r : Reclaim) : State :=
  let pa := s.frameAddr r.part r.frame
  let s := { s with reclaims := s.reclaims.filter fun x => x.seq != r.seq }
  let s := match s.swapEntry r.pte (residentEntry r.entry pa + 32) r.entry with
    | (s, true) => s.dropFrame r.part r.frame
    | (s, false) => s
  (((s.faultRecord r.part 5 0 0 0 pa 0 0).evictResult r.part 0).wakeBlocks r.pte none).prefetchAgain r

/-- A reclaim goes on once nothing uses the page any more (R278, R386): a dirty frame is written back, a poisoned one
stays, a clean one is freed. A write-back fails where the entry's binding no longer holds or its SSD is not ready (R280,
R382). -/
def State.advanceReclaim (s : State) (r : Reclaim) : State :=
  let pa := s.frameAddr r.part r.frame
  if r.writing || s.storesInto pa || s.opsOver r then s
  else
    let flags := (s.mem.read (s.frameRec r.part r.frame + 1)).toNat
    if flags / 2 % 2 = 1 then s.reclaimFailed r 5
    else if flags % 2 = 1 then
      if !(s.bound r.part r.entry) then s.reclaimFailed r 4
      else if !(s.ssdUp (entrySsd r.entry)) then s.reclaimFailed r 3
      else
        let s := s.setFrame r.part r.frame 4 flags r.pte r.entry
        ({ s with reclaims := s.reclaims.map fun x => if x.seq == r.seq then { x with writing := true } else x } : State).ssdIo
          r.entry true
    else s.reclaimDone r

/-- A write of EVICT (R386). An entry that the driver has changed no longer makes the frame resident (log 78). -/
def State.startReclaim (s : State) (part frame : Nat) : State :=
  let s := s.setMreg (0x428 + 0x40 * part) (BitVec.ofNat 64 (frame / 65536 % 2 ^ 32 * 65536))
  let pa := frame / 65536 % 2 ^ 32 * 65536
  if s.reclaims.any fun r => r.part == part then s.setMfield (0x430 + 0x40 * part) 1 1 1
  else
    match s.frameOf pa with
    | some (p, i) =>
      if p != part then s.evictResult part 2
      else if s.frameState part i != 2 then s.evictResult part 1
      else
        let rec_ := s.frameRec part i
        let pte := s.mem.field (rec_ + 8) 8
        let entry := s.mem.field (rec_ + 16) 8
        let flags := (s.mem.read (rec_ + 1)).toNat
        let r : Reclaim := { seq := s.seq, id := s.uid, part := part, frame := i, pte := pte, entry := entry, writing := false }
        match s.swapEntry pte (residentEntry entry pa) (residentEntry entry pa + 32) with
        | (s, false) => s.evictResult part 1
        | (s, true) =>
          let s := (s.setFrame part i 3 flags pte entry).tlbDrop part (fun e => e.pte == pte) fun _ => false
          let s := s.setMfield (0x430 + 0x40 * part) 0 1 1
          ({ s with seq := s.seq + 1, uid := s.uid + 1, reclaims := s.reclaims ++ [r] } : State).advanceReclaim r
    | none => s.evictResult part 2

/-- EVICT (R386). -/
def execEvict (part : BitVec 3) (frame : Dword) (s : State) : Out State Fault Refusal :=
  s.command fun s => .next (s.startReclaim part.toNat frame.toNat)

/-- WRITE_BACK_DONE (R386): the partition's write-back ends, while Caddy has power (R417). -/
def execWriteBackDone (part : BitVec 3) (res : WriteResult) (s : State) : Out State Fault Refusal :=
  .next (match s.reclaims.find? fun r => r.part == part.toNat with
    | some r =>
      if !s.mgmtOpen then s
      else if !r.writing then s.advanceReclaim r
      else match res with
        | .ok => (s.ssdWrite r.entry (s.frameAddr r.part r.frame)).reclaimDone r
        | .media => s.reclaimFailed r 1
        | .nodev => s.reclaimFailed r 3
    | none => s)

/-! ## SSDs -/

/-- The offset of SSDCTL of an SSD (R380). -/
def ssdCtl (ssd : BitVec 3) : Nat := 0x1000 + 0x100 * ssd.toNat

/-- The entries of queue creation and deletion among admin opcodes (R382). -/
def queueOpcode (op : Nat) : Bool := op == 0 || op == 1 || op == 4 || op == 5

/-- A write of ADMADDR (R380, R382): the command goes to the SSD; queue creation and deletion are answered by the engine
with Invalid Command Opcode (status code 1 in bits [24:17] of the completion's last word). -/
def State.admin (s : State) (ssd : BitVec 3) (addr : Dword) : State :=
  let base := ssdCtl ssd
  if s.mfield (base + 0x90) 0 1 = 1 then s.setMfield (base + 0x90) 1 1 1
  else
    let pa := bitsOf addr.toNat 6 42 * 64
    let s := s.setMreg (base + 0x88) (BitVec.ofNat 64 pa)
    let cmd := s.physBytes pa 64
    if queueOpcode (fieldOf cmd 0 1) then s.engineWrite (pa + 64) 16 ((fieldOf cmd 2 2 + 2 ^ 17) * 2 ^ 96)
    else
      let s := s.setMfield (base + 0x90) 0 1 1
      { s with admins := (ssd.toNat, s.uid) :: s.admins, uid := s.uid + 1, wire := s.wire ++ [.adminCmd ssd.toNat cmd] }

/-- ADMADDR (R380). Where R368 provides no memory the command is what the engine reads there, and its completion is
written nowhere (log 81). -/
def execAdmaddr (ssd : BitVec 3) (addr : Dword) (s : State) : Out State Fault Refusal :=
  s.command fun s => .next (s.admin ssd addr)

/-- ADMIN_COMPLETION (R380), while Caddy has power (R417): the completion is written at +64 and BUSY clears. -/
def execAdminCompletion (ssd : BitVec 3) (entry : List Byte) (s : State) : Out State Fault Refusal :=
  .next (if s.mgmtOpen && s.admins.any fun x => x.1 == ssd.toNat then
    let pa := (s.mreg (ssdCtl ssd + 0x88)).toNat
    (({ s with admins := s.admins.filter fun x => x.1 != ssd.toNat } : State).engineWrite (pa + 64) 16
      (leNat (entry.take 16))).setMfield (ssdCtl ssd + 0x90) 0 1 0
  else s)

/-- An admin command of an SSD is given up: it never completes, and its BUSY clears. -/
def State.adminLost (s : State) (ssd : Nat) : State :=
  ({ s with admins := s.admins.filter fun x => x.1 != ssd } : State).setMfield (0x1000 + 0x100 * ssd + 0x90) 0 1 0

/-- NVME_COMMAND_TIMEOUT (R382): a command outstanding for 5 s is aborted: a read or a write-back is reported as NODEV, an
admin command is given up. Without power nothing is sent (R417). -/
def execNvmeCommandTimeout (id : Nat) (s : State) : Out State Fault Refusal :=
  let abort := fun (s : State) (ssd : Nat) => ({ s with wire := s.wire ++ [.ssdAdmin ssd 8 1] } : State)
  .next (if !s.mgmtOpen then s else match s.reads.find? fun r => r.id == id && r.frame.isSome with
    | some r => (abort s (entrySsd r.entry)).readDone id .nodev
    | none => match s.reclaims.find? fun r => r.id == id && r.writing with
      | some r => (abort s (entrySsd r.entry)).reclaimFailed r 3
      | none => match s.admins.find? fun x => x.2 == id with
        | some x => (abort s x.1).adminLost x.1
        | none => s)

/-- The outstanding commands of an SSD are lost: its reads and write-backs fail with NODEV, an admin command never completes
and its BUSY clears. -/
def State.ssdLost (s : State) (ssd : Nat) : State :=
  let s := s.reads.foldl (fun s r => if entrySsd r.entry = ssd then s.readDone r.id .nodev else s) s
  let s := s.reclaims.foldl (fun s r => if r.writing && entrySsd r.entry = ssd then s.reclaimFailed r 3 else s) s
  s.adminLost ssd

/-- The admin commands with which the engine makes a controller ready (R382; log 77): Identify, Set Features (Number of
Queues), and Create I/O Completion and Submission Queue, 64 of each. -/
def State.ssdStart (s : State) (ssd : Nat) : State :=
  { s with wire := s.wire ++ [.ssdAdmin ssd 6 1, .ssdAdmin ssd 9 1, .ssdAdmin ssd 5 64, .ssdAdmin ssd 1 64] }

/-- SSD_RESET (R380): RESET resets the controller and the link and clears itself; the engine first deletes the queues of
one that is ready (R382; log 77). -/
def execSsdReset (ssd : BitVec 3) (s : State) : Out State Fault Refusal :=
  s.command fun s =>
    let s := if s.ssdUp ssd.toNat then
      { s with wire := s.wire ++ [.ssdAdmin ssd.toNat 0 64, .ssdAdmin ssd.toNat 4 64] } else s
    .next ((s.setMfield (ssdCtl ssd) 0 3 0).ssdLost ssd.toNat)

/-- SSD_READY (R380, R382): the link is up and the controller ready with its I/O queues. -/
def execSsdReady (ssd : BitVec 3) (s : State) : Out State Fault Refusal :=
  .next (if s.byder.mode == .normal && s.byder.power != .off && s.byder.power != .sleep then
      (s.ssdStart ssd.toNat).setMfield (ssdCtl ssd) 0 2 3 else s)

/-- SSD_LINK_DOWN (R382): PRESENT and READY clear; what is outstanding ends by its timeout. -/
def execSsdLinkDown (ssd : BitVec 3) (s : State) : Out State Fault Refusal := .next (s.setMfield (ssdCtl ssd) 0 2 0)

/-- HEALTH_POLL (R433): the engine sends Get Log Page (R382) to an SSD that is ready; the log is stored in HEALTH, and a
read that fails leaves it. -/
def execHealthPoll (ssd : BitVec 3) (log : Option Dword) (s : State) : Out State Fault Refusal :=
  let s := if s.mgmtOpen && s.ssdUp ssd.toNat then { s with wire := s.wire ++ [.ssdAdmin ssd.toNat 2 1] } else s
  .next (match log with
    | some v =>
      if s.mgmtOpen && s.ssdUp ssd.toNat then s.setMreg (ssdCtl ssd + 0xA0) (BitVec.ofNat 64 (bitsOf v.toNat 0 16 + bitsOf v.toNat 32 32 * 2 ^ 32))
      else s
    | none => s)

/-! ## TLBICMD -/

/-- An access that used a translation of an invalidation's range may not have been performed (R379): a store in a queue or
buffer, a pixel lane, an operation that was issued before it. -/
def State.tlbiHolds (s : State) (x : Tlbi) : Bool :=
  let meets := fun (lo hi : Nat) => decide (lo < x.hi) && decide (x.lo < hi)
  (s.tasks.any fun t => t.part == x.part &&
    ((t.allQueued.any fun e => decide (e.seq < x.seq) && !(s.effPlaces t.part e.eff).isEmpty) ||
     (t.mops ++ t.cops).any fun o => decide (o.seq < x.seq) &&
       ((o.foot.any fun f => f.sp == .glob && meets f.lo f.hi) || o.act.fut.any fun f => meets f.1.toNat (f.1.toNat + 16)))) ||
  s.pxw.any fun p => decide (p.seq < x.seq) && ((s.task? p.task).any fun t => t.part == x.part)

/-- An invalidation ends when nothing holds it (R379): the translations have left every TLB and walk cache, and what used
them has been performed at .pkg. -/
def State.tlbiSettle (s : State) : State :=
  match s.tlbis with
  | [] => s
  | x :: _ =>
    if s.tlbiHolds x then s
    else
      let s := s.landEvery.tlbDrop x.part (fun e => decide (e.base < x.hi) && decide (x.lo < e.base + e.size))
        fun w => decide (w.base < x.hi) && decide (x.lo < w.base + w.size)
      { s.setMfield 0x118 0 1 0 with tlbis := [] }

/-- An invalidation of a range of a partition's addresses starts; an empty one invalidates nothing (R379, R380). -/
def State.tlbi (s : State) (part lo hi : Nat) : State :=
  if hi ≤ lo then s
  else
    ({ s.setMfield 0x118 0 1 1 with tlbis := [{ part := part, seq := s.seq, lo := lo, hi := hi }], seq := s.seq + 1 } : State).tlbiSettle

/-- A write of TLBICMD: while BUSY it is dropped and sets LOST. -/
def State.tlbiCmd (s : State) (cmd : Dword) (f : State → Nat → State) : State :=
  if s.mfield 0x118 0 1 = 1 then s.setMfield 0x118 1 1 1
  else f (s.setMfield 0x100 0 4 cmd.toNat) (bitsOf cmd.toNat 0 3)

/-- TLBICMD of a whole partition (R379, R380). -/
def execTlbicmdPartition (cmd : Dword) (s : State) : Out State Fault Refusal :=
  s.command fun s => .next (if bitsOf cmd.toNat 3 1 = 0 then s.tlbiCmd cmd fun s p => s.tlbi p 0 (2 ^ 64) else s)

/-- TLBICMD of TLBIN pages from TLBIVA (R379, R380). -/
def execTlbicmdRange (cmd : Dword) (s : State) : Out State Fault Refusal :=
  s.command fun s => .next (if bitsOf cmd.toNat 3 1 = 1 then s.tlbiCmd cmd fun s p =>
      let lo := s.mfield 0x108 12 45 * 4096
      s.tlbi p lo (lo + 4096 * s.mfield 0x110 0 32)
    else s)

end Sys2Proof.Machine
end

