-- ==== Sys2Proof/Machine/Byder.lean ====
section
/-! DEFINITION. Byder (R409 to R416, R434 to R436): starts and Dawn mode, images and their checks, recovery and update,
attestation, debug requests and fuses. -/
namespace Sys2Proof.Machine

/-! ## Images -/

/-- The kind of root key that a security state checks images with (R416). -/
def rootKind (sec : SecState) : Nat :=
  match sec with
  | .blank => 0
  | .dev => 1
  | .prod | .lockdown => 2

/-- VERSION of an image (R414). -/
def imageVersion (img : List Byte) : Nat := fieldOf img 4 4

/-- The image begins with a header that names its length. -/
def imageWhole (img : List Byte) : Bool :=
  decide (512 ≤ img.length) && decide (img.length ≤ 2 ^ 26) && fieldOf img 0 4 == 0x4D495848 && img.length == 512 + fieldOf img 8 8

/-- The checks of an image (R414): none, or the error code SIG or ROLLBACK of R409. -/
def imageError (sec : SecState) (floor : Nat) (img : List Byte) : Option (BitVec 16) :=
  let key := leNat (img.drop 432 |>.take 80)
  if !(imageWhole img) || Config.keyHash key != Config.rootKey (rootKind sec) ||
      !(Config.pssOk key (img.take 48) (img.drop 48 |>.take 384)) || sha256 (img.drop 512) != (img.drop 16 |>.take 32) then some 1
  else if imageVersion img < floor then some 2
  else none

/-- Byder accepts an image: in PROD and LOCKDOWN the floor rises to its VERSION (R414). -/
def Byder.accept (b : Byder) (img : List Byte) : Byder :=
  if b.sec = .prod || b.sec = .lockdown then { b with floor := Nat.max b.floor (imageVersion img) } else b

/-- The image in the staging window, as long as its header says. -/
def Byder.staged (b : Byder) : List Byte := b.staging.bytes 0 (512 + b.staging.field 8 8 % 2 ^ 26)

/-! ## Starts -/

/-- Everything but Byder's own record loses its state: the package as after reset, with the SSDs' data (log 3). -/
def State.restart (s : State) (b : Byder) : State :=
  { State.reset with agenda := s.agenda, now := s.now, fresh := s.fresh, seq := s.seq, uid := s.uid, ssd := s.ssd,
                     byder := b, wire := s.wire }

/-- The enabled cores of a die in (router, position) order, numbered: the first 128 positions that the defect map leaves
(R2, R424). -/
def dieCores (cores : List (Nat × Nat × Nat)) (die : Nat) : List CoreLoc :=
  let own := (cores.filter fun c => c.1 == die && decide (c.2.2 < 8)).map fun c => 8 * c.2.1 + c.2.2
  let places := ((upto 200).filter own.contains).take 128
  (upto places.length).zip places |>.map fun p =>
    { core := 128 * die + p.1, router := 32 * die + p.2 / 8, pos := p.2 % 8 }

/-- The defect map leaves the package an enabled core, all of which partition 0 holds at a start (R409, R425). -/
def anyCore (cores : List (Nat × Nat × Nat)) : Bool := (upto 4).any fun d => !(dieCores cores d).isEmpty

/-- A defect map without a defect: 16 routers of a die with 8 cores each. -/
def soundCores : List (Nat × Nat × Nat) := (upto 512).map fun i => (i / 128, i % 128 / 8, i % 8)

/-- The enable map of a partition (R351): one byte for each router that it holds, with a bit for every enabled core under the
router, another partition's too. -/
def State.enableMap (s : State) (part : Nat) : List Byte :=
  (dedup ((s.partCores part).map (·.router))).map fun r =>
    BitVec.ofNat 8 (((s.coreMap.filter fun c => c.router == r).map fun c => 2 ^ c.pos).foldl (· + ·) 0)

/-- PSIG of a partition is rebuilt (R351, R425). -/
def State.signPart (s : State) (part : Nat) : State := s.setMfield (0x3008 + 0x40 * part) 0 32 (crc32c (s.enableMap part)).toNat

/-- The package reaches host ready (R409 stages 0x03 to 0x08) with what the start met. -/
def State.hostReady (s : State) (env : BootEnv) (b : Byder) : State :=
  let s := s.restart { b with mode := .normal, power := .active, stage := 8, starts := 0, cacheMode := env.cacheMode,
                              measured := b.flash.take 512, retired := [] }
  let s := { s with coreMap := (upto 4).flatMap (dieCores env.cores) }
  let s := b.retired.foldl (fun s r => (upto 16).foldl (fun s k =>
    if r.2.getLsbD k then s.retireSlice r.1 (BitVec.ofNat 4 k) else s) s) s
  let s := (upto 8).foldl State.signPart s
  let s := s.setMfield 0x180 0 1 env.cacheMode.toNat
  let s := (upto 8).foldl (fun s k => if env.ssds.getLsbD k then (s.ssdStart k).setMfield (0x1000 + 0x100 * k) 0 2 3 else s) s
  (upto 16).foldl (fun s q =>
    (s.setMfield (portRegs q + 0x18) 0 1 (env.links.getLsbD q).toNat).setMfield (portRegs q + 0x18) 1 1 (!(s.hostPort q)).toNat) s

/-- A start attempt fails: the stage and error code are recorded (R409). -/
def State.startFailed (s : State) (b : Byder) (stage : BitVec 8) (err : BitVec 16) : State :=
  s.restart { b with mode := .off, power := .off, stage := stage, hist := ((stage, err) :: b.hist).take 4 }

/-- A start enters Dawn mode (R410, R411): die 0 and port 0, every core off. Byder measures the image and signs the
partitions as in any start (R415, R435). -/
def State.dawn (s : State) (env : BootEnv) (b : Byder) : State :=
  let s := s.restart { b with mode := .dawn, power := .active, stage := 1, measured := b.flash.take 512 }
  let s := (upto 8).foldl State.signPart { s with coreMap := (upto 4).flatMap (dieCores env.cores) }
  ({ s with coreMap := [] } : State).setMfield (portRegs 0 + 0x18) 0 1 (env.links.getLsbD 0).toNat

end Sys2Proof.Machine

namespace Sys2Proof
/-- The failure that a start meets at a stage that satisfies `p`, with its error code (R409): a stage that does not end in
time (4), or the training of links or memory in stages 3 and 4 (3). SIG, ROLLBACK and DEFECT are what Byder's own checks
find. -/
def BootEnv.failure (env : BootEnv) (p : Nat → Bool) : Option (BitVec 8 × BitVec 16) :=
  match env.fail with
  | some (st, e) =>
    if p st.toNat && decide (st.toNat ≤ 8) && (e == 4 || (e == 3 && (st == 3 || st == 4))) then some (st, e) else none
  | none => none
end Sys2Proof

namespace Sys2Proof.Machine

/-- One start attempt (R409, R410): the count rises first; the fourth start in a row enters Dawn mode; otherwise the
stages run in order, and the first that fails ends the attempt. Partition 0, which holds every octant then, without an
enabled core is a DEFECT (log 90). -/
def State.startUp (s : State) (env : BootEnv) : State :=
  let n := s.byder.starts
  let b := { s.byder with starts := n + 1, sec := s.byder.nextSec.getD s.byder.sec, nextSec := none, debug := .none,
                          debugPart := 0, staging := [], measured := [] }
  match env.failure (· == 1) with
  | some (st, e) => s.startFailed b st e
  | none =>
    if 3 ≤ n then s.dawn env b
    else match (env.failure (· == 2)).or ((imageError b.sec b.floor b.flash).map fun e => (2, e)) with
      | some (st, e) => s.startFailed b st e
      | none =>
        let b := b.accept b.flash
        match env.failure fun st => decide (3 ≤ st) && decide (st ≤ 4) with
        | some (st, e) => s.startFailed b st e
        | none =>
          if !(anyCore env.cores) then s.startFailed b 5 5
          else match env.failure fun st => decide (5 ≤ st) with
            | some (st, e) => s.startFailed b st e
            | none => s.hostReady env b

/-- BOOT (R409, R410). -/
def execBoot (env : BootEnv) (s : State) : Out State Fault Refusal :=
  .next (if s.byder.mode = .off then s.startUp env else s)

/-- STAGE_TIMEOUT (R409): a start attempt whose stage does not end within 10 s. -/
def execStageTimeout (stage : BitVec 8) (s : State) : Out State Fault Refusal :=
  .next (if s.byder.mode = .off && decide (1 ≤ stage.toNat) && decide (stage.toNat ≤ 8) &&
      (decide (stage.toNat = 1) || decide (s.byder.starts < 3)) then
    s.startUp { cores := soundCores, cacheMode := false, ssds := 0, links := 0, fail := some (stage, 4) }
  else s)

/-! ## Recovery and update -/

/-- A staged image is checked and written to the flash, which is read back (R413, R434): RESULT 0 done, 1 refused,
2 the compare failed and the flash holds a damaged image. -/
def State.writeFlash (s : State) (flashOk : Bool) : State × Nat :=
  let b := s.byder
  match imageError b.sec b.floor b.staged with
  | some _ => (s, 1)
  | none =>
    let b' := b.accept b.staged
    ({ s with byder := { b' with flash := if flashOk then b.staged else [] } }, if flashOk then 0 else 2)

/-- RECOVER (R413, R420): in Dawn mode; on success the count becomes 0 and the package resets. -/
def execRecover (flashOk : Bool) (s : State) : Out State Fault Refusal :=
  .next (if s.byder.mode = .dawn then
    let (s, r) := s.writeFlash flashOk
    if r = 0 then s.restart { s.byder with starts := 0, mode := .off, power := .off, staging := [], debug := .none }
    else s.setMfield 0x2020 4 4 r
  else s)

/-- A command that Byder serves itself also in SLEEP (R417): the package is up and has power. -/
def State.byderOpen (s : State) : Bool := s.byder.mode == .normal && s.byder.stage == 8 && s.byder.power != .off

/-- UPDATE (R434). -/
def execUpdate (flashOk : Bool) (s : State) : Out State Fault Refusal :=
  s.command fun s => .next (let (s, r) := s.writeFlash flashOk; s.setMfield 0x2038 4 4 r)

/-! ## The Dawn report -/

/-- The code of a security state (R412). -/
def secCode (sec : SecState) : Nat :=
  match sec with
  | .blank => 0
  | .dev => 1
  | .prod => 2
  | .lockdown => 3

/-- The code of a debug state. -/
def debugCode (d : DebugState) : Nat :=
  match d with
  | .none => 0
  | .user => 1
  | .full => 2

/-- The report area (R412, R436). -/
def State.dawnReport (s : State) : List Byte :=
  let b := s.byder
  let ent := fun (i : Nat) => match b.hist[i]? with
    | some (st, e) => st.toNat + e.toNat * 2 ^ 16
    | none => 0
  natLe 4 (ent 0) ++ natLe 4 (if b.mode = .dawn then b.starts else 0) ++
  natLe 4 (ent 0) ++ natLe 4 (ent 1) ++ natLe 4 (ent 2) ++ natLe 4 (ent 3) ++
  natLe 4 (secCode b.sec) ++ natLe 4 (if imageWhole b.flash then imageVersion b.flash else 0) ++ natLe 32 0

/-! ## Attestation -/

/-- A queue pair that Byder serves: privileged and not in error, in SLEEP on port 0 (R417). -/
def State.privQp (s : State) (qpn : Nat) : Bool :=
  s.qps.any fun q => q.qpn == qpn && q.priv && !q.err && (s.byder.power != .sleep || q.port == 0)

/-- A measurement (R415). -/
def State.measurement (s : State) (index : Nat) : Option (List Byte) :=
  match index with
  | 1 => some Config.romHash
  | 2 => some (sha256 s.byder.measured)
  | 3 => some [BitVec.ofNat 8 (secCode s.byder.sec), BitVec.ofNat 8 (debugCode s.byder.debug)]
  | 4 => some ((upto 8).flatMap fun p => natLe 4 (s.mfield (0x3008 + 0x40 * p) 0 32))
  | 5 => some (if s.ring.loaded then sha256 s.ring.manifest else List.replicate 32 0)
  | _ => none

/-- GET_MEASUREMENTS (R415): signed with the device identity; a BLANK device has none and answers with an error. -/
def execGetMeasurements (qpn : Nat) (index : BitVec 8) (s : State) : Out State Fault Refusal :=
  .next (if s.byder.mode = .off || s.byder.power = .off || !(s.privQp qpn) then s
    else match (if s.byder.sec = .blank then none else s.measurement index.toNat) with
      | some v => { s with wire := s.wire ++ [.spdm qpn index.toNat v (Config.identitySign v)] }
      | none => { s with wire := s.wire ++ [.spdmError qpn] })

/-! ## Debug and fuses -/

/-- A debug state that a security state permits (R416). -/
def debugAllowed (sec : SecState) (d : DebugState) (signed : Bool) : Bool :=
  match sec, d with
  | _, .none => true
  | .blank, _ | .dev, _ => true
  | .prod, .user => signed
  | .prod, .full => false
  | .lockdown, _ => false

/-- DEBUG_REQUEST (R416). -/
def execDebugRequest (state : DebugState) (part : BitVec 3) (signed : Bool) (s : State) : Out State Fault Refusal :=
  .next (if s.mgmtOpen && debugAllowed s.byder.sec state signed then
    { s with byder := { s.byder with debug := state, debugPart := part.toNat } } else s)

/-- A security change that a fuse command may make (R416). -/
def fuseAllowed (a b : SecState) : Bool :=
  match a, b with
  | .blank, .dev | .blank, .prod | .dev, .prod | .prod, .lockdown => true
  | _, _ => false

/-- FUSE_COMMAND (R416): the change takes effect at the next start. -/
def execFuseCommand (target : SecState) (signed : Bool) (s : State) : Out State Fault Refusal :=
  .next (if s.mgmtOpen && signed && fuseAllowed (s.byder.nextSec.getD s.byder.sec) target then
    { s with byder := { s.byder with nextSec := some target } } else s)

/-- NAP ends (R417): the saved images are loaded back, and their areas hold nothing (R402); the caches of the cores are
empty. -/
def State.wakeNap (s : State) : State :=
  if s.byder.power = .nap then
    { s with byder := { s.byder with power := .active },
             images := s.images.filter fun x => (upto 8).all fun p => x.area != 2 * p + s.mfield (0x800 + 0x20 * p) 2 1,
             cores := s.cores.map fun c => (c.1, { c.2 with l1 := [], tlb := [] }) }
  else s

/-- DEBUG_HALT_REQUEST (R397, R416): the agent stops a task that is in its reach; in NAP the request wakes the package. -/
def execDebugHaltRequest (task : Nat) (s : State) : Out State Fault Refusal :=
  .next (
    if !s.mgmtOpen then s
    else match s.task? task with
      | some t =>
        if s.agentStops t then
          let s := s.wakeNap.wakeIdle
          if s.resident t && !t.dbgHalt then s.takeTrap t .s (t.st .s).pc true 0 { cls := clsDebug, sub := 2 } else s
        else s
      | none => s)

/-- A stream goes on after a stop by the debug agent: the handler in trap mode, otherwise where it stood. -/
def StreamSt.goOn (st : StreamSt) (tmode : Bool) (k : StreamId) : StreamSt :=
  { st with status := if st.status = .halted then (if tmode then (if k = .s then .trap else .halted) else .ready) else st.status }

/-- DEBUG_RESUME (R397): the agent resumes a task, with the effect of ERET; in SLEEP its requests are refused (R416). -/
def execDebugResume (task : Nat) (s : State) : Out State Fault Refusal :=
  .next (match s.task? task with
    | some t =>
      if t.dbgHalt && s.mgmtOpen then
        s.setTask { t with dbgHalt := false,
                           str := ⟨t.str.s.goOn t.tmode .s, t.str.v.goOn t.tmode .v, t.str.m.goOn t.tmode .m, t.str.c.goOn t.tmode .c⟩ }
      else s
    | none => s)

end Sys2Proof.Machine
end

