-- ==== Sys2Proof/Machine/Pixels.lean ====
section
/-! DEFINITION. The pixel order units (R218, R219): when a pending lane is performed, and what it does. -/
namespace Sys2Proof.Machine

/-- The die of a place: a pixel's home (R219). -/
def State.dieOf (s : State) (l : Loc) : Nat :=
  match l with
  | .mem pa => ((physDie s.byder.cacheMode pa).map (·.1)).getD 0
  | .scr b _ => ((s.block? b).map fun x => x.core / 128).getD 0

/-- A pending lane may be performed: its order word has reached its sequence number, and no lower lane of its word
waits for the same pixel with the same number (R218). -/
def State.pxwReady (s : State) (p : PxwLane) : Bool :=
  decide (p.need.toNat ≤ leNat (s.readLocs p.order)) &&
  !(s.pxw.any fun q => q.group == p.group && decide (q.lane < p.lane) && q.need == p.need &&
      q.pixel.map (·.1) == p.pixel.map (·.1))

/-- A pending lane is performed (R218): its pixel, and its order word when it is the last of its word, tile and
number. Behind the core's earlier stores to these places; the lines of the issuing core and of its task's core leave L1, so
that after a FENCE.rel no load returns an older pixel, nor one after the atomic an older order word (R102, R219). -/
def State.performPxw (s : State) (p : PxwLane) : State :=
  let cores := dedup (p.core :: ((s.task? p.task).map s.coreOf).toList)
  let ls := p.pixel.map Prod.fst ++ p.order
  let s := cores.foldl (fun s c => s.landAt c ls) s
  let s := if p.nowrite then s else s.applyBytes p.pixel
  let s := { s with pxw := s.pxw.filter fun q => !(q.group == p.group && q.lane == p.lane) }
  let more := s.pxw.any fun q => q.group == p.group && q.order == p.order && q.need == p.need
  let s := if p.last && !more then
      s.applyBytes (p.order.zip (natLe 4 (Nat.max (leNat (s.readLocs p.order)) ((p.need + 1).toNat))))
    else s
  cores.foldl (fun s c => s.l1Drop c ls) s

/-- The pending lanes that a commit's entries have made ready are performed (R303); the fuel is how many lanes are
pending. -/
def State.settlePixels (s : State) : Nat → State
  | 0 => s
  | f + 1 => match s.pxw.find? fun p => s.pxwReady p with
    | some p => (s.performPxw p).settlePixels f
    | none => s

end Sys2Proof.Machine
end

