-- ==== Sys2Proof/Machine/Place.lean ====
section
/-! DEFINITION. The dispatcher (R26, R284, R285, R297): the pending lists, placement of blocks and spans, partial eviction,
and resumption. -/
namespace Sys2Proof.Machine

/-! ## The pending lists -/

/-- What waits for placement: a span of a launch that has not started, or an evicted span. -/
inductive Waiting where
  | fresh (launch sid : Nat)
  | back (span : Nat)
  deriving DecidableEq, Repr

/-- The active image of a partition (R403). -/
def State.activeImage (s : State) (part : Nat) : Nat := s.mfield (0x800 + 0x20 * part) 2 1

/-- The spans of a launch. -/
def Launch.spans (l : Launch) : Nat := l.pkt.grid / l.pkt.spanSize

/-- The unit of a deterministic launch holds a span of it. -/
def State.unitBusy (s : State) (l : Launch) (u : Nat) : Bool :=
  s.spans.any fun p => p.launch == l.num && p.sid % l.units.length == u

/-- The spans of a deterministic launch that are to start now: the next one of each unit that is free (R297). -/
def State.unitSpans (s : State) (l : Launch) : List Nat :=
  (upto l.units.length).filterMap fun u =>
    let j := u + nth l.unitNext u 0 * l.units.length
    if j < l.spans && !(s.unitBusy l u) then some j else none

/-- The next span of a launch to start: the first in order, in a deterministic launch the first whose unit is free. -/
def State.nextSpan (s : State) (l : Launch) : Option Nat :=
  if l.pkt.det then (sortOn id (s.unitSpans l)).head?
  else if l.next < l.spans then some l.next else none

/-- The evicted spans of a partition that may resume, in eviction order: no page of theirs is awaited. -/
def State.backSpans (s : State) (part image : Nat) : List (Nat × Nat × Nat) :=
  let own := s.spans.filter fun p => (s.launch? p.launch).any fun l => l.part == part && l.image == image
  sortOn (fun x => x.2.1) (own.filterMap fun p =>
    match s.blocksOf p.uid with
    | [] => none
    | b :: bs =>
      if (b :: bs).all fun x => x.st == .evicted && x.page.isNone then
        some (p.uid, b.evictedAt, ((s.launch? p.launch).map (·.pkt.prioOf)).getD 0)
      else none)

/-- The fresh spans of a partition, in submission order. -/
def State.freshSpans (s : State) (part image : Nat) : List (Nat × Nat × Nat) :=
  (sortOn (·.seq) (s.launches.filter fun l => l.live && l.part == part && l.image == image)).filterMap fun l =>
    (s.nextSpan l).map fun j => (l.num, j, l.pkt.prioOf)

/-- The first of the highest pending list of a partition (R284): evicted spans before fresh ones. -/
def State.pendingHead (s : State) (part : Nat) : Option Waiting :=
  let image := s.activeImage part
  let back := s.backSpans part image
  let fresh := s.freshSpans part image
  let top := ((back.map (·.2.2)) ++ fresh.map (·.2.2)).foldl Nat.max 0
  match back.find? fun x => x.2.2 == top with
  | some x => some (.back x.1)
  | none => (fresh.find? fun x => x.2.2 == top).map fun x => .fresh x.1 x.2.1

/-! ## Where a span may go -/

/-- The launch of a waiting span, the blocks that resume with their positions, and the position and needs of each. -/
def State.waitingNeeds (s : State) (w : Waiting) : Option (Launch × List (Nat × Need)) :=
  match w with
  | .fresh n _ => (s.launch? n).map fun l => (l, (upto l.pkt.spanSize).map fun p => (p, l.pkt.need))
  | .back u =>
    let bs := sortOn (·.pos) (s.blocksOf u)
    match (bs.head?).bind fun b => s.launch? b.launch with
    | some l => some (l, bs.map fun b => (b.pos, s.needOf b))
    | none => none

/-- The router and position of a core (R424). -/
def State.coreLoc (s : State) (core : Nat) : Option CoreLoc := s.coreMap.find? fun c => c.core == core

/-- Cores, one for each block of a span by position, satisfy R12, R26 and R297: enabled cores of the partition, distinct,
under one router, twins for a pair. A fresh span of a deterministic launch goes to its own unit. -/
def State.coresAllowed (s : State) (l : Launch) (w : Waiting) (ps : List (Nat × Nat)) : Bool :=
  let own := (s.partCores l.part).map (·.core)
  let router := fun (c : Nat) => (s.coreLoc c).map (·.router)
  let twin := fun (c : Nat) => (s.coreLoc c).map fun x => (x.router, x.pos / 2)
  (ps.all fun p => own.contains p.2) &&
  (ps.all fun p => ps.all fun q => p.1 == q.1 || p.2 != q.2) &&
  (ps.all fun p => ps.all fun q => router p.2 == router q.2) &&
  (!l.pkt.pair || ps.all fun p => ps.all fun q => p.1 / 2 != q.1 / 2 || twin p.2 == twin q.2) &&
  (match w with
    | .fresh _ j => !l.pkt.det || ps.all fun p => (nth l.units (j % Nat.max 1 l.units.length) [])[p.1]? == some p.2
    | .back _ => true)

/-- The slots that a resuming block held are free on a core once the blocks `gone` have left (R285). -/
def State.claimsFree (s : State) (w : Waiting) (gone : List Nat) (pos core : Nat) : Bool :=
  match w with
  | .fresh _ _ => true
  | .back u => (s.blocksOf u).all fun b => b.pos != pos || (s.tasksOf b).all fun t => s.claimFree t core gone

/-- A span fits on cores once the blocks `gone` have left (R26): places are (position, core, base). -/
def State.placesFit (s : State) (w : Waiting) (gone : List Nat) (ns : List (Nat × Need)) (places : List (Nat × Nat × Nat)) :
    Bool :=
  ns.length == places.length && (ns.zip places).all fun x =>
    let (n, p) := x
    n.1 == p.1 && s.coreFits p.2.1 gone n.2 && s.baseFree p.2.1 p.2.2 gone n.2 && s.claimsFree w gone p.1 p.2.1

/-- The ways to take `n` items of a list in some order, each at most once. -/
def pickOrdered (l : List Nat) : Nat → List (List Nat)
  | 0 => [[]]
  | n + 1 => (pickOrdered l n).flatMap fun r => (l.filter fun x => !(r.contains x)).map fun x => r ++ [x]

/-- The core lists that a span may take: by position. -/
def State.coreChoices (s : State) (l : Launch) (w : Waiting) (ns : List (Nat × Need)) : List (List Nat) :=
  match w with
  | .fresh _ j => if l.pkt.det then [nth l.units (j % Nat.max 1 l.units.length) []] else go l ns
  | .back _ => go l ns
where
  go (l : Launch) (ns : List (Nat × Need)) : List (List Nat) :=
    let own := s.partCores l.part
    if l.pkt.spanSize = 1 then own.map fun c => [c.core]
    else (dedup (own.map (·.router))).flatMap fun r =>
      let cs := (own.filter fun c => c.router == r).map (·.core)
      (pickOrdered cs ns.length).filter fun g => s.coresAllowed l w ((ns.map (·.1)).zip g)

/-- Bases for a span on cores once blocks have left. -/
def State.basesOn (s : State) (w : Waiting) (gone : List Nat) (ns : List (Nat × Need)) (cores : List Nat) : Option (List Nat) :=
  (ns.zip cores).mapM fun x =>
    if s.coreFits x.2 gone x.1.2 && s.claimsFree w gone x.1.1 x.2 then s.findBase x.2 gone x.1.2 else none

/-- Cores and bases on which a span fits now. -/
def State.findPlace (s : State) (w : Waiting) : Option (List Nat × List Nat) :=
  match s.waitingNeeds w with
  | none => none
  | some (l, ns) => (s.coreChoices l w ns).findSome? fun cs => (s.basesOn w [] ns cs).map fun bs => (cs, bs)

/-! ## Partial eviction -/

/-- The sub-collections of weighted items whose weights sum to `n`. -/
def picks {α : Type} : List (Nat × α) → Nat → List (List α)
  | [], n => if n = 0 then [[]] else []
  | (k, x) :: r, n => (if k ≤ n then (picks r (n - k)).map fun l => x :: l else []) ++ picks r n

/-- The spans with resident blocks on cores that may make room for priority `prio` of a partition (R285): number of
blocks, uid. -/
def State.victims (s : State) (part prio : Nat) (cores : List Nat) : List (Nat × Nat) :=
  (s.spans.filter fun p =>
    ((s.launch? p.launch).any fun l => l.part == part && decide (l.pkt.prioOf < prio)) &&
    (s.blocksOf p.uid).any fun b => b.st == .resident && cores.contains b.core).map fun p => ((s.blocksOf p.uid).length, p.uid)

/-- The priority and the time of placement that rank sets of equal size (R285): the lowest highest PRIO, then the latest
placement. -/
def State.setRank (s : State) (spans : List Nat) : Nat × Nat :=
  let ps := s.spans.filter fun p => spans.contains p.uid
  let prio := (ps.map fun p => ((s.launch? p.launch).map (·.pkt.prioOf)).getD 0).foldl Nat.max 0
  let late := ((s.blocks.filter fun b => spans.contains b.span).map (·.placedAt)).foldl Nat.max 0
  (prio, late)

/-- Blocks of a partition that partial eviction holds out (R392). -/
def State.spilled (s : State) (part : Nat) : Nat :=
  (s.blocks.filter fun b => b.st == .evicted && b.ctxPart && (s.launch? b.launch).any fun l => l.part == part).length

/-- The set of spans whose eviction makes room (R285, R402): the fewest blocks, then the rank, within SPILLMAX and the
pools; with the cores and bases that it frees. -/
def State.chooseVictims (s : State) (w : Waiting) : Option (List Nat × List Nat × List Nat) :=
  match s.waitingNeeds w with
  | none => none
  | some (l, ns) =>
    let room := s.mfield (0x818 + 0x20 * l.part) 0 16 - s.spilled l.part
    let sets := fun (k : Nat) => (s.coreChoices l w ns).flatMap fun cs =>
      (picks (s.victims l.part l.pkt.prioOf cs) k).filterMap fun g =>
        let gone := s.blocks.filter fun b => g.contains b.span
        if s.poolRoom gone then (s.basesOn w (gone.map (·.uid)) ns cs).map fun bs => (g, cs, bs) else none
    (idxFrom 1 room).findSome? fun k =>
      bestOf (fun a b =>
        let x := s.setRank a.1
        let y := s.setRank b.1
        decide (x.1 < y.1) || x.1 == y.1 && decide (y.2 ≤ x.2)) (sets k)

/-! ## Starting tasks -/

/-- A stream at its start (R14): at its entry, or ENDED with the program counter 0 (log 83); a read-only acquire point
(R105). -/
def startStream (s : State) (l : Launch) (core : Nat) (k : StreamId) (off : Word) (am : Mask) : StreamSt :=
  let st : StreamSt :=
    { StreamSt.init with pc := if off = 0 then 0 else l.pkt.codebase + off.zeroExtend 64,
                         status := if off = 0 then .ended else .ready, ro := s.roPoint core }
  let st := st.setPair 1 l.addr
  if k = .v then ((st.setReg 28 (am.extractLsb' 0 32)).setReg 29 (am.extractLsb' 32 32)).setReg 30 (am.extractLsb' 64 32)
  else st

/-- A task at its start (R14, R47, R282, R292, R392). -/
def startTask (s : State) (l : Launch) (b : Block) (uid tid slot : Nat) : Task :=
  let p := l.pkt
  let n := l.records.length
  let am : Mask := if l.node.isSome then BitVec.ofNat 96 (2 ^ n - 1) else BitVec.allOnes 96
  let ent := (upto 96).map fun i => nth l.records i (Config.freeWord (if p.det then b.bid * 32 + tid else s.fresh) (7000000 + i))
  { Task.init with
    uid := uid, block := b.uid, launch := l.num, part := l.part, taskId := tid, slot := slot, nv := p.vregs, nrows := p.rows,
    nacc := p.acc, nsems := p.sems, det := p.det, quantum := p.quantum,
    slotsAt := (s.core b.core).owners.map (·.1),
    vqs := if l.node.isSome then [[ent], [], [], []] else [[], [], [], []],
    tvec := BitVec.ofNat 64 (s.mfield (0x808 + 0x20 * l.part) 12 52 * 4096), codeAt := s.seq,
    str := { s := startStream s l b.core .s p.entryS am, v := startStream s l b.core .v p.entryV am, m := startStream s l b.core .m p.entryM am,
             c := startStream s l b.core .c p.entryC am } }

/-- A block starts on a core (R14, R26): zeroed scratch, its tasks in free task slots. The core's L1 is invalidated
(R90) before the tasks' acquire points are taken (R105). -/
def State.startBlock (s : State) (l : Launch) (span bid pos core base : Nat) : State :=
  let b : Block := { Block.init with
    uid := s.uid, launch := l.num, span := span, bid := bid, pos := pos, core := core, base := base,
    size := 4096 * l.pkt.scratch, placedAt := s.seq }
  let slots := s.freeTaskSlots core
  let s := s.l1Clear core
  let ts := (upto l.pkt.tasks).map fun i => startTask s l b (s.uid + 1 + i) i (nth slots i 0)
  { s with uid := s.uid + 1 + l.pkt.tasks, seq := s.seq + 1, blocks := s.blocks ++ [b], tasks := s.tasks ++ ts }

/-- A fresh span starts; the entry task of a node takes its records from the buffer (R290). -/
def State.startSpan (s : State) (l : Launch) (sid : Nat) (places : List (Nat × Nat × Nat)) : State :=
  let p : Span := { Span.init with uid := s.uid, launch := l.num, sid := sid }
  let s := { s with uid := s.uid + 1, seq := s.seq + 1, spans := s.spans ++ [p] }
  let s := match l.node with
    | some n => s.nodeFree n l.records.length
    | none => s
  let s := if l.pkt.det then
      let u := sid % Nat.max 1 l.units.length
      s.setLaunch { l with unitNext := l.unitNext.set u (nth l.unitNext u 0 + 1) }
    else s.setLaunch { l with next := l.next + 1 }
  places.foldl (fun s x => s.startBlock l p.uid (sid * l.pkt.spanSize + x.1) x.1 x.2.1 x.2.2) s

/-- An evicted span resumes (R27). -/
def State.resumeSpan (s : State) (u : Nat) (places : List (Nat × Nat × Nat)) : State :=
  let s := { s with seq := s.seq + 1 }
  let s := places.foldl (fun s x => match (s.blocksOf u).find? fun b => b.pos == x.1 with
    | some b => s.restoreBlock b x.2.1 x.2.2
    | none => s) s
  s.checkRestored ((s.blocksOf u).map (·.uid))

/-- A waiting span takes its place; an idle package is ACTIVE again (R417). -/
def State.takePlace (s : State) (w : Waiting) (places : List (Nat × Nat × Nat)) : State :=
  let s := s.wakeIdle
  match w with
  | .fresh n j => match s.launch? n with
    | some l => s.startSpan l j places
    | none => s
  | .back u => s.resumeSpan u places

/-! ## The dispatcher's step -/


/-- The head of the partition's highest pending list goes to given cores and bases (R26, R284), after a partial eviction
where it fits nowhere (R285). -/
def State.placeAt (s : State) (w : Waiting) (cores bases : List Nat) : State :=
  match s.waitingNeeds w with
  | none => s
  | some (l, ns) =>
    let places := (ns.map (·.1)).zip (cores.zip bases)
    let ok := fun (s : State) => cores.length == bases.length &&
      s.coresAllowed l w ((ns.map (·.1)).zip cores) && s.placesFit w [] ns places
    if ok s then s.takePlace w places
    else if (s.findPlace w).isSome then s
    else match s.chooseVictims w with
      | none => s
      | some (g, _, _) =>
        let s' := s.evict ((s.blocks.filter fun b => g.contains b.span).map (·.uid)) true
        if ok s' then s'.takePlace w places else s

/-- The partition that holds a core. -/
def State.partOfCore (s : State) (core : Nat) : Option Nat := (upto 8).find? fun p => (s.partCores p).any fun c => c.core == core

/-- PLACE_BLOCK (R26, R284, R285): the head of a partition's pending lists, a block or span that has not started, is
placed on cores at scratch bases. -/
def execPlaceBlock (cores bases : List Nat) (s : State) : Out State Fault Refusal :=
  .next (match (cores.head?).bind s.partOfCore with
    | some p => match s.pendingHead p with
      | some (.fresh n j) => if s.dispatching then s.placeAt (.fresh n j) cores bases else s
      | _ => s
    | none => s)

/-- BLOCK_RESUMPTION (R27, R284): the evicted span of a block, when it heads its partition's pending lists, is restored on
cores at scratch bases. -/
def execBlockResumption (block : Nat) (cores bases : List Nat) (s : State) : Out State Fault Refusal :=
  .next (match (cores.head?).bind s.partOfCore with
    | some p => match s.pendingHead p with
      | some (.back u) =>
        if s.dispatching && (s.blocksOf u).any fun b => b.uid == block then s.placeAt (.back u) cores bases else s
      | _ => s
    | none => s)

/-- The dispatcher places what heads a partition's pending lists on the first place that it finds. -/
def State.placeNext (s : State) (part : Nat) : Option State :=
  if !s.dispatching then none else
  match s.pendingHead part with
  | none => none
  | some w => match s.findPlace w with
    | some (cs, bs) => some (s.placeAt w cs bs)
    | none => (s.chooseVictims w).map fun v => s.placeAt w v.2.1 v.2.2

end Sys2Proof.Machine
end

