-- ==== Sys2Proof/Machine/Masks.lean ====
section
/-! DEFINITION. Masks and divergence (R33, R34, R163 to R166). -/
namespace Sys2Proof.Machine

/-- A triple sJ..sJ+2 as 96 bits (R34). -/
def StreamSt.triple (st : StreamSt) (j : BitVec 5) : Mask := st.reg (j + 2) ++ st.reg (j + 1) ++ st.reg j
/-- Write a triple (R34). -/
def StreamSt.setTriple (st : StreamSt) (j : BitVec 5) (m : Mask) : StreamSt :=
  ((st.setReg j (m.extractLsb' 0 32)).setReg (j + 1) (m.extractLsb' 32 32)).setReg (j + 2) (m.extractLsb' 64 32)

/-- The activity mask, am2:am1:am0 (R33). -/
def StreamSt.am (st : StreamSt) : Mask := st.triple 28
/-- Write the activity mask (R33). -/
def StreamSt.setAm (st : StreamSt) (m : Mask) : StreamSt := st.setTriple 28 m

/-- A predicate over all lanes; p31 is true (R40). -/
def Task.pred (t : Task) (p : Nat) : Mask := if p = 31 then BitVec.allOnes 96 else nth t.preds p 0
/-- Write a predicate over all lanes; a write to p31 is discarded (R40). -/
def Task.setPred (t : Task) (p : Nat) (m : Mask) : Task := if p = 31 then t else { t with preds := t.preds.set p m }

/-- A word on the scoreboard writes a predicate (R132). -/
def Task.predHeld (t : Task) (p : Nat) : Bool := t.sb.any fun l => l.contains (.pred p)

/-- The cycle from which the words in flight that write a predicate have completed (R132). -/
def Task.predReady (t : Task) (p : Nat) : Nat :=
  (t.flights.filter fun f => f.dest == .pred p).foldl (fun n f => Nat.max n (f.issued + f.lat)) 0

/-- A mask instruction: a change of its stream's registers (R163). Before it reads a predicate, the vector words that write
it complete. -/
def maskOp (p : Option (BitVec 5)) (f : Task → StreamSt → StreamSt) (s : State) : Out State Fault Refusal :=
  issue .mask s fun t k =>
    match p with
    | none => .ok (s.retire t k (f t (t.st k)))
    | some p =>
      if t.predHeld p.toNat then .error (.wait .score)
      else .ok (({ s with now := Nat.max s.now (t.predReady p.toNat) } : State).retire t k (f t (t.st k)))

/-- MIF (R164). -/
def execMif (j p : BitVec 5) (s : State) : Out State Fault Refusal :=
  maskOp (some p) (fun t st => (st.setTriple j st.am).setAm (st.am &&& t.pred p.toNat)) s
/-- MELSE (R164). -/
def execMelse (j : BitVec 5) (s : State) : Out State Fault Refusal :=
  maskOp none (fun _ st => st.setAm (st.triple j &&& ~~~st.am)) s
/-- MJOIN (R164). -/
def execMjoin (j : BitVec 5) (s : State) : Out State Fault Refusal := maskOp none (fun _ st => st.setAm (st.triple j)) s
/-- MSAVE (R164). -/
def execMsave (j : BitVec 5) (s : State) : Out State Fault Refusal := maskOp none (fun _ st => st.setTriple j st.am) s
/-- MBREAK (R164). -/
def execMbreak (p : BitVec 5) (s : State) : Out State Fault Refusal :=
  maskOp (some p) (fun t st => st.setAm (st.am &&& ~~~t.pred p.toNat)) s

/-- A branch on the activity mask (R165). -/
def maskBranch (o : BitVec 14) (c : Mask → Bool) (s : State) : Out State Fault Refusal :=
  issue .mask s fun t k =>
    let st := t.st k
    .ok (if c st.am then s.branch t k st (pcRel st.pc o) else s.retire t k st)

/-- BMANY (R165). -/
def execBmany (o : BitVec 14) (s : State) : Out State Fault Refusal := maskBranch o (· != 0) s
/-- BMNONE (R165). -/
def execBmnone (o : BitVec 14) (s : State) : Out State Fault Refusal := maskBranch o (· == 0) s

/-- PMOVS (R166). -/
def execPmovs (j p : BitVec 5) (s : State) : Out State Fault Refusal :=
  maskOp (some p) (fun t st => st.setTriple j (t.pred p.toNat)) s
/-- SMOVP (R166). -/
def execSmovp (p j : BitVec 5) (s : State) : Out State Fault Refusal :=
  issue .mask s fun t k =>
    let st := t.st k
    .ok (s.retire (t.setPred p.toNat (st.triple j)) k st)

end Sys2Proof.Machine
end

