-- ==== Sys2Proof/Machine/Vec.lean ====
section
/-! DEFINITION. Vector words: shape tags and rows (R35 to R38), queue registers (R41), operands (R126, R172), issue with
stall counts, pipes and the latency checks (R131 to R133, R331 to R339), and the common part of every word (R174 to
R176). -/
namespace Sys2Proof.Machine

/-! ## Registers with tags -/

/-- Lane `i` of a register (R35). -/
def VReg.lane (v : VReg) (i : Nat) : Word :=
  match v with
  | .undef => 0
  | .uniform c => c
  | .affine b st => b + BitVec.ofNat 32 i * st
  | .general _ ls => nth ls i 0

/-- The 96 lanes of a register. -/
def VReg.lanes (v : VReg) : Lanes := (upto 96).map v.lane

/-- The value that all lanes have by the tag; UNDEF counts as UNIFORM 0 (R36). -/
def VReg.same : VReg → Option Word
  | .undef => some 0
  | .uniform c => some c
  | _ => none

/-- Base and stride of a register that is not GENERAL. -/
def VReg.line : VReg → Option (Word × Word)
  | .undef => some (0, 0)
  | .uniform c => some (c, 0)
  | .affine b st => some (b, st)
  | .general _ _ => none

/-- Lanes with the tag GENERAL, before a row is found. -/
def VReg.rows (ls : Lanes) : VReg := .general 0 ls

/-- A register of a task. -/
def Task.vreg (t : Task) (n : Nat) : VReg := nth t.vregs n .undef

/-- The row numbers of a bank's share that no register holds (R37); which one a write takes the manual leaves open, and
the lowest is taken (log 19). -/
def Task.freeRows (t : Task) (n : Nat) : List Nat :=
  let used := t.vregs.filterMap fun v => match v with
    | .general r _ => some r
    | _ => none
  ((upto (t.nrows / 16)).map fun j => 16 * j + n % 16).filter fun r => !(used.contains r)

/-- A register takes a value: a GENERAL one keeps its row or takes one, none if its bank has none (R37, R38). -/
def Task.putVreg (t : Task) (n : Nat) (v : VReg) : Option Task :=
  match v with
  | .general _ ls =>
    let row := match t.vreg n with
      | .general r _ => some r
      | _ => (t.freeRows n).head?
    row.map fun r => { t with vregs := t.vregs.set n (.general r ls) }
  | v => some { t with vregs := t.vregs.set n v }

/-- Lanes of a mask from `new`, the others from `old`. -/
def mergeLanes (m : Mask) (new old : Lanes) : Lanes :=
  (upto 96).map fun i => if m.getLsbD i then nth new i 0 else nth old i 0

/-- The mask rule of R36: what a destination becomes, or none when it is not written. -/
def maskRule (m : Mask) (old new : VReg) : Option VReg :=
  if m = BitVec.allOnes 96 then some new
  else if m = 0 then none
  else
    match old, new with
    | .uniform c, .uniform c' =>
      if c = c' then none else some (.rows (mergeLanes m new.lanes old.lanes))
    | _, _ => some (.rows (mergeLanes m new.lanes old.lanes))

/-- Destination registers are written under a mask, D before S of an MXQ or MXQ4; the error is the lowest bank without a row
(R38). So S can take a row that D gives up in its bank, and D none that S gives up (DESIGN CHOICE, log 95). -/
def Task.putRegs (t : Task) (m : Mask) (rs : List (Nat × VReg)) : Except Nat Task :=
  let step := fun (p : Task × Option Nat) (r : Nat × VReg) =>
    match maskRule m (p.1.vreg r.1) r.2 with
    | none => p
    | some v =>
      match p.1.putVreg r.1 v with
      | some t => (t, p.2)
      | none =>
        let b := match p.2 with
          | none => r.1 % 16
          | some b => Nat.min b (r.1 % 16)
        (p.1, some b)
  match rs.foldl step (t, none) with
  | (t, none) => .ok t
  | (_, some b) => .error b

/-! ## Latency classes -/

/-- The pipe kinds of R331: VA or VB, then one number for each other pipe. -/
inductive Pipe where | ab | fp64 | sfu | lane | pred | tag | mem | array | isect
  deriving DecidableEq, Repr

/-- A class of R331: its pipe, latency (none when scoreboarded), occupancy and weight. -/
structure VClass where
  pipe : Pipe
  lat : Option Nat
  occ : Nat
  weight : Nat
  deriving DecidableEq, Repr

/-- The class of an op9 (R331). -/
def vclass (op : Nat) : VClass :=
  if op < 0x040 then ⟨.ab, some 6, 3, 2⟩
  else if op < 0x070 then ⟨.fp64, some 12, 6, 3⟩
  else if op < 0x0A0 then ⟨.ab, some 6, 3, 2⟩
  else if op < 0x0A8 then ⟨.sfu, some 15, 6, 2⟩
  else if op < 0x0C0 then ⟨.sfu, some 36, 12, 2⟩
  else if op < 0x0D8 then ⟨.ab, some 6, 3, 2⟩
  else if op < 0x100 then ⟨.ab, some 9, 6, 2⟩
  else if op < 0x106 then ⟨.ab, some 6, 3, 2⟩
  else if op < 0x120 then ⟨.ab, some 9, 3, 2⟩
  else if op < 0x124 then ⟨.ab, some 6, 3, 2⟩
  else if op = 0x126 || op = 0x127 then ⟨.lane, some 14, 6, 1⟩
  else if 0x128 ≤ op && op ≤ 0x12A then ⟨.tag, some 4, 1, 0⟩
  else if op < 0x140 then ⟨.lane, some 8, 3, 1⟩
  else if op < 0x160 then ⟨.pred, some 4, 1, 0⟩
  else if op < 0x180 then ⟨.mem, none, 3, 1⟩
  else if op < 0x190 then ⟨.array, none, 0, 8⟩
  else ⟨.isect, none, 3, 1⟩

/-- The weight of a word: the sum over its operations (R331). -/
def wordWeight (ops : List Nat) : Nat := (ops.map fun op => (vclass op).weight).foldl (· + ·) 0

/-- The place of a pipe in CoreSt.pipes; VB is 1. -/
def Pipe.idx : Pipe → Nat
  | .ab => 0
  | .fp64 => 2
  | .sfu => 3
  | .lane => 4
  | .pred => 5
  | .tag => 6
  | .mem => 7
  | .isect => 8
  | .array => 9

/-- The pipes that the slots of a word take, each with its occupancy (R332): VA where both ALU pipes are free. -/
def pipesFor (busy : List Nat) (now : Nat) (ops : List Nat) : List (Nat × Nat) :=
  match ops.map vclass with
  | [c] =>
    if c.pipe == .ab then (if nth busy 0 0 ≤ now || nth busy 0 0 ≤ nth busy 1 0 then [(0, c.occ)] else [(1, c.occ)])
    else if c.pipe == .array then [] else [(c.pipe.idx, c.occ)]
  | [c, d] =>
    if c.pipe == .ab && d.pipe == .ab then [(0, c.occ), (1, d.occ)]
    else
      let al := if nth busy 0 0 ≤ now || nth busy 0 0 ≤ nth busy 1 0 then 0 else 1
      [(if c.pipe == .ab then al else c.pipe.idx, c.occ), (if d.pipe == .ab then al else d.pipe.idx, d.occ)]
  | _ => []

/-! ## What a word names -/

/-- The destinations and sources of a field: registers of a vector kind, or a predicate. -/
def fieldDests (k : FieldKind) (f : BitVec 7) : List Dest :=
  match k with
  | .pred => if f.toNat = 31 then [] else [.pred f.toNat]
  | .v => if f.toNat < 124 then [.vreg f.toNat] else []
  | k => let r := fieldRegs k f; (idxFrom r.1 r.2).map .vreg

/-- Registers and predicates that a word writes (R132). MXQ also writes the scale register of b7, and XTILE its
groups; the d7 of a PXW is a source (R218). -/
def wordDests (op : Nat) (w : VW) : List Dest :=
  let f := vfields op w
  (if op = 0x168 then [] else fieldDests f.d w.d) ++ (if op = 0x106 then fieldDests f.b w.b else [])

/-- The field d of a word holds sources: the sequence numbers of a PXW (R218), the accumulators of a VXM (R220), the stacks
of an XSTEP (R228). -/
def readsD (op : Nat) (w : VW) : Bool := op == 0x168 || (op == 0x180 && w.mod7.getLsbD 3) || op == 0x192

/-- Registers and predicates that a word reads; the guard is one of them (R333). VTAG reads 16 tags. -/
def wordSources (op : Nat) (w : VW) : List Dest :=
  let f := vfields op w
  (if w.pred = 31 then [] else [.pred w.pred.toNat]) ++
  (if op = 0x128 then (idxFrom w.a.toNat 16).map .vreg else fieldDests f.a w.a) ++
  (if op = 0x106 then [] else fieldDests f.b w.b) ++ fieldDests f.c w.c ++ (if readsD op w then fieldDests f.d w.d else [])

/-- A field stays below .vregs (R126, R207). -/
def fieldBelow (nv : Nat) (k : FieldKind) (f : BitVec 7) : Bool :=
  match k with
  | .v => f.toNat < nv || 124 ≤ f.toNat
  | k => (let r := fieldRegs k f; r.2 == 0 || r.1 + r.2 ≤ nv)

/-- Every field of a word stays below .vregs. -/
def wordBelow (nv op : Nat) (w : VW) : Bool :=
  let f := vfields op w
  fieldBelow nv f.d w.d && fieldBelow nv f.a w.a && fieldBelow nv f.b w.b && fieldBelow nv f.c w.c

/-- The queue numbers that a word pops: its source fields that name vq0 to vq3 (R41). -/
def wordPops (op : Nat) (w : VW) : List Nat :=
  let f := vfields op w
  let src := if op = 0x106 then [(f.a, w.a)] else [(f.a, w.a), (f.b, w.b), (f.c, w.c)]
  (src.filter fun p => p.1 == .v && decide (124 ≤ p.2.toNat)).map fun p => p.2.toNat - 124

/-- The queue numbers that a word pushes (R41). -/
def wordPushes (op : Nat) (w : VW) : List Nat :=
  let f := vfields op w
  (if f.d == .v && decide (124 ≤ w.d.toNat) then [w.d.toNat - 124] else []) ++
  (if op = 0x106 && decide (124 ≤ w.b.toNat) then [w.b.toNat - 124] else [])

/-! ## Operands -/

/-- What one operation of a word reads (R333): its fields, the vector stream's scalar registers and modes, the effective
mask, registers and predicates, the popped entries by queue, and .vregs. -/
structure VIn where
  w : VW
  st : StreamSt
  seed : Word
  mask : Mask
  nv : Nat
  rd : Nat → VReg
  rp : Nat → Mask
  pops : List (Nat × Lanes)

/-- A vector operand: one register, or the two halves of a pair. -/
structure Opd where
  lo : VReg
  hi : VReg
  deriving DecidableEq, Repr

/-- A lane of an operand as a number. -/
def Opd.at (o : Opd) (l : Nat) : Nat := (o.lo.lane l).toNat + (o.hi.lane l).toNat * 2 ^ 32

/-- Every half of an operand is UNIFORM. -/
def Opd.isSame (o : Opd) : Bool := o.lo.same.isSome && o.hi.same.isSome

/-- A register or a queue entry (R41). -/
def VIn.reg (x : VIn) (n : Nat) : VReg :=
  if n < 124 then x.rd n else .rows (((x.pops.find? fun p => p.1 == n - 124).map (·.2)).getD [])

/-- A field as an operand. -/
def VIn.field (x : VIn) (k : FieldKind) (f : BitVec 7) : Opd :=
  match k with
  | .v => ⟨x.reg f.toNat, .undef⟩
  | .v64 => ⟨x.reg f.toNat, x.reg (f.toNat + 1)⟩
  | _ => ⟨.undef, .undef⟩

/-- Operand a. -/
def VIn.a (x : VIn) (op : Nat) : Opd := x.field (vfields op x.w).a x.w.a
/-- Operand c. -/
def VIn.c (x : VIn) (op : Nat) : Opd := x.field (vfields op x.w).c x.w.c
/-- Operand b: a register or imm32, UNIFORM (R172); a 64-bit immediate is an FP64 pattern (R181), or sign-extended
for IADD64 (R189). -/
def VIn.b (x : VIn) (op : Nat) : Opd :=
  if x.w.immb && decide (op < 0x100 || (0x122 ≤ op && op ≤ 0x124)) then
    if 0x040 ≤ op && op < 0x070 then ⟨.uniform 0, .uniform x.w.imm⟩
    else if op = 0x0D8 then ⟨.uniform x.w.imm, .uniform (if x.w.imm.msb then 0xFFFFFFFF else 0)⟩
    else ⟨.uniform x.w.imm, .undef⟩
  else x.field (vfields op x.w).b x.w.b

/-- The rounding of element `e` (R59, R62, R173). -/
def VIn.rm (x : VIn) (e : Nat) : Rm :=
  match x.w.rm with
  | 0 => fpmodeRm x.st.fpmode
  | 1 => .rne
  | 2 => .rtz
  | 3 => .rup
  | 4 => .rdn
  | _ => .sr (srBits x.seed x.st.srcnt e)

/-- What one operation of a word leaves: destination registers with their table tags (R36), queue and general alike;
predicates; scalar registers; registers written whatever the mask (R39); and flags by lane. -/
structure VOut where
  regs : List (Nat × VReg) := []
  preds : List (Nat × Mask) := []
  sregs : List (BitVec 5 × Word) := []
  tags : List (Nat × VReg) := []
  flags : List FFlags := []

/-- One operation of a word. -/
abbrev VFn := VIn → VOut

/-! ## The common lane-by-lane form -/

/-- A lane result from the lane's operands, the lane being the last argument. -/
abbrev LaneFn := VIn → Nat → Nat → Nat → Nat → FRes

/-- A result without flags. -/
def plain (v : Nat) : FRes := { bits := v, flags := 0 }

/-- The bits of results as a mask. -/
def maskOf (l : List Bool) : Mask := BitVec.ofNat 96 (l.foldr (fun b n => b.toNat + 2 * n) 0)

/-- Results of 96 lanes in a destination field (R36, R172): `same` when every lane holds one value by the table. -/
def outRegs (k : FieldKind) (d : Nat) (same : Bool) (rs : List Nat) : List (Nat × VReg) :=
  let half := fun (v : Nat) => BitVec.ofNat 32 v
  let one := fun (f : Nat → Nat) => if same then VReg.uniform (half (f (rs.headD 0))) else .rows (rs.map fun r => half (f r))
  match k with
  | .v64 => [(d, one id), (d + 1, one fun r => r / 2 ^ 32)]
  | _ => [(d, one id)]

/-- An operation that treats every lane alike (R174), with the UNIFORM and GENERAL rows of R36; `line` gives the AFFINE
rows, and under stochastic rounding equal results stay UNIFORM. -/
def stdFn (op : Nat) (f : LaneFn) (line : VIn → VReg → VReg → VReg → Option (Word × Word)) : VFn := fun x =>
  let fs := vfields op x.w
  let a := x.a op
  let b := x.b op
  let c := x.c op
  let sr := x.w.rm == 5 && decide (0x100 ≤ op && op ≤ 0x106)
  let flat := a.isSame && b.isSame && c.isSame
  if flat && !sr then
    let r := f x (a.at 0) (b.at 0) (c.at 0) 0
    let fl := List.replicate 96 r.flags
    if fs.d == .pred then { preds := [(x.w.d.toNat, if r.bits = 1 then BitVec.allOnes 96 else 0)], flags := fl }
    else { regs := outRegs fs.d x.w.d.toNat true [r.bits], flags := fl }
  else
    match line x a.lo b.lo c.lo with
    | some (base, stride) => { regs := [(x.w.d.toNat, .affine base stride)] }
    | none =>
      let rs := (upto 96).map fun l => f x (a.at l) (b.at l) (c.at l) l
      let fl := rs.map (·.flags)
      let vs := rs.map (·.bits)
      if fs.d == .pred then { preds := [(x.w.d.toNat, maskOf (vs.map (· == 1)))], flags := fl }
      else { regs := outRegs fs.d x.w.d.toNat (flat && vs.all (· == vs.headD 0)) vs, flags := fl }

/-- No AFFINE rows. -/
def noLine : VIn → VReg → VReg → VReg → Option (Word × Word) := fun _ _ _ _ => none

/-! ## Issue -/

/-- What a later word finds of a register or predicate that a word in flight writes (R132): the flight, when the cycle is
earlier than issue + latency. -/
def Task.early (t : Task) (at_ : Nat) (d : Dest) : Option Flight :=
  t.flights.find? fun f => f.dest == d && decide (at_ < f.issued + f.lat)

/-- Distinct numbers of the choices that an early access makes. -/
def Dest.code : Dest → Nat
  | .vreg n => n
  | .pred n => 200 + n

/-- What a later word may find instead of a value that words in flight write (R132): what each of them found there. -/
def Task.olds (t : Task) (at_ : Nat) (d : Dest) : List Held :=
  (t.flights.filter fun f => f.dest == d && decide (at_ < f.issued + f.lat)).map (·.old)

/-- A register as a word reads it at a cycle (R132): while producers are in flight, what one of them found there or the new
value. -/
def State.readV (s : State) (t : Task) (at_ n : Nat) : VReg :=
  match t.olds at_ (.vreg n) with
  | [] => t.vreg n
  | hs => match nth hs ((Config.freeWord (s.freeAt t .v) (3000000 + n)).toNat % (hs.length + 1)) (.vreg (t.vreg n)) with
    | .vreg v => v
    | .pred _ => t.vreg n

/-- A predicate as a word reads it at a cycle. -/
def State.readP (s : State) (t : Task) (at_ n : Nat) : Mask :=
  if n = 31 then t.pred 31 else
  match t.olds at_ (.pred n) with
  | [] => t.pred n
  | hs => match nth hs ((Config.freeWord (s.freeAt t .v) (3000200 + n)).toNat % (hs.length + 1)) (.pred (t.pred n)) with
    | .pred m => m
    | .vreg _ => t.pred n

/-- One operation of a word: its op9, its fields, and what it does. -/
structure Piece where
  op : Nat
  w : VW
  fn : VFn

/-- The guard of a word (R33, R51). -/
def guardMask (p : Mask) (neg : BitVec 1) : Mask := if neg = 1 then ~~~p else p

/-- The delay of the operand collector (R339). -/
def collectorDelay (t : Task) (rs : List Nat) : Nat :=
  let gen := (dedup rs).filter fun n => (t.vreg n).tag == 3
  let worst := ((upto 16).map fun b => (gen.filter fun n => n % 16 == b).length).foldl Nat.max 0
  3 * (ceilDiv worst 2 - 1)

/-- Registers that a list of sources names. -/
def vregsOf (l : List Dest) : List Nat := l.filterMap fun d => match d with
  | .vreg n => some n
  | .pred _ => none

/-- The upper halves of a PXW's pixels: sources when PSZ of its record is 1 (R217, R218). -/
def State.pixelHalf (s : State) (t : Task) (p : Nat × VW) : List Dest :=
  if p.1 = 0x168 then
    let va := (t.str.v.pair (p.2.b.extractLsb' 1 4)).toNat + 24
    if s.loadBytes t .v (s.locs (t.accessor s) va 1 false) = [1] then fieldDests .v (p.2.c + 1) else []
  else []

/-- What the operations of a word read (R333). -/
def State.sourcesOf (s : State) (t : Task) (ps : List (Nat × VW)) : List Dest :=
  ps.flatMap fun p => wordSources p.1 p.2 ++ s.pixelHalf t p

/-- The cycle at which a word could issue but for the governor (R131, R332, R339): past the stall count, with its pipes free
and its sources collected; a VXM after the operation that the array runs (R223). -/
def State.readyCycle (s : State) (t : Task) (ps : List (Nat × VW)) : Nat :=
  let x := s.core (s.coreOf t)
  let free := if ps.any fun p => p.1 == 0x180 then x.arrayFree else 0
  let t0 := Nat.max (Nat.max s.now t.vready) free
  let need := (pipesFor x.pipes t0 (ps.map (·.1))).map fun p => nth x.pipes p.1 0
  need.foldl Nat.max t0 + collectorDelay t (vregsOf (s.sourcesOf t ps))

/-- The cycle at which a word issues: the governor's bubbles come last (R337; log 20). -/
def State.issueCycle (s : State) (t : Task) (ps : List (Nat × VW)) : Nat :=
  passCycle [(s.core (s.coreOf t)).droop] (wordWeight (ps.map (·.1))) 17 (s.readyCycle t ps)

/-- The bubbles that delay a word (R337, R338). -/
def State.bubbles (s : State) (t : Task) (ps : List (Nat × VW)) : Nat := s.issueCycle t ps - s.readyCycle t ps

/-- The pipes and the governor after a word issues at a cycle. -/
def State.takePipes (s : State) (t : Task) (at_ : Nat) (ops : List Nat) : State :=
  let c := s.coreOf t
  let x := s.core c
  s.setCore c { x with pipes := (pipesFor x.pipes at_ ops).foldl (fun l p => l.set p.1 (at_ + p.2)) x.pipes,
                       droop := x.droop.add (wordWeight ops) at_ }

/-- Distinct GENERAL source registers of a paired word (R129). -/
def pairSources (t : Task) (ps : List (Nat × VW)) : Nat :=
  ((dedup (ps.flatMap fun p => vregsOf (wordSources p.1 p.2))).filter fun n => (t.vreg n).tag == 3).length

/-- The checks of a word in the order of R134 and R135, and its waits: ILLEGAL, then queues and words in flight that it
waits for, then SCHED, LATENCY before RUNLEN (log 88). The answer is its issue cycle and what each operation reads. -/
def State.vecBegin (s : State) (t : Task) (ps : List (Nat × VW)) : Except Stop (Nat × List VIn) := do
  let st := t.str.v
  let bad := ps.findSome? fun p => wideIllegal p.1 p.2
  let below := ps.all fun p => wordBelow t.nv p.1 p.2
  if bad = some 2 then trapWith clsIllegal 2
  else if bad.isSome || !below then trapWith clsIllegal 4
  else if ps.length = 2 && decide (4 < pairSources t ps) then trapWith clsIllegal 5
  else
    let dsts := ps.flatMap fun p => wordDests p.1 p.2
    let srcs := s.sourcesOf t ps
    let pops := ps.flatMap fun p => wordPops p.1 p.2
    let pushes := ps.flatMap fun p => wordPushes p.1 p.2
    if (dsts ++ srcs).any fun d => t.sb.any fun l => l.contains d then .error (.wait .score)
    else if (pops.any fun q => (nth t.vqs q []).isEmpty) || (pushes.any fun q => 8 ≤ (nth t.vqs q []).length) then
      .error (.wait (.queue pops pushes))
    else
      let at_ := s.issueCycle t ps
      if t.chk && (dsts ++ srcs).any fun d => (t.early at_ d).isSome then trapWith clsSched 1
      else if t.chk && st.runVec && decide (24 ≤ st.run) then trapWith clsSched 2
      else
        let rp := s.readP t at_
        let mk := fun (p : Nat × VW) =>
          { w := p.2, st := st, seed := t.srseed, nv := t.nv, rd := s.readV t at_, rp := rp,
            mask := st.am &&& guardMask (rp p.2.pred.toNat) p.2.neg,
            pops := (wordPops p.1 p.2).map fun q => (q, (nth t.vqs q []).headD []) : VIn }
        return (at_, ps.map mk)

/-- The stream after a vector word (R133, R335). -/
def Task.advanceVec (t : Task) (st : StreamSt) (e : BitVec 1) : StreamSt :=
  let n := st.retired + 1
  let q := st.qend || (t.det && decide (t.quarter ≤ n))
  { st with
    pc := st.pc + 12, status := .ready, retired := n, qend := q,
    run := st.run + 1, runVec := true, granted := st.granted && e == 0 && !q }

/-- Queue entries leave and enter (R41): a pushed entry holds 0 in its inactive lanes. -/
def Task.moveQueues (t : Task) (pops : List Nat) (pushes : List (Nat × Lanes)) : Task :=
  let vqs := pops.foldl (fun l q => l.set q (nth l q []).tail) t.vqs
  { t with vqs := pushes.foldl (fun l p => l.set p.1 (nth l p.1 [] ++ [p.2])) vqs }

/-- The destinations of one operation are written under its mask; the error is a bank without a row. An early write of
R132 leaves the destination with either write. -/
def State.vecWrite (s : State) (t : Task) (at_ : Nat) (x : VIn) (o : VOut) : Except Nat Task := do
  let keep : Dest → Bool := fun d => (t.early at_ d).isSome && Config.choice (s.freeAt t .v) (3001000 + d.code)
  let putTag : List VReg → Nat × VReg → List VReg := fun l r => if keep (.vreg r.1) then l else l.set r.1 r.2
  let putPred : Task → Nat × Mask → Task := fun t r =>
    if keep (.pred r.1) then t else t.setPred r.1 ((r.2 &&& x.mask) ||| (t.pred r.1 &&& ~~~x.mask))
  let u ← t.putRegs x.mask (o.regs.filter fun r => decide (r.1 < 124) && !keep (.vreg r.1))
  let u := o.preds.foldl putPred { u with vregs := o.tags.foldl putTag u.vregs }
  let pushes := (o.regs.filter fun r => decide (124 ≤ r.1)).map fun r =>
    (r.1 - 124, mergeLanes x.mask r.2.lanes (List.replicate 96 0))
  let u := u.moveQueues (x.pops.map (·.1)) pushes
  return u.setSt .v (o.sregs.foldl (fun (st : StreamSt) p => st.setReg p.1 p.2) u.str.v)

/-- The flags of the active lanes (R174). -/
def activeFlags (m : Mask) (fl : List FFlags) : List FFlags :=
  (fl.zip (upto 96)).map fun p => if m.getLsbD p.2 then p.1 else 0

/-- The OR of flags. -/
def orAll (fl : List FFlags) : FFlags := fl.foldl (· ||| ·) 0

/-- The destinations of the operations that pop a queue, which the scoreboard holds (R132). -/
def heldDests (ps : List (Nat × VW)) : List (List Dest) :=
  ((ps.filter fun p => !(wordPops p.1 p.2).isEmpty).map fun p => wordDests p.1 p.2).filter (!·.isEmpty)

/-- The flight records of a word's destinations (R132). A word whose effective mask is empty makes them too, though it writes
nothing (DESIGN CHOICE, log 94). -/
def flightsOf (t : Task) (at_ : Nat) (ps : List (Nat × VW)) : List Flight :=
  (ps.filter fun p => (wordPops p.1 p.2).isEmpty).flatMap fun p => match (vclass p.1).lat with
    | none => []
    | some lat => (wordDests p.1 p.2).map fun d =>
      { dest := d, issued := at_, lat := lat, old := match d with
          | .vreg n => .vreg (t.vreg n)
          | .pred n => .pred (t.pred n) }

/-- ARITH of a word (R175): the lane flags OR over its operations, with a record for every active lane that raised an
enabled flag. -/
def arithTrap (fpmode : Word) (fl : List FFlags) : Option TrapReq :=
  (lowestEnabled fpmode (orAll fl)).map fun f =>
    let rec1 := fun (x : FFlags) => (lowestEnabled fpmode x).map fun g => { sub := g + 1, kind := 0, addr := 0 : LaneRec }
    { cls := clsArith, sub := f + 1, lanes := some (fl.map rec1) }

/-- A vector word of the latency classes (R129, R174 to R176): both operations read, then both write; ROWS, then
ARITH; SRCNT counts a word under stochastic rounding (R62). -/
def vecRun (ps : List Piece) (stall : BitVec 4) (e : BitVec 1) (s : State) : Out State Fault Refusal :=
  issue .vector s fun t k => do
    let ws := ps.map fun p => (p.op, p.w)
    let (at_, xs) ← s.vecBegin t ws
    let outs := (ps.zip xs).map fun p => (p.2, p.1.fn p.2)
    let flags := outs.map fun p => activeFlags p.1.mask p.2.flags
    let fl := (upto 96).map fun l => orAll (flags.map fun x => nth x l 0)
    let wr := fun (r : Task × Option Nat) (p : VIn × VOut) => match s.vecWrite r.1 at_ p.1 p.2 with
      | .ok u => (u, r.2)
      | .error b => (r.1, some (Nat.min b (r.2.getD b)))
    match outs.foldl wr (t, none) with
    | (_, some b) => trapWith clsRows b
    | (u, none) =>
      match arithTrap t.str.v.fpmode fl with
      | some r => return s.takeTrap (t.setSt .v (t.str.v.orFlags (orAll fl))) k t.str.v.pc false 0 r
      | none =>
        let sr := ws.any fun p => p.2.rm == 5 && (p.1 == 0x100 || p.1 == 0x102 || p.1 == 0x103 || p.1 == 0x106)
        let st := u.str.v.orFlags (orAll fl)
        let st := if sr then { st with srcnt := st.srcnt + 1 } else st
        let old := u.flights.filter fun f => decide (at_ < f.issued + f.lat)
        let u := { u with flights := flightsOf t at_ ws ++ old, vready := at_ + 1 + stall.toNat, sb := u.sb ++ heldDests ws }
        let u := u.countDroop (s.bubbles t ws)
        let s := { s.takePipes t at_ (ws.map (·.1)) with now := at_ + 1 }
        return s.setTask (u.setSt .v (u.advanceVec st e))

/-- A wide word (R124). -/
def wideRun (op : Nat) (w : VW) (f : VFn) (s : State) : Out State Fault Refusal :=
  vecRun [{ op := op, w := w, fn := f }] w.stall w.e s

end Sys2Proof.Machine
end

