-- ==== Sys2Proof/Machine/Commit.lean ====
section
/-! DEFINITION. Deterministic launches: the end of a quantum (R298, R299) and the commit (R301 to R303, R437). -/
namespace Sys2Proof.Machine

/-! ## The end of a quantum -/

/-- A stream has reached its quantum end (R298). -/
def State.streamAtEnd (s : State) (t : Task) (k : StreamId) : Bool :=
  let st := t.st k
  st.status == .ended || st.status == .halted || st.qend || (st.blocked && !(s.canIssue t k))

/-- The task waits for an operation that holds its quantum (R299). -/
def Task.opHolds (t : Task) : Bool :=
  allStreams.any fun k => (t.st k).queue.any fun e => match e.eff with
    | .op _ => true
    | _ => false

/-- A task has reached its quantum end (R298, R299): no delivered trap waits for its entry, and a running handler is at
an end of its own. -/
def State.taskAtEnd (s : State) (t : Task) : Bool :=
  !t.dbgHalt && (t.tmode || t.pend.isEmpty) && !t.opHolds && allStreams.all fun k => s.streamAtEnd t k

/-- The live tasks of a launch in commit order (R303). -/
def State.commitTasks (s : State) (l : Nat) : List Task :=
  sortOn (fun t => s.bidOf t * 32 + t.taskId) (s.tasks.filter fun t => t.launch == l)

/-- The OCLM that a blocked task waits for. -/
def State.oclmOf (s : State) (t : Task) : Option (Nat × Nat) :=
  if t.str.m.status == .waiting .slots then
    ((s.core (s.coreOf t)).oclmQ.find? fun e => e.1 == t.uid).map (·.2)
  else none

/-- A task outside the launch holds a slot that a blocked OCLM of the launch waits for (R302). -/
def State.slotsOutside (s : State) (l : Nat) (t : Task) : Bool :=
  match s.oclmOf t with
  | some (b, n) => (s.core (s.coreOf t)).owners.any fun p => decide (b ≤ p.1) && decide (p.1 < b + n) &&
      (s.task? p.2).any fun x => x.launch != l
  | none => false

/-- The pixel lanes that a launch has buffered for a die's order unit. -/
def commitLanes (ts : List Task) (die : Nat) : Nat :=
  ((ts.flatMap fun t => t.str.v.queue.flatMap fun e => match e.eff with
    | .pxw ls => ls
    | _ => []).filter fun p => p.die == die).length

/-- The commit would change something (R303): a buffer holds an entry, a stream has spent its quantum, a task has ended, or a
blocked OCLM could be served. -/
def State.commitUseful (s : State) (ts : List Task) : Bool :=
  ts.any fun t => t.over || (allStreams.any fun k => (t.st k).qend || !(t.st k).queue.isEmpty) ||
    match s.oclmOf t with
    | some (b, n) => (s.core (s.coreOf t)).slotsFree b n
    | none => false

/-- The order unit of a die has room for a commit's lanes (R302): beside those that are pending, or with none pending, since
the commit then makes room as it goes (log 80). -/
def State.pixelRoom (s : State) (die n : Nat) : Bool :=
  let pending := (s.pxw.filter fun p => p.die == die).length
  pending == 0 || decide (pending + n ≤ 4096)

/-- A commit of a launch may take place (R297, R298, R302, R303). -/
def State.mayCommit (s : State) (l : Launch) : Bool :=
  let ts := s.commitTasks l.num
  l.live && l.pkt.det && (s.blocks.all fun b => b.launch != l.num || (b.st == .resident && !b.held)) &&
  (s.unitSpans l).isEmpty && ts.all s.taskAtEnd && !(ts.any (s.slotsOutside l.num)) &&
  ((upto 4).all fun d => s.pixelRoom d (commitLanes ts d)) && s.commitUseful ts

/-! ## The entries -/

/-- A further failure of a stream at a commit is an ALSO bit of its first one's trap; the first is delivered (R437). -/
def Task.commitFail (t : Task) (k : StreamId) (first : Option Dword) (p : PendTrap) (also : BitVec 4) : Task × Option Dword :=
  if t.fate.isSome then (t, first) else
  match first with
  | none => (t.deliver p, some p.info)
  | some pc =>
    ({ t with pend := t.pend.map fun x =>
        if x.stream == k && x.info == pc && (x.cls == clsFuture || x.cls == clsSem) then { x with also := x.also ||| also } else x },
      first)

/-- The old values of lanes reach a vector register group (R301, R214). -/
def Task.putLanes (t : Task) (rs : List (RetTo × Nat)) : Task :=
  let ls := rs.filterMap fun r => match r.1 with
    | .vgrp d n l => some (d, n, l, r.2)
    | _ => none
  match ls with
  | [] => t
  | (d, n, _, _) :: _ =>
    let m : Mask := BitVec.ofNat 96 ((ls.map fun x => 2 ^ x.2.2.1).foldl (· + ·) 0)
    let val := fun (l : Nat) => ((ls.find? fun x => x.2.2.1 == l).map (·.2.2.2)).getD 0
    let regs := (upto n).map fun j => (d + j, VReg.rows ((upto 96).map fun l => BitVec.ofNat 32 (val l / 2 ^ (32 * j))))
    match t.putRegs m regs with
    | .ok t => t
    | .error _ => t

/-- A stream receives the results of a returning operation. -/
def State.putRets (s : State) (u : Nat) (k : StreamId) (rs : List (RetTo × Nat)) : State :=
  s.mapTask u fun t =>
    let st := rs.foldl (fun st r => st.putRet r.1 r.2) (t.st k)
    (t.setSt k st).putLanes rs

/-- What a commit carries along: the state, records to move on, the stream's first failure, work-graph records, each with its
partition, its graph and its node's descriptor. -/
structure CommitAcc where
  s : State
  recs : List RecRef := []
  first : Option Dword := none
  grecs : List (Nat × Nat × Nat × Rec) := []

/-- A FRES or FFLT at its commit (R158, R437). -/
def CommitAcc.fres (a : CommitAcc) (t : Task) (k : StreamId) (pc : Dword) (pa : Nat) (res : Word) (fault : Bool) : CommitAcc :=
  match a.s.resolve pa res fault with
  | (s, none, r) => { a with s := s.homeOp t pa, recs := a.recs ++ r }
  | (_, some x, _) =>
    let (t, f) := t.commitFail k a.first
      { cls := clsFuture, sub := if x = 2 then 1 else 2, stream := k, also := 0, info := pc } 4
    { a with s := a.s.setTask t, first := f }

/-- A SIG at its commit (R16, R437). -/
def CommitAcc.sig (a : CommitAcc) (t : Task) (k : StreamId) (pc : Dword) (i n : Nat) (seen : List Nat) : CommitAcc :=
  if 255 < t.sem i + n then
    let (t, f) := t.commitFail k a.first { cls := clsSem, sub := 2, stream := k, also := 0, info := pc } 8
    { a with s := a.s.setTask t, first := f }
  else { a with s := a.s.setTask ((t.noteSig i n seen).addSem i n) }

/-- A stream of a task in trap mode stands at an instruction again: it executes it after ERET (R390). -/
def Task.retryAt (t : Task) (k : StreamId) (pc : Dword) : Task :=
  match k with
  | .s => { t with tpcS := pc }
  | .v => { t with tpcV := pc }
  | .m => { t with tpcM := pc }
  | .c => { t with tpcC := pc }

/-- A TJOIN at its commit: its traps are precise at the instruction (R161, R437). While the task's handler runs, entered
perhaps for an earlier stream at this commit, a halted stream's TJOIN has no effect and executes again after ERET
(R390). -/
def CommitAcc.tjoin (a : CommitAcc) (t : Task) (k : StreamId) (pc : Dword) (va : Nat) (d : BitVec 5) : CommitAcc :=
  if t.tmode && k != .s then { a with s := a.s.setTask (t.retryAt k pc) } else
  match a.s.joinRec t k va with
  | .ok (s, n, r) => { a with s := s.putRets t.uid k [(.sreg d, n)], recs := a.recs ++ r }
  | .error (.trap r) => { a with s := a.s.takeTrap t k pc false 0 r }
  | .error (.page va pte e) => { a with s := (a.s.setTask (t.setSt k { t.st k with pc := pc })).pageFault t va pte e none }
  | .error (.wait _) => a

/-- A GREC at its commit: the record waits for its place in the order of R291. -/
def CommitAcc.grec (a : CommitAcc) (t : Task) (va : Nat) (val : Word) (idx graph : Nat) : CommitAcc :=
  let bid := a.s.bidOf t
  let r : Rec := { val := val, grid := t.launch, bid := bid, taskId := t.taskId, idx := idx }
  { a with grecs := a.grecs ++ [(t.part, graph, va, r)] }

/-- One entry of a buffer is applied (R301, R303). FSTAT reads after the commit and is left to its end. -/
def CommitAcc.entry (a : CommitAcc) (u : Nat) (k : StreamId) (e : QEntry) : CommitAcc :=
  match a.s.task? u with
  | none => a
  | some t =>
    let core := a.s.coreOf t
    match e.eff with
    | .store us => { a with s := a.s.applyStore core us.flatten }
    | .atom ops =>
      let (s, rs) := ops.foldl (fun (p : State × List (RetTo × Nat)) r =>
        let (s, old) := p.1.applyRmw core r
        (s, p.2 ++ [(r.ret, old)])) (a.s, [])
      { a with s := s.putRets u k rs }
    | .cas ops =>
      let (s, rs) := ops.foldl (fun (p : State × List (RetTo × Nat)) r =>
        let (s, old) := p.1.applyCas core r
        (s, p.2 ++ [(r.ret, old)])) (a.s, [])
      { a with s := s.putRets u k rs }
    | .sig i n seen => a.sig t k e.pc i n seen
    | .bara b => { a with s := a.s.arrive t b 0 }
    | .bare b n => { a with s := a.s.arrive t b n }
    | .sbara b => { a with s := a.s.spanArrive t b }
    | .fres _ pa res fault => a.fres t k e.pc pa res fault
    | .ftry _ pa res d =>
      match a.s.resolve pa res false with
      | (s, none, r) => { a with s := (s.homeOp t pa).putRets u k [(.sreg d, 0)], recs := a.recs ++ r }
      | (_, some x, _) => { a with s := (a.s.homeOp t pa).putRets u k [(.sreg d, if x = 2 then 1 else 2)] }
    | .fstat _ _ => a
    | .tlaunch va pkt d =>
      let (s, t, n, r) := a.s.launchPkt t pkt va.toNat
      { a with s := (s.setTask t).putRets u k [(.sreg d, n)], recs := a.recs ++ r }
    | .tjoin va d => a.tjoin t k e.pc va.toNat d
    | .grec va val idx graph => a.grec t va.toNat val idx graph
    | .pxw ls => { a with s := { a.s with pxw := a.s.pxw ++ ls } }
    | .orls _ _ => { a with s := a.s.passSlots core }
    | .op _ => a
    | .copied bs bad => { a with s := a.s.applyCopied core bs bad }
    | .acts act status conds follower seen =>
      let (s, r) := a.s.runActs u k e.pc act status conds follower seen
      { a with s := s, recs := a.recs ++ r }

/-- The oldest entry of a stream leaves its buffer and is applied; the records that it releases move on, and the pixel lanes
that it makes ready are performed, before the next entry (R303). -/
def CommitAcc.pop (a : CommitAcc) (u : Nat) (k : StreamId) : CommitAcc :=
  match a.s.task? u with
  | none => a
  | some t => match (t.st k).queue with
    | [] => a
    | e :: es =>
      let a := ({ a with s := a.s.setTask (t.setSt k { t.st k with queue := es }) } : CommitAcc).entry u k e
      let s := State.settle (a.s, a.recs)
      { a with s := s.settlePixels s.pxw.length, recs := [] }

/-- The buffer of a stream is applied in program order; an FSTAT of it is remembered by the caller. -/
def CommitAcc.stream (a : CommitAcc) (u : Nat) (k : StreamId) : CommitAcc :=
  let n := ((a.s.task? u).map fun t => (t.st k).queue.length).getD 0
  (upto n).foldl (fun a _ => a.pop u k) { a with first := none }

/-! ## The commit -/

/-- The FSTATs of buffers (R301): task, stream, place and register. -/
def fstatsOf (ts : List Task) : List (Nat × StreamId × Nat × BitVec 4) :=
  ts.flatMap fun t => allStreams.flatMap fun k => (t.st k).queue.filterMap fun e => match e.eff with
    | .fstat pa d => some (t.uid, k, pa, d)
    | _ => none

/-- The records of a commit join their nodes in the order of R291. -/
def State.commitRecs (s : State) (gs : List (Nat × Nat × Nat × Rec)) : State × List RecRef :=
  let byIdx := sortOn (fun (g : Nat × Nat × Nat × Rec) => g.2.2.2.idx) gs
  let bySource := sortOn (fun (g : Nat × Nat × Nat × Rec) => g.2.2.2.bid * 32 + g.2.2.2.taskId) byIdx
  bySource.foldl (fun (p : State × List RecRef) g =>
    let (part, graph, va, x) := g
    match p.1.devPa part va true with
    | some pa =>
      let (s, r) := p.1.acceptRec part graph va pa x
      (s, p.2 ++ r)
    | none => p) (s, [])

/-- A blocked OCLM of the launch is served if its slots are free (R302). -/
def State.serveBlocked (s : State) (u : Nat) : State :=
  match s.task? u with
  | none => s
  | some t => match s.oclmOf t with
    | some (b, n) =>
      let core := s.coreOf t
      if (s.core core).slotsFree b n then
        let s := s.setCore core { s.core core with oclmQ := (s.core core).oclmQ.filter fun e => e.1 != u }
        s.grantOclm t b n
      else s
    | none => s

/-- The next quantum of a task begins. -/
def Task.nextQuantum (t : Task) : Task :=
  let q := fun (st : StreamSt) => { st with retired := 0, qend := false, qheld := false }
  { t with commits := t.commits + 1, str := ⟨q t.str.s, q t.str.v, q t.str.m, q t.str.c⟩ }

/-- DEADLOCK is tested at a commit (R19). -/
def State.testCommitted (s : State) (u : Nat) : State :=
  match s.task? u with
  | some t => if s.deadlocked t then s.raiseDeadlock t else s
  | none => s

/-- A commit (R303): the next quantum begins, the buffers apply in order, then FSTATs read, WAITs test the counts, tasks
retire and blocked OCLMs are served from what retirement left; the slots that are then held are what OCLMs of the next
quantum find (R302). -/
def State.commitNow (s : State) (l : Launch) : State :=
  let ts := s.commitTasks l.num
  let us := ts.map (·.uid)
  let fs := fstatsOf ts
  let s := us.foldl (fun s u => s.mapTask u Task.nextQuantum) s
  let a := us.foldl (fun (a : CommitAcc) u => allStreams.foldl (fun a k => a.stream u k) a) { s := s }
  let (s, more) := a.s.commitRecs a.grecs
  let s := State.settleAll (s, a.recs ++ more)
  let s := fs.foldl (fun s f => s.putRets f.1 f.2.1 [(.pair f.2.2.2, s.mem.field f.2.2.1 8)]) s
  let s := us.foldl (fun s u => s.mapTask u Task.serveSems) s
  let s := us.foldl (fun s u => match s.task? u with
    | some t => if t.over then s.retireTask t else s
    | none => s) s
  let s := us.foldl State.serveBlocked s
  let s := us.foldl State.testCommitted s
  us.foldl State.noteSlots s

/-- COMMIT (R303). -/
def execCommit (launch : Nat) (s : State) : Out State Fault Refusal :=
  .next (match s.launch? launch with
    | some l => if s.mayCommit l then s.commitNow l else s
    | none => s)

end Sys2Proof.Machine
end

