-- ==== Sys2Proof/Machine/Drain.lean ====
section
/-! DEFINITION. What completes on its own: a stall count (R131), a scoreboarded word (R132) and the oldest entry of a
store queue (R97). -/
namespace Sys2Proof.Machine

/-- STALL_EXPIRY (R131, R335): the cycle from which the task's next vector word may issue has come. -/
def execStallExpiry (task : Nat) (s : State) : Out State Fault Refusal :=
  .next (match s.task? task with
    | some t => { s with now := Nat.max s.now t.vready }
    | none => s)

/-- The oldest scoreboarded word of a task completes: its destinations leave the scoreboard (R132). -/
def State.completeWord (s : State) (task : Nat) : State :=
  match s.task? task with
  | some t => s.setTask { t with sb := t.sb.tail }
  | none => s

/-- SCOREBOARDED_WORD_COMPLETION (R132). -/
def execScoreboardedWordCompletion (task : Nat) (s : State) : Out State Fault Refusal := .next (s.completeWord task)

/-- STORE_QUEUE_DRAIN (R97): the oldest store of a stream leaves its queue; with an empty queue, a store on the outbound
path of the stream's core reaches its home. Buffered effects of a deterministic launch wait for their commit (R300). -/
def execStoreQueueDrain (task : Nat) (k : StreamId) (s : State) : Out State Fault Refusal :=
  .next (match s.task? task with
    | some t =>
      if t.det then s
      else if (t.st k).queue.isEmpty then s.landOne (s.coreOf t)
      else
        let (s, t) := s.drainOne t k
        s.setTask t
    | none => s)

end Sys2Proof.Machine
end

