-- ==== Sys2Proof/Machine/Flaori.lean ====
section
/-! DEFINITION. Flaori (R366): announcements, the chunks that it pulls and those that its peers pull, and messages that it
abandons. -/
namespace Sys2Proof.Machine

/-- The place in its source's order of the next announcement on a TAG: messages of one source and TAG arrive in issue order
(R366). -/
def State.flaoriNext (s : State) (src tag : Nat) : Nat := ((s.collSeq.find? fun p => p.1 == [src, tag, 7]).map (·.2)).getD 0

/-- FLAORI_REQUEST (R366): a message is announced, and its chunks are pulled; or a member learns that the whole group's
operation has met a different kind (R263). -/
def execFlaoriRequest (msg : FlaoriMsg) (s : State) : Out State Fault Refusal :=
  .next (
    let tag := msg.tag.toNat
    if !s.flaoriOn || msg.src == s.rank || !(s.peerUp msg.src) || msg.seq != s.flaoriNext msg.src tag then s
    else
      let s := (s.takeOrd [msg.src, tag, 7]).1
      match msg.bad with
      | some ord => s.noteBad tag msg.peer ord
      | none =>
        let (s, pos) := s.takeOrd [tag, msg.member, msg.peer, 4]
        let (s, ord) := s.takeOrd (ordKey msg.kind tag msg.member msg.peer 4)
        let s := s.arriveMsg { msg := msg, ord := ord, pos := pos, data := [], got := [], fails := 0, fault := none }
        { s with wire := s.wire ++ (chunksOf msg).map fun off => .pull msg.src msg.tag msg.seq off })

/-- Replace one message by the result of a change. -/
def State.mapMsg (s : State) (x : FlaoriIn) (f : FlaoriIn → FlaoriIn) : State :=
  { s with flaori := s.flaori.map fun y => if y.msg == x.msg then f y else y }

/-- The message that a chunk belongs to, while the chunk is outstanding. -/
def State.chunkOf (s : State) (src : Nat) (tag : Word) (seq off : Nat) : Option FlaoriIn :=
  s.flaori.find? fun x => x.msg.src == src && x.msg.tag == tag && x.msg.seq == seq && x.fault.isNone &&
    (chunksOf x.msg).contains off && !(x.got.contains off)

/-- A message is abandoned, and counted (R366, R433). -/
def State.abandon (s : State) (x : FlaoriIn) : State :=
  (s.mapMsg x fun y => { y with fault := some 9 }).countMreg (portRegs (s.rankPort x.msg.src) + 0x10) 0

/-- Chunks of a message are pulled again: a pull has failed, and the eighth in a row abandons the message (R366). -/
def State.pullFailed (s : State) (x : FlaoriIn) (offs : List Nat) : State :=
  if 7 ≤ x.fails then s.abandon x
  else
    let s := (s.mapMsg x fun y => { y with fails := y.fails + 1, got := y.got.filter fun off => !(offs.contains off) }).countMreg
      (portRegs (s.rankPort x.msg.src) + 8) 32
    { s with wire := s.wire ++ offs.map fun off => .pull x.msg.src x.msg.tag x.msg.seq off }

/-- A chunk has arrived whole. When it is the message's last, the CRC-32C over its data is checked; where it is wrong the
packet is dropped and the message pulled again (R366, R433; log 58). -/
def State.chunkIn (s : State) (x : FlaoriIn) (off : Nat) (data : List Byte) : State :=
  let y := { x with data := Memory.writeBytes x.data off data, got := off :: x.got, fails := 0 }
  if y.whole && crc32c (y.data.bytes 0 y.msg.len) != y.msg.crc then
    (s.countMreg (portRegs (s.rankPort x.msg.src)) 32).pullFailed x (chunksOf x.msg)
  else s.mapMsg x fun _ => y

/-- FLAORI_CHUNK (R366): a pulled chunk arrives; one with a bad FCS is counted and pulled again (R433). -/
def execFlaoriChunk (src : Nat) (tag : Word) (seq off : Nat) (data : List Byte) (good : Bool) (s : State) :
    Out State Fault Refusal :=
  .next (match s.chunkOf src tag seq off with
    | some x =>
      if !s.flaoriOn || !(s.peerUp src) then s
      else if !good then (s.countMreg (portRegs (s.rankPort src)) 0).pullFailed x [off]
      else if data.length == Nat.min 4096 (x.msg.len - off) then s.chunkIn x off data
      else s.pullFailed x [off]
    | none => s)

/-- FLAORI_LOST_CHUNK (R366): a pulled chunk never arrives. -/
def execFlaoriLostChunk (src : Nat) (tag : Word) (seq off : Nat) (s : State) : Out State Fault Refusal :=
  .next (match s.chunkOf src tag seq off with
    | some x => if s.flaoriOn && s.peerUp src then s.pullFailed x [off] else s
    | none => s)

/-- A collective waits for a rank: for a message that has not arrived whole, or for its own data to be pulled (R366). -/
def State.awaitsRank (s : State) (o : AsyncOp) (peer : Nat) : Bool :=
  match collKind o.instr with
  | some kind => o.announced && ((s.flaoriOut.any fun x => x.op == o.id && x.dst == peer) ||
      (o.collPeers kind).any fun m => o.memberRank m == peer &&
        match s.awaited o kind m with
        | some f => !(f.msg.kind == .recv) && !f.whole
        | none => true)
  | none => false

/-- FLAORI_SILENCE_TIMEOUT (R366): a peer has answered nothing for 100 ms; its unfinished messages are abandoned, and the
collectives that await it end with FABRIC. -/
def execFlaoriSilenceTimeout (peer : Nat) (s : State) : Out State Fault Refusal :=
  .next (
    if !s.flaoriOn || peer == s.rank then s
    else
      let fail := fun (o : AsyncOp) => if s.awaitsRank o peer then { o with fault := some (0, 9) } else o
      let tasks := s.tasks.map fun t => { t with cops := t.cops.map fail }
      let lost := s.flaori.filter fun x => x.msg.src == peer && !(x.msg.kind == .recv) && !x.whole && x.fault.isNone
      lost.foldl State.abandon { s with tasks := tasks, flaoriOut := s.flaoriOut.filter fun x => x.dst != peer })

/-- A message from or to a peer waits: one that has not been pulled whole, or one that a collective awaits (R366). -/
def State.peerWaits (s : State) (peer : Nat) : Bool :=
  (s.flaori.any fun x => x.msg.src == peer && x.fault.isNone && !(x.msg.kind == .recv) && !x.whole) ||
  (s.flaoriOut.any fun x => x.dst == peer) || s.tasks.any fun t => t.cops.any fun o => s.awaitsRank o peer

/-- FLAORI_KEEPALIVE (R366): a keepalive is exchanged with a peer while a message waits. -/
def execFlaoriKeepalive (peer : Nat) (s : State) : Out State Fault Refusal :=
  .next (if s.flaoriOn && s.peerUp peer && s.peerWaits peer then { s with wire := s.wire ++ [.keepalive peer] } else s)

/-- A peer pulls the next chunk of a message that is held for it (R366), or again one whose data it has not received whole.
When it pulls is free (log 29). -/
def State.pullNext (s : State) : Option State :=
  match s.flaoriOut with
  | [] => none
  | x :: rest =>
    if !s.flaoriOn || !(s.peerUp x.dst) || !(Config.choice s.fresh 6000004) then none
    else
      match (chunksOf x.msg).find? fun off => !(x.pulled.contains off) with
      | none => some { s with flaoriOut := rest }
      | some off =>
        let again := Config.choice s.fresh 6000005
        some { s with wire := s.wire ++ [.chunk x.dst x.msg.tag x.msg.seq off ((x.data.drop off).take 4096)],
                      flaoriOut := rest ++ [if again then x else { x with pulled := off :: x.pulled }] }

end Sys2Proof.Machine
end

