-- ==== Sys2Proof/Machine/Sfu.lean ====
section
/-! DEFINITION. The SFU operations (R70): correctly rounded results from fixed-point evaluation with 320 fraction bits,
far past what the nearest rounding boundary of an FP32 result needs (log 17). -/
namespace Sys2Proof.Machine

/-- Fraction bits of the fixed-point numbers. -/
def fxBits : Nat := 320
/-- One in fixed point. -/
def fxOne : Nat := 2 ^ fxBits
/-- π in fixed point. -/
def fxPi : Nat := 0x3243f6a8885a308d313198a2e03707344a4093822299f31d0082efa98ec4e6c89452821e638d01377
/-- ln 2 in fixed point. -/
def fxLn2 : Nat := 0xb17217f7d1cf79abc9e3b39803f2f6af40f343267298b62d8a0d175b8baafa2be7b876206debac98

/-- Product in fixed point. -/
def fxMul (a b : Nat) : Nat := a * b / fxOne

/-- One bit of an integer square root at a time, from bit k − 1 down. -/
def isqrtFrom (n : Nat) : Nat → Nat → Nat
  | 0, r => r
  | k + 1, r =>
    let t := r + 2 ^ k
    isqrtFrom n k (if t * t ≤ n then t else r)

/-- The integer square root. -/
def isqrt (n : Nat) : Nat := isqrtFrom n (Nat.log2 n / 2 + 1) 0

/-- The terms of exp after `i`: `term` × t / i …, summed. -/
def expTerms (t : Nat) : Nat → Nat → Nat → Nat
  | 0, _, _ => 0
  | f + 1, i, term =>
    let next := fxMul term t / i
    next + expTerms t f (i + 1) next

/-- e^t for a fixed-point t below 1. -/
def fxExp (t : Nat) : Nat := fxOne + expTerms t 90 1 fxOne

/-- The alternating terms of sin or cos: t² factors over i (i + 1). -/
def altTerms (t2 : Nat) : Nat → Nat → Nat → Int
  | 0, _, term => term
  | f + 1, i, term => (term : Int) - altTerms t2 f (i + 2) (fxMul term t2 / (i * (i + 1)))

/-- sin t for a fixed-point t of at most π/2. -/
def fxSin (t : Nat) : Nat := (altTerms (fxMul t t) 60 2 t).toNat

/-- The terms of atanh: z^(2i+1)/(2i+1). -/
def atanhTerms (z2 : Nat) : Nat → Nat → Nat → Nat
  | 0, _, _ => 0
  | f + 1, i, p => p / i + atanhTerms z2 f (i + 2) (fxMul p z2)

/-- ln of m/2^k for 1 ≤ m/2^k < 2. -/
def fxLn (m k : Nat) : Nat :=
  let z := (m - 2 ^ k) * fxOne / (m + 2 ^ k)
  2 * atanhTerms (fxMul z z) 110 1 z

/-- RNE of a fixed-point magnitude that is not exact. -/
def roundFx (ftz neg : Bool) (m : Nat) (scale : Int) : FRes := roundTo .f32 .rne ftz neg m (scale - fxBits) true

/-- RCP and DRCP. -/
def sfuRcp (f : Fmt) (ftz : Bool) (a : FVal) : FRes :=
  match a with
  | .nan n p s => nanRes f n p s
  | .inf n => { bits := f.signBit n, flags := 0 }
  | .fin n m e =>
    if m = 0 then { infRes f n with flags := flagDivzero }
    else
      let k := Nat.log2 m + 128
      roundTo f .rne ftz n (2 ^ k / m) (-(k : Int) - e) (2 ^ k % m != 0)

/-- SQRT and DSQRT. -/
def sfuSqrt (f : Fmt) (ftz : Bool) (a : FVal) : FRes :=
  match a with
  | .nan n p s => nanRes f n p s
  | .inf n => if n then invalidRes f else infRes f false
  | .fin n m e =>
    if m = 0 then { bits := f.signBit n, flags := 0 }
    else if n then invalidRes f
    else
      let (m, e) := if e % 2 = 0 then (m, e) else (2 * m, e - 1)
      let x := m * 2 ^ 160
      let q := isqrt x
      roundTo f .rne ftz false q (e / 2 - 80) (q * q != x)

/-- RSQ. -/
def sfuRsq (ftz : Bool) (a : FVal) : FRes :=
  match a with
  | .nan n p s => nanRes .f32 n p s
  | .inf n => if n then invalidRes .f32 else { bits := 0, flags := 0 }
  | .fin n m e =>
    if m = 0 then { infRes .f32 n with flags := flagDivzero }
    else if n then invalidRes .f32
    else
      let (m, e) := if e % 2 = 0 then (m, e) else (2 * m, e - 1)
      let q := isqrt (2 ^ 240 / m)
      roundTo .f32 .rne ftz false q (-(e / 2) - 120) (q * q * m != 2 ^ 240)

/-- The fixed-point form of a finite magnitude of FP32. -/
def fxOf (m : Nat) (e : Int) : Nat := m * 2 ^ (e + fxBits).toNat

/-- EXP2. -/
def sfuExp2 (ftz : Bool) (a : FVal) : FRes :=
  match a with
  | .nan n p s => nanRes .f32 n p s
  | .inf n => if n then { bits := 0, flags := 0 } else infRes .f32 false
  | .fin n m e =>
    let x := fxOf m e
    let (i, f) : Int × Nat :=
      if x % fxOne = 0 then (if n then -((x / fxOne : Nat) : Int) else (x / fxOne : Nat), 0)
      else if n then (-((x / fxOne : Nat) : Int) - 1, fxOne - x % fxOne)
      else ((x / fxOne : Nat), x % fxOne)
    let i := max (-400) (min 400 i)
    if f = 0 then roundTo .f32 .rne ftz false 1 i false
    else roundFx ftz false (fxExp (fxMul f fxLn2)) i

/-- LOG2. -/
def sfuLog2 (ftz : Bool) (a : FVal) : FRes :=
  match a with
  | .nan n p s => nanRes .f32 n p s
  | .inf n => if n then invalidRes .f32 else infRes .f32 false
  | .fin n m e =>
    if m = 0 then { infRes .f32 true with flags := flagDivzero }
    else if n then invalidRes .f32
    else
      let k := Nat.log2 m
      let i : Int := (k : Int) + e
      if m = 2 ^ k then roundTo .f32 .rne ftz (decide (i < 0)) i.natAbs 0 false
      else
        let t : Int := i * fxOne + (fxLn m k * fxOne / fxLn2 : Nat)
        roundFx ftz (decide (t < 0)) t.natAbs 0

/-- sin(π x) for a fixed-point x and its sign: exact at the multiples of 1/2. `zneg` is the sign of a zero at an odd
multiple of 1. -/
def fxSinPi (ftz neg zneg : Bool) (x : Nat) : FRes :=
  let r := x % (2 * fxOne)
  let neg' := if fxOne ≤ r then !neg else neg
  let h := r % fxOne
  if h = 0 then { bits := Fmt.f32.signBit (zneg && r == fxOne), flags := 0 }
  else
    let h := if fxOne < 2 * h then fxOne - h else h
    if 2 * h = fxOne then roundTo .f32 .rne ftz neg' 1 0 false
    else roundFx ftz neg' (fxSin (fxMul h fxPi)) 0

/-- SINPI: +0 at even integers and −0 at odd. -/
def sfuSinpi (ftz : Bool) (a : FVal) : FRes :=
  match a with
  | .nan n p s => nanRes .f32 n p s
  | .inf _ => invalidRes .f32
  | .fin n m e => fxSinPi ftz n true (fxOf m e)

/-- COSPI: cos(π x) = sin(π (|x| + 1/2)). -/
def sfuCospi (ftz : Bool) (a : FVal) : FRes :=
  match a with
  | .nan n p s => nanRes .f32 n p s
  | .inf _ => invalidRes .f32
  | .fin _ m e => fxSinPi ftz false false (fxOf m e + fxOne / 2)

/-- TANH: (e^2x − 1)/(e^2x + 1); a magnitude of 64 or more lies within 2^−180 of 1. -/
def sfuTanh (ftz : Bool) (a : FVal) : FRes :=
  match a with
  | .nan n p s => nanRes .f32 n p s
  | .inf n => { bits := Fmt.f32.signBit n + 0x3F800000, flags := 0 }
  | .fin n m e =>
    let x := fxOf m e
    if m = 0 then { bits := Fmt.f32.signBit n, flags := 0 }
    else if 64 * fxOne ≤ x then roundFx ftz n (fxOne - 1) 0
    else
      let u := 2 * x * fxOne / fxLn2
      let g := fxMul (u % fxOne) fxLn2
      let k := u / fxOne
      let em1 := if k = 0 then expTerms g 90 1 fxOne else fxExp g * 2 ^ k - fxOne
      roundFx ftz n (em1 * fxOne / (em1 + 2 * fxOne)) 0

end Sys2Proof.Machine
end

