-- ==== Sys2Proof/Machine/Valu.lean ====
section
/-! DEFINITION. The lane functions of the floating-point and integer vector instructions (R177 to R189) and their
meanings. -/
namespace Sys2Proof.Machine

/-! ## FP32 and FP64 -/

/-- An FP32 operand under FPMODE.FTZ (R61). -/
def VIn.f32 (x : VIn) (a : Nat) : FVal := ftzOperand (fpmodeFtz x.st.fpmode) .f32 (Fmt.f32.decode a)

/-- An operand of a format; FTZ applies to FP32 alone (R61, R181). -/
def VIn.fp (x : VIn) (f : Fmt) (a : Nat) : FVal := if f = .f32 then x.f32 a else f.decode a

/-- FTZ of a result of a format (R61). -/
def VIn.ftz (x : VIn) (f : Fmt) : Bool := f == .f32 && fpmodeFtz x.st.fpmode

/-- FADD, DADD (R177, R181). -/
def laneAdd (f : Fmt) : LaneFn := fun x a b _ _ => fAdd f (x.rm 0) (x.ftz f) (x.fp f a) (x.fp f b)
/-- FSUB, DSUB. -/
def laneSub (f : Fmt) : LaneFn := fun x a b _ _ => fSub f (x.rm 0) (x.ftz f) (x.fp f a) (x.fp f b)
/-- FMUL, DMUL. -/
def laneMul (f : Fmt) : LaneFn := fun x a b _ _ => fMul f (x.rm 0) (x.ftz f) (x.fp f a) (x.fp f b)
/-- FFMA, DFMA. -/
def laneFma (f : Fmt) : LaneFn := fun x a b c _ => fFma f (x.rm 0) (x.ftz f) (x.fp f a) (x.fp f b) (x.fp f c)
/-- FFNMA, DFNMA. -/
def laneFnma (f : Fmt) : LaneFn := fun x a b c _ => fFnma f (x.rm 0) (x.ftz f) (x.fp f a) (x.fp f b) (x.fp f c)
/-- FMIN, FMAX, DMIN, DMAX (R56). -/
def laneMinMax (f : Fmt) (isMax : Bool) : LaneFn := fun x a b _ _ => fMinMax f isMax (x.fp f a) (x.fp f b)
/-- The compares (R178). -/
def laneCmp (f : Fmt) (c : FCmp) : LaneFn := fun x a b _ _ =>
  let r := fCompare c (x.fp f a) (x.fp f b)
  { bits := r.1.toNat, flags := r.2 }
/-- FRND, DRND (R180). -/
def laneRnd (f : Fmt) : LaneFn := fun x a _ _ _ => fRound f (x.rm 0) (x.ftz f) (x.fp f a)

/-- FCLASS (R179). -/
def laneClass : LaneFn := fun x a _ _ _ =>
  plain (2 ^ match x.f32 a with
    | .nan _ _ true => 8
    | .nan _ _ false => 9
    | .inf n => if n then 0 else 7
    | .fin n m _ =>
      let k := if m = 0 then 3 else if m < 2 ^ 23 then 2 else 1
      if n then k else 7 - k)

/-- An FP instruction of one lane function (R36, R174). -/
def fpFn (op : Nat) (f : LaneFn) : VFn := stdFn op f noLine

/-! ## Packed 16-bit and dot products -/

/-- f16 or bf16 by a bit (R182). -/
def half16 (bf : Bool) : Fmt := if bf then .bf16 else .f16

/-- A packed operation: the FP32 row of the same name on two 16-bit elements (R182); `g` is its lane function. -/
def packed (g : Fmt → LaneFn) : LaneFn := fun x a b c l =>
  let f := half16 (x.w.mod4.getLsbD 0)
  let r0 := g f x (a % 65536) (b % 65536) (c % 65536) l
  let r1 := g f x (a / 65536) (b / 65536) (c / 65536) l
  { bits := r0.bits + r1.bits * 65536, flags := r0.flags ||| r1.flags }

/-- The first NaN of operands of two formats, widened to f32 and quieted (R57, R183). -/
def dotNaN (ops : List FVal) (bad : Bool) : Option FRes :=
  (firstNaN .f32 ops).map fun r => { r with flags := r.flags ||| flagIf bad flagInvalid }

/-- Products and an addend summed exactly and rounded once (R67, R183). A NaN operand gives the result also beside an invalid
product, which sets invalid (log 85). -/
def dotSum (rm : Rm) (as bs : List FVal) (c : FVal) : FRes :=
  let ps := (as.zip bs).map fun p => (p.1.isNaN || p.2.isNaN, p.1.times p.2)
  let bad := ps.any fun p => !p.1 && p.2.isNone
  match dotNaN (as ++ bs ++ [c]) bad with
  | some r => r
  | none =>
    let terms := ps.filterMap (·.2) ++ [c]
    let pos := terms.any fun v => v.isInf && !v.neg
    let ng := terms.any fun v => v.isInf && v.neg
    if bad || (pos && ng) then invalidRes .f32
    else if pos || ng then infRes .f32 ng
    else
      let add := fun (d : Dy) (v : FVal) => match v with
        | .fin n m e => d.add (finDy n m e)
        | _ => d
      let allNeg := terms.all FVal.neg
      let anyNeg := terms.any FVal.neg
      let z := if allNeg then true else if anyNeg then decide (rm = .rdn) else false
      roundDy .f32 rm false z (terms.foldl add .zero)

/-- DOT2 (R183). -/
def laneDot2 : LaneFn := fun x a b c _ =>
  let f := half16 (x.w.mod4.getLsbD 0)
  let els := fun v => [f.decode (v % 65536), f.decode (v / 65536)]
  dotSum (x.rm 0) (els a) (els b) (Fmt.f32.decode c)

/-- The four bytes of a lane. -/
def bytes4 (v : Nat) : List Nat := (upto 4).map fun j => v / 256 ^ j % 256

/-- DOT4 (R183). -/
def laneDot4 : LaneFn := fun x a b c _ =>
  let f8 := fun (e : Bool) => if e then Fmt.e5m2 else Fmt.e4m3
  dotSum (x.rm 0) ((bytes4 a).map (f8 (x.w.mod4.getLsbD 0)).decode) ((bytes4 b).map (f8 (x.w.mod4.getLsbD 1)).decode)
    (Fmt.f32.decode c)

/-- A number of `w` bits as a two's complement value. -/
def sgnOf (w v : Nat) : Int := (BitVec.ofNat w v).toInt

/-- IDOT4 (R183). -/
def laneIdot4 : LaneFn := fun x a b c _ =>
  let el := fun (sgn : Bool) (v : Nat) => if sgn then sgnOf 8 v else (v : Int)
  let ps := ((bytes4 a).zip (bytes4 b)).map fun p => el (x.w.mod4.getLsbD 0) p.1 * el (x.w.mod4.getLsbD 1) p.2
  let sum := ps.foldl (· + ·) (sgnOf 32 c)
  { bits := (sum % 2 ^ 32).toNat, flags := flagIf (decide (sum < -(2 ^ 31) ∨ 2 ^ 31 ≤ sum)) flagIntovf }

/-! ## Special functions -/

/-- An SFU operation on FP32 (R184). -/
def laneSfu (g : Bool → FVal → FRes) : LaneFn := fun x a _ _ _ => g (x.ftz .f32) (x.f32 a)

/-! ## Integers -/

/-- An integer result modulo 2^32. -/
def wrap (v : Int) : FRes := plain (v % 2 ^ 32).toNat

/-- X[0] of the modifiers (R173). -/
def VIn.x0 (x : VIn) : Bool := x.w.mod7.getLsbD 4
/-- X[1] of the modifiers. -/
def VIn.x1 (x : VIn) : Bool := x.w.mod7.getLsbD 5

/-- An operand as a signed or, under U, an unsigned number (R185). -/
def VIn.int (x : VIn) (a : Nat) : Int := if x.x0 then a else sgnOf 32 a

def laneIadd : LaneFn := fun _ a b _ _ => plain ((a + b) % 2 ^ 32)
def laneIsub : LaneFn := fun _ a b _ _ => wrap ((a : Int) - b)
def laneImul : LaneFn := fun _ a b _ _ => plain (a * b % 2 ^ 32)
def laneImad : LaneFn := fun _ a b c _ => plain ((a * b + c) % 2 ^ 32)
def laneImulh : LaneFn := fun x a b _ _ => wrap (x.int a * x.int b / 2 ^ 32)
def laneImin : LaneFn := fun x a b _ _ => plain (if x.int a ≤ x.int b then a else b)
def laneImax : LaneFn := fun x a b _ _ => plain (if x.int a ≤ x.int b then b else a)
def laneIabs : LaneFn := fun _ a _ _ _ => plain ((sgnOf 32 a).natAbs % 2 ^ 32)
def laneIshl : LaneFn := fun _ a b _ _ => plain (a * 2 ^ (b % 32) % 2 ^ 32)
def laneIshr : LaneFn := fun _ a b _ _ => plain (a / 2 ^ (b % 32))
def laneIsra : LaneFn := fun _ a b _ _ => wrap (sgnOf 32 a / 2 ^ (b % 32))
def laneIsum3 : LaneFn := fun x a b c _ =>
  wrap ((a : Int) + (if x.x0 then -(b : Int) else b) + (if x.x1 then -(c : Int) else c))

/-- The table bit of an index, inverted under INV (R186, R205). -/
def tblBit (imm : Word) (inv : Bool) (i : Nat) : Bool := imm.getLsbD i != inv

/-- VLUT (R186). -/
def laneVlut : LaneFn := fun x a b c _ =>
  plain (((upto 32).map fun k =>
    let i := a / 2 ^ k % 2 + 2 * (b / 2 ^ k % 2) + 4 * (c / 2 ^ k % 2)
    (tblBit x.w.imm x.x0 i).toNat * 2 ^ k).foldl (· + ·) 0)

/-- An integer compare (R187). -/
def laneIcmp (r : Int → Int → Bool) (sgn : Bool) : LaneFn := fun _ a b _ _ =>
  let v := fun (n : Nat) => if sgn then sgnOf 32 n else (n : Int)
  plain (r (v a) (v b)).toNat

def laneVpopc : LaneFn := fun _ a _ _ _ => plain (((upto 32).map fun k => a / 2 ^ k % 2).foldl (· + ·) 0)
def laneVclz : LaneFn := fun _ a _ _ _ => plain (if a = 0 then 32 else 31 - Nat.log2 a)
def laneBrev : LaneFn := fun _ a _ _ _ =>
  plain (((upto 32).map fun k => a / 2 ^ k % 2 * 2 ^ (31 - k)).foldl (· + ·) 0)

/-- The field of BFX and BFI: start and width, cut at bit 31 (R188). -/
def bitField (imm : Word) : Nat × Nat :=
  let start := imm.toNat % 32
  (start, Nat.min (imm.toNat / 256 % 64) (32 - start))

/-- BFX (R188). -/
def laneBfx : LaneFn := fun x a _ _ _ =>
  let (start, w) := bitField x.w.imm
  let f := a / 2 ^ start % 2 ^ w
  if w = 0 then plain 0 else if x.x0 then plain f else wrap (sgnOf w f)

/-- BFI (R188). -/
def laneBfi : LaneFn := fun x a b _ _ =>
  let (start, w) := bitField x.w.imm
  let m := (2 ^ w - 1) * 2 ^ start
  plain ((b &&& (2 ^ 32 - 1 - m)) ||| ((a * 2 ^ start) &&& m))

def laneIadd64 : LaneFn := fun _ a b _ _ => plain ((a + b) % 2 ^ 64)
def laneImad64 : LaneFn := fun x a b c _ => plain ((x.int a * x.int b + c) % 2 ^ 64).toNat

/-! ### The AFFINE rows of R36 -/

/-- A result is AFFINE where an operand is: UNIFORM operands alone give UNIFORM. -/
def isAffine : VReg → Bool
  | .affine _ _ => true
  | _ => false

/-- IADD and ISUB. -/
def lineSum (neg : Bool) : VIn → VReg → VReg → VReg → Option (Word × Word) := fun _ a b _ => do
  let (ab, as) ← a.line
  let (bb, bs) ← b.line
  if isAffine a || isAffine b then (if neg then some (ab - bb, as - bs) else some (ab + bb, as + bs)) else none

/-- IMUL: one AFFINE factor and one UNIFORM. -/
def lineMul : VIn → VReg → VReg → VReg → Option (Word × Word) := fun _ a b _ =>
  match a, b.same, a.same, b with
  | .affine ab as, some c, _, _ => some (ab * c, as * c)
  | _, _, some c, .affine bb bs => some (bb * c, bs * c)
  | _, _, _, _ => none

/-- IMAD: the product as IMUL or UNIFORM, then the addend. -/
def lineMad : VIn → VReg → VReg → VReg → Option (Word × Word) := fun x a b c => do
  let (pb, ps) ← match a.same, b.same with
    | some u, some v => some (u * v, (0 : Word))
    | _, _ => lineMul x a b c
  let (cb, cs) ← c.line
  if isAffine a || isAffine b || isAffine c then some (pb + cb, ps + cs) else none

/-- ISHL: AFFINE shifted by UNIFORM. -/
def lineShl : VIn → VReg → VReg → VReg → Option (Word × Word) := fun _ a b _ =>
  match a, b.same with
  | .affine ab as, some k => some (ab <<< (k.toNat % 32), as <<< (k.toNat % 32))
  | _, _ => none

/-- ISUM3 with its NB and NC. -/
def lineSum3 : VIn → VReg → VReg → VReg → Option (Word × Word) := fun x a b c => do
  let (ab, as) ← a.line
  let (bb, bs) ← b.line
  let (cb, cs) ← c.line
  let sg := fun (n : Bool) (v : Word) => if n then -v else v
  if isAffine a || isAffine b || isAffine c then
    some (ab + sg x.x0 bb + sg x.x1 cb, as + sg x.x0 bs + sg x.x1 cs) else none

/-- What each op9 of this module does. -/
def aluFn (op : Nat) : Option VFn :=
  let fp := fun (g : LaneFn) => some (fpFn op g)
  let ln := fun (g : LaneFn) (l : VIn → VReg → VReg → VReg → Option (Word × Word)) => some (stdFn op g l)
  match op with
  | 0x010 => fp (laneAdd .f32)
  | 0x011 => fp (laneSub .f32)
  | 0x012 => fp (laneMul .f32)
  | 0x013 => fp (laneFma .f32)
  | 0x014 => fp (laneFnma .f32)
  | 0x015 => fp (laneMinMax .f32 false)
  | 0x016 => fp (laneMinMax .f32 true)
  | 0x017 => fp (laneCmp .f32 .eq)
  | 0x018 => fp (laneCmp .f32 .ne)
  | 0x019 => fp (laneCmp .f32 .lt)
  | 0x01A => fp (laneCmp .f32 .le)
  | 0x01B => fp (laneCmp .f32 .un)
  | 0x040 => fp (laneAdd .f64)
  | 0x042 => fp (laneMul .f64)
  | 0x043 => fp (laneFma .f64)
  | 0x0A0 => fp (laneSfu (sfuRcp .f32))
  | 0x0A1 => fp (laneSfu sfuRsq)
  | 0x0A2 => fp (laneSfu (sfuSqrt .f32))
  | 0x0A3 => fp (laneSfu sfuExp2)
  | 0x0A4 => fp (laneSfu sfuLog2)
  | 0x0A5 => fp (laneSfu sfuSinpi)
  | 0x0A6 => fp (laneSfu sfuCospi)
  | 0x0A7 => fp (laneSfu sfuTanh)
  | 0x0C0 => ln laneIadd (lineSum false)
  | 0x0C1 => ln laneIsub (lineSum true)
  | 0x0C2 => ln laneImul lineMul
  | 0x0C3 => ln laneImad lineMad
  | 0x0C4 => fp laneImulh
  | 0x0C5 => fp laneImin
  | 0x0C6 => fp laneImax
  | 0x0C7 => fp laneIabs
  | 0x0C8 => ln laneIshl lineShl
  | 0x0C9 => fp laneIshr
  | 0x0CA => fp laneIsra
  | 0x0CC => ln laneIsum3 lineSum3
  | 0x0CD => fp (laneIcmp (· == ·) true)
  | 0x0CE => fp (laneIcmp (· != ·) true)
  | 0x0CF => fp (laneIcmp (fun a b => decide (a < b)) true)
  | 0x0D0 => fp (laneIcmp (fun a b => decide (a ≤ b)) true)
  | 0x0D1 => fp (laneIcmp (fun a b => decide (a < b)) false)
  | 0x0D2 => fp (laneIcmp (fun a b => decide (a ≤ b)) false)
  | _ => none

/-! ## Meanings -/

/-- FADD (R177). -/
def execFadd (w : VW) (s : State) : Out State Fault Refusal := wideRun 0x010 w (fpFn 0x010 (laneAdd .f32)) s
/-- FSUB (R177). -/
def execFsub (w : VW) (s : State) : Out State Fault Refusal := wideRun 0x011 w (fpFn 0x011 (laneSub .f32)) s
/-- FMUL (R177). -/
def execFmul (w : VW) (s : State) : Out State Fault Refusal := wideRun 0x012 w (fpFn 0x012 (laneMul .f32)) s
/-- FFMA (R177). -/
def execFfma (w : VW) (s : State) : Out State Fault Refusal := wideRun 0x013 w (fpFn 0x013 (laneFma .f32)) s
/-- FFNMA (R177). -/
def execFfnma (w : VW) (s : State) : Out State Fault Refusal := wideRun 0x014 w (fpFn 0x014 (laneFnma .f32)) s
/-- FMIN (R177). -/
def execFmin (w : VW) (s : State) : Out State Fault Refusal := wideRun 0x015 w (fpFn 0x015 (laneMinMax .f32 false)) s
/-- FMAX (R177). -/
def execFmax (w : VW) (s : State) : Out State Fault Refusal := wideRun 0x016 w (fpFn 0x016 (laneMinMax .f32 true)) s
/-- FCEQ (R178). -/
def execFceq (w : VW) (s : State) : Out State Fault Refusal := wideRun 0x017 w (fpFn 0x017 (laneCmp .f32 .eq)) s
/-- FCNE (R178). -/
def execFcne (w : VW) (s : State) : Out State Fault Refusal := wideRun 0x018 w (fpFn 0x018 (laneCmp .f32 .ne)) s
/-- FCLT (R178). -/
def execFclt (w : VW) (s : State) : Out State Fault Refusal := wideRun 0x019 w (fpFn 0x019 (laneCmp .f32 .lt)) s
/-- FCLE (R178). -/
def execFcle (w : VW) (s : State) : Out State Fault Refusal := wideRun 0x01A w (fpFn 0x01A (laneCmp .f32 .le)) s
/-- FCUN (R178). -/
def execFcun (w : VW) (s : State) : Out State Fault Refusal := wideRun 0x01B w (fpFn 0x01B (laneCmp .f32 .un)) s
/-- FCLASS (R179). -/
def execFclass (w : VW) (s : State) : Out State Fault Refusal := wideRun 0x01C w (fpFn 0x01C laneClass) s
/-- FRND (R180). -/
def execFrnd (w : VW) (s : State) : Out State Fault Refusal := wideRun 0x01D w (fpFn 0x01D (laneRnd .f32)) s
/-- DADD (R181). -/
def execDadd (w : VW) (s : State) : Out State Fault Refusal := wideRun 0x040 w (fpFn 0x040 (laneAdd .f64)) s
/-- DSUB (R181). -/
def execDsub (w : VW) (s : State) : Out State Fault Refusal := wideRun 0x041 w (fpFn 0x041 (laneSub .f64)) s
/-- DMUL (R181). -/
def execDmul (w : VW) (s : State) : Out State Fault Refusal := wideRun 0x042 w (fpFn 0x042 (laneMul .f64)) s
/-- DFMA (R181). -/
def execDfma (w : VW) (s : State) : Out State Fault Refusal := wideRun 0x043 w (fpFn 0x043 (laneFma .f64)) s
/-- DFNMA (R181). -/
def execDfnma (w : VW) (s : State) : Out State Fault Refusal := wideRun 0x044 w (fpFn 0x044 (laneFnma .f64)) s
/-- DMIN (R181). -/
def execDmin (w : VW) (s : State) : Out State Fault Refusal := wideRun 0x045 w (fpFn 0x045 (laneMinMax .f64 false)) s
/-- DMAX (R181). -/
def execDmax (w : VW) (s : State) : Out State Fault Refusal := wideRun 0x046 w (fpFn 0x046 (laneMinMax .f64 true)) s
/-- DCEQ (R181). -/
def execDceq (w : VW) (s : State) : Out State Fault Refusal := wideRun 0x047 w (fpFn 0x047 (laneCmp .f64 .eq)) s
/-- DCNE (R181). -/
def execDcne (w : VW) (s : State) : Out State Fault Refusal := wideRun 0x048 w (fpFn 0x048 (laneCmp .f64 .ne)) s
/-- DCLT (R181). -/
def execDclt (w : VW) (s : State) : Out State Fault Refusal := wideRun 0x049 w (fpFn 0x049 (laneCmp .f64 .lt)) s
/-- DCLE (R181). -/
def execDcle (w : VW) (s : State) : Out State Fault Refusal := wideRun 0x04A w (fpFn 0x04A (laneCmp .f64 .le)) s
/-- DCUN (R181). -/
def execDcun (w : VW) (s : State) : Out State Fault Refusal := wideRun 0x04B w (fpFn 0x04B (laneCmp .f64 .un)) s
/-- DRND (R181). -/
def execDrnd (w : VW) (s : State) : Out State Fault Refusal := wideRun 0x04C w (fpFn 0x04C (laneRnd .f64)) s
/-- HADD2 (R182). -/
def execHadd2 (w : VW) (s : State) : Out State Fault Refusal := wideRun 0x070 w (fpFn 0x070 (packed laneAdd)) s
/-- HSUB2 (R182). -/
def execHsub2 (w : VW) (s : State) : Out State Fault Refusal := wideRun 0x071 w (fpFn 0x071 (packed laneSub)) s
/-- HMUL2 (R182). -/
def execHmul2 (w : VW) (s : State) : Out State Fault Refusal := wideRun 0x072 w (fpFn 0x072 (packed laneMul)) s
/-- HFMA2 (R182). -/
def execHfma2 (w : VW) (s : State) : Out State Fault Refusal := wideRun 0x073 w (fpFn 0x073 (packed laneFma)) s
/-- HMIN2 (R182). -/
def execHmin2 (w : VW) (s : State) : Out State Fault Refusal := wideRun 0x074 w (fpFn 0x074 (packed fun f => laneMinMax f false)) s
/-- HMAX2 (R182). -/
def execHmax2 (w : VW) (s : State) : Out State Fault Refusal := wideRun 0x075 w (fpFn 0x075 (packed fun f => laneMinMax f true)) s
/-- DOT2 (R183). -/
def execDot2 (w : VW) (s : State) : Out State Fault Refusal := wideRun 0x076 w (fpFn 0x076 laneDot2) s
/-- DOT4 (R183). -/
def execDot4 (w : VW) (s : State) : Out State Fault Refusal := wideRun 0x077 w (fpFn 0x077 laneDot4) s
/-- IDOT4 (R183). -/
def execIdot4 (w : VW) (s : State) : Out State Fault Refusal := wideRun 0x078 w (fpFn 0x078 laneIdot4) s
/-- RCP (R184). -/
def execRcp (w : VW) (s : State) : Out State Fault Refusal := wideRun 0x0A0 w (fpFn 0x0A0 (laneSfu (sfuRcp .f32))) s
/-- RSQ (R184). -/
def execRsq (w : VW) (s : State) : Out State Fault Refusal := wideRun 0x0A1 w (fpFn 0x0A1 (laneSfu sfuRsq)) s
/-- SQRT (R184). -/
def execSqrt (w : VW) (s : State) : Out State Fault Refusal := wideRun 0x0A2 w (fpFn 0x0A2 (laneSfu (sfuSqrt .f32))) s
/-- EXP2 (R184). -/
def execExp2 (w : VW) (s : State) : Out State Fault Refusal := wideRun 0x0A3 w (fpFn 0x0A3 (laneSfu sfuExp2)) s
/-- LOG2 (R184). -/
def execLog2 (w : VW) (s : State) : Out State Fault Refusal := wideRun 0x0A4 w (fpFn 0x0A4 (laneSfu sfuLog2)) s
/-- SINPI (R184). -/
def execSinpi (w : VW) (s : State) : Out State Fault Refusal := wideRun 0x0A5 w (fpFn 0x0A5 (laneSfu sfuSinpi)) s
/-- COSPI (R184). -/
def execCospi (w : VW) (s : State) : Out State Fault Refusal := wideRun 0x0A6 w (fpFn 0x0A6 (laneSfu sfuCospi)) s
/-- TANH (R184). -/
def execTanh (w : VW) (s : State) : Out State Fault Refusal := wideRun 0x0A7 w (fpFn 0x0A7 (laneSfu sfuTanh)) s
/-- DRCP (R184). -/
def execDrcp (w : VW) (s : State) : Out State Fault Refusal := wideRun 0x0A8 w (fpFn 0x0A8 (fun x a _ _ _ => sfuRcp .f64 (x.ftz .f64) (Fmt.f64.decode a))) s
/-- DSQRT (R184). -/
def execDsqrt (w : VW) (s : State) : Out State Fault Refusal := wideRun 0x0A9 w (fpFn 0x0A9 (fun x a _ _ _ => sfuSqrt .f64 (x.ftz .f64) (Fmt.f64.decode a))) s
/-- IADD (R185). -/
def execIadd (w : VW) (s : State) : Out State Fault Refusal := wideRun 0x0C0 w (stdFn 0x0C0 laneIadd (lineSum false)) s
/-- ISUB (R185). -/
def execIsub (w : VW) (s : State) : Out State Fault Refusal := wideRun 0x0C1 w (stdFn 0x0C1 laneIsub (lineSum true)) s
/-- IMUL (R185). -/
def execImul (w : VW) (s : State) : Out State Fault Refusal := wideRun 0x0C2 w (stdFn 0x0C2 laneImul lineMul) s
/-- IMAD (R186). -/
def execImad (w : VW) (s : State) : Out State Fault Refusal := wideRun 0x0C3 w (stdFn 0x0C3 laneImad lineMad) s
/-- IMULH (R185). -/
def execImulh (w : VW) (s : State) : Out State Fault Refusal := wideRun 0x0C4 w (fpFn 0x0C4 laneImulh) s
/-- IMIN (R185). -/
def execImin (w : VW) (s : State) : Out State Fault Refusal := wideRun 0x0C5 w (fpFn 0x0C5 laneImin) s
/-- IMAX (R185). -/
def execImax (w : VW) (s : State) : Out State Fault Refusal := wideRun 0x0C6 w (fpFn 0x0C6 laneImax) s
/-- IABS (R185). -/
def execIabs (w : VW) (s : State) : Out State Fault Refusal := wideRun 0x0C7 w (fpFn 0x0C7 laneIabs) s
/-- ISHL (R185). -/
def execIshl (w : VW) (s : State) : Out State Fault Refusal := wideRun 0x0C8 w (stdFn 0x0C8 laneIshl lineShl) s
/-- ISHR (R185). -/
def execIshr (w : VW) (s : State) : Out State Fault Refusal := wideRun 0x0C9 w (fpFn 0x0C9 laneIshr) s
/-- ISRA (R185). -/
def execIsra (w : VW) (s : State) : Out State Fault Refusal := wideRun 0x0CA w (fpFn 0x0CA laneIsra) s
/-- VLUT (R186). -/
def execVlut (w : VW) (s : State) : Out State Fault Refusal := wideRun 0x0CB w (fpFn 0x0CB laneVlut) s
/-- ISUM3 (R186). -/
def execIsum3 (w : VW) (s : State) : Out State Fault Refusal := wideRun 0x0CC w (stdFn 0x0CC laneIsum3 lineSum3) s
/-- ICEQ (R187). -/
def execIceq (w : VW) (s : State) : Out State Fault Refusal := wideRun 0x0CD w (fpFn 0x0CD (laneIcmp (· == ·) true)) s
/-- ICNE (R187). -/
def execIcne (w : VW) (s : State) : Out State Fault Refusal := wideRun 0x0CE w (fpFn 0x0CE (laneIcmp (· != ·) true)) s
/-- ICLT (R187). -/
def execIclt (w : VW) (s : State) : Out State Fault Refusal := wideRun 0x0CF w (fpFn 0x0CF (laneIcmp (fun a b => decide (a < b)) true)) s
/-- ICLE (R187). -/
def execIcle (w : VW) (s : State) : Out State Fault Refusal := wideRun 0x0D0 w (fpFn 0x0D0 (laneIcmp (fun a b => decide (a ≤ b)) true)) s
/-- ICLTB (R187). -/
def execIcltb (w : VW) (s : State) : Out State Fault Refusal := wideRun 0x0D1 w (fpFn 0x0D1 (laneIcmp (fun a b => decide (a < b)) false)) s
/-- ICLEB (R187). -/
def execIcleb (w : VW) (s : State) : Out State Fault Refusal := wideRun 0x0D2 w (fpFn 0x0D2 (laneIcmp (fun a b => decide (a ≤ b)) false)) s
/-- VPOPC (R188). -/
def execVpopc (w : VW) (s : State) : Out State Fault Refusal := wideRun 0x0D3 w (fpFn 0x0D3 laneVpopc) s
/-- VCLZ (R188). -/
def execVclz (w : VW) (s : State) : Out State Fault Refusal := wideRun 0x0D4 w (fpFn 0x0D4 laneVclz) s
/-- BREV (R188). -/
def execBrev (w : VW) (s : State) : Out State Fault Refusal := wideRun 0x0D5 w (fpFn 0x0D5 laneBrev) s
/-- BFX (R188). -/
def execBfx (w : VW) (s : State) : Out State Fault Refusal := wideRun 0x0D6 w (fpFn 0x0D6 laneBfx) s
/-- BFI (R188). -/
def execBfi (w : VW) (s : State) : Out State Fault Refusal := wideRun 0x0D7 w (fpFn 0x0D7 laneBfi) s
/-- IADD64 (R189). -/
def execIadd64 (w : VW) (s : State) : Out State Fault Refusal := wideRun 0x0D8 w (fpFn 0x0D8 laneIadd64) s
/-- IMAD64 (R189). -/
def execImad64 (w : VW) (s : State) : Out State Fault Refusal := wideRun 0x0D9 w (fpFn 0x0D9 laneImad64) s

end Sys2Proof.Machine
end

