-- ==== Sys2Proof/Machine/Vmove.lean ====
section
/-! DEFINITION. Conversions and MX blocks (R190 to R196), moves and lane crossing (R197 to R203), tags and predicates
(R204 to R206), and paired words (R125, R129). -/
namespace Sys2Proof.Machine

/-! ## Conversions -/

/-- The floating-point format of a type code (R190). -/
def codeFmt (t : Nat) : Fmt :=
  match t with
  | 0 => .f32
  | 1 => .f64
  | 2 => .f16
  | 3 => .bf16
  | 4 => .e4m3
  | 5 => .e5m2
  | 6 => .e3m2
  | 7 => .e2m3
  | _ => .e2m1

/-- A value by its type code, from the low bits of a lane (R172, R190). -/
def codeDecode (t v : Nat) : FVal :=
  if t = 9 then decodeE8m0 (v % 256) else (codeFmt t).decode (v % 2 ^ (codeFmt t).width)

/-- CVT (R191). -/
def laneCvt : LaneFn := fun x a _ _ l => convTo (codeFmt x.w.dst) (x.rm l) (codeDecode x.w.src a)

/-- Width and sign of an integer type code. -/
def codeInt (t : Nat) : Nat × Bool := (if t < 12 then 32 else 64, t % 2 == 0)

/-- CVTI (R192). -/
def laneCvti : LaneFn := fun x a _ _ l =>
  if 10 ≤ x.w.dst then
    let (n, sgn) := codeInt x.w.dst
    convToInt n sgn (x.rm l) (codeDecode x.w.src a)
  else
    let (n, sgn) := codeInt x.w.src
    let v := a % 2 ^ n
    convFromInt (codeFmt x.w.dst) (x.rm l) (if sgn then sgnOf n v else v)

/-- FP32 values converted and packed from the low end (R54, R193): element j has the index `per` × lane + j. -/
def packLane (x : VIn) (per lane : Nat) (vs : List Nat) : FRes :=
  let f := codeFmt x.w.dst
  ((vs.zip (upto vs.length)).foldr (fun p (r : FRes) =>
    let q := convTo f (x.rm (per * lane + p.2)) (Fmt.f32.decode p.1)
    { bits := q.bits + r.bits * 2 ^ f.width, flags := q.flags ||| r.flags }) (plain 0))

/-- PK2 (R193). -/
def lanePk2 : LaneFn := fun x a b _ l => packLane x 2 l [a, b]
/-- PK4 (R193). -/
def lanePk4 : LaneFn := fun x a b _ l =>
  packLane x 4 l [a % 2 ^ 32, a / 2 ^ 32, b % 2 ^ 32, b / 2 ^ 32]

/-- Two packed elements from index `i` on, widened to FP32 (R194). -/
def unpackLane (x : VIn) (i a : Nat) : FRes :=
  let f := codeFmt x.w.src
  let el := fun (j : Nat) => convTo .f32 .rne (f.decode (a / 2 ^ (f.width * j) % 2 ^ f.width))
  let p := el i
  let q := el (i + 1)
  { bits := p.bits + q.bits * 2 ^ 32, flags := p.flags ||| q.flags }

/-- UNPK2 (R194). -/
def laneUnpk2 : LaneFn := fun x a _ _ _ => unpackLane x 0 a
/-- UNPK4 (R194). -/
def laneUnpk4 : LaneFn := fun x a _ _ _ => unpackLane x (2 * (x.w.imm.toNat % 2)) a

/-- The element format of a type code in MX blocks (R190, R195). -/
def codeMx (t : Nat) : MxFmt := if t = 14 then .i8 else .fp (codeFmt t)

/-- The bits of an element of an MX block. -/
def MxFmt.width : MxFmt → Nat
  | .fp f => f.width
  | .i8 => 8

/-- One block of MXQ (R195): the lanes of D and S, and the flags of each lane. -/
def mxqBlock (x : VIn) (a : Lanes) (k : Nat) : List Nat × Nat × List FFlags :=
  let v := (upto 32).map fun i =>
    if x.mask.getLsbD (32 * k + i) then Fmt.f32.decode (nth a (32 * k + i) 0).toNat else .fin false 0 0
  let rm := fun (i : Nat) => if x.w.rm = 5 then x.rm (32 * k + i) else .rne
  let (sc, q, fl) := mxScale (codeMx x.w.dst) rm v
  (q, sc, fl)

/-- A register of 96 lanes with the tag of R36: UNIFORM when the operands allow it and the lanes are equal. -/
def tagged (flat : Bool) (ls : Lanes) : VReg :=
  if flat && ls.all (· == ls.headD 0) then .uniform (ls.headD 0) else .rows ls

/-- The lanes of D and S of an MXQ, and the flags of its lanes (R195). -/
def mxqLanes (x : VIn) (a : Lanes) : Lanes × Lanes × List FFlags :=
  let bs := (upto 3).map fun k => mxqBlock x a k
  (bs.flatMap fun b => b.1.map (BitVec.ofNat 32), bs.flatMap fun b => List.replicate 32 (BitVec.ofNat 32 b.2.1),
    bs.flatMap fun b => b.2.2)

/-- MXQ (R195). The tags of R36 come before the mask: of a UNIFORM operand every lane gives its result. -/
def fnMxq : VFn := fun x =>
  let a := x.a 0x106
  let (d, sc, fl) := mxqLanes x a.lo.lanes
  let (d, sc) := if a.isSame then
      let (d, sc, _) := mxqLanes { x with mask := BitVec.allOnes 96 } a.lo.lanes
      (tagged true d, tagged true sc)
    else (.rows d, .rows sc)
  { regs := [(x.w.d.toNat, d), (x.w.b.toNat, sc)], flags := fl }

/-- MXDQ (R196). -/
def laneMxdq : LaneFn := fun x a b _ _ =>
  let f := codeMx x.w.src
  match blockValue (b % 256) (f.decode (a % 2 ^ f.width)) with
  | .nan _ _ _ => plain Fmt.f32.canonNaN
  | v => convTo .f32 .rne v

/-- CVT (R191). -/
def execCvt (w : VW) (s : State) : Out State Fault Refusal := wideRun 0x100 w (fpFn 0x100 laneCvt) s
/-- CVTI (R192). -/
def execCvti (w : VW) (s : State) : Out State Fault Refusal := wideRun 0x101 w (fpFn 0x101 laneCvti) s
/-- PK2 (R193). -/
def execPk2 (w : VW) (s : State) : Out State Fault Refusal := wideRun 0x102 w (fpFn 0x102 lanePk2) s
/-- PK4 (R193). -/
def execPk4 (w : VW) (s : State) : Out State Fault Refusal := wideRun 0x103 w (fpFn 0x103 lanePk4) s
/-- UNPK2 (R194). -/
def execUnpk2 (w : VW) (s : State) : Out State Fault Refusal := wideRun 0x104 w (fpFn 0x104 laneUnpk2) s
/-- UNPK4 (R194). -/
def execUnpk4 (w : VW) (s : State) : Out State Fault Refusal := wideRun 0x105 w (fpFn 0x105 laneUnpk4) s
/-- MXQ (R195). -/
def execMxq (w : VW) (s : State) : Out State Fault Refusal := wideRun 0x106 w fnMxq s
/-- MXDQ (R196). -/
def execMxdq (w : VW) (s : State) : Out State Fault Refusal := wideRun 0x107 w (fpFn 0x107 laneMxdq) s

/-! ## Moves -/

/-- VMOV (R36, R197): the tag and descriptor of a source that is not GENERAL, a copy of a GENERAL one. -/
def fnVmov : VFn := fun x =>
  { regs := [(x.w.d.toNat, match (x.a 0x120).lo with
      | .general _ ls => .rows ls
      | v => v)] }

/-- VMOVI (R197). -/
def fnVmovi : VFn := fun x => { regs := [(x.w.d.toNat, .uniform x.w.imm)] }

/-- VSEL (R36, R197). -/
def fnVsel : VFn := fun x =>
  let a := (x.a 0x122).lo
  let b := (x.b 0x122).lo
  let p := x.rp x.w.c.toNat
  { regs := [(x.w.d.toNat, match a.same, b.same with
      | some u, some v => if u = v then .uniform u else .rows (mergeLanes p a.lanes b.lanes)
      | _, _ => .rows (mergeLanes p a.lanes b.lanes))] }

/-- VIOTA (R197): base from lane 0 of a, or 0 under ZA; stride from lane 0 of b. -/
def fnViota : VFn := fun x =>
  let base := if x.x0 then 0 else (x.a 0x123).lo.lane 0
  { regs := [(x.w.d.toNat, .affine base ((x.b 0x123).lo.lane 0))] }

/-- The source lane of VPERM (R199). -/
def permLane (mode l b : Nat) : Nat :=
  match mode with
  | 0 => b
  | 1 => (l + b) % 96
  | 2 => l ^^^ b
  | _ => if b = 0 then l else l - l % b

/-- VPERM (R199). -/
def fnVperm : VFn := fun x =>
  let a := (x.a 0x124).lo
  let b := (x.b 0x124).lo
  let src := fun (l : Nat) =>
    let n := permLane (x.w.x % 4) l (b.lane l).toNat
    if n ≤ 95 then n else l
  { regs := [(x.w.d.toNat, match a.same with
      | some c => .uniform c
      | none => .rows ((upto 96).map fun l => a.lane (src l)))] }

/-- BCAST (R200). -/
def fnBcast : VFn := fun x => { regs := [(x.w.d.toNat, .uniform ((x.a 0x125).lo.lane (x.w.imm.toNat % 128)))] }

/-- VREADL (R200). -/
def fnVreadl : VFn := fun x =>
  let n := (x.st.reg (x.w.b.extractLsb' 0 5)).toNat
  { regs := [(x.w.d.toNat, .uniform (if n < 96 then (x.a 0x12C).lo.lane n else 0))] }

/-- VMOVS, scalar to vector (R198). -/
def fnVmovsIn : VFn := fun x => { regs := [(x.w.d.toNat, .uniform (x.st.reg (x.w.a.extractLsb' 0 5)))] }

/-- VMOVS, one lane to a scalar (R198). -/
def fnVmovsOut : VFn := fun x =>
  { sregs := [(x.w.d.extractLsb' 0 5, (x.a 0x12B).lo.lane (x.w.imm.toNat % 128))] }

/-! ## Reductions and scans -/

/-- The operation and the identity of an OP code (R201); FP32 is rounded RNE with subnormals honoured. -/
def redOp (op : Nat) (a b : Nat) : FRes :=
  let s := fun (v : Nat) => sgnOf 32 v
  let d := Fmt.f32.decode
  match op with
  | 0 => plain ((a + b) % 2 ^ 32)
  | 1 => plain (if s a ≤ s b then a else b)
  | 2 => plain (if s a ≤ s b then b else a)
  | 3 => plain (Nat.min a b)
  | 4 => plain (Nat.max a b)
  | 5 => plain (a &&& b)
  | 6 => plain (a ||| b)
  | 7 => plain (a ^^^ b)
  | 8 => fAdd .f32 .rne false (d a) (d b)
  | 9 => fMinMax .f32 false (d a) (d b)
  | _ => fMinMax .f32 true (d a) (d b)

/-- The identity of an OP code (R201). -/
def redIdent (op : Nat) : Nat :=
  match op with
  | 1 => 0x7FFFFFFF
  | 2 => 0x80000000
  | 3 | 5 => 0xFFFFFFFF
  | 8 => 0x80000000
  | 9 => 0x7F800000
  | 10 => 0xFF800000
  | _ => 0

/-- One level of the tree: neighbours combine, the left operand first (R202). -/
def redLevel (op : Nat) : List Nat → List Nat × FFlags
  | a :: b :: r =>
    let v := redOp op a b
    let (l, f) := redLevel op r
    (v.bits :: l, v.flags ||| f)
  | l => (l, 0)

/-- The fixed tree of R202: 96, 48, 24, 12, 6 and 3 nodes. -/
def redTree (op : Nat) (leaves : List Nat) : FRes :=
  let step := fun (p : List Nat × FFlags) (_ : Nat) => let (l, f) := redLevel op p.1; (l, f ||| p.2)
  let (l, f) := (upto 5).foldl step (leaves, 0)
  let u := redOp op (nth l 0 0) (nth l 1 0)
  let v := redOp op u.bits (nth l 2 0)
  { bits := v.bits, flags := f ||| u.flags ||| v.flags }

/-- REDUX (R202); its flags belong to every active lane (R201). -/
def fnRedux : VFn := fun x =>
  let a := (x.a 0x126).lo
  let leaves := (upto 96).map fun l => if x.mask.getLsbD l then (a.lane l).toNat else redIdent x.w.dst
  let r := redTree x.w.dst leaves
  { regs := [(x.w.d.toNat, .uniform (BitVec.ofNat 32 r.bits))], flags := List.replicate 96 r.flags }

/-- The steps of SCAN from an accumulator on (R203): values and flags by lane. -/
def scanFrom (op : Nat) (excl : Bool) (m : Mask) (a : VReg) : Nat → List Nat → List (Nat × FFlags)
  | _, [] => []
  | acc, l :: r =>
    if m.getLsbD l then
      let v := redOp op acc (a.lane l).toNat
      (if excl then acc else v.bits, v.flags) :: scanFrom op excl m a v.bits r
    else (0, 0) :: scanFrom op excl m a acc r

/-- SCAN (R203). -/
def fnScan : VFn := fun x =>
  let rs := scanFrom x.w.dst (x.w.mod4.getLsbD 0) x.mask (x.a 0x127).lo (redIdent x.w.dst) (upto 96)
  { regs := [(x.w.d.toNat, .rows (rs.map fun r => BitVec.ofNat 32 r.1))], flags := rs.map (·.2) }

/-! ## Tags and predicates -/

/-- VTAG (R204): the tags of 16 registers; those at or above .vregs report 0. -/
def fnVtag : VFn := fun x =>
  let n := x.w.a.toNat
  let tag := fun (j : Nat) => if n + j < x.nv then (x.rd (n + j)).tag else 0
  { sregs := [(x.w.d.extractLsb' 0 5, BitVec.ofNat 32 (((upto 16).map fun j => tag j * 4 ^ j).foldl (· + ·) 0))] }

/-- VUNIF (R204). -/
def fnVunif : VFn := fun x =>
  let n := x.w.d.toNat
  match x.rd n with
  | .general _ ls => if ls.all (· == ls.headD 0) then { tags := [(n, .uniform (ls.headD 0))] } else {}
  | _ => {}

/-- VDEF (R204). -/
def fnVdef : VFn := fun x => { tags := [(x.w.d.toNat, .undef)] }

/-- PLUT (R205). -/
def fnPlut : VFn := fun x =>
  let a := x.rp x.w.a.toNat
  let b := x.rp x.w.b.toNat
  let c := x.rp x.w.c.toNat
  let bit := fun (l : Nat) =>
    tblBit x.w.imm (x.w.mod7.getLsbD 0) ((a.getLsbD l).toNat + 2 * (b.getLsbD l).toNat + 4 * (c.getLsbD l).toNat)
  { preds := [(x.w.d.toNat, maskOf ((upto 96).map bit))] }

/-- PMOV (R206). -/
def fnPmov : VFn := fun x =>
  match x.w.mod7.toNat with
  | 0 => { preds := [(x.w.d.toNat, x.rp x.w.a.toNat)] }
  | 1 =>
    let p := x.rp x.w.a.toNat
    { regs := [(x.w.d.toNat, .rows ((upto 96).map fun l => Word.ofBool (p.getLsbD l)))] }
  | _ =>
    let a := (x.a 0x141).lo
    { preds := [(x.w.d.toNat, maskOf ((upto 96).map fun l => (a.lane l).getLsbD (x.w.imm.toNat % 32)))] }

/-- VMOV (R197). -/
def execVmov (w : VW) (s : State) : Out State Fault Refusal := wideRun 0x120 w fnVmov s
/-- VMOVI (R197). -/
def execVmovi (w : VW) (s : State) : Out State Fault Refusal := wideRun 0x121 w fnVmovi s
/-- VSEL (R197). -/
def execVsel (w : VW) (s : State) : Out State Fault Refusal := wideRun 0x122 w fnVsel s
/-- VIOTA (R197). -/
def execViota (w : VW) (s : State) : Out State Fault Refusal := wideRun 0x123 w fnViota s
/-- VPERM (R199). -/
def execVperm (w : VW) (s : State) : Out State Fault Refusal := wideRun 0x124 w fnVperm s
/-- BCAST (R200). -/
def execBcast (w : VW) (s : State) : Out State Fault Refusal := wideRun 0x125 w fnBcast s
/-- REDUX (R202). -/
def execRedux (w : VW) (s : State) : Out State Fault Refusal := wideRun 0x126 w fnRedux s
/-- SCAN (R203). -/
def execScan (w : VW) (s : State) : Out State Fault Refusal := wideRun 0x127 w fnScan s
/-- VTAG (R204). -/
def execVtag (w : VW) (s : State) : Out State Fault Refusal := wideRun 0x128 w fnVtag s
/-- VUNIF (R204). -/
def execVunif (w : VW) (s : State) : Out State Fault Refusal := wideRun 0x129 w fnVunif s
/-- VDEF (R204). -/
def execVdef (w : VW) (s : State) : Out State Fault Refusal := wideRun 0x12A w fnVdef s
/-- VMOVS, DIR 0 (R198). -/
def execVmovsToVector (w : VW) (s : State) : Out State Fault Refusal := wideRun 0x12B w fnVmovsIn s
/-- VMOVS, DIR 1 (R198). -/
def execVmovsToScalar (w : VW) (s : State) : Out State Fault Refusal := wideRun 0x12B w fnVmovsOut s
/-- VREADL (R200). -/
def execVreadl (w : VW) (s : State) : Out State Fault Refusal := wideRun 0x12C w fnVreadl s
/-- PLUT (R205). -/
def execPlut (w : VW) (s : State) : Out State Fault Refusal := wideRun 0x140 w fnPlut s
/-- PMOV (R206). -/
def execPmov (w : VW) (s : State) : Out State Fault Refusal := wideRun 0x141 w fnPmov s

/-! ## Paired words -/

/-- What a pairable op9 does (R128). -/
def pairFn (op : Nat) : VFn :=
  match op with
  | 0x120 => fnVmov
  | 0x122 => fnVsel
  | 0x123 => fnViota
  | _ => (aluFn op).getD fun _ => {}

/-- PAIRED_WORD (R125, R129): the word in the task's latch (log 9). -/
def execPairedWord (s : State) : Out State Fault Refusal :=
  match s.focus.bind fun f => s.task? f.task with
  | none => .next s
  | some t =>
    let p := t.word.1.toNat
    let h := pairHead p
    let sa := decSlot (fld p 0 10) t.word.2.1.toNat
    let sb := decSlot (fld p 10 10) t.word.2.2.toNat
    let piece := fun (x : PSlot) => { op := x.op9.toNat, w := x.toVW h, fn := pairFn x.op9.toNat : Piece }
    match pairIllegal h sa sb with
    | some n => issue .vector s fun t _ =>
      let low := fun (x : PSlot) => opPairable x.op9.toNat && !wordBelow t.nv x.op9.toNat (x.toVW h)
      if n = 5 && (low sa || low sb) then trapWith clsIllegal 4 else trapWith clsIllegal n
    | none => vecRun [piece sa, piece sb] h.stall h.e s

end Sys2Proof.Machine
end

