-- ==== Sys2Proof/Machine/Vmem.lean ====
section
/-! DEFINITION. Vector memory (R207 to R219) and VXM (R220 to R223): addresses, the checks of R209, loads, stores,
prefetch, atomics, texel quads and pixel writes. -/
namespace Sys2Proof.Machine

/-! ## The checks of R209 -/

/-- One access of a lane: address, bytes, alignment (0: misaligned in any case), whether it reads and writes, the KIND of
its record (R394), and whether it takes the read-only path (R105). -/
structure LaneAcc where
  va : Nat
  n : Nat
  al : Nat
  rd : Bool
  wr : Bool
  kind : Nat
  ro : Bool := false
  deriving DecidableEq, Repr

/-- What an access of a lane meets: sub-code and address. A spill or reload past the window is out of the allocation
(R231). -/
def State.accBad (s : State) (t : Task) (a : LaneAcc) : Option (Nat × Nat) :=
  (s.badRange (t.accessor s) a.va a.n a.al a.wr).map fun p =>
    (if p.1 = 3 && (a.kind == 4 || a.kind == 5) then 4 else p.1, p.2)

/-- The poison that an access of a lane meets (R109); the read-only path finds no queued store (R105). -/
def State.accPoison (s : State) (t : Task) (a : LaneAcc) : Option (Nat × Nat) :=
  s.poisonRange (t.accessor s) a.va a.n (!a.rd) (if a.ro && !(inWindow a.va) then [] else s.clearFor t (t.ahead .v))

/-- The lane records of what accesses meet: of one lane the lowest sub-code, then the lowest address (R93, R209); with `low`
the lowest address alone, as for poison (R209 step 6). -/
def laneRecs (f : LaneAcc → Option (Nat × Nat)) (accs : List (List LaneAcc)) (low : Bool := false) : List (Option LaneRec) :=
  accs.map fun l => l.foldl (fun (best : Option LaneRec) a =>
    match f a with
    | none => best
    | some (sub, ad) =>
      let r : LaneRec := { sub := sub, kind := a.kind, addr := ad }
      match best with
      | none => some r
      | some b => if (sub < b.sub && !low) || ((low || sub == b.sub) && ad < b.addr) then some r else best) none

/-- The trap that lane records call for: the sub-code and address of the lowest-numbered lane with one (R209). -/
def lanesStop (cls : Nat) (rs : List (Option LaneRec)) : Option TrapReq :=
  (rs.findSome? id).map fun r => { cls := cls, sub := r.sub, info := BitVec.ofNat 64 r.addr, lanes := some rs }

/-- Every active lane. -/
def activeList (m : Mask) : List Nat := (upto 96).filter fun l => m.getLsbD l

/-- One item for each lane of a mask. -/
def perLane {α : Type} (m : Mask) (d : α) (f : Nat → α) : List α := (upto 96).map fun l => if m.getLsbD l then f l else d

/-- The first page of accesses that is away, with the accesses that reach it (R277). -/
def State.accAway (s : State) (t : Task) (accs : List (List LaneAcc)) : Option (Nat × Nat × Nat) :=
  accs.flatten.findSome? fun a => s.awayRange (t.accessor s) a.va a.n a.wr

/-- An access reaches the page of an address: the first byte there. -/
def reaches (page : Nat) (a : LaneAcc) : Option Nat :=
  let lo := Nat.max a.va (page * 65536)
  if lo < a.va + a.n && lo / 65536 = page then some lo else none

/-- The checks of a word after its tag check (R209): `pre` are ranges read once for all lanes, `accs` the accesses of
the lanes, `regs` the destinations with their table tags. -/
def State.vmemCheck (s : State) (t : Task) (m : Mask) (pre : List LaneAcc) (accs : List (List LaneAcc))
    (regs : List (Nat × VReg)) : Except Stop Unit := do
  if m = 0 then return
  let preL := fun (l : List LaneAcc) => perLane m [] fun _ => l
  match lanesStop clsMemory (laneRecs (s.accBad t) (preL pre)) with
  | some r => throw (.trap r)
  | none =>
  match lanesStop clsMemory (laneRecs (s.accBad t) accs) with
  | some r => throw (.trap r)
  | none =>
  match t.putRegs m regs with
  | .error b => trapWith clsRows b
  | .ok _ =>
  let all := (preL pre).zip accs |>.map fun p => p.1 ++ p.2
  match s.accAway t all with
  | some (va, pte, e) =>
    match s.awayStop t va pte e with
    | .trap r =>
      let f := fun (a : LaneAcc) => (reaches (va / 65536) a).map fun x => (r.sub, x)
      match lanesStop clsStorage (laneRecs f all) with
      | some q => throw (.trap q)
      | none => throw (.trap r)
    | st => throw st
  | none =>
  match lanesStop clsPoison (laneRecs (s.accPoison t) all true) with
  | some r => throw (.trap r)
  | none => return

/-! ## The frame of a word -/

/-- A scoreboarded word (R132): `body` checks it and gives its effect; its destinations stay on the scoreboard until
SCOREBOARDED_WORD_COMPLETION. -/
def memWord (op : Nat) (w : VW) (body : State → Task → VIn → Except Stop (State × Task × VOut)) (s : State) :
    Out State Fault Refusal :=
  issue .vector s fun t _ => do
    let (at_, xs) ← s.vecBegin t [(op, w)]
    match xs with
    | [x] =>
      let (s', t', o) ← body s t x
      match s'.vecWrite t' at_ x o with
      | .error b => trapWith clsRows b
      | .ok u =>
        let st := u.str.v.orFlags (orAll (activeFlags x.mask o.flags))
        let ds := if x.mask = 0 then [] else wordDests op w
        let u := { u with vready := at_ + 1 + w.stall.toNat, sb := if ds.isEmpty then u.sb else u.sb ++ [ds] }
        let u := u.countDroop (s.bubbles t [(op, w)])
        let s' := { s'.takePipes u at_ [op] with now := at_ + 1 }
        return s'.setTask (u.setSt .v (u.advanceVec st w.e))
    | _ => return s

/-- A pair of the vector stream's scalar registers by its field. -/
def VIn.spair (x : VIn) (f : BitVec 7) : Nat := (x.st.pair (f.extractLsb' 1 4)).toNat

/-- The effective address of a lane (R208). -/
def VIn.ea (x : VIn) (op am sc l : Nat) : Nat :=
  let disp : Int := x.w.imm.toInt
  let a := (x.a op).at l
  let b : Int := x.spair x.w.b
  let v : Int :=
    if am = 2 then (a : Int) + disp
    else b + (if am = 1 then sgnOf 32 a else (a : Int)) * 2 ^ sc + disp
  (v % 2 ^ 64).toNat

/-- The address is UNIFORM by the tags (R211): UNIFORM or UNDEF, but of a pointer pair both halves UNIFORM. -/
def VIn.flatAddr (x : VIn) (op : Nat) : Bool :=
  let a := x.a op
  a.isSame && (x.w.am != 2 || (a.lo.tag == 1 && a.hi.tag == 1))

/-- The loads of a word leave the TLB and L1 with what they used; where a load finds only part of its bytes in the
queue, those stores drain first (R96). -/
def State.afterLoads (s : State) (t : Task) (rs : List (Nat × Nat)) : State × Task :=
  let a := t.accessor s
  let s := rs.foldl (fun s r => s.tlbFillRange a r.1 r.2) s
  if t.det then (s, t)
  else
    let q := t.str.v.queue
    let part := fun (r : Nat × Nat) =>
      let ls := s.locs a r.1 r.2 false
      let inq := ls.filter fun l => (queueByte q l).isSome
      !inq.isEmpty && inq.length != ls.length
    let fill := rs.flatMap fun r => (s.locs a r.1 r.2 false).filter fun l => (queueByte q l).isNone
    let (s, t) := if !q.isEmpty && rs.any part then s.drain t .v else (s, t)
    (s.l1Fill (s.coreOf t) fill, t)

/-- Bytes as a load of the vector stream. -/
def State.vload (s : State) (t : Task) (va n : Nat) : List Byte := s.loadBytes t .v (s.locs (t.accessor s) va n false)

/-- Bytes through the read-only path; a window address is an ordinary load (R105, R86). -/
def State.roLoad (s : State) (t : Task) (va n : Nat) : List Byte :=
  if inWindow va then s.vload t va n else (s.locs (t.accessor s) va n false).map (s.roByte t .v)

/-! ## Loads, stores and prefetch -/

/-- Bytes of an SZ code (R208). -/
def szBytes (sz : Nat) : Nat := if sz < 2 then 1 else if sz < 4 then 2 else if sz = 4 then 4 else 8

/-- A loaded value, extended (R210). -/
def szExtend (sz v : Nat) : Nat :=
  if sz = 1 then (sgnOf 8 v % 2 ^ 32).toNat else if sz = 3 then (sgnOf 16 v % 2 ^ 32).toNat else v

/-- VLD and VLDRO (R210, R211). -/
def loadBody (op : Nat) (ro : Bool) (s : State) (t : Task) (x : VIn) : Except Stop (State × Task × VOut) := do
  let n := szBytes x.w.sz
  let ea := x.ea op x.w.am x.w.sc
  let flat := !ro && x.flatAddr op && x.mask == BitVec.allOnes 96
  let accs := perLane x.mask [] fun l => [{ va := ea l, n := n, al := n, rd := true, wr := false, kind := 0, ro := ro : LaneAcc }]
  let out := fun (f : Nat → Nat) =>
    outRegs (szKind (x.w.sz == 5)) x.w.d.toNat flat ((if flat then [0] else upto 96).map f)
  s.vmemCheck t x.mask [] accs (out fun _ => 0)
  let get := fun (l : Nat) =>
    if x.mask.getLsbD l then szExtend x.w.sz (leNat (if ro then s.roLoad t (ea l) n else s.vload t (ea l) n)) else 0
  let regs := out get
  let used := (if flat then [0] else activeList x.mask).map fun l => (ea l, n)
  let path := used.filter fun r => ro && !(inWindow r.1)
  let (s, t) := (path.foldl (fun s r => s.tlbFillRange (t.accessor s) r.1 r.2) s).afterLoads t (used.filter fun r => !(path.contains r))
  return (s, t, { regs := regs })

/-- VLD (R210, R211). -/
def execVld (w : VW) (s : State) : Out State Fault Refusal := memWord 0x160 w (loadBody 0x160 false) s
/-- VLDRO (R211). -/
def execVldro (w : VW) (s : State) : Out State Fault Refusal := memWord 0x162 w (loadBody 0x162 true) s

/-- VST (R210, R212): one entry of the store queue, its lanes in ascending order. -/
def storeBody (s : State) (t : Task) (x : VIn) : Except Stop (State × Task × VOut) := do
  let n := szBytes x.w.sz
  let ea := x.ea 0x161 x.w.am x.w.sc
  let accs := perLane x.mask [] fun l => [{ va := ea l, n := n, al := n, rd := false, wr := true, kind := 1 : LaneAcc }]
  s.vmemCheck t x.mask [] accs []
  if x.mask = 0 then return (s, t, {})
  else
    let a := t.accessor s
    let parts := (activeList x.mask).map fun l => (s.locs a (ea l) n true).zip (natLe n ((x.c 0x161).at l))
    let s := (activeList x.mask).foldl (fun s l => s.tlbFillRange a (ea l) n) s
    let (s, t) := s.push t .v x.st.pc (.store parts)
    return (s, t, {})

/-- VST (R212). -/
def execVst (w : VW) (s : State) : Out State Fault Refusal := memWord 0x161 w storeBody s

/-- An address that a prefetch follows (R213): it would not fault, and lies in no window, on no page that is away and in no
poison. -/
def State.mayPrefetch (s : State) (t : Task) (a : LaneAcc) : Bool :=
  !(inWindow a.va) && (s.accBad t a).isNone && (s.accAway t [[a]]).isNone && (s.accPoison t a).isNone

/-- VPREF (R213): with LVL 0 the lines of its addresses come to L1; it raises nothing. -/
def prefBody (s : State) (t : Task) (x : VIn) : Except Stop (State × Task × VOut) :=
  let n := szBytes x.w.sz
  let accs := (activeList x.mask).map fun l =>
    { va := x.ea 0x167 x.w.am x.w.sc l, n := n, al := n, rd := true, wr := false, kind := 0 : LaneAcc }
  let a := t.accessor s
  let ls := (accs.filter (s.mayPrefetch t)).flatMap fun p => s.locs a p.va p.n false
  .ok (if t.det || x.w.mod4.getLsbD 0 then s else s.l1Fill a.core ls, t, {})

/-- VPREF (R213). -/
def execVpref (w : VW) (s : State) : Out State Fault Refusal := memWord 0x167 w prefBody s

/-! ## Atomics -/

/-- The scope of a vector atomic: mod4[2:0] (R214). -/
def VIn.scope (x : VIn) : Scope :=
  match x.w.mod4.toNat % 8 with
  | 0 => .task
  | 1 => .block
  | 2 => .span
  | 3 => .pkg
  | _ => .fab

/-- The operation of an OP code of R117. -/
def atomOpOf (n : Nat) : AtomOp :=
  match n with
  | 0 => .add
  | 1 => .minI
  | 2 => .maxI
  | 3 => .minB
  | 4 => .maxB
  | 5 => .and
  | 6 => .or
  | 7 => .xor
  | _ => .exch

/-- The old values of lanes in a register group of `k` registers (R214). -/
def groupRegs (d k : Nat) (vals : List Nat) : List (Nat × VReg) :=
  (upto k).map fun j => (d + j, .rows (vals.map fun v => BitVec.ofNat 32 (v / 2 ^ (32 * j))))

/-- A vector atomic (R214, R215): release at its scope, the lanes in ascending order at their homes, acquire. In a
deterministic launch it is buffered (R300, R301). `k` is the number of 32-bit words of one lane. -/
def vatomBody (op k : Nat) (ret : Bool) (eff : List (Nat × List Loc) → Eff)
    (apply : State → Nat → List Loc → Nat → State × Nat) (s : State) (t : Task) (x : VIn) :
    Except Stop (State × Task × VOut) := do
  let n := 4 * k
  let ea := x.ea op x.w.amAtom 0
  let d := x.w.d.toNat
  let accs := perLane x.mask [] fun l => [{ va := ea l, n := n, al := n, rd := true, wr := true, kind := 2 : LaneAcc }]
  s.vmemCheck t x.mask [] accs (if ret then groupRegs d k (List.replicate 96 0) else [])
  if x.mask = 0 then return (s, t, {})
  else
    let a := t.accessor s
    let s := (activeList x.mask).foldl (fun s l => s.tlbFillRange a (ea l) n) s
    let lanes := (activeList x.mask).map fun l => (l, s.locs a (ea l) n true)
    if t.det then
      let (s, t) := s.push t .v x.st.pc (eff lanes)
      let st := t.str.v
      return (s, t.setSt .v { st with qend := st.qend || ret }, {})
    else
      let (s, t) ← s.release t .v x.scope
      let step := fun (p : State × List (Nat × Nat)) (q : Nat × List Loc) =>
        let (s', old) := apply p.1 a.core q.2 q.1
        (s', (q.1, old) :: p.2)
      let (s, olds) := lanes.foldl step (s, [])
      let vals := (upto 96).map fun l => ((olds.find? fun p => p.1 == l).map (·.2)).getD 0
      return (s.acquire t x.scope, t, { regs := if ret then groupRegs d k vals else [] })

/-- Where the old value of a lane goes in a deterministic launch (R301). -/
def vret (ret : Bool) (d k l : Nat) : RetTo := if ret then .vgrp d k l else .none

/-- VATOM and VFADD: one operation on every lane. -/
def rmwBody (op k : Nat) (f : VIn → AtomOp) (s : State) (t : Task) (x : VIn) : Except Stop (State × Task × VOut) :=
  let rmw := fun (p : Nat × List Loc) =>
    { locs := p.2, op := f x, val := (x.c op).at p.1, ret := vret x.w.ret x.w.d.toNat k p.1 : Rmw }
  vatomBody op k x.w.ret (fun ls => .atom (ls.map rmw)) (fun s core ls l => s.applyRmw core (rmw (l, ls))) s t x

/-- VATOM (R214). -/
def execVatom (w : VW) (s : State) : Out State Fault Refusal :=
  memWord 0x163 w (fun s t x => rmwBody 0x163 (if w.mod7.getLsbD 4 then 2 else 1) (fun x => atomOpOf (x.w.mod7.toNat % 16)) s t x) s

/-- VFADD (R69, R214). -/
def execVfadd (w : VW) (s : State) : Out State Fault Refusal :=
  memWord 0x165 w (fun s t x => rmwBody 0x165 1 (fun _ => .addF32) s t x) s

/-- The number in registers v from `r` on, `k` of them, of a lane. -/
def VIn.groupAt (x : VIn) (r k l : Nat) : Nat :=
  ((upto k).map fun j => ((x.rd (r + j)).lane l).toNat * 2 ^ (32 * j)).foldl (· + ·) 0

/-- VATOMCAS (R214): compare in the first half of the c7 group, new value in the second. -/
def execVatomcas (w : VW) (s : State) : Out State Fault Refusal :=
  let k := 2 ^ (w.mod7.toNat % 4)
  let body := fun (s : State) (t : Task) (x : VIn) =>
    let c := x.w.c.toNat
    let cas := fun (p : Nat × List Loc) =>
      { locs := p.2, cmp := x.groupAt c k p.1, new := x.groupAt (c + k) k p.1, ret := vret true x.w.d.toNat k p.1 : Cas }
    vatomBody 0x164 k true (fun ls => .cas (ls.map cas)) (fun s core ls l => s.applyCas core (cas (l, ls))) s t x
  memWord 0x164 w body s

/-! ## Texel quads -/

/-- The floor of a finite number and the fraction, rounded toward zero (R216). -/
def floorFrac (d : Dy) : Int × Nat :=
  if 0 ≤ d.e then (d.m * 2 ^ d.e.toNat, 0)
  else
    let q := d.m / 2 ^ (-d.e).toNat
    (q, (roundDy .f32 .rtz false false (d.add { m := -q, e := 0 })).bits)

/-- One coordinate of a texel by the mode (R216): none where it is out of extent under fill. -/
def texCoord (mode : Nat) (e : Nat) (x : Int) : Option Int :=
  match mode with
  | 0 => some (min (max x 0) ((e : Int) - 1))
  | 1 => some (x % e)
  | _ => if 0 ≤ x ∧ x < e then some x else none

/-- What a lane of VQUAD fetches: four texels, each an address or the fill value, the two fractions, and whether its
coordinates are finite (R216). -/
structure TexLane where
  at_ : List (Option Nat)
  fx : Nat
  fy : Nat
  fin : Bool
  deriving DecidableEq, Repr

/-- The texels of a lane (R216). -/
def texLane (r : Tensor) (mode : Nat) (u v : FVal) : TexLane :=
  match u, v with
  | .fin nu mu eu, .fin nv mv ev =>
    let half : Dy := { m := -1, e := -1 }
    let (x0, fx) := floorFrac ((finDy nu mu eu).add half)
    let (y0, fy) := floorFrac ((finDy nv mv ev).add half)
    let at_ := [(0, 0), (1, 0), (0, 1), (1, 1)].map fun (p : Int × Int) =>
      match texCoord mode (r.extOf 0) (x0 + p.1), texCoord mode (r.extOf 1) (y0 + p.2) with
      | some x, some y => some (((r.base : Int) + r.bitOff [x, y] / 8) % 2 ^ 64).toNat
      | _, _ => none
    { at_ := at_, fx := fx, fy := fy, fin := true }
  | _, _ => { at_ := [none, none, none, none], fx := 0, fy := 0, fin := false }

/-- VQUAD (R216). An extent of 0 leaves the coordinate of a finite point open under clamp and wrap, and the texel is a free
value there (log 11). A record on a page that is away or in poison stops the word after the check of its rows (R209). A texel
or fill that is a signalling NaN gives a quiet NaN in FP32 too (DESIGN CHOICE, log 97). -/
def quadBody (s : State) (t : Task) (x : VIn) : Except Stop (State × Task × VOut) := do
  let rec_ := x.spair x.w.b
  let pre := [{ va := rec_, n := 64, al := 64, rd := true, wr := false, kind := 3 : LaneAcc }]
  let d := x.w.d.toNat
  let regs := fun (vs : List (List Nat)) =>
    (upto 6).map fun j => (d + j, VReg.rows (vs.map fun l => BitVec.ofNat 32 (nth l j 0)))
  if x.mask = 0 then return (s, t, {})
  else
    let recs := perLane x.mask [] fun _ => pre
    if (s.accAway t recs).isSome || (laneRecs (s.accPoison t) recs).any (·.isSome) then
      s.vmemCheck t x.mask pre (perLane x.mask [] fun _ => []) (regs (List.replicate 96 []))
    let r := tensorOf (s.vload t rec_ 64)
    let bad := r.ndim < 2 || !(r.type == 0 || r.type == 2 || r.type == 3)
    let sz := typeBits r.type / 8
    let zero := r.extOf 0 = 0 || r.extOf 1 = 0
    let mode := x.w.mod7.toNat
    let a := x.a 0x166
    let tl := perLane x.mask { at_ := [], fx := 0, fy := 0, fin := false : TexLane } fun l =>
      let q := texLane r mode (Fmt.f32.decode (a.lo.lane l).toNat) (Fmt.f32.decode (a.hi.lane l).toNat)
      if bad then { q with at_ := [] } else if zero then { q with at_ := q.at_.map fun _ => none } else q
    let accs := tl.map fun q => (q.at_.filterMap id).map fun p =>
      { va := p, n := sz, al := sz, rd := true, wr := false, kind := 6 : LaneAcc }
    s.vmemCheck t x.mask pre accs (regs (List.replicate 96 []))
    if bad then
      let (s, t) := s.afterLoads t [(rec_, 64)]
      return (s, t, { regs := regs (List.replicate 96 []), flags := List.replicate 96 flagInvalid })
    else
      let f := codeFmt r.type
      let widen := fun (v : Nat) => (convTo .f32 .rne (f.decode v)).bits
      let val := fun (fin : Bool) (l : Nat) (p : Nat × Option Nat) => match p.2 with
        | some ad => widen (leNat (s.vload t ad sz))
        | none => if zero && mode != 2 && fin then (Config.freeWord (s.freeAt t .v) (4000000 + 4 * l + p.1)).toNat else widen r.fillBits
      let vals := (tl.zip (upto 96)).map fun p =>
        ((upto 4).zip p.1.at_).map (val p.1.fin p.2) ++ [p.1.fx, p.1.fy]
      let (s, t) := s.afterLoads t ((rec_, 64) :: accs.flatten.map fun q => (q.va, q.n))
      return (s, t, { regs := regs vals })

/-- VQUAD (R216). -/
def execVquad (w : VW) (s : State) : Out State Fault Refusal := memWord 0x166 w quadBody s

/-! ## Pixel writes -/

/-- PXW (R217 to R219): the word's lanes go to the order units; in a deterministic launch at the commit (R302). With
8-byte pixels vC:C+1 is a pair (R126). -/
def pxwBody (s : State) (t : Task) (x : VIn) : Except Stop (State × Task × VOut) := do
  let rec_ := x.spair x.w.b
  let pre := [{ va := rec_, n := 32, al := 32, rd := true, wr := false, kind := 3 : LaneAcc }]
  if x.mask = 0 then return (s, t, {})
  else
    s.vmemCheck t x.mask pre (perLane x.mask [] fun _ => []) []
    let b := s.vload t rec_ 32
    let psz := recField b 24 1
    let n := if psz = 1 then 8 else 4
    let w := recField b 20 2
    let h := recField b 22 2
    let c := x.w.c.toNat
    if psz = 1 && (c % 2 != 0 || decide (x.nv ≤ c + 1)) then trapWith clsIllegal 4
    else
      let xy := fun (l : Nat) =>
        let v := ((x.a 0x168).lo.lane l).toNat
        (v % 65536, v / 65536)
      let inside := fun (l : Nat) => decide ((xy l).1 < w) && decide ((xy l).2 < h)
      let pix := fun (l : Nat) => (recField b 0 8 + (xy l).2 * recField b 16 4 + (xy l).1 * n) % 2 ^ 64
      let ord := fun (l : Nat) => (recField b 8 8 + 4 * ((xy l).2 / 8 * ceilDiv w 8 + (xy l).1 / 8)) % 2 ^ 64
      let pbad := { va := rec_, n := 32, al := 0, rd := true, wr := false, kind := 3 : LaneAcc }
      let accs := perLane x.mask [] fun l =>
        if 1 < psz then [pbad]
        else if inside l then
          [{ va := pix l, n := n, al := n, rd := false, wr := true, kind := 7 },
           { va := ord l, n := 4, al := 4, rd := false, wr := true, kind := 7 }]
        else []
      s.vmemCheck t x.mask pre accs []
      let a := t.accessor s
      let seqReg := x.rd x.w.d.toNat
      let lane := fun (l : Nat) =>
        let ls := s.locs a (pix l) n true
        let v := x.groupAt c (n / 4) l
        { die := s.dieOf (ls.headD (.mem 0)), core := a.core, task := t.uid, stream := 1, seq := s.seq, order := s.locs a (ord l) 4 true,
          need := seqReg.lane l, pixel := ls.zip (natLe n v), nowrite := x.w.mod7.getLsbD 1,
          last := x.w.mod7.getLsbD 0, group := s.uid, lane := l : PxwLane }
      let lanes := ((activeList x.mask).filter inside).map lane
      let s1 := { s with uid := s.uid + 1 }
      let (s1, t) := s1.afterLoads t [(rec_, 32)]
      if t.det then
        let (s1, t) := s1.push t .v x.st.pc (.pxw lanes)
        return (s1, t, {})
      else
        let full := (upto 4).find? fun d =>
          decide (4096 < (s.pxw.filter fun p => p.die == d).length + (lanes.filter fun p => p.die == d).length)
        match full with
        | some d => throw (.wait (.pixels d (lanes.filter fun p => p.die == d).length))
        | none => return ({ s1 with pxw := s1.pxw ++ lanes }, t, {})

/-- PXW (R218). -/
def execPxw (w : VW) (s : State) : Out State Fault Refusal := memWord 0x168 w pxwBody s

/-- PXW_LANE_PERFORM (R218): the lane with an index among those of a die. -/
def execPxwLanePerform (die lane : Nat) (s : State) : Out State Fault Refusal :=
  .next (match (s.pxw.filter fun p => p.die == die)[lane]? with
    | some p => if s.pxwReady p then s.performPxw p else s
    | none => s)

/-! ## Vector–matrix products -/

/-- Element `j` of x in a lane (R220). -/
def VIn.vxmX (x : VIn) (e4 : Bool) (l j : Nat) : FVal :=
  let a := x.w.a.toNat
  if e4 then Fmt.e4m3.decode (((x.rd (a + j / 4)).lane l).toNat / 256 ^ (j % 4) % 256)
  else Fmt.bf16.decode (((x.rd (a + j / 2)).lane l).toNat / 65536 ^ (j % 2) % 65536)

/-- One output of a lane (R221): its blocks or groups in ascending order. -/
def vxmRow (e4 : Bool) (ws xs : List FVal) (c : Nat) : FRes :=
  let k := if e4 then 32 else 16
  let groups := (upto (ceilDiv ws.length k)).map fun g => ((ws.drop (g * k)).take k).zip ((xs.drop (g * k)).take k)
  groups.foldl (fun (r : FRes) g =>
    let q := (g.foldl (fun (s : AccSum) p => s.addProd p.1 p.2) .zero).into r.bits
    { bits := q.bits, flags := r.flags ||| q.flags }) (plain c)

/-- VXM (R220 to R223). -/
def vxmBody (s : State) (t : Task) (x : VIn) : Except Stop (State × Task × VOut) := do
  let n := vxmN x.w
  let e4 := x.w.mod7.getLsbD 2
  let sz := if e4 then 1 else 2
  let d := x.w.d.toNat
  match x.rd x.w.b.toNat, x.rd (x.w.b.toNat + 1) with
  | .uniform lo, .uniform hi =>
    if !s.arrayTurn (s.coreOf t) (t.uid, none) then throw (.wait .array)
    else
      let va := lo.toNat + hi.toNat * 2 ^ 32
      let pre := [{ va := va, n := n * n * sz, al := 64, rd := true, wr := false, kind := 3 : LaneAcc }]
      let regs := fun (f : Nat → Nat → Nat) =>
        (upto n).map fun i => (d + i, VReg.rows ((upto 96).map fun l => BitVec.ofNat 32 (f i l)))
      s.vmemCheck t x.mask pre (perLane x.mask [] fun _ => []) (if x.mask = 0 then [] else regs fun _ _ => 0)
      if x.mask = 0 then return (s, t, {})
      else
        let b := s.vload t va (n * n * sz)
        let wt := fun (i : Nat) => (upto n).map fun j => (if e4 then Fmt.e4m3 else Fmt.bf16).decode (recField b ((n * i + j) * sz) sz)
        let rows := (upto n).map wt
        let res := perLane x.mask [] fun l =>
          let xs := (upto n).map (x.vxmX e4 l)
          (rows.zip (upto n)).map fun p =>
            vxmRow e4 p.1 xs (if x.w.mod7.getLsbD 3 then ((x.rd (d + p.2)).lane l).toNat else 0)
        let (s, t) := s.afterLoads t [(va, n * n * sz)]
        return (s, t, { regs := regs fun i l => (nth (nth res l []) i (plain 0)).bits,
                        flags := res.map fun l => orAll (l.map (·.flags)) })
  | _, _ => trapWith clsMatrix 3

/-- VXM (R221). -/
def execVxm (w : VW) (s : State) : Out State Fault Refusal := memWord 0x180 w vxmBody s

end Sys2Proof.Machine
end

