-- ==== Sys2Proof/Machine/Isect.lean ====
section
/-! DEFINITION. The intersection instructions (R224 to R232): exact box and triangle tests, the traversal stack, and tile
coverage. -/
namespace Sys2Proof.Machine

/-! ## Exact quotients -/

/-- The quotient of two numbers, the divisor not 0, rounded once into f32 (R60): 40 quotient bits and a sticky bit
decide every mode. An exact zero is +0. -/
def ratRound (rm : Rm) (n d : Dy) : Nat :=
  if n.m = 0 then 0 else
  let a := n.m.natAbs
  let b := d.m.natAbs
  let k := 40 + Nat.log2 b - Nat.log2 a
  let q := a * 2 ^ k / b
  (roundTo .f32 rm false (decide (n.m < 0) != decide (d.m < 0)) q (n.e - d.e - k) (a * 2 ^ k % b != 0)).bits

/-- The number of a finite value; others count as 0. -/
def FVal.dy : FVal → Dy
  | .fin n m e => finDy n m e
  | _ => .zero

/-- A difference of numbers. -/
def Dy.sub (a b : Dy) : Dy := a.add { b with m := -b.m }

/-! ## The box test -/

/-- (b − o) / d over the extended reals, d not 0 (R226): the sign of an infinite quotient, or the two numbers of a
finite one; none for a form ∞ − ∞ or ∞ / ∞. -/
def slab (b o d : FVal) : Option (Bool ⊕ (Dy × Dy)) :=
  if b.isInf && o.isInf then
    (if b.neg = o.neg || d.isInf then none else some (.inl (b.neg != d.neg)))
  else if b.isInf || o.isInf then
    (if d.isInf then none else some (.inl ((if b.isInf then b.neg else !o.neg) != d.neg)))
  else if d.isInf then some (.inr (.zero, { m := 1, e := 0 }))
  else some (.inr (b.dy.sub o.dy, d.dy))

/-- The quotient of a slab rounded in a direction, as an f32 encoding. -/
def slabRound (rm : Rm) : Bool ⊕ (Dy × Dy) → Nat
  | .inl neg => (infRes .f32 neg).bits
  | .inr (n, d) => ratRound rm n d

/-- The smaller and the larger of two f32 encodings that are no NaN. -/
def f32Min (a b : Nat) : Nat := if (Fmt.f32.decode b).ltTotal (Fmt.f32.decode a) then b else a
def f32Max (a b : Nat) : Nat := if (Fmt.f32.decode a).ltTotal (Fmt.f32.decode b) then b else a

/-- One axis of a box (R226): near and far, or none for a miss. Rounding is monotone, so the smaller quotient rounds to
the smaller near. -/
def axisHit (o d lo hi : FVal) : Option (Nat × Nat) :=
  if hi.lt lo then none
  else if d.isZero then
    (if o.lt lo || hi.lt o then none else some ((infRes .f32 true).bits, (infRes .f32 false).bits))
  else
    match slab lo o d, slab hi o d with
    | some t1, some t2 =>
      some (f32Min (slabRound .rdn t1) (slabRound .rdn t2), f32Max (slabRound .rup t1) (slabRound .rup t2))
    | _, _ => none

/-- The test of a ray against a child box (R226): the entry distance of a hit. `ray` holds ox, oy, oz, tmin, dx, dy,
dz, tmax; `box` lo and hi of the three axes. -/
def boxHit (ray box : List Nat) (kind : Nat) : Option Nat :=
  let v := fun (l : List Nat) (i : Nat) => Fmt.f32.decode (nth l i 0)
  if (ray ++ box).any (fun x => (Fmt.f32.decode x).isNaN) || !(kind == 1 || kind == 2) then none
  else
    match axisHit (v ray 0) (v ray 4) (v box 0) (v box 3), axisHit (v ray 1) (v ray 5) (v box 1) (v box 4),
      axisHit (v ray 2) (v ray 6) (v box 2) (v box 5) with
    | some x, some y, some z =>
      let tn := f32Max (f32Max (f32Max x.1 y.1) z.1) (nth ray 3 0)
      let tf := f32Min (f32Min (f32Min x.2 y.2) z.2) (nth ray 7 0)
      if (Fmt.f32.decode tf).lt (Fmt.f32.decode tn) then none else some tn
    | _, _, _ => none

/-- The words of a record. -/
def wordsOf (b : List Byte) : List Nat := (upto (b.length / 4)).map fun i => recField b (4 * i) 4

/-- The four children of a node (R225): reference and entry distance of a hit. -/
def nodeHits (ray : List Nat) (node : List Byte) : List (Nat × Option Nat) :=
  let w := wordsOf node
  (upto 4).map fun c =>
    let ref := nth w (24 + c) 0
    (ref, boxHit ray ((w.drop (6 * c)).take 6) (ref % 4))

/-- The hit children in ascending order of entry distance, then of index (R227). -/
def hitOrder (h : List (Nat × Option Nat)) : List Nat :=
  let hits := (upto 4).filterMap fun c => ((nth h c (0, none)).2).map fun t => (c, t)
  let before := fun (a b : Nat × Nat) => (Fmt.f32.decode a.2).lt (Fmt.f32.decode b.2)
  let ins := fun (l : List (Nat × Nat)) (x : Nat × Nat) =>
    (l.takeWhile fun y => !before x y) ++ [x] ++ (l.dropWhile fun y => !before x y)
  (hits.foldl ins []).map (·.1)

/-! ## Rays and records -/

/-- The ray of a lane (R224). -/
def VIn.ray (x : VIn) (l : Nat) : List Nat := (upto 8).map fun j => ((x.rd (x.w.a.toNat + j)).lane l).toNat

/-- The access to a node that a reference names (R224): a node offset that is no multiple of 128 is misaligned. -/
def nodeAcc (base ref : Nat) : LaneAcc :=
  { va := (base + ref / 64 * 64) % 2 ^ 64, n := 128, al := if ref / 64 % 2 = 0 then 128 else 0, rd := true, wr := false,
    kind := 3, ro := true }

/-- Results of the lanes in a group of registers. -/
def laneGroup (d k : Nat) (f : Nat → Nat → Nat) : List (Nat × VReg) :=
  (upto k).map fun j => (d + j, .rows ((upto 96).map fun l => BitVec.ofNat 32 (f j l)))

/-- The state after the accesses of a word of this chapter: the TLB holds what it used, and those to a window are ordinary
loads (R86, R96, R231). -/
def State.afterAccs (s : State) (t : Task) (accs : List (List LaneAcc)) : State × Task :=
  let s := accs.flatten.foldl (fun s a => s.tlbFillRange (t.accessor s) a.va a.n) s
  s.afterLoads t ((accs.flatten.filter fun a => a.rd && inWindow a.va).map fun a => (a.va, a.n))

/-- +Inf in FP32. -/
def f32Inf : Nat := 0x7F800000

/-! ## XBOX and XTRI -/

/-- The five results of XBOX in a lane (R227). -/
def boxOut (h : List (Nat × Option Nat)) : List Nat :=
  let hit := fun (c : Nat) => (nth h c (0, none)).2
  let mask := ((upto 4).map fun c => if (hit c).isSome then 2 ^ c else 0).foldl (· + ·) 0
  let order := hitOrder h ++ (upto 4).filter fun c => (hit c).isNone
  let list := ((order.zip (upto 4)).map fun p => p.1 * 4 ^ p.2).foldl (· + ·) 0
  (mask + list * 256) :: (upto 4).map fun c => (hit c).getD f32Inf

/-- XBOX (R227). -/
def xboxBody (s : State) (t : Task) (x : VIn) : Except Stop (State × Task × VOut) := do
  let base := x.spair x.w.c
  let ref := fun (l : Nat) => ((x.rd x.w.b.toNat).lane l).toNat
  let accs := perLane x.mask [] fun l => if ref l % 4 = 1 then [nodeAcc base (ref l)] else []
  let d := x.w.d.toNat
  s.vmemCheck t x.mask [] accs (laneGroup d 5 fun _ _ => 0)
  let out := perLane x.mask [] fun l =>
    if ref l % 4 = 1 then boxOut (nodeHits (x.ray l) (s.roLoad t (nodeAcc base (ref l)).va 128))
    else [0xE400, f32Inf, f32Inf, f32Inf, f32Inf]
  let (s, t) := s.afterAccs t accs
  return (s, t, { regs := laneGroup d 5 fun j l => nth (nth out l []) j 0 })

/-- XBOX (R227). -/
def execXbox (w : VW) (s : State) : Out State Fault Refusal := memWord 0x190 w xboxBody s

/-- A vector of three numbers. -/
abbrev Vec3 := Dy × Dy × Dy

/-- A difference of vectors. -/
def vsub (a b : Vec3) : Vec3 := (a.1.sub b.1, a.2.1.sub b.2.1, a.2.2.sub b.2.2)
/-- A cross product. -/
def cross (a b : Vec3) : Vec3 :=
  ((a.2.1.mul b.2.2).sub (a.2.2.mul b.2.1), (a.2.2.mul b.1).sub (a.1.mul b.2.2), (a.1.mul b.2.1).sub (a.2.1.mul b.1))
/-- A scalar product. -/
def vdot (a b : Vec3) : Dy := ((a.1.mul b.1).add (a.2.1.mul b.2.1)).add (a.2.2.mul b.2.2)
/-- The vector at three words from an index on. -/
def vec3At (l : List Nat) (i : Nat) : Vec3 :=
  ((Fmt.f32.decode (nth l i 0)).dy, (Fmt.f32.decode (nth l (i + 1) 0)).dy, (Fmt.f32.decode (nth l (i + 2) 0)).dy)

/-- The result of a miss (R228). -/
def triMiss : List Nat := [f32Inf, 0, 0, 0xFFFFFFFF]

/-- The four results of XTRI in a lane (R228). -/
def triOut (ray w : List Nat) : List Nat :=
  let v := Fmt.f32.decode
  let ins := (ray.take 3) ++ ((ray.drop 4).take 3) ++ (w.take 9)
  if ins.any fun x => (v x).isNaN || (v x).isInf then triMiss
  else
    let o := vec3At ray 0
    let d := vec3At ray 4
    let v0 := vec3At w 0
    let p0 := vsub v0 o
    let p1 := vsub (vec3At w 3) o
    let p2 := vsub (vec3At w 6) o
    let e0 := vdot d (cross p1 p2)
    let e1 := vdot d (cross p2 p0)
    let e2 := vdot d (cross p0 p1)
    let det := (e0.add e1).add e2
    let pos := decide (0 ≤ e0.m) && decide (0 ≤ e1.m) && decide (0 ≤ e2.m)
    let ng := decide (e0.m ≤ 0) && decide (e1.m ≤ 0) && decide (e2.m ≤ 0)
    if det.m = 0 || !(pos || ng) || (nth w 10 0 % 2 == 1 && decide (0 < det.m)) then triMiss
    else
      let n := cross (vsub (vec3At w 3) v0) (vsub (vec3At w 6) v0)
      let tt := ratRound .rne (vdot n p0) det
      let tmin := v (nth ray 3 0)
      let tmax := v (nth ray 7 0)
      if tmin.isNaN || tmax.isNaN || (v tt).lt tmin || tmax.lt (v tt) then triMiss
      else [tt, ratRound .rne e1 det, ratRound .rne e2 det, nth w 9 0]

/-- XTRI (R228). -/
def xtriBody (s : State) (t : Task) (x : VIn) : Except Stop (State × Task × VOut) := do
  let base := x.spair x.w.c
  let acc := fun (l : Nat) =>
    { va := (base + ((x.rd x.w.b.toNat).lane l).toNat) % 2 ^ 64, n := 48, al := 16, rd := true, wr := false, kind := 3,
      ro := true : LaneAcc }
  let accs := perLane x.mask [] fun l => [acc l]
  let d := x.w.d.toNat
  s.vmemCheck t x.mask [] accs (laneGroup d 4 fun _ _ => 0)
  let out := perLane x.mask [] fun l => triOut (x.ray l) (wordsOf (s.roLoad t (acc l).va 48))
  let (s, t) := s.afterAccs t accs
  return (s, t, { regs := laneGroup d 4 fun j l => nth (nth out l []) j 0 })

/-- XTRI (R228). -/
def execXtri (w : VW) (s : State) : Out State Fault Refusal := memWord 0x191 w xtriBody s

/-! ## XSTEP -/

/-- The traversal state of a lane while a step runs (R229): cur, the register entries bottom first, the total depth, and
the spills made. -/
structure Stack where
  cur : Nat
  regs : List Nat
  depth : Nat
  spills : List (Nat × Nat)
  deriving DecidableEq, Repr

/-- push (R230): the bottom entry is spilled when the four registers are full. -/
def Stack.push (k : Stack) (x : Nat) : Stack :=
  if k.regs.length < 4 then { k with regs := k.regs ++ [x], depth := k.depth + 1 }
  else { k with regs := k.regs.tail ++ [x], depth := k.depth + 1, spills := k.spills ++ [(k.depth - 4, k.regs.headD 0)] }

/-- pop (R230): `spill` reads a spill entry. -/
def Stack.pop (k : Stack) (spill : Nat → Nat) : Stack :=
  if k.depth = 0 then { k with cur := 0xFFFFFFFF }
  else if k.regs.isEmpty then { k with cur := spill (k.depth - 1), depth := k.depth - 1 }
  else { k with cur := k.regs.getLastD 0, regs := k.regs.dropLast, depth := k.depth - 1 }

/-- The depth word breaks its rules (R230). -/
def depthBad (w : Nat) : Bool := 4 < w / 2 ^ 16 % 8 || w % 2 ^ 16 < w / 2 ^ 16 % 8 || w / 2 ^ 19 != 0

/-- What a lane of XSTEP does (R230): nothing but `cur`; the node it reads; or a pop. -/
inductive StepKind where | done | keep | node | pop
  deriving DecidableEq, Repr

/-- The kind of a lane's step. -/
def stepKind (isPop : Bool) (cur depth : Nat) : StepKind :=
  if depthBad depth then .done else if isPop then .pop else if cur % 4 = 1 then .node else .keep

/-- The step at a node (R230). -/
def Stack.atNode (k : Stack) (hits : List (Nat × Option Nat)) (spill : Nat → Nat) : Stack :=
  let refs := (hitOrder hits).map fun c => (nth hits c (0, none)).1
  match refs with
  | [] => k.pop spill
  | r :: rest => { rest.reverse.foldl Stack.push k with cur := r }

/-- The six registers of a lane after the step; entries above REGS keep what they held. A DEPTH of 65,536 is kept modulo 2^16
(DESIGN CHOICE, log 96). -/
def stackRegs (old : List Nat) (k : Stack) : List Nat :=
  [k.cur, k.depth % 2 ^ 16 + k.regs.length * 2 ^ 16] ++
  (upto 4).map fun i => if i < k.regs.length then nth k.regs i 0 else nth old (2 + i) 0

/-- The address of a spill entry of a lane (R229). -/
def spillVa (sc k l : Nat) : Nat := 0x01FFF00000000000 + sc + 384 * k + 4 * l

/-- XSTEP and XSTEP.POP (R229 to R231). -/
def xstepBody (isPop : Bool) (s : State) (t : Task) (x : VIn) : Except Stop (State × Task × VOut) := do
  let d := x.w.d.toNat
  let base := x.spair x.w.b
  let sc := (x.st.reg (x.w.c.extractLsb' 0 5)).toNat
  let old := fun (l : Nat) => (upto 6).map fun j => ((x.rd (d + j)).lane l).toNat
  let kind := fun (l : Nat) => stepKind isPop (nth (old l) 0 0) (nth (old l) 1 0)
  let start := fun (l : Nat) =>
    let o := old l
    let n := nth o 1 0 / 2 ^ 16 % 8
    { cur := nth o 0 0, regs := (o.drop 2).take n, depth := nth o 1 0 % 2 ^ 16, spills := [] : Stack }
  let spillAcc := fun (rd : Bool) (l k : Nat) =>
    { va := spillVa sc k l, n := 4, al := 4, rd := rd, wr := !rd, kind := if rd then 5 else 4 : LaneAcc }
  let node := fun (l : Nat) => nodeAcc base (nth (old l) 0 0)
  let pops := fun (l : Nat) (k : Stack) => if 0 < k.depth && k.regs.isEmpty then [spillAcc true l (k.depth - 1)] else []
  let hits := fun (l : Nat) => nodeHits (x.ray l) (s.roLoad t (node l).va 128)
  let readable := fun (a : LaneAcc) => (s.accBad t a).isNone && (s.accAway t [[a]]).isNone
  let accs := perLane x.mask [] fun l => match kind l with
    | .done | .keep => []
    | .pop => pops l (start l)
    | .node =>
      if !(readable (node l)) then [node l]
      else
        let h := hits l
        let k := (start l).atNode h fun _ => 0
        node l :: (if (hitOrder h).isEmpty then pops l (start l) else k.spills.map fun p => spillAcc false l p.1)
  s.vmemCheck t x.mask [] accs (laneGroup d 6 fun _ _ => 0)
  let spill := fun (l k : Nat) => leNat (s.vload t (spillVa sc k l) 4)
  let res := perLane x.mask ([], []) fun l =>
    match kind l with
    | .done => (0xFFFFFFFF :: (old l).tail, ([] : List (Nat × Nat)))
    | .keep => (old l, [])
    | .pop => (stackRegs (old l) ((start l).pop (spill l)), [])
    | .node =>
      let k := (start l).atNode (hits l) (spill l)
      (stackRegs (old l) k, k.spills)
  let a := t.accessor s
  let stores := (res.zip (upto 96)).flatMap fun p => p.1.2.flatMap fun q => (s.locs a (spillVa sc q.1 p.2) 4 true).zip (natLe 4 q.2)
  let (s, t) := s.afterAccs t accs
  let (s, t) := if stores.isEmpty then (s, t) else s.push t .v x.st.pc (.store [stores])
  return (s, t, { regs := laneGroup d 6 fun j l => nth (nth res l ([], [])).1 j 0 })

/-- XSTEP (R230). -/
def execXstep (w : VW) (s : State) : Out State Fault Refusal := memWord 0x192 w (xstepBody false) s

/-- The fields of the wide word in the latch of the issuing task (log 9). -/
def State.latched (s : State) : VW :=
  match s.focus.bind fun f => s.task? f.task with
  | some t => wideFields t.word.1.toNat t.word.2.1.toNat t.word.2.2.toNat
  | none => wideFields 0 0 0

/-- XSTEP.POP (R230): the word in the task's latch. -/
def execXstepPop (s : State) : Out State Fault Refusal := memWord 0x192 s.latched (xstepBody true) s

/-! ## XTILE -/

/-- The edge value A x + B y + C (R232). -/
def edgeAt (e : Int × Int × Int) (x y : Int) : Int := e.1 * x + e.2.1 * y + e.2.2

/-- The three edges of a record (R232). -/
def edgesOf (b : List Byte) : List (Int × Int × Int) :=
  (upto 3).map fun i => (sgnOf 32 (recField b (16 * i) 4), sgnOf 32 (recField b (16 * i + 4) 4), sgnOf 64 (recField b (16 * i + 8) 8))

/-- An element of the grid is set (R232): `px`, `py` its first pixel, `side` its side. -/
def tileBit (level side : Nat) (es : List (Int × Int × Int)) (px py : Nat) : Bool :=
  let sample := fun (p : Nat) => (256 * p + 128 : Int)
  es.all fun e =>
    if level = 0 then
      let v := edgeAt e (sample px) (sample py)
      0 < v || (v == 0 && (0 < e.1 || (e.1 == 0 && 0 < e.2.1)))
    else
      let hi := fun (c : Int) (p : Nat) => if 0 < c then sample (p + side - 1) else sample p
      0 ≤ edgeAt e (hi e.1 px) (hi e.2.1 py)

/-- XTILE (R232): the word in the task's latch. -/
def xtileBody (s : State) (t : Task) (x : VIn) : Except Stop (State × Task × VOut) := do
  let base := x.spair x.w.c
  let level := x.w.mod7.toNat
  let side := 8 ^ level
  let acc := fun (l : Nat) =>
    { va := (base + ((x.rd x.w.b.toNat).lane l).toNat) % 2 ^ 64, n := 48, al := 16, rd := true, wr := false, kind := 3,
      ro := true : LaneAcc }
  let accs := perLane x.mask [] fun l => [acc l]
  let d := x.w.d.toNat
  s.vmemCheck t x.mask [] accs (laneGroup d 2 fun _ _ => 0)
  let out := perLane x.mask 0 fun l =>
    let es := edgesOf (s.roLoad t (acc l).va 48)
    let a := ((x.rd x.w.a.toNat).lane l).toNat
    let x0 := a % 65536 / (8 * side) * (8 * side)
    let y0 := a / 65536 / (8 * side) * (8 * side)
    ((upto 64).map fun i => if tileBit level side es (x0 + side * (i % 8)) (y0 + side * (i / 8)) then 2 ^ i else 0).foldl (· + ·) 0
  let (s, t) := s.afterAccs t accs
  return (s, t, { regs := laneGroup d 2 fun j l => nth out l 0 / 2 ^ (32 * j) })

/-- XTILE (R232). -/
def execXtile (s : State) : Out State Fault Refusal := memWord 0x193 s.latched xtileBody s

end Sys2Proof.Machine
end

