-- ==== Sys2Proof/Machine/Queue.lean ====
section
/-! DEFINITION. User queues (R281, R283, R284, R360 to R365): notifies, the mapping of queues onto hardware slots, and the
packets that the queue scheduler takes. -/
namespace Sys2Proof.Machine

/-! ## Slots and descriptors -/

/-- The partition that holds a hardware slot, by the fields in force (R363, R425). -/
def State.partOfSlot (s : State) (i : Nat) : Option Nat :=
  (upto 8).find? fun p =>
    let base := s.mfield (0x13010 + 0x40 * p) 0 14
    decide (base ≤ i) && decide (i < base + s.mfield (0x13010 + 0x40 * p) 16 15)

/-- A hardware slot that maps a queue. -/
def State.hwSlot (s : State) (i : Nat) : Option HwSlot := s.slots.find? fun x => x.slot == i
/-- Replace a hardware slot. -/
def State.setHwSlot (s : State) (x : HwSlot) : State :=
  { s with slots := s.slots.map fun y => if y.slot == x.slot then x else y }

/-- Queues in the descriptor table. -/
def State.qcount (s : State) : Nat := s.mfield 0x0008 0 21
/-- The virtual address of a queue's descriptor (R360). -/
def State.descVa (s : State) (qid : Nat) : Nat := ((s.mreg 0).toNat + 64 * qid) % 2 ^ 64

/-- Write a field of a queue's descriptor, through the page tables of a partition; the write waits for a page that is away
(R277). -/
def State.writeDesc (s : State) (part qid off n v : Nat) : State := s.devStore part (s.descVa qid + off) n v

/-- Dist(x) of R361. -/
def HwSlot.dist (x : HwSlot) (i : Nat) : Nat := (i + 2 ^ 32 - x.rd.toNat) % 2 ^ 32

/-- A queue stops in ERROR (R365): its descriptor gets the state, the code, and the address of the packet or entry where
one stopped it. -/
def State.queueError (s : State) (x : HwSlot) (code : Nat) (pkt : Option Nat) : State :=
  let s := s.setHwSlot { x with err := true, holding := false }
  let s := ((s.writeDesc x.part x.qid 9 1 2).writeDesc x.part x.qid 10 1 code)
  match pkt with
  | none => s
  | some va => s.writeDesc x.part x.qid 32 8 va

/-! ## Notifies -/

/-- A notify for a mapped queue moves its producer index forward, or overruns (R361). -/
def State.notifyMapped (s : State) (x : HwSlot) (new : Nat) : State :=
  if 2 ^ x.log2 < x.dist new then s.queueError x 3 none
  else if x.dist x.wr.toNat < x.dist new then s.setHwSlot { x with wr := BitVec.ofNat 32 new }
  else s

/-- A notify without effect is counted (R361). -/
def State.badNotify (s : State) : State := { s with badNotifies := s.badNotifies + 1 }

/-- The partition through whose page tables the notifies and commands of a slot reach descriptors: the slot's, and partition
0's where no partition holds the slot (log 75). -/
def State.descPart (s : State) (i : Nat) : Nat := (s.partOfSlot i).getD 0

/-- A notify for a queue that the slot does not map is kept in its descriptor, the further of two (R361). -/
def State.notifyPending (s : State) (part qid new : Nat) : State :=
  match s.devRead part (s.descVa qid) 64 with
  | none => s.badNotify
  | some d =>
    let rd := match s.slots.find? fun x => x.qid == qid with
      | some x => x.rd.toNat
      | none => fieldOf d 20 4
    let dist := fun (i : Nat) => (i + 2 ^ 32 - rd) % 2 ^ 32
    let old := fieldOf d 24 4
    let best := if fieldOf d 28 1 % 2 = 1 && decide (dist new < dist old) then old else new
    s.writeDesc part qid 24 8 (best + 2 ^ 32)

/-- A write of a slot's notify word (R361); one that names no queue, or has reserved bits set, is counted and has no effect.
Where the descriptor lies on a page that is away the notify waits for it (R277). -/
def State.notify (s : State) (i : Nat) (word : Dword) : State :=
  let qid := bitsOf word.toNat 0 20
  let new := bitsOf word.toNat 32 32
  let pending := fun (part : Nat) => match s.devAway part (s.descVa qid) 64 true with
    | some (va, pte, e) => s.devAwait part va pte e (.notify i word)
    | none => s.notifyPending part qid new
  if s.qcount ≤ qid || bitsOf word.toNat 20 12 != 0 then s.badNotify
  else match s.hwSlot i with
    | some x => if x.qid = qid then s.notifyMapped x new else pending x.part
    | none => pending (s.descPart i)

/-- NOTIFY (R361). The queue scheduler keeps power in NAP (R417). -/
def execNotify (slot : Nat) (word : Dword) (s : State) : Out State Fault Refusal :=
  .next (if s.mgmtOpen && decide (slot < 16384) then s.notify slot word else s)

/-! ## MAP and UNMAP -/

/-- RESULT of QCMD. -/
def State.queueResult (s : State) (r : Nat) : State := s.setMfield 0x0018 4 4 r

/-- A queue descriptor that MAP takes (R364). -/
def descGood (d : List Byte) : Bool :=
  fieldOf d 0 8 % 64 == 0 && decide (4 ≤ fieldOf d 8 1) && decide (fieldOf d 8 1 ≤ 16) && fieldOf d 9 1 == 0

/-- A queue belongs to another partition (R363): its descriptor cannot be reached through the tables of partition `p`, but
through those of another one (log 75). -/
def State.foreignQueue (s : State) (p qid : Nat) : Bool :=
  (upto 8).any fun q => q != p && (s.devLocs q (s.descVa qid) 64 true).isSome

/-- A MAP of a queue onto a slot (R364): the lowest RESULT code that applies, or the slot that it fills. -/
def State.mapCheck (s : State) (i qid : Nat) : Except Nat HwSlot :=
  let elsewhere := s.slots.any fun x => x.qid == qid
  if (s.hwSlot i).isSome then .error 1
  else match s.partOfSlot i with
    | none => .error (if s.qcount ≤ qid then 3 else if elsewhere then 4 else 5)
    | some p =>
      if s.qcount ≤ qid then .error 3
      else match (s.poisonRange (deviceAccessor p) (s.descVa qid) 64 false), s.devRead p (s.descVa qid) 64 with
        | none, some d =>
          if elsewhere then .error 4
          else if !(descGood d) then .error 3
          else
            .ok { slot := i, qid := qid, part := p, ring := fieldOf d 0 8, log2 := fieldOf d 8 1,
                  wr := BitVec.ofNat 32 (fieldOf d 16 4), rd := BitVec.ofNat 32 (fieldOf d 20 4), holding := false, pkt := [],
                  err := false, image := s.mfield (0x800 + 0x20 * p) 3 1 }
        | _, _ => .error (if elsewhere then 4 else if s.foreignQueue p qid then 5 else 3)

/-- MAP (R364). -/
def State.mapSlot (s : State) (i qid : Nat) : State :=
  match s.mapCheck i qid with
  | .error r => s.queueResult r
  | .ok x =>
    let pend := ((s.devRead x.part (s.descVa qid + 24) 8).map leNat).getD 0
    let s := { s with slots := s.slots ++ [x] }
    let s := (s.writeDesc x.part qid 9 1 1).writeDesc x.part qid 12 2 i
    let s := if bitsOf pend 32 1 = 1 then
        (s.notifyMapped x (bitsOf pend 0 32)).writeDesc x.part qid 24 8 (bitsOf pend 0 32)
      else s
    s.queueResult 0

/-- UNMAP (R364): the indices and STATE are written back; a queue in ERROR keeps its error code. -/
def State.unmapSlot (s : State) (i : Nat) : State :=
  match s.hwSlot i with
  | none => s.queueResult 2
  | some x =>
    let s := { s with slots := s.slots.filter fun y => y.slot != i }
    let s := ((s.writeDesc x.part x.qid 16 4 x.wr.toNat).writeDesc x.part x.qid 20 4 x.rd.toNat).writeDesc x.part x.qid 9 1 0
    s.queueResult 0

/-- The descriptor that a command needs lies on a page that is away: partition, address, entry address and entry (R277). -/
def State.commandAway (s : State) (cmd : Dword) : Option (Nat × Nat × Nat × Nat) :=
  let i := bitsOf cmd.toNat 0 14
  let at' := fun (part qid : Nat) => (s.devAway part (s.descVa qid) 64 true).map fun x => (part, x)
  match bitsOf cmd.toNat 14 2, s.hwSlot i with
  | 1, none => if s.qcount ≤ bitsOf cmd.toNat 16 20 then none else at' (s.descPart i) (bitsOf cmd.toNat 16 20)
  | 2, some x => at' x.part x.qid
  | _, _ => none

/-- A command of a slot runs and is no longer BUSY (R363, R364). -/
def State.runCommand (s : State) (cmd : Dword) : State :=
  let s := s.setMfield 0x0018 0 1 0
  let i := bitsOf cmd.toNat 0 14
  match bitsOf cmd.toNat 14 2 with
  | 1 => s.mapSlot i (bitsOf cmd.toNat 16 20)
  | 2 => s.unmapSlot i
  | _ => s

/-- A command runs, or is BUSY until the page of its descriptor is resident (R277, R363). -/
def State.tryCommand (s : State) (cmd : Dword) : State :=
  match s.commandAway cmd with
  | some (part, va, pte, e) => (s.setMfield 0x0018 0 1 1).devAwait part va pte e (.command cmd)
  | none => s.runCommand cmd

/-- QCMD: the register keeps what was written, and with OP other than 0 the command starts; one that is written while another
is BUSY is LOST (R363, R364). -/
def State.queueCmd (s : State) (cmd : Dword) : State :=
  if bitsOf cmd.toNat 14 2 != 0 && s.mfield 0x0018 0 1 == 1 then s.setMfield 0x0018 1 1 1
  else
    let s := s.setMreg 0x0010 (BitVec.ofNat 64 (bitsOf cmd.toNat 0 36))
    if bitsOf cmd.toNat 14 2 = 0 then s else s.tryCommand cmd

/-- MAP: a QCMD with OP 1 (R363, R364). -/
def execMapQueue (cmd : Dword) (s : State) : Out State Fault Refusal :=
  s.command fun s => .next (if bitsOf cmd.toNat 14 2 = 1 then s.queueCmd cmd else s)

/-- UNMAP: a QCMD with OP 2 (R363, R364). -/
def execUnmapQueue (cmd : Dword) (s : State) : Out State Fault Refusal :=
  s.command fun s => .next (if bitsOf cmd.toNat 14 2 = 2 then s.queueCmd cmd else s)

/-! ## The head packet -/

/-- What stands at the head of a queue. -/
inductive Head where
  | none
  | fault (va : Nat)
  | away (va pte entry : Nat)
  | packet (va : Nat) (bytes : List Byte)

/-- The head of a mapped queue (R360, R365). -/
def State.head (s : State) (x : HwSlot) : Head :=
  if x.err || x.wr == x.rd then .none
  else
    let va := (x.ring + 64 * (x.rd.toNat % 2 ^ x.log2)) % 2 ^ 64
    let a := deviceAccessor x.part
    match s.awayRange a va 64 false with
    | some (v, pte, e) => .away v pte e
    | none => match s.poisonRange a va 64 false, s.devRead x.part va 64 with
      | none, some b => .packet va b
      | _, _ => .fault va

/-- The future addresses that a JOIN or MARKER names in bytes 8 to 39. -/
def packetFutures (b : List Byte) : List Nat := ((upto 4).map fun i => fieldOf b (8 + 8 * i) 8).filter (· != 0)

/-- A packet can be interpreted (R283). -/
def packetGood (b : List Byte) : Bool :=
  let futs := packetFutures b
  match fieldOf b 0 1 with
  | 1 | 3 => (packetOf b).readable
  | 2 => fieldOf b 1 7 == 0 && fieldOf b 40 24 == 0 && futs.all fun f => f % 16 == 0
  | 4 => fieldOf b 1 7 == 0 && fieldOf b 48 16 == 0 && fieldOf b 40 8 % 16 == 0 && futs.all fun f => f % 16 == 0
  | _ => false

/-- Grids of a queue that have not completed. -/
def State.queueBusy (s : State) (qid : Nat) : Bool := s.launches.any fun l => l.queue == some qid

/-- The PRIO of a head packet that can take effect now (R281, R284). -/
def State.headPrio (s : State) (x : HwSlot) : Option Nat :=
  if x.holding || x.image != s.activeImage x.part then none
  else match s.head x with
    | .packet _ b =>
      let p := packetOf b
      if !(packetGood b) then some 0
      else if (p.type = 1 || p.type = 3) && p.ordered && s.queueBusy x.qid then none
      else some (if p.type = 1 || p.type = 3 then p.prioOf else 0)
    | .fault _ => some 0
    | _ => none

/-- The slot that the queue scheduler serves next (R284): the highest PRIO, round-robin within a level. -/
def State.nextSlot (s : State) : Option Nat :=
  let ready := s.slots.filterMap fun x => (s.headPrio x).map fun p => (x.slot, p)
  let top := (ready.map (·.2)).foldl Nat.max 0
  let last := ((s.rr.find? fun r => r.1 == top).map (·.2 + 1)).getD 0
  let level := sortOn id ((ready.filter fun r => r.2 == top).map (·.1))
  match level.find? fun i => decide (last ≤ i) with
  | some i => some i
  | none => level.head?

/-- The scheduler has served a slot at a level. -/
def State.served (s : State) (x : HwSlot) : State :=
  let s := s.wakeIdle
  match s.headPrio x with
  | some p => { s with rr := (p, x.slot) :: s.rr.filter fun r => r.1 != p }
  | none => s

/-- The slot's turn, with the packet at its head, when it is a packet that passes `ok`. -/
def State.turn (s : State) (i : Nat) (ok : List Byte → Bool) (f : State → HwSlot → Nat → List Byte → State) : State :=
  match s.hwSlot i with
  | none => s
  | some x => match s.head x with
    | .packet va b =>
      if s.dispatching && s.nextSlot == some i && ok b then f (s.served x) x va b else s
    | .away v pte e => s.startRead x.part pte e v 0 0
    | _ => s

/-- The queue moves on to its next packet (R362). -/
def State.takePacket (s : State) (x : HwSlot) : State := s.setHwSlot { x with rd := x.rd + 1, holding := false }

/-! ## The packets -/

/-- DISPATCH (R281, R282, R362). -/
def State.takeDispatch (s : State) (x : HwSlot) (va : Nat) (b : List Byte) : State :=
  let (s, _, recs) := (s.takePacket x).submit x.part x.image (packetOf b) va (some x.qid) none []
  State.settle (s, recs)

/-- DISPATCH (R281, R282). -/
def execDispatch (slot : Nat) (s : State) : Out State Fault Refusal :=
  .next (s.turn slot (fun b => fieldOf b 0 1 == 1 && packetGood b) State.takeDispatch)

/-- GRAPH (R281, R293): the root grid is submitted and the graph opens with its count of the root's tasks. -/
def State.takeGraph (s : State) (x : HwSlot) (va : Nat) (b : List Byte) : State :=
  let p := packetOf b
  let s := s.takePacket x
  let w := p.grid * p.tasks
  let g : Graph := { id := s.uid, part := x.part, va := va, image := x.image, det := p.det, fut := p.future.toNat,
                     rootDone := false, failed := none, shown := w, work := w, spoiled := false, resolved := false }
  let s := ({ s with uid := s.uid + 1, graphs := s.graphs ++ [g] } : State).devStore x.part (va + 56) 8 w
  let (s, _, recs) := s.submit x.part x.image p va (some x.qid) (some g.id) []
  State.settle (s, recs)

/-- GRAPH (R281, R290). -/
def execGraph (slot : Nat) (s : State) : Out State Fault Refusal :=
  .next (s.turn slot (fun b => fieldOf b 0 1 == 3 && packetGood b) State.takeGraph)

/-- A JOIN or MARKER is taken: the queue is held by the packet as it was read (R281, R362). -/
def State.hold (s : State) (x : HwSlot) (b : List Byte) : State := s.setHwSlot { x with holding := true, pkt := b }

/-- JOIN (R281): the queue is held. -/
def execJoin (slot : Nat) (s : State) : Out State Fault Refusal :=
  .next (s.turn slot (fun b => fieldOf b 0 1 == 2 && packetGood b) fun s x _ b => s.hold x b)

/-- MARKER (R281): the queue waits for its earlier grids. -/
def execMarker (slot : Nat) (s : State) : Out State Fault Refusal :=
  .next (s.turn slot (fun b => fieldOf b 0 1 == 4 && packetGood b) fun s x _ b => s.hold x b)

/-- The packet that holds a queue, as it was read (R362). -/
def State.heldPacket (s : State) (i : Nat) : Option (HwSlot × List Byte) :=
  match s.hwSlot i with
  | some x => if x.holding && x.image == s.activeImage x.part then some (x, x.pkt) else none
  | none => none

/-- A future that a JOIN names is done. -/
def State.futDone (s : State) (part va : Nat) : Bool :=
  match s.devPa part va false with
  | some pa => decide (2 ≤ s.futState pa)
  | none => false

/-- The page of a future that a held JOIN names is read where it is away and no read of it is outstanding (R277, R385). -/
def State.joinReads (s : State) (x : HwSlot) (b : List Byte) : State :=
  (packetFutures b).foldl (fun (s : State) va => match s.devAway x.part va 16 false with
    | some (ad, pte, e) => s.startRead x.part pte e ad 0 0
    | none => s) s

/-- A held JOIN moves on when every future that it names is done (R281). -/
def State.releaseJoin (s : State) (i : Nat) : State :=
  match s.heldPacket i with
  | some (x, b) =>
    if fieldOf b 0 1 != 2 then s
    else if (packetFutures b).all (s.futDone x.part) then s.takePacket x
    else s.joinReads x b
  | none => s

/-- JOIN_RELEASE (R281). -/
def execJoinRelease (slot : Nat) (s : State) : Out State Fault Refusal := .next (s.releaseJoin slot)

/-- A held MARKER resolves its future with 0 when every earlier grid of its queue has completed (R281). -/
def State.resolveMarker (s : State) (i : Nat) : State :=
  match s.heldPacket i with
  | some (x, b) =>
    if fieldOf b 0 1 == 4 && !(s.queueBusy x.qid) then
      State.settle ((s.takePacket x).resolveVa x.part (fieldOf b 40 8) 0 false)
    else s
  | none => s

/-- MARKER_RESOLVE (R281). -/
def execMarkerResolve (slot : Nat) (s : State) : Out State Fault Refusal := .next (s.resolveMarker slot)

/-- BADPACKET (R283, R365): a packet that cannot be interpreted stops its queue and submits nothing. -/
def execBadpacket (slot : Nat) (s : State) : Out State Fault Refusal :=
  .next (s.turn slot (fun b => !(packetGood b)) fun s x va _ => s.queueError x 1 (some va))

/-- RINGFAULT (R365): the ring entry has no translation or is poisoned. -/
def execRingfault (slot : Nat) (s : State) : Out State Fault Refusal :=
  .next (match s.hwSlot slot with
    | some x => match s.head x with
      | .fault va => if s.dispatching && s.nextSlot == some slot then (s.served x).queueError x 4 (some va) else s
      | _ => s
    | none => s)

/-- The queue scheduler's next action: the slot whose turn it is, or a held queue that may move on. -/
def State.serveQueues (s : State) : Option State :=
  if !s.dispatching then none else
  match s.nextSlot with
  | some i => match (s.hwSlot i).map fun x => (x, s.head x) with
    | some (x, .packet va b) =>
      let s := s.served x
      some (if !(packetGood b) then s.queueError x 1 (some va)
        else match fieldOf b 0 1 with
          | 1 => s.takeDispatch x va b
          | 3 => s.takeGraph x va b
          | _ => s.hold x b)
    | some (x, .fault va) => some ((s.served x).queueError x 4 (some va))
    | _ => none
  | none => (s.slots.findSome? fun x =>
      let s1 := s.releaseJoin x.slot
      let s2 := s.resolveMarker x.slot
      if s1.slots != s.slots || s1.reads != s.reads then some s1 else if s2.slots != s.slots then some s2
      else match s.head x with
        | .away v pte e =>
          let s3 := s.startRead x.part pte e v 0 0
          if s3.reads != s.reads then some s3 else none
        | _ => none)

/-! ## Work that waited for a page -/

/-- The read that the first held request of a queue pair awaits has ended (R358). -/
def State.requestDue (s : State) (qpn : Nat) (ok : Bool) : State :=
  { s with qps := s.qps.map fun q => if q.qpn == qpn then { q with due := some ok } else q }

/-- Work of the device whose page has come goes on (R277, R385). -/
def State.goOn (s : State) : DevWork → State
  | .future part va res fault => State.settle (s.resolveVa part va res fault)
  | .record r => State.settle (s.moveOn r)
  | .batch id => match s.node? id with
    | some n => State.settleAll (s.launchBatch n)
    | none => s
  | .admitGrid n => match s.launch? n with
    | some l => State.settleAll (s.admitGrid { l with awaits := false })
    | none => s
  | .count g add sub => State.settle (s.graphShow g add sub)
  | .store part va n v => s.devStore part va n v
  | .notify i word => s.notify i word
  | .command cmd => s.tryCommand cmd
  | .request n => s.requestDue n true

/-- Work of the device whose page could not be read (log 76): a batch counts as consumed, a launch is checked without the
table, a notify is counted, a command finds no valid descriptor, a request is refused; the rest is dropped. -/
def State.giveUp (s : State) : DevWork → State
  | .batch id => match s.node? id with
    | some n => State.settleAll (s.loseBatch n)
    | none => s
  | .admitGrid n => match s.launch? n with
    | some l => State.settleAll (({ s with launches := s.launches.filter fun x => x.num != n } : State).refuse l 0xC)
    | none => s
  | .notify _ _ => s.badNotify
  | .command _ => (s.setMfield 0x0018 0 1 0).queueResult 3
  | .request n => s.requestDue n false
  | .future .. | .record _ | .count .. | .store .. => s

/-- The oldest work whose page's read has ended goes on or is given up; a record whose future software has stored over may
move on (R288), and what is left to submit is (R281, R291). -/
def State.devNext (s : State) : Option State :=
  match s.devWaits.find? fun w => w.go.isSome with
  | some w =>
    let s := { s with devWaits := s.devWaits.erase w }
    some (if w.go = some true then s.goOn w.work else s.giveUp w.work)
  | none => (s.strayNext.or (s.heldStep.or s.nodeStep)).map State.settleAll

end Sys2Proof.Machine
end

