-- ==== Sys2Proof/Machine/Power.lean ====
section
/-! DEFINITION. The power states (R417, R418), partitions as APPLY rebuilds them (R425, R426), and swaps (R403, R404). -/
namespace Sys2Proof.Machine

/-! ## Power -/

/-- A packet of some queue can take effect (R284, R417). -/
def State.packetReady (s : State) : Bool :=
  s.nextSlot.isSome || s.slots.any fun x => (s.releaseJoin x.slot).slots != s.slots || (s.resolveMarker x.slot).slots != s.slots

/-- PWRCMD is written: the field keeps the command, RESULT is set (R420). -/
def State.powerResult (s : State) (cmd r : Nat) : State := (s.setMfield 0x2028 0 3 cmd).setMfield 0x2028 4 4 r

/-- A PWRCMD (R418): accepted in the power states that `ok` names, otherwise refused without change. -/
def State.powerCmd (s : State) (cmd : Nat) (ok : Power → Bool) (f : State → State) : State :=
  if !s.byderOpen then s
  else if ok s.byder.power then f (s.powerResult cmd 0) else s.powerResult cmd 1

/-- The power state changes. -/
def State.setPower (s : State) (p : Power) : State := { s with byder := { s.byder with power := p } }

/-- The cores of a partition are saved in an image area (R402, R404); of their slots those that no task claims too. -/
def State.keepImage (s : State) (part image : Nat) : State :=
  let area := 2 * part + image
  let own := (s.partCores part).map fun l =>
    let x := s.core l.core
    ({ area := area, core := l.core, scrway := x.scrway, slots := x.slots, slotPoison := x.slotPoison } : CoreImage)
  { s with images := own ++ s.images.filter fun x => x.area != area }

/-- PWRCMD_NAP (R417, R418): each partition's cores are saved in the image area of its active image; a packet that can
take effect wins. -/
def execPwrcmdNap (s : State) : Out State Fault Refusal :=
  .next (s.powerCmd 1 (fun p => p == .idle && !s.packetReady) fun s =>
    ((upto 8).foldl (fun (s : State) p => s.keepImage p (s.activeImage p)) s).setPower .nap)

/-- Every channel of the package (R369). -/
def allChannels : List Channel :=
  (upto 4).flatMap fun d => ((upto 64).map fun c => .hbm d (BitVec.ofNat 6 c)) ++ (upto 16).map fun c => .lp6 d (BitVec.ofNat 4 c)

/-- The links of all ports but port 0, and those of the SSDs, lose their power (R417, R433; log 82). -/
def State.linksOff (s : State) : State :=
  let s := (idxFrom 1 15).foldl (fun (s : State) q => s.setMfield (portRegs q + 0x18) 0 1 0) s
  (upto 8).foldl (fun (s : State) k => s.setMfield (0x1000 + 0x100 * k) 0 2 0) s

/-- PWRCMD_SLEEP (R417, R418): every channel is in self-refresh, and Byder and port 0 alone keep power. -/
def execPwrcmdSleep (s : State) : Out State Fault Refusal :=
  .next (s.powerCmd 2 (· == .nap) fun s => ({ s.linksOff with selfRefresh := allChannels } : State).setPower .sleep)

/-- PWRCMD_WAKE (R417, R418). -/
def execPwrcmdWake (s : State) : Out State Fault Refusal := .next (s.powerCmd 3 (· == .sleep) fun s => s.setPower .nap)

/-- The package loses power (R417): flash, fuses and Byder's record remain. -/
def State.powerOff (s : State) : State :=
  s.restart { s.byder with mode := .off, power := .off, stage := 0, debug := .none, debugPart := 0, staging := [],
                           measured := [], cacheMode := false }

/-- PWRCMD_OFF (R417, R418). -/
def execPwrcmdOff (s : State) : Out State Fault Refusal := .next (s.powerCmd 4 (fun _ => true) State.powerOff)

/-- POWER_LOSS (R417). -/
def execPowerLoss (s : State) : Out State Fault Refusal := .next s.powerOff

/-- IDLE_ENTRY (R417): no resident block and no eligible slot for IDLETIME. -/
def execIdleEntry (s : State) : Out State Fault Refusal :=
  .next (if s.byder.power = .active && s.byder.mode == .normal && !(s.blocks.any fun b => b.st == .resident) && s.nextSlot.isNone then
    s.setPower .idle else s)

/-- IDLE_WAKE (R417): a packet can take effect. -/
def execIdleWake (s : State) : Out State Fault Refusal := .next (if s.packetReady then s.wakeIdle else s)

/-- NAP_WAKE (R417): a packet can take effect; the saved images are loaded back. -/
def execNapWake (s : State) : Out State Fault Refusal := .next (if s.packetReady then s.wakeNap else s)

/-! ## Partitions -/

/-- The registers of a partition's fields (R425): as written, and in force at the offset + 0x10000. -/
def partRegs (part : Nat) : Nat := 0x3000 + 0x40 * part

/-- A partition is empty (R426): a block in a swap image is neither resident nor evicted. -/
def State.partEmpty (s : State) (part : Nat) : Bool :=
  !(s.blocks.any fun b => (b.st == .resident || b.st == .evicted) && (s.launch? b.launch).any fun l => l.part == part) &&
  !(s.slots.any fun x => x.part == part) &&
  s.mfield (0x420 + 0x40 * part) 0 24 == s.frameCount part &&
  !((upto 8).any fun k => s.mfield (0x1000 + 0x100 * k) 0 1 == 1 && s.mfield (0x1000 + 0x100 * k) 8 3 == part)

/-- Two ranges, each base and length, meet. -/
def baseSizeMeet (a b : Nat × Nat) : Bool := decide (a.1 < b.1 + b.2) && decide (b.1 < a.1 + a.2) && decide (0 < a.2) && decide (0 < b.2)

/-- The octants, slots and memory ranges that fields at an offset name (R425). -/
def State.fieldsAt (s : State) (base : Nat) : Nat × (Nat × Nat) × List (Nat × Nat) :=
  (s.mfield base 0 8, (s.mfield (base + 0x10) 0 14, s.mfield (base + 0x10) 16 15),
   (upto 4).map fun r => (s.mfield (base + 0x18 + 8 * r) 0 18, s.mfield (base + 0x18 + 8 * r) 18 18))

/-- Two partitions' fields share an octant, a slot or a range (R426). -/
def fieldsShare (a b : Nat × (Nat × Nat) × List (Nat × Nat)) : Bool :=
  (a.1 &&& b.1) != 0 || baseSizeMeet a.2.1 b.2.1 || a.2.2.any fun x => b.2.2.any fun y => baseSizeMeet x y

/-- APPLY's verdict (R425, R426): RESULT 1, 2 or 3 where it applies nothing. -/
def State.applyError (s : State) (part : Nat) : Option Nat :=
  let new := s.fieldsAt (partRegs part)
  if (upto 8).any fun q => q != part && fieldsShare new (s.fieldsAt (partRegs q + 0x10000)) then some 1
  else if !(s.partEmpty part) then some 2
  else if new.1 != 0 && !(s.coreMap.any fun c => (BitVec.ofNat 8 new.1).getLsbD (c.core / 64)) then some 3
  else none

/-- The swap images of octants are cleared, with the blocks that they hold (R426). -/
def State.clearImages (s : State) (moved : BitVec 8) : State :=
  let gone := fun (b : Block) => (match b.st with
    | .saved _ => true
    | _ => false) && moved.getLsbD (b.core / 64)
  let us := (s.blocks.filter gone).map (·.uid)
  { s with images := s.images.filter fun x => !(moved.getLsbD (x.core / 64)),
           tasks := s.tasks.filter fun t => !(us.contains t.block), blocks := s.blocks.filter fun b => !(gone b) }

/-- The fields of a partition take effect (R426): PSIG, the images of its octants, ACTIVE. -/
def State.applyPart (s : State) (part : Nat) : State :=
  let old := s.octants part
  let s := [0, 0x10, 0x18, 0x20, 0x28, 0x30].foldl (fun (s : State) o => s.setMreg (partRegs part + 0x10000 + o) (s.mreg (partRegs part + o))) s
  ((s.clearImages (BitVec.ofNat 8 (old ^^^ s.octants part))).signPart part).setMfield (0x800 + 0x20 * part) 2 1 0

/-- APPLY (R425, R426). -/
def execApply (part : BitVec 3) (s : State) : Out State Fault Refusal :=
  s.command fun s => .next (match s.applyError part.toNat with
    | some r => s.setMfield (partRegs part.toNat + 0x38) 4 4 r
    | none => (s.applyPart part.toNat).setMfield (partRegs part.toNat + 0x38) 4 4 0)

/-! ## Swaps -/

/-- The cores of a partition take the state of an image: SCRWAY and the slots as they were saved, empty where none was;
caches empty (R404). -/
def State.loadImage (s : State) (part image : Nat) : State :=
  ((s.partCores part).map (·.core)).foldl (fun (s : State) c =>
    let x := (s.images.find? fun x => x.area == 2 * part + image && x.core == c).getD
      { area := 0, core := c, scrway := 0xFF, slots := [], slotPoison := [] }
    s.setCore c { s.core c with scrway := x.scrway, l1 := [], tlb := [], slots := x.slots, slotPoison := x.slotPoison }) s

/-- The blocks of a partition in a placement state. -/
def State.partBlocks (s : State) (part : Nat) (p : BlockSt → Bool) : List Block :=
  s.blocks.filter fun b => p b.st && (s.launch? b.launch).any fun l => l.part == part

/-- A swap (R404): the partition's resident blocks are saved with the cores' state in the active image, the other
image's are loaded, and ACTIVE inverts. -/
def State.swap (s : State) (part : Nat) : State :=
  let image := s.activeImage part
  let out := (s.partBlocks part (· == .resident)).map (·.uid)
  let s := (s.saveBlocks out fun b => { b with st := .saved image }).keepImage part image
  let s := s.loadImage part (1 - image)
  let back := s.partBlocks part (· == .saved (1 - image))
  let s := back.foldl (fun s b => s.restoreBlock b b.core b.base) s
  let s := { s with images := s.images.filter fun x => x.area != 2 * part + (1 - image) }
  let s := s.setMfield (0x800 + 0x20 * part) 2 1 (1 - image)
  (s.checkRestored (back.map (·.uid))).setMfield (0x800 + 0x20 * part) 4 4 0

/-- SWAP (R403, R404, R418): one started in NAP or SLEEP is BUSY until the package is ACTIVE; GO while BUSY is ignored. -/
def execSwap (part : BitVec 3) (s : State) : Out State Fault Refusal :=
  let reg := 0x800 + 0x20 * part.toNat
  .next (
    if !s.byderOpen then s
    else if s.mfield reg 1 1 = 1 then s.setMfield reg 4 4 1
    else if s.dispatching then s.wakeIdle.swap part.toNat else s.setMfield reg 1 1 1)

/-- A swap that waits for the package to be ACTIVE runs (R418). -/
def State.swapNext (s : State) : Option State :=
  if !s.dispatching then none
  else ((upto 8).find? fun p => s.mfield (0x800 + 0x20 * p) 1 1 == 1).map fun p =>
    (s.setMfield (0x800 + 0x20 * p) 1 1 0).swap p

end Sys2Proof.Machine
end

