-- ==== Sys2Proof/Machine/Qpair.lean ====
section
/-! DEFINITION. Queue pairs (R355, R356, R358, R367): regions, the receive rings of SENDs, connections, and the commands that
make and end queue pairs. -/
namespace Sys2Proof.Machine

/-! ## Regions -/

/-- A region entry from its bytes; none where it is not VALID or a reserved bit is set. -/
def regionOf (b : List Byte) : Option RegionEntry :=
  let perm := fieldOf b 18 1
  if perm / 4 % 2 = 0 || 8 ≤ perm || 8 ≤ fieldOf b 19 1 || 4 ≤ fieldOf b 20 1 || fieldOf b 21 11 != 0 then none
  else some { base := fieldOf b 0 8, length := fieldOf b 8 8, tag := fieldOf b 16 2, rd := perm % 2 == 1,
              wr := perm / 2 % 2 == 1, part := fieldOf b 19 1, kind := fieldOf b 20 1 }

/-- The built-in table (R367): index 0 the management window, index 1 the staging window, tag 0. -/
def builtInRegion (i : Nat) : Option RegionEntry :=
  match i with
  | 0 => some { base := 0, length := 0x10000, tag := 0, rd := true, wr := true, part := 0, kind := 2 }
  | 1 => some { base := 0, length := 0x4000000, tag := 0, rd := true, wr := true, part := 0, kind := 3 }
  | _ => none

/-- The bytes of an entry of the region table in memory. -/
def State.regionBytes (s : State) (i : Nat) : List Byte := s.mem.bytes (s.mfield 0x4010 5 43 * 32 + 32 * i) 32

/-- A region by its index (R358, R367): the entry that the device holds, or else the one in the table. -/
def State.region (s : State) (i : Nat) : Option RegionEntry :=
  if !s.rgnTable then builtInRegion i
  else match s.regions.find? fun r => r.index == i with
    | some r => regionOf r.bytes
    | none => regionOf (s.regionBytes i)

/-- An entry of the table that a request uses is held from then on (R367). -/
def State.holdRegion (s : State) (i : Nat) : State :=
  if !s.rgnTable || s.regions.any (fun r => r.index == i) then s
  else { s with regions := { index := i, bytes := s.regionBytes i } :: s.regions }

/-- The targets of R357. -/
inductive Target where
  | memory (part : Nat)
  | notify (slot : Nat)
  | management (off : Nat)
  | staging (off : Nat)
  deriving DecidableEq, Repr

/-- The kind of region that an address needs, and the offset that the region's range is compared with (R357, R367). -/
def targetKind (va : Nat) : Option (Nat × Nat) :=
  if va < 2 ^ 57 then some (0, va)
  else if 2 ^ 63 ≤ va && va < 2 ^ 63 + 8 * 16384 then some (1, va - 2 ^ 63)
  else if 0x8000000100000000 ≤ va && va ≤ 0x800000010000FFFF then some (2, va - 0x8000000100000000)
  else if 0x8000000200000000 ≤ va && va ≤ 0x8000000203FFFFFF then some (3, va - 0x8000000200000000)
  else none

/-- The target of a request that passes the checks of R357 and R358 against the entry that its key names; none is a remote
access error. -/
def targetOf (e : Option RegionEntry) (q : Qp) (rkey : Word) (va n : Nat) (wr : Bool) : Option Target :=
  match targetKind va, e with
  | some (kind, off), some r =>
    if r.tag != rkey.toNat % 2 ^ 16 || r.kind != kind || !(if wr then r.wr else r.rd) || off < r.base ||
        r.base + r.length < off + n || (2 ≤ kind && !q.priv) then none
    else match kind with
      | 0 => some (.memory r.part)
      | 1 => if wr && n == 8 && off % 8 == 0 then some (.notify (off / 8)) else none
      | 2 => if off + n ≤ 0x10000 then some (.management off) else none
      | _ => if wr && decide (off + n ≤ 0x4000000) then some (.staging off) else none
  | _, _ => none

/-- The target of a request by the entry as it stands now. -/
def State.target (s : State) (q : Qp) (rkey : Word) (va n : Nat) (wr : Bool) : Option Target :=
  targetOf (s.region (rkey.toNat / 2 ^ 16)) q rkey va n wr

/-! ## Queue pairs -/

/-- The queue pair with a number, unless it is in error. -/
def State.qp? (s : State) (n : Nat) : Option Qp := s.qps.find? fun q => q.qpn == n && !q.err
/-- Replace a queue pair. -/
def State.setQp (s : State) (q : Qp) : State := { s with qps := s.qps.map fun x => if x.qpn == q.qpn then q else x }
/-- A message goes onto the wire. -/
def State.send (s : State) (m : WireMsg) : State := { s with wire := s.wire ++ [m] }

/-- The path MTU of a queue pair (R355, R367). -/
def Qp.mtu (q : Qp) : Nat := 1024 * 2 ^ (fieldOf q.desc 1 1 / 2 % 4)

/-- The packets of a message of `n` bytes. -/
def Qp.packets (q : Qp) (n : Nat) : Nat := Nat.max 1 (ceilDiv n q.mtu)

/-- A message of `n` bytes has used its packet sequence numbers; the peer is heard, so that retries count anew. -/
def State.passPsn (s : State) (q : Qp) (n : Nat) : State :=
  s.setQp { q with rpsn := (q.rpsn + q.packets n) % 2 ^ 24, retries := 0 }

/-- A CNP answers each packet of a request that carries an ECN mark (R355); how many do is the network's (log 33). -/
def State.ecn (s : State) (q : Qp) (n : Nat) : State :=
  { s with wire := s.wire ++ List.replicate ((Config.freeWord s.fresh 8200000).toNat % (q.packets n + 1)) (.cnp q.qpn) }

/-- Requests of a queue pair are served: on a host port (R354), in Dawn mode and in SLEEP those of port 0's privileged one
alone (R411, R417). -/
def State.qpOpen (s : State) (q : Qp) : Bool :=
  match s.byder.mode with
  | .off => false
  | .dawn => q.priv
  | .normal => s.hostRole q.port && s.byder.stage == 8 && s.byder.power != .off && (s.byder.power != .sleep || (q.priv && q.port == 0))

/-- Memory is served: not in Dawn mode, where only the windows are, and not in SLEEP. -/
def State.memOpen (s : State) : Bool := s.byder.mode == .normal && s.byder.power != .sleep

/-- An invalid request (R355): a NAK, and the queue pair is in error. -/
def State.invalidRequest (s : State) (q : Qp) : State := (s.setQp { q with err := true }).send (.nak q.qpn 1)

/-- CNP (R355, R433): the rate is lowered, by parameters that firmware sets; the packet is counted. -/
def execCnp (qpn : Nat) (s : State) : Out State Fault Refusal :=
  .next (match s.qp? qpn with
    | some q => if s.qpOpen q then (s.setQp { q with rateCuts := q.rateCuts + 1 }).countMreg (portRegs q.port + 8) 0 else s
    | none => s)

/-- LOCAL_ACK_TIMEOUT (R367): a message is sent again, or the queue pair fails after RETRY attempts. -/
def execLocalAckTimeout (qpn : Nat) (s : State) : Out State Fault Refusal :=
  .next (match s.qp? qpn with
    | some q =>
      if !(s.qpOpen q) then s
      else if fieldOf q.desc 54 1 ≤ q.retries then s.setQp { q with err := true }
      else (s.setQp { q with retries := q.retries + 1 }).send (.retry qpn)
    | none => s)

/-! ## Writes of device memory -/

/-- What keeps a request from device memory: a remote access error (2), a remote operational error (3), or a page that is
away. -/
inductive RdmaStop where
  | nak (code : Nat)
  | away (va pte entry : Nat)
  deriving DecidableEq, Repr

/-- The places of a range of device memory for a request (R357, R358): a translation that fails is a remote access error,
poison a remote operational error. -/
def State.rdmaLocs (s : State) (part va n : Nat) (wr : Bool) : Except RdmaStop (List Loc) :=
  let a := deviceAccessor part
  if n = 0 then .ok []
  else match s.badRange a va n 1 wr with
    | some _ => .error (.nak 2)
    | none => match s.poisonRange a va n wr with
      | some _ => .error (.nak 3)
      | none => match s.awayRange a va n wr with
        | some (v, pte, e) => .error (.away v pte e)
        | none => .ok (s.locs a va n wr)

/-- A request of a queue pair meets a stop: it is refused, or waits for the page's read, which it starts, and
the later ones of the queue pair wait behind it (R278, R358, R359). -/
def State.rdmaStop (s : State) (q : Qp) (r : HeldRequest) (part : Nat) (e : RdmaStop) : State :=
  match e with
  | .nak c => s.send (.nak q.qpn c)
  | .away v pte e => (s.setQp { q with held := r :: q.held, due := none }).devAwait part v pte e (.request q.qpn)

/-- The index of the region that a request's key names (R358): of a SEND that of its receive ring (R356). -/
def Request.region (q : Qp) : Request → Option Nat
  | .send _ => some (fieldOf q.desc 48 4 / 2 ^ 16)
  | .write rkey _ _ | .read rkey _ _ => some (rkey.toNat / 2 ^ 16)
  | .refused => none

/-- A request as its queue pair accepts it (R367), with its region's entry as it stands. -/
def State.accepted (s : State) (q : Qp) (r : Request) : HeldRequest :=
  { req := r, entry := (r.region q).bind s.region }

/-- The device holds the entry that an accepted request uses (R367). -/
def State.holdFor (s : State) (q : Qp) (r : Request) : State := ((r.region q).map s.holdRegion).getD s

/-- READs of a queue pair that are outstanding (R355). -/
def Qp.reads (q : Qp) : Nat :=
  (q.held.filter fun h => match h.req with
    | .read .. => true
    | _ => false).length

/-- A request as a queue pair takes it: with 16 READs outstanding another one is an invalid request (R355). -/
def Qp.takes (q : Qp) (r : Request) : Request :=
  match r with
  | .read .. => if 16 ≤ q.reads then .refused else r
  | _ => r

/-- A request of `n` bytes arrives on a queue pair: CNPs answer its marked packets; behind requests that wait it
waits too (R355, R359), otherwise `f` serves it. -/
def State.request (s : State) (qpn : Nat) (r : Request) (n : Nat)
    (f : Qp → HeldRequest → State → Out State Fault Refusal) : Out State Fault Refusal :=
  match s.qp? qpn with
  | none => .next s
  | some q =>
    if !(s.qpOpen q) then .next s
    else
      let r := q.takes r
      let h := s.accepted q r
      let s := (s.ecn q n).holdFor q r
      if q.held.isEmpty then f q h s else .next (s.setQp { q with held := q.held ++ [h] })

/-- REFUSED_OPERATION (R355, R359): a NAK for an invalid request after the answers to the messages before it, and the queue
pair is in error. CNPs answer its marked packets; how many it has is the network's, at most those of 2^31 bytes (log 33). -/
def execRefusedOperation (qpn : Nat) (s : State) : Out State Fault Refusal :=
  s.request qpn .refused (2 ^ 31) fun q _ s => .next (s.invalidRequest q)

/-- A SEND is served (R356, R358): the payload goes to the next entry of the receive ring; a ring that is full answers with
an RNR NAK, code 32. The spec does not say how an entry becomes free, so once every entry has been used it is a free choice
whether the ring is full (log 33). -/
def State.serveSend (s : State) (q : Qp) (h : HeldRequest) (payload : List Byte) : State :=
      let qpn := q.qpn
      if 4032 < payload.length then s.invalidRequest q
      else if fieldOf q.desc 52 2 ≤ q.ringPut && Config.choice s.fresh 8000002 then s.send (.nak qpn 32)
      else
        let va := (fieldOf q.desc 40 8 + 4096 * (q.ringPut % Nat.max 1 (fieldOf q.desc 52 2))) % 2 ^ 64
        let key := BitVec.ofNat 32 (fieldOf q.desc 48 4)
        let bytes := natLe 64 payload.length ++ payload
        match (if s.memOpen then targetOf h.entry q key va bytes.length true else none) with
        | some (.memory part) =>
          match s.rdmaLocs part va bytes.length true with
          | .error (.nak _) => s.send (.nak qpn 3)
          | .error e => s.rdmaStop q h part e
          | .ok ls => ((s.applyBytes (ls.zip bytes)).passPsn { q with ringPut := q.ringPut + 1 } payload.length).send (.ack qpn)
        | _ => s.send (.nak qpn 3)

/-- SEND (R356). -/
def execSend (qpn : Nat) (payload : List Byte) (s : State) : Out State Fault Refusal :=
  s.request qpn (.send payload) payload.length fun q h s => .next (s.serveSend q h payload)

/-! ## Making and ending queue pairs -/

/-- The rules of R367 for a queue-pair descriptor. -/
def State.qpDescOk (s : State) (d : List Byte) : Bool :=
  decide (fieldOf d 0 1 < 16) && s.hostRole (fieldOf d 0 1) && decide (fieldOf d 1 1 < 8) && fieldOf d 1 1 / 2 != 3 &&
  fieldOf d 3 1 == 0 && fieldOf d 7 1 == 0 && decide (1 ≤ fieldOf d 52 2) && decide (fieldOf d 54 1 ≤ 7) &&
  decide (fieldOf d 55 1 ≤ 7) && decide (fieldOf d 56 1 ≤ 31) && fieldOf d 57 7 == 0 && fieldOf d 68 60 == 0

/-- A port has all its queue pairs (R355). -/
def State.portFull (s : State) (port : Nat) : Bool := decide (4096 ≤ (s.qps.filter fun q => q.port == port).length)

/-- A queue pair is made with the next number. -/
def State.makeQp (s : State) (d : List Byte) (port : Nat) (priv : Bool) : State :=
  { s with nextQpn := s.nextQpn + 1, qps := s.qps ++
      [{ qpn := s.nextQpn, port := port, priv := priv, desc := d, spsn := fieldOf d 32 3, rpsn := fieldOf d 36 3, ringPut := 0,
         retries := 0, rateCuts := 0, err := false, held := [], due := none }] }

/-- CONNECTION_REQUEST (R367, R411): one connection for each host port, in Dawn mode on port 0; later ones are refused, and
so is one whose queue pair CREATE would not make: its values are not a descriptor's, its path MTU is not of the subset, or
the port has 4,096 queue pairs (R355). -/
def execConnectionRequest (port : Nat) (desc : List Byte) (s : State) : Out State Fault Refusal :=
  .next (
    let open_ := match s.byder.mode with
      | .off => false
      | .dawn => port == 0
      | .normal => s.byder.stage == 8 && s.byder.power != .off && (s.byder.power != .sleep || port == 0)
    if !open_ || !(s.hostRole port) then s
    else if s.connected.contains port || !(s.qpDescOk desc) || fieldOf desc 0 1 != port || s.portFull port then s.send (.connReject port)
    else ({ s.makeQp desc port true with connected := port :: s.connected } : State).send (.connAccept port s.nextQpn))

/-- Bytes of the descriptor that QPDESC names, from offset `lo` on; none where a sector of them is poisoned. -/
def State.qpDesc (s : State) (lo n : Nat) : Option (List Byte) :=
  let pa := s.mfield 0x4000 7 41 * 128 + lo
  if (idxFrom (pa / 32) (ceilDiv n 32)).any fun g => s.poison.contains g then none else some (s.physBytes pa n)

/-- OP and RESULT of QPCMD. -/
def State.qpResult (s : State) (op r : Nat) : State := (s.setMfield 0x4008 0 2 op).setMfield 0x4008 4 4 r

/-- CREATE (R367): RESULT 3, 2 or 4 where the descriptor is invalid, the port full, or PRIV is not allowed; the command
arrives on queue pair `qpn`. -/
def execCreate (qpn : Nat) (s : State) : Out State Fault Refusal :=
  s.command fun s => .next (match s.qpDesc 0 128 with
    | none => s.qpResult 1 3
    | some d =>
      let port := fieldOf d 0 1
      let priv := fieldOf d 1 1 % 2 == 1
      if !(s.qpDescOk d) then s.qpResult 1 3
      else if s.portFull port then s.qpResult 1 2
      else if priv && !(s.qps.any fun q => q.qpn == qpn && q.priv) then s.qpResult 1 4
      else ((s.makeQp d port priv).setMfield 0x4008 8 24 s.nextQpn).qpResult 1 0)

/-- DESTROY (R367): the queue pair that bytes 64 to 67 of the descriptor name ends; each of its outstanding messages is
answered with a NAK. -/
def execDestroy (s : State) : Out State Fault Refusal :=
  s.command fun s => .next (match s.qpDesc 64 4 with
    | none => s.qpResult 2 1
    | some d =>
      match s.qps.find? fun q => q.qpn == leNat d with
      | some q =>
        let s := ({ s with qps := s.qps.filter fun x => x.qpn != q.qpn } : State).qpResult 2 0
        { s with wire := s.wire ++ q.held.map fun _ => .nak q.qpn 1 }
      | none => s.qpResult 2 1)

/-- RGNINV (R367): the device holds the entry as it stands in the table now. -/
def execRgninv (index : BitVec 16) (s : State) : Out State Fault Refusal :=
  s.command fun s =>
    let s := s.setMfield 0x4018 0 16 index.toNat
    .next (if !s.rgnTable then s
      else { s with regions := { index := index.toNat, bytes := s.regionBytes index.toNat } ::
        s.regions.filter fun r => r.index != index.toNat })

end Sys2Proof.Machine
end

