-- ==== Sys2Proof/Machine/System.lean ====
section
/-! DEFINITION. System registers (R44 to R48, R167, R392, R393), traps on purpose (R168), ERET (R169), YIELD, NOP and
CYCLES (R170), END and KILL (R171). -/
namespace Sys2Proof.Machine

/-! ## System registers -/

/-- The stream with an index (R392). -/
def streamOf (n : Nat) : StreamId :=
  match n % 4 with
  | 0 => .s
  | 1 => .v
  | 2 => .m
  | _ => .c

/-- The counter that CYCLO and CYCHI read: the die's cycles, or in a deterministic launch the task's count of completed
commits (R48, R303). -/
def State.cycleCount (s : State) (t : Task) : Dword :=
  if t.det then BitVec.ofNat 64 t.commits else nth s.cycles (s.coreOf t / 128) 0

/-- The cycle counter of a task's die has moved on by the time it is read (R48; log 12). -/
def State.tickDie (s : State) (t : Task) : State :=
  let d := s.coreOf t / 128
  { s with cycles := s.cycles.set d (nth s.cycles d 0 + Config.cyclesPassed s.fresh) }

/-- Write a trap program counter (R392). -/
def Task.setTpc (t : Task) (k : StreamId) (v : Dword) : Task :=
  match k with
  | .s => { t with tpcS := v }
  | .v => { t with tpcV := v }
  | .m => { t with tpcM := v }
  | .c => { t with tpcC := v }

/-- One half of a 64-bit register: the low half at the even index (R392). -/
def halfOf (v : Dword) (i : Nat) : Word := if i % 2 = 0 then v.lo else v.hi
/-- Replace one half of a 64-bit register (R392). -/
def setHalf (v : Dword) (i : Nat) (w : Word) : Dword := if i % 2 = 0 then Dword.mk w v.hi else Dword.mk v.lo w

/-- The registers below 0x100 (R44 to R48); none where the index is not listed. -/
def State.userReg (s : State) (t : Task) (k : StreamId) (i : Nat) : Option Word :=
  let st := t.st k
  let b := (s.blockOf t).getD .init
  match i with
  | 0x000 => some (BitVec.ofNat 32 t.taskId)
  | 0x001 => some (BitVec.ofNat 32 b.bid)
  | 0x002 => some (BitVec.ofNat 32 (((s.span? b.span).map (·.sid)).getD 0))
  | 0x003 => some (BitVec.ofNat 32 t.slot)
  | 0x004 => some (BitVec.ofNat 32 b.core)
  | 0x005 => some (BitVec.ofNat 32 (b.core / 128))
  | 0x006 => some (BitVec.ofNat 32 (s.mfield 0x4030 0 12))
  | 0x007 => some (BitVec.ofNat 32 t.launch)
  | 0x010 => some st.fpmode
  | 0x011 => some st.fpflags
  | 0x012 => some t.srseed
  | 0x013 => some st.srcnt
  | 0x020 => some t.mbnda
  | 0x021 => some t.mbndu
  | 0x022 => some t.mbndf
  | 0x030 => some (BitVec.ofNat 32 (t.chk.toNat + 2 * t.det.toNat))
  | 0x031 => some (BitVec.ofNat 32 (t.nrows % 256 + t.inUse * 256))
  | 0x040 => some (s.cycleCount t).lo
  | 0x041 => some (st.cyc.getD (s.cycleCount t).hi)
  | 0x050 => some t.droop
  | 0x051 => some t.runcnt
  | _ => none

/-- The privileged registers (R392, R393); none where the index is not listed. -/
def State.privReg (s : State) (t : Task) (i : Nat) : Option Word :=
  let core := s.coreOf t
  if 0x200 ≤ i && i < 0x280 then some ((t.st (streamOf ((i - 0x200) / 32))).reg (BitVec.ofNat 5 i))
  else if i = 0x100 || i = 0x101 then some (halfOf t.tvec i)
  else if i = 0x102 then some t.tcause
  else if i = 0x103 then some t.tstat
  else if 0x104 ≤ i && i ≤ 0x10B then some (halfOf (t.tpc (streamOf ((i - 0x104) / 2))) i)
  else if i = 0x10C || i = 0x10D then some (halfOf t.tinfo i)
  else if i = 0x110 then some t.tsave0
  else if i = 0x111 then some t.tsave1
  else if i = 0x112 then some t.tsave2
  else if i = 0x113 then some t.tsave3
  else if i = 0x120 || i = 0x121 then some (halfOf (BitVec.ofNat 64 (s.lfrBase t.part core)) i)
  else if i = 0x122 then some (s.core core).scrway
  else if i = 0x123 then some (BitVec.ofNat 32 (s.mfield (0x818 + 0x20 * t.part) 0 16))
  else none

/-- The value that SYSRD returns, after the PRIV and OPERAND checks (R44, R167, R392). -/
def State.sysRead (s : State) (t : Task) (k : StreamId) (i : Nat) : Except Stop Word :=
  if 0x100 ≤ i && !t.tmode then trapWith clsPriv 1
  else match (if i < 0x100 then s.userReg t k i else s.privReg t i) with
    | some v => .ok v
    | none => trapWith clsIllegal 4

/-- SYSRD (R167). A read of CYCLO latches the high half for the stream (R48); a read of a register that words in flight
still write waits for them (R45, R221; log 91). -/
def execSysrd (d : BitVec 5) (i : BitVec 12) (s : State) : Out State Fault Refusal :=
  issue .scalar s fun t k => do
    let s : State := if i = 0x040 || i = 0x041 then s.tickDie t else s
    let v ← s.sysRead t k i.toNat
    if k == .v && i == 0x011 && !t.sb.isEmpty then .error (.wait .score)
    else
      let st := t.st k
      let st := if i = 0x040 then { st with cyc := some (s.cycleCount t).hi } else st
      return s.retire t k (st.setReg d v)

/-- A way that holds part of an allocation of the core, or lies below one (R88). -/
def State.wayPinned (s : State) (core : Nat) (old : Word) (w : Nat) : Bool × Bool :=
  let held := (s.blocks.filter fun b => b.core == core && b.st == .resident && b.size != 0).flatMap fun b =>
    (idxFrom (b.base / 49152) ((b.base + b.size - 1) / 49152 + 1 - b.base / 49152)).filterMap fun i => (scratchWays old)[i]?
  (held.contains w, held.any fun h => decide (w < h))

/-- A SYSWR to SCRWAY (R88): it waits for footprints in flight on the ways that change, is ignored where a live
allocation would move or leave scratch, and L1 keeps no line when every way is scratch. -/
def State.writeScrway (s : State) (core : Nat) (new : Word) : Except Stop State :=
  let x := s.core core
  let old := x.scrway
  if s.waysBusy core new then .error (.wait (.ways new))
  else if (waysChanged old new).any fun w =>
      let (held, below) := s.wayPinned core old w
      (held && !new.getLsbD w) || below then .ok s
  else .ok (s.setCore core { x with scrway := new, l1 := if new = 0xFFFF then [] else x.l1 })

/-- The task after a write of a user register (R44 to R47); a write to an RO register or field is ignored. -/
def Task.writeUser (t : Task) (k : StreamId) (i : Nat) (w : Word) : Task :=
  let st := t.st k
  match i with
  | 0x010 => t.setSt k { st with fpmode := w &&& 0xFF07 }
  | 0x011 => t.setSt k { st with fpflags := w &&& 0xFF }
  | 0x012 => { t with srseed := w }
  | 0x013 => t.setSt k { st with srcnt := w }
  | 0x030 => { t with chk := w.getLsbD 0 }
  | _ => t

/-- The task after a write of a privileged register of its own (R392, R393). -/
def Task.writePriv (t : Task) (i : Nat) (w : Word) : Task :=
  if 0x200 ≤ i && i < 0x280 then
    let k := streamOf ((i - 0x200) / 32)
    t.setSt k ((t.st k).setReg (BitVec.ofNat 5 i) w)
  else if i = 0x100 || i = 0x101 then { t with tvec := setHalf t.tvec i w &&& ~~~0xFFF }
  else if i = 0x103 then { t with tended := t.tended ||| w.extractLsb' 0 4 }
  else if 0x104 ≤ i && i ≤ 0x10B then
    let k := streamOf ((i - 0x104) / 2)
    t.setTpc k (setHalf (t.tpc k) i w &&& ~~~3)
  else if i = 0x110 then { t with tsave0 := w }
  else if i = 0x111 then { t with tsave1 := w }
  else if i = 0x112 then { t with tsave2 := w }
  else if i = 0x113 then { t with tsave3 := w }
  else t

/-- SYSWR (R167). Like a read, a write of FPFLAGS waits for the words in flight that still set flags (R45, R221; log 91). -/
def execSyswr (a : BitVec 5) (i : BitVec 12) (s : State) : Out State Fault Refusal :=
  issue .scalar s fun t k => do
    let _ ← s.sysRead t k i.toNat
    let w := (t.st k).reg a
    if k == .v && i == 0x011 && !t.sb.isEmpty then .error (.wait .score)
    else if i = 0x122 then
      let s ← s.writeScrway (s.coreOf t) (w &&& 0xFFFF)
      return s.retire t k (t.st k)
    else
      let t := if i.toNat < 0x100 then t.writeUser k i.toNat w else t.writePriv i.toNat w
      return s.retire t k (t.st k)

/-! ## Traps on purpose and the end of a stream -/

/-- TRAP (R168): it retires, and USER is raised at the next instruction. -/
def execTrap (c : BitVec 8) (s : State) : Out State Fault Refusal :=
  issue .scalar s fun t k =>
    let t := t.setSt k (t.advance (t.st k) 1)
    .ok ((s.setTask t).takeTrap t k (t.st k).pc false 0 { cls := clsUser, sub := c.toNat })

/-- BKPT (R168). -/
def execBkpt (s : State) : Out State Fault Refusal := issue .scalar s fun _ _ => trapWith clsDebug 1

/-- ERET (R169, R395). -/
def execEret (s : State) : Out State Fault Refusal :=
  issue .scalar s fun t _ => if t.tmode then .ok (s.setTask t.eret) else trapWith clsPriv 2

/-- YIELD (R170): the run ends. -/
def execYield (s : State) : Out State Fault Refusal :=
  issue .scalar s fun t k => .ok (s.setTask (t.setSt k { t.advance (t.st k) 1 with granted := false, run := 0 }))

/-- NOP (R170). -/
def execNop (s : State) : Out State Fault Refusal := streamOp .scalar (fun st => st) s

/-- CYCLES (R170): the stream issues nothing until its cycles have passed. -/
def execCycles (a : BitVec 5) (i : BitVec 14) (s : State) : Out State Fault Refusal :=
  issue .scalar s fun t k =>
    let st := t.st k
    let n := st.reg a + i.zeroExtend 32
    if n = 0 then .ok (s.retire t k st)
    else
      let st := { t.advance st 1 with status := .waiting (.cycles (s.now + n.toNat)), granted := false, run := 0 }
      .ok (s.setTask (t.setSt k st))

/-- The cycles of a CYCLES have passed (R170). -/
def State.expireCycles (s : State) (u : Nat) (k : StreamId) : State :=
  match s.task? u with
  | none => s
  | some t =>
    match (t.st k).status with
    | .waiting (.cycles c) =>
      { s.setTask (t.setSt k { t.st k with status := if t.tmode then .trap else .ready }) with now := Nat.max s.now c }
    | _ => s

/-- CYCLES_EXPIRY (R170). -/
def execCyclesExpiry (u : Nat) (k : StreamId) (s : State) : Out State Fault Refusal := .next (s.expireCycles u k)

/-- END (R15, R171): the stream is ENDED and its program counter stays at the END (R23). -/
def execEndStream (s : State) : Out State Fault Refusal :=
  issue .scalar s fun t k =>
    if t.tmode then trapWith clsPriv 3
    else
      let st := t.st k
      .ok ((s.setTask (t.setSt k { st with status := .ended, granted := false, run := 0, retired := st.retired + 1 })).testDeadlock t.uid)

/-- KILL (R23, R171). -/
def execKill (s : State) : Out State Fault Refusal := issue .scalar s fun t _ => .ok (s.setTask (t.killAll (clsUser, 0)))

end Sys2Proof.Machine
end

