-- ==== Sys2Proof/Machine/Regs.lean ====
section
/-! DEFINITION. The registers of the management window (R6, R363, R367, R380, R403, R420, R425, R427, R431, R433, R434): their
access codes, the commands that a write starts, and what a read gives. -/
namespace Sys2Proof.Machine

/-- The bits from `lo` on, `n` of them. -/
def span (lo n : Nat) : Nat := (2 ^ n - 1) * 2 ^ lo

/-- The RW bits of a register that keep what is written (R6); a bit that starts a command and reads 0 is none of them. -/
def rwMask (off : Nat) : Nat :=
  if off = 0x0000 then span 0 64
  else if off = 0x0008 then span 0 21
  else if off = 0x0010 then span 0 36
  else if off = 0x0100 then span 0 4
  else if off = 0x0108 then span 12 45
  else if off = 0x0110 then span 0 32
  else if 0x0140 ≤ off && off < 0x0180 then span 0 1 + span 12 36
  else if off = 0x0188 then span 0 16
  else if 0x0400 ≤ off && off < 0x0600 then
    match off % 0x40 with
    | 0x00 => span 16 32
    | 0x08 => span 0 24
    | 0x10 => span 5 43
    | 0x18 => span 0 24
    | 0x28 => span 16 32
    | _ => 0
  else if 0x0600 ≤ off && off < 0x0700 then
    match off % 0x20 with
    | 0x00 => span 5 43
    | 0x08 => span 0 5
    | 0x18 => span 0 32
    | _ => 0
  else if 0x0800 ≤ off && off < 0x0900 then
    match off % 0x20 with
    | 0x00 => span 3 1
    | 0x08 => span 12 52
    | 0x10 => span 12 52
    | _ => span 0 16
  else if 0x1000 ≤ off && off < 0x1800 then
    if off % 0x100 = 0 then span 8 3 else if off % 0x100 < 0x88 then span 0 35 else if off % 0x100 = 0x88 then span 6 42 else 0
  else if off = 0x2000 then span 0 2 + span 4 4
  else if off = 0x2008 then span 4 44
  else if off = 0x2010 then span 5 43
  else if off = 0x2018 then span 0 17
  else if off = 0x2020 then span 0 1
  else if off = 0x2028 then span 0 3
  else if off = 0x2030 then span 0 32
  else if 0x3000 ≤ off && off < 0x3200 then
    match off % 0x40 with
    | 0x00 => span 0 8
    | 0x10 => span 0 14 + span 16 15
    | 0x18 | 0x20 | 0x28 | 0x30 => span 0 36
    | _ => 0
  else if 0x3200 ≤ off && off < 0x3400 then if off % 0x80 = 0x30 then span 0 16 else 0
  else if 0x3400 ≤ off && off < 0x3500 then
    match off % 0x40 with
    | 0x00 => span 0 4
    | 0x08 => span 0 16
    | _ => 0
  else if off = 0x4000 then span 7 41
  else if off = 0x4008 then span 0 2
  else if off = 0x4010 then span 5 43
  else if off = 0x4018 then span 0 16
  else if off = 0x4020 then span 5 43
  else if off = 0x4028 then span 0 13
  else if off = 0x4030 then span 0 12
  else if off = 0x4038 then span 0 32
  else 0

/-- The W1C bits of a register: LOST of the commands (R6). -/
def w1cMask (off : Nat) : Nat :=
  if off = 0x0018 || off = 0x0118 then span 1 1
  else if 0x0400 ≤ off && off < 0x0600 && off % 0x40 = 0x30 then span 1 1
  else if 0x1000 ≤ off && off < 0x1800 && off % 0x100 = 0x90 then span 1 1
  else if off = 0x2000 then span 10 1
  else if off = 0x2038 then span 2 1
  else if 0x3000 ≤ off && off < 0x3200 && off % 0x40 = 0x38 then span 2 1
  else if 0x3400 ≤ off && off < 0x3500 && off % 0x40 = 0 then span 6 1
  else if off = 0x4008 then span 3 1
  else if off = 0x4018 then span 18 1
  else 0

/-- The write of a register's own fields (R6): RW bits take the value, W1C bits that are written with 1 clear, every other
bit keeps what it has. -/
def State.setFields (s : State) (off : Nat) (v : Dword) : State :=
  let rw := BitVec.ofNat 64 (rwMask off)
  let wc := BitVec.ofNat 64 (w1cMask off)
  s.setMreg off (((s.mreg off &&& ~~~rw) ||| (v &&& rw)) &&& ~~~(v &&& wc))

/-- A frame of a partition's pool is in use: a read or a reclaim has it, or the entry of its record maps it. One that is
lost to a driver's store is not (R386). -/
def State.frameUsed (s : State) (part i : Nat) : Bool :=
  let rec_ := s.frameRec part i
  let e := residentEntry (s.mem.field (rec_ + 16) 8) (s.frameAddr part i)
  let v := s.mem.field (s.mem.field (rec_ + 8) 8) 8
  (s.reads.any fun r => r.part == part && r.frame == some i) || (s.reclaims.any fun r => r.part == part && r.frame == i) ||
    (s.frameState part i != 0 && (v == e || v == e + 32))

/-- A partition whose frame pool has a frame in use (R380). -/
def State.framesInUse (s : State) (part : Nat) : Bool :=
  s.mfield (0x420 + 0x40 * part) 0 24 != s.frameCount part && (upto (s.frameCount part)).any (s.frameUsed part)

/-- The records of a programmed pool say FREE (R384, R385), once FCOUNT and FRTAB name both the frames and a place for their
records (log 92); FFREE counts its frames. -/
def State.freshPool (s : State) (part : Nat) : State :=
  let n := s.frameCount part
  let base := s.mfield (0x410 + 0x40 * part) 5 43 * 32
  let s := s.setMfield (0x420 + 0x40 * part) 0 24 n
  if base = 0 || !(physOk s.byder.cacheMode base) then s
  else
    let inside := fun (a : Nat) => decide (base ≤ a) && decide (a < base + 32 * n)
    let s := s.keepPast ((s.mem.filter fun c => inside c.1).map fun c => (.mem c.1, 0))
    { s with mem := s.mem.filter fun c => !inside c.1, poison := s.poison.filter fun g => !inside (32 * g) }

/-- Where a write of a register's fields is ignored: QTBASE and QCOUNT while a slot is mapped (R363), the frame-pool and
fault-queue registers of a partition while a frame of it is in use, but for FQRD and the status (R380). -/
def State.fieldsLocked (s : State) (off : Nat) : Bool :=
  if off = 0 || off = 8 then !s.slots.isEmpty
  else if 0x0400 ≤ off && off < 0x0600 then off % 0x40 < 0x20 && s.framesInUse ((off - 0x400) / 0x40)
  else if 0x0600 ≤ off && off < 0x0700 then off % 0x20 < 0x18 && s.framesInUse ((off - 0x600) / 0x20)
  else false

/-- PEER of the ports whose link is down follows HOSTPORTS, and links that firmware holds down go down (R367, R433). -/
def State.portRoles (s : State) : State :=
  (upto 16).foldl (fun (s : State) q =>
    let up := s.mfield (portRegs q + 0x18) 0 1 == 1
    let s := if up && (s.mreg 0x4038).getLsbD (16 + q) then
      (s.countMreg (portRegs q + 0x10) 32).setMfield (portRegs q + 0x18) 0 1 0 else s
    if s.mfield (portRegs q + 0x18) 0 1 == 1 then s else s.setMfield (portRegs q + 0x18) 1 1 (!(s.hostPort q)).toNat) s

/-- What a write of a register's fields brings with it: a write of FPBASE, FCOUNT or FRTAB programs the pool (R385),
RGNBASE replaces the built-in table (R367), VALID of an NSENT reads 0 where the format breaks R382, HOSTPORTS and
LINKDOWN act on the ports. -/
def State.fieldsWritten (s : State) (off : Nat) : State :=
  if 0x0400 ≤ off && off < 0x0600 && off % 0x40 < 0x18 then s.freshPool ((off - 0x400) / 0x40)
  else if off = 0x4010 then { s with rgnTable := true, regions := [] }
  else if off = 0x4038 then s.portRoles
  else if 0x1000 ≤ off && off < 0x1800 && 8 ≤ off % 0x100 && off % 0x100 < 0x88 && s.mfield off 32 1 = 1 &&
      Config.choice s.fresh (8100000 + off) then s.setMfield off 32 1 0
  else s

/-- A write of the fields of a register (R6). -/
def State.writeFields (s : State) (off : Nat) (v : Dword) : State :=
  if s.fieldsLocked off then s else (s.setFields off v).fieldsWritten off

/-- A write of a command register that only Byder serves (R417, R418, R420): PWRCMD. -/
def powerWrite (v : Dword) (s : State) : Out State Fault Refusal :=
  match bitsOf v.toNat 0 3 with
  | 1 => execPwrcmdNap s
  | 2 => execPwrcmdSleep s
  | 3 => execPwrcmdWake s
  | 4 => execPwrcmdOff s
  | n => .next (if s.byderOpen then s.setMfield 0x2028 0 3 n else s)

/-- After the fields, a command where one is started. -/
def thenIf (c : Bool) (f : State → Out State Fault Refusal) (s : State) : Out State Fault Refusal := if c then f s else .next s

/-- A write of a register on queue pair `qpn`: its fields, and the command that it starts. Whether a flash write compares
is a free choice (log 10). -/
def State.regWrite (s : State) (qpn off : Nat) (v : Dword) : Out State Fault Refusal :=
  let fields := s.writeFields off v
  let bit := fun (i : Nat) => v.getLsbD i
  if s.byder.mode == .dawn then
    (if off = 0x2020 then thenIf (bit 0) (execRecover (Config.choice s.fresh 8000001)) (s.setFields off v) else .next s)
  else if !s.byderOpen then .next s
  else if off = 0x2028 then powerWrite v s
  else if off = 0x0010 then s.command fun s => .next (s.queueCmd v)
  else if off = 0x0100 then (if bit 3 then execTlbicmdRange v s else execTlbicmdPartition v s)
  else if 0x0400 ≤ off && off < 0x0600 && off % 0x40 = 0x28 then execEvict (BitVec.ofNat 3 ((off - 0x400) / 0x40)) v s
  else if 0x0800 ≤ off && off < 0x0900 && off % 0x20 = 0 then thenIf (bit 0) (execSwap (BitVec.ofNat 3 ((off - 0x800) / 0x20))) fields
  else if 0x1000 ≤ off && off < 0x1800 && off % 0x100 = 0 then
    thenIf (bit 2) (execSsdReset (BitVec.ofNat 3 ((off - 0x1000) / 0x100))) fields
  else if 0x1000 ≤ off && off < 0x1800 && off % 0x100 = 0x88 then execAdmaddr (BitVec.ofNat 3 ((off - 0x1000) / 0x100)) v s
  else if off = 0x2000 then execSpeedWrite v s
  else if off = 0x2038 then thenIf (bit 0) (execUpdate (Config.choice s.fresh 8000001)) fields
  else if 0x3000 ≤ off && off < 0x3200 && off % 0x40 = 0x38 then
    thenIf (bit 0) (execApply (BitVec.ofNat 3 ((off - 0x3000) / 0x40))) fields
  else if 0x3200 ≤ off && off < 0x3400 && off % 0x80 = 0x28 then thenIf (bit 0) (execClr ((off - 0x3200) / 0x80)) s
  else if 0x3400 ≤ off && off < 0x3500 && off % 0x40 = 0 then
    thenIf (bit 4) (execRetire ((off - 0x3400) / 0x40) (v.extractLsb' 0 4)) fields
  else if off = 0x4008 then
    match bitsOf v.toNat 0 2 with
    | 1 => execCreate qpn fields
    | 2 => execDestroy fields
    | n => .next (fields.setMfield 0x4008 0 2 n)
  else if off = 0x4018 then thenIf (bit 16) (execRgninv (v.extractLsb' 0 16)) fields
  else .next fields

/-- The field of a register whose write starts a command by its value, or changes the speed: its first bit and width (R363,
R367, R380, R420). -/
def commandField (off : Nat) : Option (Nat × Nat) :=
  if off = 0x0010 then some (14, 2)
  else if off = 0x0100 then some (0, 4)
  else if 0x0400 ≤ off && off < 0x0600 && off % 0x40 = 0x28 then some (16, 32)
  else if 0x1000 ≤ off && off < 0x1800 && off % 0x100 = 0x88 then some (6, 42)
  else if off = 0x2000 then some (0, 2)
  else if off = 0x2020 then some (0, 1)
  else if off = 0x2028 then some (0, 3)
  else if off = 0x4008 then some (0, 2)
  else none

/-- A write of the bytes from `lo` below `hi` of a register, which holds `v` with them: where they do not reach the field
that starts its command, its other fields change alone (log 54). -/
def State.partWrite (s : State) (qpn off lo hi : Nat) (v : Dword) : Out State Fault Refusal :=
  match commandField off with
  | none => s.regWrite qpn off v
  | some (b, n) =>
    if lo * 8 < b + n && b < hi * 8 then s.regWrite qpn off v
    else if s.byder.mode == .dawn || !s.byderOpen then .next s
    else thenIf (off == 0x2000 && v.getLsbD 8) execLoad (s.writeFields off v)

/-- REGISTER_WRITE (R6): a write of a register of the window, on the management side that no queue pair bounds. -/
def execRegisterWrite (off : Nat) (val : Dword) (s : State) : Out State Fault Refusal :=
  if off < 0x10000 && off % 8 = 0 then s.regWrite 0 off val else .next s

/-- What a register reads as: the Dawn report, the telemetry of a die at the moment of the read, or its fields. -/
def State.regRead (s : State) (off : Nat) : Dword :=
  if 0x2100 ≤ off && off < 0x2140 then BitVec.ofNat 64 (fieldOf s.dawnReport (off - 0x2100) 8)
  else if 0x3200 ≤ off && off < 0x3400 && off % 0x80 = 0x38 then
    Config.telemetry s.fresh ((off - 0x3200) / 0x80) &&& BitVec.ofNat 64 (span 0 48)
  else if off < 0x10000 then s.mreg off else 0

/-- In Dawn mode only RECOVER and the report are served (R411). -/
def State.regServed (s : State) (off : Nat) : Bool :=
  s.byder.mode != .dawn || off == 0x2020 || (decide (0x2100 ≤ off) && decide (off < 0x2140))

/-! ## The debug agent -/

/-- The registers of telemetry (R427, R431, R433): counters, sensors, slices and ports. -/
def telemetryReg (off : Nat) : Bool := decide (0x3200 ≤ off) && decide (off < 0x3800)

/-- The registers of the management window that the debug agent reaches (R416): all of them in state FULL; in LOCKDOWN,
beside SPDM, telemetry, which it reads (log 61). -/
def State.agentWindow (s : State) (off : Nat) (wr : Bool) : Bool :=
  s.mgmtOpen && (s.byder.debug == .full || (s.byder.sec == .lockdown && !wr && telemetryReg off))

/-- The registers of a task that the debug agent reaches (R397, R416): those of the tasks that it can stop, the
privileged ones in state FULL alone. -/
def State.agentReg (s : State) (t : Task) (i : Nat) : Bool :=
  s.mgmtOpen && s.agentStops t && (decide (i < 0x100) || s.byder.debug == .full)

/-- The debug agent reads a register of a task, as the stream's SYSRD in trap mode would (R392, R416). -/
def State.agentRead (s : State) (t : Task) (k : StreamId) (i : Nat) : Option Word :=
  if s.agentReg t i then (s.sysRead { t with tmode := true } k i).toOption else none

/-- The debug agent writes a register of a task, as the stream's SYSWR in trap mode would (R392, R416). -/
def State.agentWrite (s : State) (t : Task) (k : StreamId) (i : Nat) (w : Word) : State :=
  if !(s.agentRead t k i).isSome then s
  else if i = 0x122 then (s.writeScrway (s.coreOf t) (w &&& 0xFFFF)).toOption.getD s
  else s.setTask (if i < 0x100 then t.writeUser k i w else t.writePriv i w)

/-- The debug agent reads a register of the management window (R416). -/
def State.agentPeek (s : State) (off : Nat) : Option Dword := if s.agentWindow off false then some (s.regRead off) else none

/-- The debug agent writes a register of the management window (R416). -/
def State.agentPoke (s : State) (off : Nat) (v : Dword) : Out State Fault Refusal :=
  if s.agentWindow off true then s.regWrite 0 off v else .next s

end Sys2Proof.Machine
end

