-- ==== Sys2Proof/Machine/Rdma.lean ====
section
/-! DEFINITION. RDMA WRITE and READ (R357 to R359). -/
namespace Sys2Proof.Machine

/-- The 8-byte words of the window that a range touches. -/
def regWords (off n : Nat) : List Nat := if n = 0 then [] else (idxFrom (off / 8) ((off + n - 1) / 8 + 1 - off / 8)).map (8 * ·)

/-- What a register's unwritten bytes keep when part of it is written: its RW bits (log 54). -/
def State.keptBits (s : State) (off : Nat) : Nat := ((s.mreg off) &&& BitVec.ofNat 64 (rwMask off)).toNat

/-- The word that a write of bytes from `off` on gives the register at `w`. -/
def State.wordWritten (s : State) (off : Nat) (data : List Byte) (w : Nat) : Dword :=
  let old := natLe 8 (s.keptBits w)
  BitVec.ofNat 64 (leNat ((upto 8).map fun i =>
    if off ≤ w + i && w + i < off + data.length then nth data (w + i - off) 0 else nth old i 0))

/-- Registers are written in ascending order. -/
def regWrites (qpn off : Nat) (data : List Byte) : List Nat → State → Out State Fault Refusal
  | [], s => .next s
  | w :: ws, s =>
    match s.partWrite qpn w (off - w) (Nat.min 8 (off + data.length - w)) (s.wordWritten off data w) with
    | .next s' => regWrites qpn off data ws s'
    | .fault e => .fault e
    | .refused e => .refused e

/-- The answer to a WRITE that has been performed. -/
def State.writeDone (s : State) (qpn n : Nat) : State :=
  match s.qp? qpn with
  | some q => (s.passPsn q n).send (.ack qpn)
  | none => s

/-- A WRITE is served (R357 to R359): device memory, a notify word, registers of the management window or the staging
window; a release at .fab, since every byte is performed at its home. -/
def State.serveWrite (s : State) (q : Qp) (h : HeldRequest) (rkey : Word) (va : Dword) (data : List Byte) :
    Out State Fault Refusal :=
  let qpn := q.qpn
  if 2 ^ 31 < data.length then .next (s.invalidRequest q)
  else
    match targetOf h.entry q rkey va.toNat data.length true with
    | none => .next (s.send (.nak qpn 2))
    | some (.memory part) =>
      if !s.memOpen then .next (s.send (.nak qpn 2))
      else match s.rdmaLocs part va.toNat data.length true with
        | .error e => .next (s.rdmaStop q h part e)
        | .ok ls => .next ((s.applyBytes (ls.zip data)).writeDone qpn data.length)
    | some (.notify i) => .next (if s.memOpen then (s.notify i (BitVec.ofNat 64 (leNat data))).writeDone qpn 8 else s.send (.nak qpn 2))
    | some (.staging off) =>
      .next (({ s with byder := { s.byder with staging := Memory.writeBytes s.byder.staging off data } } : State).writeDone qpn
        data.length)
    | some (.management off) =>
      let ws := regWords off data.length
      if ws.any fun w => !(s.regServed w) then .next (s.send (.nak qpn 2))
      else match regWrites qpn off data ws s with
        | .next s' => .next (s'.writeDone qpn data.length)
        | o => o

/-- RDMA_WRITE (R359). -/
def execRdmaWrite (qpn : Nat) (rkey : Word) (va : Dword) (data : List Byte) (s : State) : Out State Fault Refusal :=
  s.request qpn (.write rkey va data) data.length fun q h s => s.serveWrite q h rkey va data

/-- A READ is served (R357 to R359): device memory or registers of the management window, at their homes: an acquire at
.fab. -/
def State.serveRead (s : State) (q : Qp) (h : HeldRequest) (rkey : Word) (va : Dword) (len : Nat) : State :=
  let qpn := q.qpn
  if 2 ^ 31 < len then s.invalidRequest q
  else
    match targetOf h.entry q rkey va.toNat len false with
    | some (.memory part) =>
      if !s.memOpen then s.send (.nak qpn 2)
      else match s.rdmaLocs part va.toNat len false with
        | .error e => s.rdmaStop q h part e
        | .ok ls => (s.passPsn q len).send (.readData qpn (s.readLocs ls))
    | some (.management off) =>
      let ws := regWords off len
      if ws.any fun w => !(s.regServed w) then s.send (.nak qpn 2)
      else
        let bytes := ws.flatMap fun w => natLe 8 (s.regRead w).toNat
        (s.passPsn q len).send (.readData qpn ((bytes.drop (off % 8)).take len))
    | _ => s.send (.nak qpn 2)

/-- A request is served (R355, R358, R359), by the entry that its region had when it was accepted (R367). -/
def State.serveHeld (s : State) (q : Qp) (h : HeldRequest) : Out State Fault Refusal :=
  match h.req with
  | .send payload => .next (s.serveSend q h payload)
  | .write rkey va data => s.serveWrite q h rkey va data
  | .read rkey va len => .next (s.serveRead q h rkey va len)
  | .refused => .next (s.invalidRequest q)

/-- RDMA_READ (R359): its request is one packet. -/
def execRdmaRead (qpn : Nat) (rkey : Word) (va : Dword) (len : Nat) (s : State) : Out State Fault Refusal :=
  s.request qpn (.read rkey va len) 0 fun q h s => s.serveHeld q h

/-! ## Requests that waited for a page -/

/-- The first request that a queue pair holds, once its page's read has ended: it is served, or refused with a remote
operational error where the read failed (log 76); the next one follows it (R359). -/
def State.qpNext (s : State) : Option State :=
  match s.qps.find? fun q => q.due.isSome && !q.err with
  | none => none
  | some q => match q.held with
    | [] => some (s.setQp { q with due := none })
    | i :: rest =>
      let q' := { q with held := rest, due := if rest.isEmpty then none else some true }
      if q.due = some true then
        match (s.setQp q').serveHeld q' i with
        | .next s' => some s'
        | _ => none
      else some ((s.setQp q').send (.nak q.qpn 3))

end Sys2Proof.Machine
end

