-- ==== Sys2Proof/Machine/Scalar.lean ====
section
/-! DEFINITION. Integer arithmetic, constants, branches and loops of the 32-bit class (R137 to R143). -/
namespace Sys2Proof.Machine

/-- Leading zeros of the low `n` bits. -/
def clzFrom (x : Word) : Nat → Nat
  | 0 => 0
  | n + 1 => if x.getLsbD n then 0 else 1 + clzFrom x n

/-- One bits among the low `n` bits. -/
def popFrom (x : Word) : Nat → Nat
  | 0 => 0
  | n + 1 => (x.getLsbD n).toNat + popFrom x n

/-- CLZ (R137). -/
def clz32 (x : Word) : Word := BitVec.ofNat 32 (clzFrom x 32)
/-- POPC (R137). -/
def pop32 (x : Word) : Word := BitVec.ofNat 32 (popFrom x 32)

/-- The high word of the signed product (R137). -/
def mulhS (a b : Word) : Word := BitVec.ofInt 32 (a.toInt * b.toInt / 2 ^ 32)
/-- The high word of the unsigned product (R137). -/
def mulhU (a b : Word) : Word := BitVec.ofNat 32 (a.toNat * b.toNat / 2 ^ 32)

/-- DIV.i32 (R138). -/
def divS (a b : Word) : Word :=
  if b = 0 then 0xFFFFFFFF
  else if a = 0x80000000 ∧ b = 0xFFFFFFFF then 0x80000000
  else BitVec.ofInt 32 (a.toInt.tdiv b.toInt)
/-- REM.i32 (R138). -/
def remS (a b : Word) : Word :=
  if b = 0 then a
  else if a = 0x80000000 ∧ b = 0xFFFFFFFF then 0
  else BitVec.ofInt 32 (a.toInt - b.toInt * a.toInt.tdiv b.toInt)
/-- DIV.b32 (R138). -/
def divU (a b : Word) : Word := if b = 0 then 0xFFFFFFFF else BitVec.ofNat 32 (a.toNat / b.toNat)
/-- REM.b32 (R138). -/
def remU (a b : Word) : Word := if b = 0 then a else BitVec.ofNat 32 (a.toNat % b.toNat)

/-- The signed minimum, maximum, and the unsigned ones (R137). -/
def minS (a b : Word) : Word := if b.toInt < a.toInt then b else a
def maxS (a b : Word) : Word := if a.toInt < b.toInt then b else a
def minU (a b : Word) : Word := if b.toNat < a.toNat then b else a
def maxU (a b : Word) : Word := if a.toNat < b.toNat then b else a

/-- Signed and unsigned order (R137, R141). -/
def ltS (a b : Word) : Bool := decide (a.toInt < b.toInt)
def ltU (a b : Word) : Bool := decide (a.toNat < b.toNat)

/-- Shifts by the low five bits of a count (R137). -/
def shlW (a : Word) (n : Nat) : Word := a <<< (n % 32)
def shrW (a : Word) (n : Nat) : Word := a >>> (n % 32)
def sraW (a : Word) (n : Nat) : Word := a.sshiftRight (n % 32)

/-! ## INT-R (R137, R138) -/

/-- ADD (R137). -/
def execAdd (d a b : BitVec 5) (s : State) : Out State Fault Refusal := opR d a b (· + ·) s
/-- SUB (R137). -/
def execSub (d a b : BitVec 5) (s : State) : Out State Fault Refusal := opR d a b (· - ·) s
/-- AND (R137). -/
def execAnd (d a b : BitVec 5) (s : State) : Out State Fault Refusal := opR d a b (· &&& ·) s
/-- OR (R137). -/
def execOr (d a b : BitVec 5) (s : State) : Out State Fault Refusal := opR d a b (· ||| ·) s
/-- XOR (R137). -/
def execXor (d a b : BitVec 5) (s : State) : Out State Fault Refusal := opR d a b (· ^^^ ·) s
/-- SHL (R137). -/
def execShl (d a b : BitVec 5) (s : State) : Out State Fault Refusal := opR d a b (fun x y => shlW x y.toNat) s
/-- SHR (R137). -/
def execShr (d a b : BitVec 5) (s : State) : Out State Fault Refusal := opR d a b (fun x y => shrW x y.toNat) s
/-- SRA (R137). -/
def execSra (d a b : BitVec 5) (s : State) : Out State Fault Refusal := opR d a b (fun x y => sraW x y.toNat) s
/-- MUL (R137). -/
def execMul (d a b : BitVec 5) (s : State) : Out State Fault Refusal := opR d a b (· * ·) s
/-- MULH.i32 (R137). -/
def execMulhI32 (d a b : BitVec 5) (s : State) : Out State Fault Refusal := opR d a b mulhS s
/-- MULH.b32 (R137). -/
def execMulhB32 (d a b : BitVec 5) (s : State) : Out State Fault Refusal := opR d a b mulhU s
/-- DIV.i32 (R138). -/
def execDivI32 (d a b : BitVec 5) (s : State) : Out State Fault Refusal := opR d a b divS s
/-- DIV.b32 (R138). -/
def execDivB32 (d a b : BitVec 5) (s : State) : Out State Fault Refusal := opR d a b divU s
/-- REM.i32 (R138). -/
def execRemI32 (d a b : BitVec 5) (s : State) : Out State Fault Refusal := opR d a b remS s
/-- REM.b32 (R138). -/
def execRemB32 (d a b : BitVec 5) (s : State) : Out State Fault Refusal := opR d a b remU s
/-- MIN.i32 (R137). -/
def execMinI32 (d a b : BitVec 5) (s : State) : Out State Fault Refusal := opR d a b minS s
/-- MAX.i32 (R137). -/
def execMaxI32 (d a b : BitVec 5) (s : State) : Out State Fault Refusal := opR d a b maxS s
/-- MIN.b32 (R137). -/
def execMinB32 (d a b : BitVec 5) (s : State) : Out State Fault Refusal := opR d a b minU s
/-- MAX.b32 (R137). -/
def execMaxB32 (d a b : BitVec 5) (s : State) : Out State Fault Refusal := opR d a b maxU s
/-- SLT (R137). -/
def execSlt (d a b : BitVec 5) (s : State) : Out State Fault Refusal := opR d a b (fun x y => Word.ofBool (ltS x y)) s
/-- SLTB (R137). -/
def execSltb (d a b : BitVec 5) (s : State) : Out State Fault Refusal := opR d a b (fun x y => Word.ofBool (ltU x y)) s
/-- SEQ (R137). -/
def execSeq (d a b : BitVec 5) (s : State) : Out State Fault Refusal := opR d a b (fun x y => Word.ofBool (x == y)) s
/-- CLZ (R137). -/
def execClz (d a : BitVec 5) (s : State) : Out State Fault Refusal := opR d a 31 (fun x _ => clz32 x) s
/-- POPC (R137). -/
def execPopc (d a : BitVec 5) (s : State) : Out State Fault Refusal := opR d a 31 (fun x _ => pop32 x) s
/-- ADD64 (R137). -/
def execAdd64 (d a b : BitVec 4) (s : State) : Out State Fault Refusal := opP d a b (· + ·) s
/-- SUB64 (R137). -/
def execSub64 (d a b : BitVec 4) (s : State) : Out State Fault Refusal := opP d a b (· - ·) s
/-- SHL64 (R137). -/
def execShl64 (d a : BitVec 4) (b : BitVec 5) (s : State) : Out State Fault Refusal :=
  opPR d a b (fun x y => x <<< (y.toNat % 64)) s
/-- SHR64 (R137). -/
def execShr64 (d a : BitVec 4) (b : BitVec 5) (s : State) : Out State Fault Refusal :=
  opPR d a b (fun x y => x >>> (y.toNat % 64)) s
/-- MUL64 (R137). -/
def execMul64 (d a b : BitVec 4) (s : State) : Out State Fault Refusal := opP d a b (· * ·) s
/-- SEL (R137): the old s_d selects. -/
def execSel (d a b : BitVec 5) (s : State) : Out State Fault Refusal :=
  streamOp .scalar (fun st => st.setReg d (if st.reg d ≠ 0 then st.reg a else st.reg b)) s

/-! ## Immediates (R139) and constants (R140) -/

/-- ADDI (R139). -/
def execAddi (d a : BitVec 5) (i : BitVec 14) (s : State) : Out State Fault Refusal := opI d a i (· + ·) s
/-- ANDI (R139). -/
def execAndi (d a : BitVec 5) (i : BitVec 14) (s : State) : Out State Fault Refusal := opI d a i (· &&& ·) s
/-- ORI (R139). -/
def execOri (d a : BitVec 5) (i : BitVec 14) (s : State) : Out State Fault Refusal := opI d a i (· ||| ·) s
/-- XORI (R139). -/
def execXori (d a : BitVec 5) (i : BitVec 14) (s : State) : Out State Fault Refusal := opI d a i (· ^^^ ·) s
/-- SHLI (R139). -/
def execShli (d a i : BitVec 5) (s : State) : Out State Fault Refusal := opC d a i shlW s
/-- SHRI (R139). -/
def execShri (d a i : BitVec 5) (s : State) : Out State Fault Refusal := opC d a i shrW s
/-- SRAI (R139). -/
def execSrai (d a i : BitVec 5) (s : State) : Out State Fault Refusal := opC d a i sraW s
/-- SLTI (R139). -/
def execSlti (d a : BitVec 5) (i : BitVec 14) (s : State) : Out State Fault Refusal :=
  opI d a i (fun x y => Word.ofBool (ltS x y)) s
/-- ADDI64 (R139). -/
def execAddi64 (d a : BitVec 4) (i : BitVec 14) (s : State) : Out State Fault Refusal :=
  streamOp .scalar (fun st => st.setPair d (st.pair a + i.signExtend 64)) s
/-- LUI (R140). -/
def execLui (d : BitVec 5) (i : BitVec 19) (s : State) : Out State Fault Refusal :=
  streamOp .scalar (fun st => st.setReg d (i.zeroExtend 32 <<< 13)) s
/-- ADDPC (R140). -/
def execAddpc (d : BitVec 4) (i : BitVec 19) (s : State) : Out State Fault Refusal :=
  streamOp .scalar (fun st => st.setPair d (pcRel st.pc i)) s

/-! ## Branches, jumps and loops (R141 to R143) -/

/-- BEQ (R141). -/
def execBeq (a b : BitVec 5) (o : BitVec 14) (s : State) : Out State Fault Refusal := opB a b o (· == ·) s
/-- BNE (R141). -/
def execBne (a b : BitVec 5) (o : BitVec 14) (s : State) : Out State Fault Refusal := opB a b o (· != ·) s
/-- BLT (R141). -/
def execBlt (a b : BitVec 5) (o : BitVec 14) (s : State) : Out State Fault Refusal := opB a b o ltS s
/-- BGE (R141). -/
def execBge (a b : BitVec 5) (o : BitVec 14) (s : State) : Out State Fault Refusal := opB a b o (fun x y => !ltS x y) s
/-- BLTB (R141). -/
def execBltb (a b : BitVec 5) (o : BitVec 14) (s : State) : Out State Fault Refusal := opB a b o ltU s
/-- BGEB (R141). -/
def execBgeb (a b : BitVec 5) (o : BitVec 14) (s : State) : Out State Fault Refusal := opB a b o (fun x y => !ltU x y) s

/-- The link is written unless d names the pair s30:31 (R142). -/
def StreamSt.link (st : StreamSt) (d : BitVec 4) : StreamSt := if d = 15 then st else st.setPair d (st.pc + 4)

/-- JAL (R142). -/
def execJal (d : BitVec 4) (i : BitVec 19) (s : State) : Out State Fault Refusal :=
  issue .scalar s fun t k =>
    let st := t.st k
    .ok (s.branch t k (st.link d) (pcRel st.pc i))

/-- JALR (R142): the target is computed before the link is written, and must be a multiple of 4. -/
def execJalr (d a : BitVec 4) (i : BitVec 14) (s : State) : Out State Fault Refusal :=
  issue .scalar s fun t k =>
    let st := t.st k
    let next := st.pair a + i.signExtend 64
    if next.toNat % 4 ≠ 0 then trapWith clsMemory 5 next.toNat
    else .ok (s.branch t k (st.link d) next)

/-- LOOPN (R143). -/
def execLoopn (a : BitVec 5) (o : BitVec 14) (s : State) : Out State Fault Refusal :=
  issue .scalar s fun t k =>
    let st := t.st k
    let x := st.reg a
    .ok (if 1 < x.toNat then s.branch t k (st.setReg a (x - 1)) (pcRel st.pc o) else s.retire t k (st.setReg a 0))

end Sys2Proof.Machine
end

