-- ==== Sys2Proof/Machine/Dispatch.lean ====
section
/-! DEFINITION. One arm per constructor of Instr: a direct call of its meaning. -/
namespace Sys2Proof.Machine

/-- The meaning of every instruction and event. -/
def exec (i : Instr) (s : State) : Host.Outcome State Fault Refusal :=
  match i with
  | .add d a b => Sys2Proof.Machine.execAdd d a b s
  | .sub d a b => Sys2Proof.Machine.execSub d a b s
  | .and d a b => Sys2Proof.Machine.execAnd d a b s
  | .or d a b => Sys2Proof.Machine.execOr d a b s
  | .xor d a b => Sys2Proof.Machine.execXor d a b s
  | .shl d a b => Sys2Proof.Machine.execShl d a b s
  | .shr d a b => Sys2Proof.Machine.execShr d a b s
  | .sra d a b => Sys2Proof.Machine.execSra d a b s
  | .mul d a b => Sys2Proof.Machine.execMul d a b s
  | .mulhI32 d a b => Sys2Proof.Machine.execMulhI32 d a b s
  | .mulhB32 d a b => Sys2Proof.Machine.execMulhB32 d a b s
  | .divI32 d a b => Sys2Proof.Machine.execDivI32 d a b s
  | .divB32 d a b => Sys2Proof.Machine.execDivB32 d a b s
  | .remI32 d a b => Sys2Proof.Machine.execRemI32 d a b s
  | .remB32 d a b => Sys2Proof.Machine.execRemB32 d a b s
  | .minI32 d a b => Sys2Proof.Machine.execMinI32 d a b s
  | .maxI32 d a b => Sys2Proof.Machine.execMaxI32 d a b s
  | .minB32 d a b => Sys2Proof.Machine.execMinB32 d a b s
  | .maxB32 d a b => Sys2Proof.Machine.execMaxB32 d a b s
  | .slt d a b => Sys2Proof.Machine.execSlt d a b s
  | .sltb d a b => Sys2Proof.Machine.execSltb d a b s
  | .seq d a b => Sys2Proof.Machine.execSeq d a b s
  | .clz d a => Sys2Proof.Machine.execClz d a s
  | .popc d a => Sys2Proof.Machine.execPopc d a s
  | .add64 d a b => Sys2Proof.Machine.execAdd64 d a b s
  | .sub64 d a b => Sys2Proof.Machine.execSub64 d a b s
  | .shl64 d a b => Sys2Proof.Machine.execShl64 d a b s
  | .shr64 d a b => Sys2Proof.Machine.execShr64 d a b s
  | .mul64 d a b => Sys2Proof.Machine.execMul64 d a b s
  | .sel d a b => Sys2Proof.Machine.execSel d a b s
  | .addi d a imm => Sys2Proof.Machine.execAddi d a imm s
  | .andi d a imm => Sys2Proof.Machine.execAndi d a imm s
  | .ori d a imm => Sys2Proof.Machine.execOri d a imm s
  | .xori d a imm => Sys2Proof.Machine.execXori d a imm s
  | .shli d a imm => Sys2Proof.Machine.execShli d a imm s
  | .shri d a imm => Sys2Proof.Machine.execShri d a imm s
  | .srai d a imm => Sys2Proof.Machine.execSrai d a imm s
  | .slti d a imm => Sys2Proof.Machine.execSlti d a imm s
  | .addi64 d a imm => Sys2Proof.Machine.execAddi64 d a imm s
  | .lui d imm => Sys2Proof.Machine.execLui d imm s
  | .addpc d imm => Sys2Proof.Machine.execAddpc d imm s
  | .beq a b o => Sys2Proof.Machine.execBeq a b o s
  | .bne a b o => Sys2Proof.Machine.execBne a b o s
  | .blt a b o => Sys2Proof.Machine.execBlt a b o s
  | .bge a b o => Sys2Proof.Machine.execBge a b o s
  | .bltb a b o => Sys2Proof.Machine.execBltb a b o s
  | .bgeb a b o => Sys2Proof.Machine.execBgeb a b o s
  | .jal d imm => Sys2Proof.Machine.execJal d imm s
  | .jalr d a imm => Sys2Proof.Machine.execJalr d a imm s
  | .loopn a o => Sys2Proof.Machine.execLoopn a o s
  | .ldB8 d a imm => Sys2Proof.Machine.execLdB8 d a imm s
  | .ldI8 d a imm => Sys2Proof.Machine.execLdI8 d a imm s
  | .ldB16 d a imm => Sys2Proof.Machine.execLdB16 d a imm s
  | .ldI16 d a imm => Sys2Proof.Machine.execLdI16 d a imm s
  | .ldW d a imm => Sys2Proof.Machine.execLdW d a imm s
  | .ldD d a imm => Sys2Proof.Machine.execLdD d a imm s
  | .stB8 d a imm => Sys2Proof.Machine.execStB8 d a imm s
  | .stB16 d a imm => Sys2Proof.Machine.execStB16 d a imm s
  | .stW d a imm => Sys2Proof.Machine.execStW d a imm s
  | .stD d a imm => Sys2Proof.Machine.execStD d a imm s
  | .ldroW d a imm => Sys2Proof.Machine.execLdroW d a imm s
  | .ldroD d a imm => Sys2Proof.Machine.execLdroD d a imm s
  | .atomAdd d a b ret scope wide => Sys2Proof.Machine.execAtomAdd d a b ret scope wide s
  | .atomMinI d a b ret scope wide => Sys2Proof.Machine.execAtomMinI d a b ret scope wide s
  | .atomMaxI d a b ret scope wide => Sys2Proof.Machine.execAtomMaxI d a b ret scope wide s
  | .atomMinB d a b ret scope wide => Sys2Proof.Machine.execAtomMinB d a b ret scope wide s
  | .atomMaxB d a b ret scope wide => Sys2Proof.Machine.execAtomMaxB d a b ret scope wide s
  | .atomAnd d a b ret scope wide => Sys2Proof.Machine.execAtomAnd d a b ret scope wide s
  | .atomOr d a b ret scope wide => Sys2Proof.Machine.execAtomOr d a b ret scope wide s
  | .atomXor d a b ret scope wide => Sys2Proof.Machine.execAtomXor d a b ret scope wide s
  | .atomExch d a b ret scope wide => Sys2Proof.Machine.execAtomExch d a b ret scope wide s
  | .atomAddF32 d a b ret scope => Sys2Proof.Machine.execAtomAddF32 d a b ret scope s
  | .atomcasB32 d a b scope => Sys2Proof.Machine.execAtomcasB32 d a b scope s
  | .atomcasB64 d a b scope => Sys2Proof.Machine.execAtomcasB64 d a b scope s
  | .sig sem k => Sys2Proof.Machine.execSig sem k s
  | .wait sem k => Sys2Proof.Machine.execWait sem k s
  | .bara ba => Sys2Proof.Machine.execBara ba s
  | .barw ba a k => Sys2Proof.Machine.execBarw ba a k s
  | .bare ba a => Sys2Proof.Machine.execBare ba a s
  | .sbara sa => Sys2Proof.Machine.execSbara sa s
  | .sbarw sa a k => Sys2Proof.Machine.execSbarw sa a k s
  | .fenceRel scope => Sys2Proof.Machine.execFenceRel scope s
  | .fenceAcq scope => Sys2Proof.Machine.execFenceAcq scope s
  | .fenceAr scope => Sys2Proof.Machine.execFenceAr scope s
  | .cwait a n => Sys2Proof.Machine.execCwait a n s
  | .fres a b => Sys2Proof.Machine.execFres a b s
  | .fflt a b => Sys2Proof.Machine.execFflt a b s
  | .ftry d a b => Sys2Proof.Machine.execFtry d a b s
  | .fstat d a => Sys2Proof.Machine.execFstat d a s
  | .tlaunch d a => Sys2Proof.Machine.execTlaunch d a s
  | .tjoin d a => Sys2Proof.Machine.execTjoin d a s
  | .grec a b => Sys2Proof.Machine.execGrec a b s
  | .mif j p => Sys2Proof.Machine.execMif j p s
  | .melse j => Sys2Proof.Machine.execMelse j s
  | .mjoin j => Sys2Proof.Machine.execMjoin j s
  | .msave j => Sys2Proof.Machine.execMsave j s
  | .mbreak p => Sys2Proof.Machine.execMbreak p s
  | .bmany o => Sys2Proof.Machine.execBmany o s
  | .bmnone o => Sys2Proof.Machine.execBmnone o s
  | .pmovs j p => Sys2Proof.Machine.execPmovs j p s
  | .smovp p j => Sys2Proof.Machine.execSmovp p j s
  | .sysrd d imm => Sys2Proof.Machine.execSysrd d imm s
  | .syswr a imm => Sys2Proof.Machine.execSyswr a imm s
  | .trap k => Sys2Proof.Machine.execTrap k s
  | .cycles a imm => Sys2Proof.Machine.execCycles a imm s
  | .oclm b n => Sys2Proof.Machine.execOclm b n s
  | .mold act b n a side => Sys2Proof.Machine.execMold act b n a side s
  | .mma act sa sb c mq nq fa fb z => Sys2Proof.Machine.execMma act sa sb c mq nq fa fb z s
  | .mmap act sa sb c mq nq fa fb z => Sys2Proof.Machine.execMmap act sa sb c mq nq fa fb z s
  | .mmasFull act sa sb n mq nq => Sys2Proof.Machine.execMmasFull act sa sb n mq nq s
  | .mmasTri act sa sb n mq nq => Sys2Proof.Machine.execMmasTri act sa sb n mq nq s
  | .mwclr act => Sys2Proof.Machine.execMwclr act s
  | .mwst act d p mq nq => Sys2Proof.Machine.execMwst act d p mq nq s
  | .macz act c k => Sys2Proof.Machine.execMacz act c k s
  | .macld act a p c mq nq => Sys2Proof.Machine.execMacld act a p c mq nq s
  | .macst act d p c mq nq fmt sr sc => Sys2Proof.Machine.execMacst act d p c mq nq fmt sr sc s
  | .rboard act b l f n m => Sys2Proof.Machine.execRboard act b l f n m s
  | .mseed a => Sys2Proof.Machine.execMseed a s
  | .cpy act d a n => Sys2Proof.Machine.execCpy act d a n s
  | .tcopy act r a c => Sys2Proof.Machine.execTcopy act r a c s
  | .tcopySt act r a c => Sys2Proof.Machine.execTcopySt act r a c s
  | .tcopyo act r b c => Sys2Proof.Machine.execTcopyo act r b c s
  | .osliceA act a b rs rq => Sys2Proof.Machine.execOsliceA act a b rs rq s
  | .osliceB act a b rs rq => Sys2Proof.Machine.execOsliceB act a b rs rq s
  | .gather act d a imm n w t => Sys2Proof.Machine.execGather act d a imm n w t s
  | .scatter act d a imm n w t => Sys2Proof.Machine.execScatter act d a imm n w t s
  | .cpyred act d rs n op ty => Sys2Proof.Machine.execCpyred act d rs n op ty s
  | .qfill act q a l e n => Sys2Proof.Machine.execQfill act q a l e n s
  | .qsink act q a l e n => Sys2Proof.Machine.execQsink act q a l e n s
  | .collred act g d rs n op ty arr => Sys2Proof.Machine.execCollred act g d rs n op ty arr s
  | .collbc act g d n => Sys2Proof.Machine.execCollbc act g d n s
  | .collsendSend act g t rs n => Sys2Proof.Machine.execCollsendSend act g t rs n s
  | .collsendRecv act g t rs n => Sys2Proof.Machine.execCollsendRecv act g t rs n s
  | .spref act a n => Sys2Proof.Machine.execSpref act a n s
  | .cstat d => Sys2Proof.Machine.execCstat d s
  | .fadd w => Sys2Proof.Machine.execFadd w s
  | .fsub w => Sys2Proof.Machine.execFsub w s
  | .fmul w => Sys2Proof.Machine.execFmul w s
  | .ffma w => Sys2Proof.Machine.execFfma w s
  | .ffnma w => Sys2Proof.Machine.execFfnma w s
  | .fmin w => Sys2Proof.Machine.execFmin w s
  | .fmax w => Sys2Proof.Machine.execFmax w s
  | .fceq w => Sys2Proof.Machine.execFceq w s
  | .fcne w => Sys2Proof.Machine.execFcne w s
  | .fclt w => Sys2Proof.Machine.execFclt w s
  | .fcle w => Sys2Proof.Machine.execFcle w s
  | .fcun w => Sys2Proof.Machine.execFcun w s
  | .fclass w => Sys2Proof.Machine.execFclass w s
  | .frnd w => Sys2Proof.Machine.execFrnd w s
  | .dadd w => Sys2Proof.Machine.execDadd w s
  | .dsub w => Sys2Proof.Machine.execDsub w s
  | .dmul w => Sys2Proof.Machine.execDmul w s
  | .dfma w => Sys2Proof.Machine.execDfma w s
  | .dfnma w => Sys2Proof.Machine.execDfnma w s
  | .dmin w => Sys2Proof.Machine.execDmin w s
  | .dmax w => Sys2Proof.Machine.execDmax w s
  | .dceq w => Sys2Proof.Machine.execDceq w s
  | .dcne w => Sys2Proof.Machine.execDcne w s
  | .dclt w => Sys2Proof.Machine.execDclt w s
  | .dcle w => Sys2Proof.Machine.execDcle w s
  | .dcun w => Sys2Proof.Machine.execDcun w s
  | .drnd w => Sys2Proof.Machine.execDrnd w s
  | .hadd2 w => Sys2Proof.Machine.execHadd2 w s
  | .hsub2 w => Sys2Proof.Machine.execHsub2 w s
  | .hmul2 w => Sys2Proof.Machine.execHmul2 w s
  | .hfma2 w => Sys2Proof.Machine.execHfma2 w s
  | .hmin2 w => Sys2Proof.Machine.execHmin2 w s
  | .hmax2 w => Sys2Proof.Machine.execHmax2 w s
  | .dot2 w => Sys2Proof.Machine.execDot2 w s
  | .dot4 w => Sys2Proof.Machine.execDot4 w s
  | .idot4 w => Sys2Proof.Machine.execIdot4 w s
  | .rcp w => Sys2Proof.Machine.execRcp w s
  | .rsq w => Sys2Proof.Machine.execRsq w s
  | .sqrt w => Sys2Proof.Machine.execSqrt w s
  | .exp2 w => Sys2Proof.Machine.execExp2 w s
  | .log2 w => Sys2Proof.Machine.execLog2 w s
  | .sinpi w => Sys2Proof.Machine.execSinpi w s
  | .cospi w => Sys2Proof.Machine.execCospi w s
  | .tanh w => Sys2Proof.Machine.execTanh w s
  | .drcp w => Sys2Proof.Machine.execDrcp w s
  | .dsqrt w => Sys2Proof.Machine.execDsqrt w s
  | .iadd w => Sys2Proof.Machine.execIadd w s
  | .isub w => Sys2Proof.Machine.execIsub w s
  | .imul w => Sys2Proof.Machine.execImul w s
  | .imad w => Sys2Proof.Machine.execImad w s
  | .imulh w => Sys2Proof.Machine.execImulh w s
  | .imin w => Sys2Proof.Machine.execImin w s
  | .imax w => Sys2Proof.Machine.execImax w s
  | .iabs w => Sys2Proof.Machine.execIabs w s
  | .ishl w => Sys2Proof.Machine.execIshl w s
  | .ishr w => Sys2Proof.Machine.execIshr w s
  | .isra w => Sys2Proof.Machine.execIsra w s
  | .vlut w => Sys2Proof.Machine.execVlut w s
  | .isum3 w => Sys2Proof.Machine.execIsum3 w s
  | .iceq w => Sys2Proof.Machine.execIceq w s
  | .icne w => Sys2Proof.Machine.execIcne w s
  | .iclt w => Sys2Proof.Machine.execIclt w s
  | .icle w => Sys2Proof.Machine.execIcle w s
  | .icltb w => Sys2Proof.Machine.execIcltb w s
  | .icleb w => Sys2Proof.Machine.execIcleb w s
  | .vpopc w => Sys2Proof.Machine.execVpopc w s
  | .vclz w => Sys2Proof.Machine.execVclz w s
  | .brev w => Sys2Proof.Machine.execBrev w s
  | .bfx w => Sys2Proof.Machine.execBfx w s
  | .bfi w => Sys2Proof.Machine.execBfi w s
  | .iadd64 w => Sys2Proof.Machine.execIadd64 w s
  | .imad64 w => Sys2Proof.Machine.execImad64 w s
  | .cvt w => Sys2Proof.Machine.execCvt w s
  | .cvti w => Sys2Proof.Machine.execCvti w s
  | .pk2 w => Sys2Proof.Machine.execPk2 w s
  | .pk4 w => Sys2Proof.Machine.execPk4 w s
  | .unpk2 w => Sys2Proof.Machine.execUnpk2 w s
  | .unpk4 w => Sys2Proof.Machine.execUnpk4 w s
  | .mxq w => Sys2Proof.Machine.execMxq w s
  | .mxdq w => Sys2Proof.Machine.execMxdq w s
  | .vmov w => Sys2Proof.Machine.execVmov w s
  | .vmovi w => Sys2Proof.Machine.execVmovi w s
  | .vsel w => Sys2Proof.Machine.execVsel w s
  | .viota w => Sys2Proof.Machine.execViota w s
  | .vperm w => Sys2Proof.Machine.execVperm w s
  | .bcast w => Sys2Proof.Machine.execBcast w s
  | .redux w => Sys2Proof.Machine.execRedux w s
  | .scan w => Sys2Proof.Machine.execScan w s
  | .vtag w => Sys2Proof.Machine.execVtag w s
  | .vunif w => Sys2Proof.Machine.execVunif w s
  | .vdef w => Sys2Proof.Machine.execVdef w s
  | .vmovsToVector w => Sys2Proof.Machine.execVmovsToVector w s
  | .vmovsToScalar w => Sys2Proof.Machine.execVmovsToScalar w s
  | .vreadl w => Sys2Proof.Machine.execVreadl w s
  | .plut w => Sys2Proof.Machine.execPlut w s
  | .pmov w => Sys2Proof.Machine.execPmov w s
  | .vld w => Sys2Proof.Machine.execVld w s
  | .vst w => Sys2Proof.Machine.execVst w s
  | .vldro w => Sys2Proof.Machine.execVldro w s
  | .vatom w => Sys2Proof.Machine.execVatom w s
  | .vatomcas w => Sys2Proof.Machine.execVatomcas w s
  | .vfadd w => Sys2Proof.Machine.execVfadd w s
  | .vquad w => Sys2Proof.Machine.execVquad w s
  | .vpref w => Sys2Proof.Machine.execVpref w s
  | .pxw w => Sys2Proof.Machine.execPxw w s
  | .vxm w => Sys2Proof.Machine.execVxm w s
  | .xbox w => Sys2Proof.Machine.execXbox w s
  | .xtri w => Sys2Proof.Machine.execXtri w s
  | .xstep w => Sys2Proof.Machine.execXstep w s
  | .fenceRo => Sys2Proof.Machine.execFenceRo s
  | .eret => Sys2Proof.Machine.execEret s
  | .yield => Sys2Proof.Machine.execYield s
  | .nop => Sys2Proof.Machine.execNop s
  | .bkpt => Sys2Proof.Machine.execBkpt s
  | .endStream => Sys2Proof.Machine.execEndStream s
  | .kill => Sys2Proof.Machine.execKill s
  | .orls => Sys2Proof.Machine.execOrls s
  | .xstepPop => Sys2Proof.Machine.execXstepPop s
  | .xtile => Sys2Proof.Machine.execXtile s
  | .pairedWord => Sys2Proof.Machine.execPairedWord s
  | .cyclesExpiry task k => Sys2Proof.Machine.execCyclesExpiry task k s
  | .stallExpiry task => Sys2Proof.Machine.execStallExpiry task s
  | .runGrant core k => Sys2Proof.Machine.execRunGrant core k s
  | .matrixOpCompletion task op => Sys2Proof.Machine.execMatrixOpCompletion task op s
  | .copyCompletion task op => Sys2Proof.Machine.execCopyCompletion task op s
  | .tilePassage core crcOk => Sys2Proof.Machine.execTilePassage core crcOk s
  | .layerStart => Sys2Proof.Machine.execLayerStart s
  | .pxwLanePerform die lane => Sys2Proof.Machine.execPxwLanePerform die lane s
  | .trapEntry task => Sys2Proof.Machine.execTrapEntry task s
  | .taskRetire task => Sys2Proof.Machine.execTaskRetire task s
  | .placeBlock cores bases => Sys2Proof.Machine.execPlaceBlock cores bases s
  | .blockEviction block => Sys2Proof.Machine.execBlockEviction block s
  | .blockResumption block cores bases => Sys2Proof.Machine.execBlockResumption block cores bases s
  | .commit launch => Sys2Proof.Machine.execCommit launch s
  | .dispatch slot => Sys2Proof.Machine.execDispatch slot s
  | .join slot => Sys2Proof.Machine.execJoin slot s
  | .joinRelease slot => Sys2Proof.Machine.execJoinRelease slot s
  | .graph slot => Sys2Proof.Machine.execGraph slot s
  | .marker slot => Sys2Proof.Machine.execMarker slot s
  | .markerResolve slot => Sys2Proof.Machine.execMarkerResolve slot s
  | .batchFlushTimeout node => Sys2Proof.Machine.execBatchFlushTimeout node s
  | .notify slot word => Sys2Proof.Machine.execNotify slot word s
  | .mapQueue cmd => Sys2Proof.Machine.execMapQueue cmd s
  | .unmapQueue cmd => Sys2Proof.Machine.execUnmapQueue cmd s
  | .send qpn payload => Sys2Proof.Machine.execSend qpn payload s
  | .rdmaWrite qpn rkey va data => Sys2Proof.Machine.execRdmaWrite qpn rkey va data s
  | .rdmaRead qpn rkey va len => Sys2Proof.Machine.execRdmaRead qpn rkey va len s
  | .refusedOperation qpn => Sys2Proof.Machine.execRefusedOperation qpn s
  | .cnp qpn => Sys2Proof.Machine.execCnp qpn s
  | .connectionRequest port desc => Sys2Proof.Machine.execConnectionRequest port desc s
  | .create qpn => Sys2Proof.Machine.execCreate qpn s
  | .destroy => Sys2Proof.Machine.execDestroy s
  | .rgninv index => Sys2Proof.Machine.execRgninv index s
  | .flaoriRequest msg => Sys2Proof.Machine.execFlaoriRequest msg s
  | .flaoriChunk src tag seq off data good => Sys2Proof.Machine.execFlaoriChunk src tag seq off data good s
  | .flaoriSilenceTimeout peer => Sys2Proof.Machine.execFlaoriSilenceTimeout peer s
  | .linkDown port => Sys2Proof.Machine.execLinkDown port s
  | .linkUp port => Sys2Proof.Machine.execLinkUp port s
  | .tlbicmdPartition cmd => Sys2Proof.Machine.execTlbicmdPartition cmd s
  | .tlbicmdRange cmd => Sys2Proof.Machine.execTlbicmdRange cmd s
  | .pageReadDone id res => Sys2Proof.Machine.execPageReadDone id res s
  | .evict part frame => Sys2Proof.Machine.execEvict part frame s
  | .writeBackDone part res => Sys2Proof.Machine.execWriteBackDone part res s
  | .nvmeCommandTimeout id => Sys2Proof.Machine.execNvmeCommandTimeout id s
  | .admaddr ssd addr => Sys2Proof.Machine.execAdmaddr ssd addr s
  | .ssdReset ssd => Sys2Proof.Machine.execSsdReset ssd s
  | .healthPoll ssd log => Sys2Proof.Machine.execHealthPoll ssd log s
  | .selfRefreshEntry ch => Sys2Proof.Machine.execSelfRefreshEntry ch s
  | .scrubRead sector found raced => Sys2Proof.Machine.execScrubRead sector found raced s
  | .softError site double => Sys2Proof.Machine.execSoftError site double s
  | .retire die slice => Sys2Proof.Machine.execRetire die slice s
  | .sliceAutoRetire die slice => Sys2Proof.Machine.execSliceAutoRetire die slice s
  | .clr die => Sys2Proof.Machine.execClr die s
  | .apply part => Sys2Proof.Machine.execApply part s
  | .swap part => Sys2Proof.Machine.execSwap part s
  | .boot env => Sys2Proof.Machine.execBoot env s
  | .stageTimeout stage => Sys2Proof.Machine.execStageTimeout stage s
  | .recover flashOk => Sys2Proof.Machine.execRecover flashOk s
  | .update flashOk => Sys2Proof.Machine.execUpdate flashOk s
  | .getMeasurements qpn index => Sys2Proof.Machine.execGetMeasurements qpn index s
  | .load => Sys2Proof.Machine.execLoad s
  | .speedWrite cmd => Sys2Proof.Machine.execSpeedWrite cmd s
  | .pwrcmdNap => Sys2Proof.Machine.execPwrcmdNap s
  | .pwrcmdSleep => Sys2Proof.Machine.execPwrcmdSleep s
  | .pwrcmdWake => Sys2Proof.Machine.execPwrcmdWake s
  | .pwrcmdOff => Sys2Proof.Machine.execPwrcmdOff s
  | .idleEntry => Sys2Proof.Machine.execIdleEntry s
  | .idleWake => Sys2Proof.Machine.execIdleWake s
  | .napWake => Sys2Proof.Machine.execNapWake s
  | .powerLoss => Sys2Proof.Machine.execPowerLoss s
  | .debugHaltRequest task => Sys2Proof.Machine.execDebugHaltRequest task s
  | .debugResume task => Sys2Proof.Machine.execDebugResume task s
  | .registerWrite off val => Sys2Proof.Machine.execRegisterWrite off val s
  | .storeQueueDrain task k => Sys2Proof.Machine.execStoreQueueDrain task k s
  | .scoreboardedWordCompletion task => Sys2Proof.Machine.execScoreboardedWordCompletion task s
  | .badpacket slot => Sys2Proof.Machine.execBadpacket slot s
  | .ringfault slot => Sys2Proof.Machine.execRingfault slot s
  | .droppedFrame port why => Sys2Proof.Machine.execDroppedFrame port why s
  | .selfRefreshExit ch => Sys2Proof.Machine.execSelfRefreshExit ch s
  | .adminCompletion ssd entry => Sys2Proof.Machine.execAdminCompletion ssd entry s
  | .ssdReady ssd => Sys2Proof.Machine.execSsdReady ssd s
  | .ssdLinkDown ssd => Sys2Proof.Machine.execSsdLinkDown ssd s
  | .localAckTimeout qpn => Sys2Proof.Machine.execLocalAckTimeout qpn s
  | .flaoriKeepalive peer => Sys2Proof.Machine.execFlaoriKeepalive peer s
  | .flaoriLostChunk src tag seq off => Sys2Proof.Machine.execFlaoriLostChunk src tag seq off s
  | .debugRequest state part signed => Sys2Proof.Machine.execDebugRequest state part signed s
  | .fuseCommand target signed => Sys2Proof.Machine.execFuseCommand target signed s

end Sys2Proof.Machine
end

