-- ==== Sys2Proof/Machine/Stat.lean ====
section
/-! DEFINITION. The scalar registers that an instruction of a stream reads or writes, and the wait for a status word that
is still to be written to one of them (R238, R350). -/
namespace Sys2Proof

/-- The two registers of a pair (R32). -/
def pairRegs (p : BitVec 4) : List Nat := [2 * p.toNat, 2 * p.toNat + 1]

/-- One register, or an even-odd pair by its even register. -/
def dataRegs (r : BitVec 5) (wide : Bool) : List Nat := if wide then [r.toNat, r.toNat + 1] else [r.toNat]

/-- The registers of a box's coordinates (R256). -/
def coordRegs (c : BitVec 5) : List Nat := (upto 6).map fun i => (c.toNat + i) % 32

/-- The registers that an action field names: STAT, and the pair of its future (R120). -/
def actRegs (a : Act) : List Nat :=
  (if a.stat = 31 then [] else [a.stat.toNat]) ++ (if a.fut = 0 then [] else pairRegs (BitVec.ofNat 4 (a.fut.toNat + 7)))

/-- The scalar registers that an instruction reads or writes, for the classes that a stream with engine operations
executes (R112). -/
def Instr.regsUsed : Instr → List Nat
  | .add d a b => [d.toNat] ++ [a.toNat] ++ [b.toNat]
  | .sub d a b => [d.toNat] ++ [a.toNat] ++ [b.toNat]
  | .and d a b => [d.toNat] ++ [a.toNat] ++ [b.toNat]
  | .or d a b => [d.toNat] ++ [a.toNat] ++ [b.toNat]
  | .xor d a b => [d.toNat] ++ [a.toNat] ++ [b.toNat]
  | .shl d a b => [d.toNat] ++ [a.toNat] ++ [b.toNat]
  | .shr d a b => [d.toNat] ++ [a.toNat] ++ [b.toNat]
  | .sra d a b => [d.toNat] ++ [a.toNat] ++ [b.toNat]
  | .mul d a b => [d.toNat] ++ [a.toNat] ++ [b.toNat]
  | .mulhI32 d a b => [d.toNat] ++ [a.toNat] ++ [b.toNat]
  | .mulhB32 d a b => [d.toNat] ++ [a.toNat] ++ [b.toNat]
  | .divI32 d a b => [d.toNat] ++ [a.toNat] ++ [b.toNat]
  | .divB32 d a b => [d.toNat] ++ [a.toNat] ++ [b.toNat]
  | .remI32 d a b => [d.toNat] ++ [a.toNat] ++ [b.toNat]
  | .remB32 d a b => [d.toNat] ++ [a.toNat] ++ [b.toNat]
  | .minI32 d a b => [d.toNat] ++ [a.toNat] ++ [b.toNat]
  | .maxI32 d a b => [d.toNat] ++ [a.toNat] ++ [b.toNat]
  | .minB32 d a b => [d.toNat] ++ [a.toNat] ++ [b.toNat]
  | .maxB32 d a b => [d.toNat] ++ [a.toNat] ++ [b.toNat]
  | .slt d a b => [d.toNat] ++ [a.toNat] ++ [b.toNat]
  | .sltb d a b => [d.toNat] ++ [a.toNat] ++ [b.toNat]
  | .seq d a b => [d.toNat] ++ [a.toNat] ++ [b.toNat]
  | .clz d a => [d.toNat] ++ [a.toNat]
  | .popc d a => [d.toNat] ++ [a.toNat]
  | .add64 d a b => pairRegs d ++ pairRegs a ++ pairRegs b
  | .sub64 d a b => pairRegs d ++ pairRegs a ++ pairRegs b
  | .shl64 d a b => pairRegs d ++ pairRegs a ++ [b.toNat]
  | .shr64 d a b => pairRegs d ++ pairRegs a ++ [b.toNat]
  | .mul64 d a b => pairRegs d ++ pairRegs a ++ pairRegs b
  | .sel d a b => [d.toNat] ++ [a.toNat] ++ [b.toNat]
  | .addi d a _ => [d.toNat] ++ [a.toNat]
  | .andi d a _ => [d.toNat] ++ [a.toNat]
  | .ori d a _ => [d.toNat] ++ [a.toNat]
  | .xori d a _ => [d.toNat] ++ [a.toNat]
  | .shli d a _ => [d.toNat] ++ [a.toNat]
  | .shri d a _ => [d.toNat] ++ [a.toNat]
  | .srai d a _ => [d.toNat] ++ [a.toNat]
  | .slti d a _ => [d.toNat] ++ [a.toNat]
  | .addi64 d a _ => pairRegs d ++ pairRegs a
  | .lui d _ => [d.toNat]
  | .addpc d _ => pairRegs d
  | .beq a b _ => [a.toNat] ++ [b.toNat]
  | .bne a b _ => [a.toNat] ++ [b.toNat]
  | .blt a b _ => [a.toNat] ++ [b.toNat]
  | .bge a b _ => [a.toNat] ++ [b.toNat]
  | .bltb a b _ => [a.toNat] ++ [b.toNat]
  | .bgeb a b _ => [a.toNat] ++ [b.toNat]
  | .jal d _ => pairRegs d
  | .jalr d a _ => pairRegs d ++ pairRegs a
  | .loopn a _ => [a.toNat]
  | .ldB8 d a _ => [d.toNat] ++ pairRegs a
  | .ldI8 d a _ => [d.toNat] ++ pairRegs a
  | .ldB16 d a _ => [d.toNat] ++ pairRegs a
  | .ldI16 d a _ => [d.toNat] ++ pairRegs a
  | .ldW d a _ => [d.toNat] ++ pairRegs a
  | .ldD d a _ => pairRegs d ++ pairRegs a
  | .stB8 d a _ => [d.toNat] ++ pairRegs a
  | .stB16 d a _ => [d.toNat] ++ pairRegs a
  | .stW d a _ => [d.toNat] ++ pairRegs a
  | .stD d a _ => pairRegs d ++ pairRegs a
  | .ldroW d a _ => [d.toNat] ++ pairRegs a
  | .ldroD d a _ => pairRegs d ++ pairRegs a
  | .atomAdd d a b ret _ wide => (if ret then dataRegs d wide else []) ++ pairRegs a ++ dataRegs b wide
  | .atomMinI d a b ret _ wide => (if ret then dataRegs d wide else []) ++ pairRegs a ++ dataRegs b wide
  | .atomMaxI d a b ret _ wide => (if ret then dataRegs d wide else []) ++ pairRegs a ++ dataRegs b wide
  | .atomMinB d a b ret _ wide => (if ret then dataRegs d wide else []) ++ pairRegs a ++ dataRegs b wide
  | .atomMaxB d a b ret _ wide => (if ret then dataRegs d wide else []) ++ pairRegs a ++ dataRegs b wide
  | .atomAnd d a b ret _ wide => (if ret then dataRegs d wide else []) ++ pairRegs a ++ dataRegs b wide
  | .atomOr d a b ret _ wide => (if ret then dataRegs d wide else []) ++ pairRegs a ++ dataRegs b wide
  | .atomXor d a b ret _ wide => (if ret then dataRegs d wide else []) ++ pairRegs a ++ dataRegs b wide
  | .atomExch d a b ret _ wide => (if ret then dataRegs d wide else []) ++ pairRegs a ++ dataRegs b wide
  | .atomAddF32 d a b ret _ => (if ret then [d.toNat] else []) ++ pairRegs a ++ [b.toNat]
  | .atomcasB32 d a b _ => [d.toNat] ++ pairRegs a ++ pairRegs b
  | .atomcasB64 d a b _ => pairRegs d ++ pairRegs a ++ pairRegs (b ++ 0#1) ++ pairRegs (b ++ 1#1)
  | .barw _ a _ => [a.toNat]
  | .bare _ a => [a.toNat]
  | .sbarw _ a _ => [a.toNat]
  | .cwait a _ => [a.toNat]
  | .fres a b => pairRegs a ++ [b.toNat]
  | .fflt a b => pairRegs a ++ [b.toNat]
  | .ftry d a b => [d.toNat] ++ pairRegs a ++ [b.toNat]
  | .fstat d a => pairRegs d ++ pairRegs a
  | .tlaunch d a => [d.toNat] ++ pairRegs a
  | .tjoin d a => [d.toNat] ++ pairRegs a
  | .grec a b => pairRegs a ++ [b.toNat]
  | .sysrd d _ => [d.toNat]
  | .syswr a _ => [a.toNat]
  | .cycles a _ => [a.toNat]
  | .mold act _ _ a _ => actRegs act ++ [a.toNat]
  | .mma act _ _ _ _ _ _ _ _ => actRegs act
  | .mmap act _ _ _ _ _ _ _ _ => actRegs act
  | .mmasFull act _ _ _ _ _ => actRegs act
  | .mmasTri act _ _ _ _ _ => actRegs act
  | .mwclr act => actRegs act
  | .mwst act d p _ _ => actRegs act ++ pairRegs d ++ [p.toNat]
  | .macz act _ _ => actRegs act
  | .macld act a p _ _ _ => actRegs act ++ pairRegs a ++ [p.toNat]
  | .macst act d p _ _ _ _ _ sc => actRegs act ++ pairRegs d ++ [p.toNat] ++ pairRegs sc
  | .rboard act _ l f n m => actRegs act ++ [l.toNat] ++ [f.toNat] ++ [n.toNat] ++ [m.toNat]
  | .mseed a => [a.toNat]
  | .cpy act d a n => actRegs act ++ pairRegs d ++ pairRegs a ++ [n.toNat]
  | .tcopy act r a c => actRegs act ++ pairRegs r ++ [a.toNat] ++ coordRegs c
  | .tcopySt act r a c => actRegs act ++ pairRegs r ++ [a.toNat] ++ coordRegs c
  | .tcopyo act r _ c => actRegs act ++ pairRegs r ++ coordRegs c
  | .osliceA act a _ _ _ => actRegs act ++ [a.toNat]
  | .osliceB act a _ _ _ => actRegs act ++ [a.toNat]
  | .gather act d a i n w t => actRegs act ++ [d.toNat] ++ pairRegs a ++ pairRegs i ++ [n.toNat] ++ [w.toNat] ++ [t.toNat]
  | .scatter act d a i n w t => actRegs act ++ [d.toNat] ++ pairRegs a ++ pairRegs i ++ [n.toNat] ++ [w.toNat] ++ [t.toNat]
  | .cpyred act d s n _ _ => actRegs act ++ pairRegs d ++ [s.toNat] ++ [n.toNat]
  | .qfill act _ a l e n => actRegs act ++ pairRegs a ++ [l.toNat] ++ [e.toNat] ++ [n.toNat]
  | .qsink act _ a l e n => actRegs act ++ pairRegs a ++ [l.toNat] ++ [e.toNat] ++ [n.toNat]
  | .collred act g d s n _ _ _ => actRegs act ++ pairRegs g ++ [d.toNat] ++ [s.toNat] ++ [n.toNat]
  | .collbc act g d n => actRegs act ++ pairRegs g ++ [d.toNat] ++ [n.toNat]
  | .collsendSend act g t s n => actRegs act ++ pairRegs g ++ [t.toNat] ++ [s.toNat] ++ [n.toNat]
  | .collsendRecv act g t s n => actRegs act ++ pairRegs g ++ [t.toNat] ++ [s.toNat] ++ [n.toNat]
  | .spref act a n => actRegs act ++ pairRegs a ++ [n.toNat]
  | .cstat d => [d.toNat]
  | _ => []

end Sys2Proof

namespace Sys2Proof.Machine

/-- The outstanding operations of a task that will write a status word to a register that the instruction names: it waits
for them (R238). The status words of a stream are those of its own engine. -/
def Task.statWaits (t : Task) (k : StreamId) (i : Instr) : List Nat :=
  let regs := i.regsUsed
  ((if k = .m then t.mops else if k = .c then t.cops else []).filter fun o => match o.act.stat with
    | some d => regs.contains d.toNat
    | none => false).map (·.id)

end Sys2Proof.Machine
end

