-- ==== Sys2Proof/Machine/Plan.lean ====
section
/-! DEFINITION. What the next step is: the next event of the agenda, the entry of a pending trap, the instruction at the
program counter of the stream that holds the run, something that the device does by itself, or the next grant of an
arbiter (R94, R110, R134, R284, R294, R390; log 4). -/
namespace Sys2Proof.Machine

/-- The next step: an instruction or event to run in a state, or a state reached without one. -/
inductive Plan where
  | run (i : Instr) (s : State)
  | done (s : State)

/-- An event, not an instruction of a stream. -/
def isEvent (i : Instr) : Bool :=
  match i with
  | .xtile | .xstepPop | .pairedWord => false
  | i => (encodeNat i).isEmpty

/-- Some task of the core has a stream of the kind that may issue, now or once its stall count has expired. -/
def State.anyReady (s : State) (core : Nat) (k : StreamId) : Bool :=
  s.tasks.any fun t => s.coreOf t == core && s.canIssue t k

/-- The run ends here: the arbiter grants anew (R133, R294). -/
def State.endRun (s : State) (t : Task) (k : StreamId) : State :=
  s.setTask (t.setSt k { t.st k with granted := false, run := 0 })

/-- The run of the stream ends before an instruction of the class: a run holds vector words or other instructions,
never both, and without the checking scoreboard a 25th vector word starts a new run (R133, R294). -/
def runEndsBefore (t : Task) (st : StreamSt) (cls : InstrClass) : Bool :=
  decide (0 < st.run) && (if cls == .vector then !st.runVec || (!t.chk && decide (24 ≤ st.run)) else st.runVec)

/-- The instruction at a stream's program counter: fetched, decoded, and run (R110, R112, R134, R135), once no status
word is awaited in a register that it names (R238). A paired word that breaks R129 is left to its meaning, which knows
the task's limits. -/
def State.planFetch (s : State) (t : Task) (k : StreamId) : Plan :=
  let st := t.st k
  match s.fetch t k st.pc with
  | .error e => .done (s.stopped t k e)
  | .ok (p0, p1, p2) =>
    let runs := match classOf p0 with
      | some c => c.runsOn k
      | none => true
    match decode p0 p1 p2 with
    | .error sub =>
      if sub = 5 && runs then .run .pairedWord (s.setTask { t with word := (p0, p1, p2) })
      else .done (s.stopped t k (.trap { cls := clsIllegal, sub := if !runs && decide (3 < sub) then 3 else sub }))
    | .ok i =>
      if !runs then .done (s.stopped t k (.trap { cls := clsIllegal, sub := 3 }))
      else if runEndsBefore t st ((classOf p0).getD .scalar) then .done (s.endRun t k)
      else
        match t.statWaits k i with
        | [] => .run i (if classOf p0 = some .vector then s.setTask { t with word := (p0, p1, p2) } else s)
        | ops => .done (s.stopped t k (.wait (.hazard ops)))

/-! ## What the device does by itself -/

/-- A state if it differs. -/
def State.ifNew (s s' : State) : Option State := if s' = s then none else some s'

/-- A scoreboarded word, an operation or a store of a task completes (R97, R132, R233). -/
def State.taskWork (s : State) (t : Task) : Option State :=
  if !t.sb.isEmpty then some (s.completeWord t.uid)
  else match if Config.choice s.fresh 6000003 then (s.partNext t).bind s.ifNew else none with
  | some s' => some s'
  | none =>
  match t.mops.find? fun o => s.readyMop t o with
    | some o => some (s.completeMop t o)
    | none =>
      match t.cops.findSome? fun o => if s.mayComplete t o false then s.ifNew (s.runCop t o) else none with
      | some s' => some s'
      | none =>
        if t.det then none
        else match allStreams.find? fun k => !(t.st k).queue.isEmpty with
          | some k => let (s, t) := s.drainOne t k; some (s.setTask t)
          | none => if t.over && s.resident t then some (s.retireTask t) else none

/-- A commit of a deterministic launch (R303). -/
def State.commitNext (s : State) : Option State :=
  (s.launches.find? fun l => s.mayCommit l).map fun l => s.commitNow l

/-- A block that waits for a page is evicted, or goes on in its place (R277, R402). -/
def State.evictHeld (s : State) : Option State := s.blocks.findSome? s.leaveHeld

/-- A pixel lane is performed (R218). -/
def State.pxwNext (s : State) : Option State := (s.pxw.find? fun p => s.pxwReady p).map fun p => s.performPxw p

/-- The ring moves on for RBOARDs that wait (R267, R272): a tile passes a core, or the next layer starts. -/
def State.ringNext (s : State) : Option State :=
  if !s.boardWaits || !s.ring.loaded || s.ringSpeed == 3 then none
  else if s.ringOwes then
    (s.tasks.find? fun t => s.resident t && t.mops.any fun o => match o.board, s.ring.layers[s.ring.layer]? with
      | some b, some l => b.layer == s.ring.layer && decide (b.minLap ≤ s.ring.lap.toNat) &&
          decide ((s.tapOf (s.coreOf t)).seq < l.dwell)
      | _, _ => false).map fun t => s.passTile (s.coreOf t) true
  else some s.nextLayer

/-- Reclaims and invalidations go on (R379, R386). -/
def State.pagesNext (s : State) : Option State :=
  match s.reclaims.findSome? fun r => s.ifNew (s.advanceReclaim r) with
  | some s' => some s'
  | none => s.ifNew s.tlbiSettle

/-- The dispatcher and the queue scheduler (R26, R284), and a swap or a wake that waits (R417, R418). -/
def State.dispatchNext (s : State) : Option State :=
  match s.swapNext with
  | some s' => some s'
  | none => match (upto 8).findSome? s.placeNext with
    | some s' => some s'
    | none => match s.serveQueues with
      | some s' => some s'
      | none => if s.byder.power == .nap && s.packetReady then some s.wakeNap else none

/-- The wait of a CYCLES that ends first is over (R170). -/
def State.cyclesNext (s : State) : Option State :=
  let ws := s.tasks.flatMap fun t => allStreams.filterMap fun k => match (t.st k).status with
    | .waiting (.cycles c) => if s.resident t then some (c, t.uid, k) else none
    | _ => none
  ((sortOn (·.1) ws).head?).map fun w => s.expireCycles w.2.1 w.2.2

/-- A request reaches a channel in self-refresh, which ends (R373): which accesses the L2 slices pass on to the channels is
no part of State (log 82). -/
def State.refreshNext (s : State) : Option State :=
  if s.byder.power == .sleep || !(Config.choice s.fresh 6000006) then none else s.selfRefresh.head?.map s.wakeChannel

/-- Records that wait in a node are cut (R291). -/
def State.flushNext (s : State) : Option State := s.nodes.findSome? fun n => s.ifNew (s.flushNode n.id)

/-- A store on a core's outbound path reaches its home (R97). -/
def State.pathNext (s : State) : Option State := (s.cores.find? fun c => !c.2.out.isEmpty).map fun c => s.landOne c.1

/-- What the device does by itself beside the outbound paths. -/
def State.workNext (s : State) : Option State :=
  s.tasks.findSome? s.taskWork <|> s.commitNext <|> s.devNext <|> s.evictHeld <|> s.pxwNext <|> s.pagesNext <|> s.dispatchNext <|>
    s.cyclesNext <|> s.flushNext <|> s.qpNext <|> s.pullNext <|> s.refreshNext <|> s.ringNext

/-- The next thing that the device does by itself; none when there is nothing to do. When a store on a path goes on is
free (log 6). -/
def State.advance (s : State) : Option State :=
  match s.pathNext with
  | none => s.workNext
  | some s' => if Config.choice s.fresh 6000001 then some s' else match s.workNext with
    | some x => some x
    | none => some s'

/-! ## Grants -/

/-- The cores that hold resident tasks. -/
def State.busyCores (s : State) : List Nat := dedup ((s.tasks.filter s.resident).map s.coreOf)

/-- The arbiters in turn: those after the one that granted last come first. -/
def State.arbiters (s : State) : List (Nat × StreamId) :=
  let all := s.busyCores.flatMap fun c => allStreams.map fun k => (c, k)
  match s.focus.bind fun f => (s.task? f.task).map fun t => (s.coreOf t, f.k) with
  | some x =>
    let after := (all.dropWhile (· != x)).drop 1
    after ++ all
  | none => all

/-- The turn of an arbiter: it grants, or where every stream that it could grant is stalled, the first stall count expires
(R335). -/
def State.arbTurn (s : State) (core : Nat) (k : StreamId) : State :=
  if s.tasks.any fun t => s.coreOf t == core && s.ready t k then s.grantRun core k
  else match sortOn Task.vready (s.tasks.filter fun t => s.coreOf t == core && s.canIssue t k) with
    | [] => s
    | t :: _ => { s with now := Nat.max s.now t.vready }

/-- The next arbiter that has a stream to grant. -/
def State.grantNext (s : State) : Option State :=
  (s.arbiters.find? fun x => s.anyReady x.1 x.2).map fun x => s.arbTurn x.1 x.2

/-- The stream that holds its arbiter's run and may issue. -/
def State.running (s : State) : Option (Task × StreamId) :=
  match s.focus with
  | none => none
  | some fc => match s.task? fc.task with
    | some t => if s.canIssue t fc.k && (t.st fc.k).granted then some (t, fc.k) else none
    | none => none

/-- The next step of the package: between runs the device's own work and the grants take turns (log 4). -/
def State.plan (s : State) : Plan :=
  match s.agenda with
  | i :: rest => if isEvent i then .run i { s with agenda := rest } else .done { s with agenda := rest }
  | [] =>
    match s.tasks.find? s.mayEnter with
    | some t => .done (s.enterPending t)
    | none =>
      match s.running with
      | some (t, k) =>
        if t.sb.isEmpty || Config.choice s.fresh 6000002 then s.planFetch t k else .done (s.completeWord t.uid)
      | none =>
        .done ((if s.fresh % 2 = 0 then s.advance <|> s.grantNext else s.grantNext <|> s.advance).getD s)

end Sys2Proof.Machine
end

