-- ==== Sys2Proof/Machine/Load.lean ====
section
/-! DEFINITION. A task made ready to run one placed instruction: what DISPATCH, PLACE_BLOCK and the page tables of a
driver would have set up (log 16). -/
namespace Sys2Proof.Machine

/-- The bytes of the page tables: PTROOT at 0x1000, a level-5, a level-4 and a level-3 table that map the first GiB of
virtual addresses onto itself, writable. -/
def identityTables (m : Memory) : Memory :=
  ((m.setField 0x1000 8 0x2000).setField 0x2000 8 0x3000).setField 0x3000 8 0x05

/-- The parcels of a table word and the zero words above it, in memory from 0x10000 (R4, R110). -/
def placeWord (m : Memory) (w : Nat) : Memory := m.setField 0x10000 12 w

/-- The stream that executes a table word (R112). -/
def wordStream (w : Nat) : StreamId :=
  match classOf (BitVec.ofNat 32 w) with
  | some .vector => .v
  | some .mask => .v
  | some .matrix => .m
  | some .copy => .c
  | _ => .s

/-- A stream at the placed word: as a task start leaves it, holding its arbiter's run (R14, R294). -/
def loadStream (here : Bool) : StreamSt :=
  { StreamSt.init with pc := 0x10000, status := if here then .ready else .ended, granted := here }

/-- The state with one task of one block resident on core 0, whose stream is at the placed word. -/
def State.loadWord (s : State) (_nbits w : Nat) : State :=
  let mem := placeWord (identityTables s.mem) w
  let k := wordStream w
  let am := fun (st : StreamSt) => { st with regs := ((st.regs.set 28 0xFFFFFFFF).set 29 0xFFFFFFFF).set 30 0xFFFFFFFF }
  let t : Task :=
    { Task.init with
      uid := s.uid, block := s.uid, launch := 1, nv := 124, nrows := 128, nacc := 32, nsems := 16,
      str := { s := loadStream (k == .s), v := am (loadStream (k == .v)), m := loadStream (k == .m),
               c := loadStream (k == .c) } }
  let b : Block := { Block.init with uid := s.uid, launch := 1, span := s.uid, st := .resident, size := 65536 }
  let p : Span := { Span.init with uid := s.uid, launch := 1 }
  let l : Launch := { Launch.init with num := 1, left := 1, pkt := { Packet.zero with type := 1, tasks := 1, grid := 1 } }
  { s with
    agenda := [], focus := some { task := s.uid, k := k }, uid := s.uid + 1, mem := mem,
    mgmt := (0x140, 0x1001) :: s.mgmt, tasks := t :: s.tasks, blocks := b :: s.blocks, spans := p :: s.spans,
    launches := l :: s.launches }

end Sys2Proof.Machine
end

