-- ==== Sys2Proof/Machine/Step.lean ====
section
/-! DEFINITION. One step of the package, and the placing of an instruction where the step fetches its next one. -/
namespace Sys2Proof.Machine

/-- One step: the counter of free values moves on, and the planned instruction or event runs. -/
def step (s : State) : Host.Outcome State Fault Refusal :=
  match s.bump.plan with
  | .run i s' => exec i s'
  | .done s' => .next s'

/-- The state with the instruction of a table word placed where the step fetches its next instruction (log 16). -/
def State.withFetchWord (s : State) (nbits w : Nat) : State := s.loadWord nbits w

end Sys2Proof.Machine
end

