-- ==== Sys2Proof/Safety.lean ====
section
/-! DEFINITION. What counts as a sound state and a sound run, in the terms the claims use: when a stream issues, what one
instruction may change, and how a vector word or an operation of an engine leaves the state. -/
namespace Sys2Proof.Machine

/-- Package memory and the scratch of every block are in canonical form. -/
def State.bytesOk (s : State) : Bool := s.mem.wf && s.blocks.all fun b => b.scratch.wf

/-- A step that goes on: no fault, no refusal. -/
def goesOn (o : Host.Outcome State Fault Refusal) : Prop := ∃ s', o = .next s'

/-- Stream `k` of the task `t` is in focus and may issue (R15, R294, R298, R390). -/
structure Issues (s : State) (t : Task) (k : StreamId) : Prop where
  focus : s.focus = some { task := t.uid, k := k }
  task : s.task? t.uid = some t
  can : s.canIssue t k = true

/-- Nothing stands between the stream in focus and its next instruction: no event is on the agenda, no task has a delivered
trap to enter, and the stream holds its arbiter's run (R294, R390). -/
def State.inRun (s : State) (t : Task) (k : StreamId) : Prop :=
  s.agenda = [] ∧ (∀ x ∈ s.tasks, s.mayEnter x = false) ∧ Issues s t k ∧ (t.st k).granted = true ∧ t.sb = []

/-! ## What an instruction changes -/

/-- A stream changed in its program counter, its state, its counts of runs and quanta, and the registers of `dst`. -/
structure StreamFrame (a b : StreamSt) (dst : List (BitVec 5)) : Prop where
  regs : ∀ r, r ∉ dst → b.reg r = a.reg r
  fpmode : b.fpmode = a.fpmode
  fpflags : b.fpflags = a.fpflags
  srcnt : b.srcnt = a.srcnt
  cyc : b.cyc = a.cyc
  queue : b.queue = a.queue
  ro : b.ro = a.ro
  seen : b.seen = a.seen

/-- Only the stream `k` of the task `t` has changed, in what StreamFrame allows: every other field of the task, every other
task, every other field of the state, and so every byte of memory and scratch, is as before. -/
structure OnlyStream (s s' : State) (t : Task) (k : StreamId) (dst : List (BitVec 5)) : Prop where
  own : ∃ st, StreamFrame (t.st k) st dst ∧ s'.task? t.uid = some (t.setSt k st)
  others : ∀ u, u ≠ t.uid → s'.task? u = s.task? u
  rest : { s' with tasks := s.tasks } = s
  bytes : ∀ l, s'.byteAt l = s.byteAt l

/-- A pair as its two registers (R32). -/
def halves (p : BitVec 4) : List (BitVec 5) := [pairLo p, pairHi p]

/-- The byte of a frame's record where the device itself keeps DIRTY and POISON, for a frame that one of the places lies
in (R384). -/
def State.frameByte (s : State) (ls : List Loc) (l : Loc) : Prop :=
  ∃ pa p i, Loc.mem pa ∈ ls ∧ s.frameOf pa = some (p, i) ∧ l = .mem (s.frameRec p i + 1)

/-- The places of the stores on a core's outbound path (R97). -/
def State.pathLocs (s : State) (core : Nat) : List Loc := (s.core core).out.flatten.map (·.1)

/-- Every byte of memory and scratch but those of `ls`, and the record bytes of the frames that they lie in, reads as
before. -/
def BytesKept (s s' : State) (ls : List Loc) : Prop :=
  ∀ l, l ∉ ls → ¬ s.frameByte ls l → s'.byteAt l = s.byteAt l

/-- The registers of every stream, the vector registers, the predicates, the queues, the accumulators, the exception
registers and the special registers of a task are as before, but for the scalar registers `dst` of stream `k`. -/
structure TaskFrame (t t' : Task) (k : StreamId) (dst : List (BitVec 5)) : Prop where
  regs : ∀ j r, (j = k → r ∉ dst) → (t'.st j).reg r = (t.st j).reg r
  fpmode : ∀ j, (t'.st j).fpmode = (t.st j).fpmode
  fpflags : ∀ j, (t'.st j).fpflags = (t.st j).fpflags
  pcs : ∀ j, j ≠ k → (t'.st j).pc = (t.st j).pc
  vregs : t'.vregs = t.vregs
  preds : t'.preds = t.preds
  vqs : t'.vqs = t.vqs
  sems : t'.sems = t.sems
  acc : t'.acc = t.acc
  wfa : t'.wfa = t.wfa
  claim : t'.claim = t.claim
  srseed : t'.srseed = t.srseed
  traps : (t'.tvec, t'.tcause, t'.tinfo, t'.tpcS, t'.tpcV, t'.tpcM, t'.tpcC) =
    (t.tvec, t.tcause, t.tinfo, t.tpcS, t.tpcV, t.tpcM, t.tpcC)
  saves : (t'.tsave0, t'.tsave1, t'.tsave2, t'.tsave3, t'.tmode, t'.tended, t'.pend) =
    (t.tsave0, t.tsave1, t.tsave2, t.tsave3, t.tmode, t.tended, t.pend)

/-- The state after an atomic outside deterministic mode (R102): the stream's stores are performed at `scope` and the
core's stores to the same slots are at home, the places `ls` have been read and, where `new` says so, written in one
step, the core's L1 drops their lines, an acquire at `scope` follows, and a returning form leaves the old value in its
destination. -/
def State.afterAtomic (s : State) (t : Task) (k : StreamId) (va n : Nat) (scope : Scope) (ret : RetTo)
    (new : Nat → Option Nat) : State :=
  let ls := s.locs (t.accessor s) va n true
  let u := (s.tlbFillRange (t.accessor s) va n).perform t k scope
  let h := u.1.landAt (t.accessor s).core ls
  let old := leNat (h.readLocs ls)
  let w := match new old with
    | some v => h.applyBytes (ls.zip (natLe n v))
    | none => h
  ((w.l1Drop (t.accessor s).core ls).acquire u.2 scope).retire u.2 k ((u.2.st k).putRet ret old)

/-! ## Vector words -/

/-- The flags that a word's active lanes raise, by lane (R174). -/
def wordFlags (m : Mask) (o : VOut) : List FFlags := (upto 96).map fun l => nth (activeFlags m o.flags) l 0

/-- The state after a wide word of a latency class that issued at the cycle `at_` (R133, R174, R331, R335): the flags are
kept, `u` holds the results, the word is in flight, and the stream has moved on. -/
def State.afterWide (s : State) (t u : Task) (at_ op : Nat) (w : VW) (fl : List FFlags) : State :=
  let sr := w.rm == 5 && (op == 0x100 || op == 0x102 || op == 0x103 || op == 0x106)
  let st := u.str.v.orFlags (orAll fl)
  let st := if sr then { st with srcnt := st.srcnt + 1 } else st
  let old := u.flights.filter fun f => decide (at_ < f.issued + f.lat)
  let v := { u with flights := flightsOf t at_ [(op, w)] ++ old, vready := at_ + 1 + w.stall.toNat,
                    sb := u.sb ++ heldDests [(op, w)] }
  let v := v.countDroop (s.bubbles t [(op, w)])
  ({ s.takePipes t at_ [op] with now := at_ + 1 } : State).setTask (v.setSt .v (v.advanceVec st w.e))

/-- The state after a scoreboarded word (R132, R133): `u` holds its results, its destinations are on the scoreboard. -/
def State.afterMem (s s' : State) (t u : Task) (at_ op : Nat) (w : VW) (x : VIn) (o : VOut) : State :=
  let st := u.str.v.orFlags (orAll (activeFlags x.mask o.flags))
  let ds := if x.mask = 0 then [] else wordDests op w
  let v := ({ u with vready := at_ + 1 + w.stall.toNat, sb := if ds.isEmpty then u.sb else u.sb ++ [ds] } : Task).countDroop (s.bubbles t [(op, w)])
  ({ s'.takePipes v at_ [op] with now := at_ + 1 } : State).setTask (v.setSt .v (v.advanceVec st w.e))

/-! ## Operations of the engines -/

/-- The operations of a task's matrix or copy engine that have issued and not completed. -/
def Task.opsOf (t : Task) (k : StreamId) : List AsyncOp := if k = .m then t.mops else t.cops

/-- The instruction `i` of stream `k` has started an operation of its engine (R233, R240) with the completion actions `act`
and the footprint `foot`, and has retired; memory, scratch and the rest of the task are as before. -/
structure Started (s s' : State) (t : Task) (k : StreamId) (i : Instr) (foot : List Fp) : Prop where
  op : ∃ o t', s'.task? t.uid = some t' ∧ t'.opsOf k = t.opsOf k ++ [o] ∧ o.instr = i ∧ o.foot = foot ∧
    o.pc = (t.st k).pc ∧ o.seq = s.seq ∧ (t'.st k).pc = (t.st k).pc + 8 ∧ TaskFrame t t' k []
  bytes : ∀ l, s'.byteAt l = s.byteAt l
  others : ∀ u, u ≠ t.uid → s'.task? u = s.task? u

/-- A matrix instruction with the footprint `foot`, the MATRIX conditions `codes` that it meets and the checks `chk` (R233,
R234, R239): with 8 operations of the stream outstanding, or with an outstanding operation of the task in the way of its
footprint, it waits; the lowest condition is raised; and where no check stops it, its operation starts. -/
def matrixStarts (s : State) (t : Task) (i : Instr) (act : Act) (foot : List Fp) (codes : List Nat) (chk : IssueChk) : Prop :=
  (8 ≤ t.mops.length → exec i s = .next (s.stall t .m .engine)) ∧
  (t.mops.length < 8 → s.blockers t foot ≠ [] → exec i s = .next (s.stall t .m (.hazard (s.blockers t foot)))) ∧
  (t.mops.length < 8 → s.blockers t foot = [] →
    (act.sige = 1 → t.nsems ≤ act.sem.toNat →
      exec i s = .next (s.takeTrap t .m (t.st .m).pc false 0 { cls := 7, sub := 1 })) ∧
    ((act.sige = 1 → act.sem.toNat < t.nsems) →
      (∀ c ∈ codes, (∀ x ∈ codes, c ≤ x) → exec i s = .next (s.takeTrap t .m (t.st .m).pc false 0 { cls := 5, sub := c })) ∧
      (codes = [] → s.issueChecks t [] (futOf (t.st .m) act) chk = .ok () →
        ∃ s', exec i s = .next s' ∧ Started s s' t .m i foot)))

/-- A condition of R239 that is met. -/
def codeIf (c : Nat) (p : Prop) [Decidable p] : List Nat := if p then [c] else []

/-- A copy instruction (R233, R234, R237, R239): with 64 copies outstanding it waits; otherwise, where its operands are
read as `ok` and no check on them stops it, its operation starts, whatever its footprint meets. Its checks are made in the
state `u`, where a collective has taken its place in the order of its TAG. -/
def copyStarts (s u : State) (t : Task) (i : Instr) (act : Act) (foot : List Fp) (ok : Prop) (codes : List Nat)
    (chk : IssueChk) : Prop :=
  (64 ≤ t.cops.length → exec i s = .next (s.stall t .c .engine)) ∧
  (t.cops.length < 64 → act.sige = 1 → t.nsems ≤ act.sem.toNat →
    exec i s = .next (s.takeTrap t .c (t.st .c).pc false 0 { cls := 7, sub := 1 })) ∧
  (t.cops.length < 64 → (act.sige = 1 → act.sem.toNat < t.nsems) → ok →
    (∀ x ∈ codes, (∀ y ∈ codes, x ≤ y) → exec i s = .next (s.takeTrap t .c (t.st .c).pc false 0 { cls := 5, sub := x })) ∧
    (codes = [] → u.issueChecks t [] (futOf (t.st .c) act) chk = .ok () → ∃ s', exec i s = .next s' ∧ Started s s' t .c i foot))

end Sys2Proof.Machine
end

