-- ==== Sys2Proof/Certificates/Slice0/Obligations.lean ====
section
/-! DEFINITION. The statements about the model, for the provers. Each says which rules of spec/ it rests on. -/
open Sys2Proof Sys2Proof.Machine

/-! ## Encodings -/

/-- Words written out bit by bit from the worked encodings of 02, 06, 07, 08, 09 and 10 decode to the instructions that the
spec gives for them: words of the 32-bit class, engine words, wide vector words and a paired word. -/
def Obligations.DecodeWordsOfEachFamily : Prop :=
  decode 0x024A7FFF 0 0 = .ok (.addi 9 9 (-1)) ∧
  decode 0x0B3091A2 0 0 = .ok (.lui 6 0x91A2) ∧
  decode 0x04319678 0 0 = .ok (.ori 6 6 0x1678) ∧
  decode 0x18483FFA 0 0 = .ok (.loopn 9 (-6)) ∧
  decode 0x2C390D60 0 0 = .ok (.atomAdd 7 2 6 true .pkg false) ∧
  decode 0x30000001 0 0 = .ok (.sig 0 1) ∧
  decode 0x31080001 0 0 = .ok (.wait 1 1) ∧
  decode 0x34024000 0 0 = .ok (.bare 0 9) ∧
  decode 0x33030000 0 0 = .ok (.barw 0 12 0) ∧
  decode 0x3700000C 0 0 = .ok (.fenceRel .pkg) ∧
  decode 0x3700000D 0 0 = .ok (.fenceAcq .pkg) ∧
  decode 0x37000006 0 0 = .ok (.fenceAr .block) ∧
  decode 0x37000003 0 0 = .ok .fenceRo ∧
  decode 0x42340A00 0 0 = .ok (.ftry 6 8 5) ∧
  decode 0x50A04000 0 0 = .ok (.mif 20 1) ∧
  decode 0x51A00000 0 0 = .ok (.melse 20) ∧
  decode 0x60200010 0 0 = .ok (.sysrd 4 0x010) ∧
  decode 0x67000000 0 0 = .ok .endStream ∧
  decode 0x68000000 0 0 = .ok .kill ∧
  decode 0x8407F000 0x1C8C 0 = .ok (.cpy { stat := 31, sige := 1, sem := 0, byte := 0, bar := 0, fut := 0 } 6 2 7) ∧
  decode 0x8013F100 0x4CFE0080 0 =
    .ok (.mma { stat := 31, sige := 1, sem := 1, byte := 0, bar := 0, fut := 0 } 0 2 0 7 7 9 9 false) ∧
  decode 0xC2021F0A 0x0A180000 0x3F800000 = .ok (.fadd ⟨0, 1, 31, 0, 0x0A, 5, 6, 0, 0, 0, 0x3F800000⟩) ∧
  decode 0xC22C1F44 0x10182000 0x40 = .ok (.vld ⟨0, 1, 31, 0, 0x44, 8, 6, 4, 0, 0, 0x40⟩) ∧
  decode 0xCB060427 0xF1004103 0xF2204200 = .ok .pairedWord ∧ pairHead 0xCB060427 = { stall := 2, e := 1 } ∧
  decSlot (fld 0xCB060427 0 10) 0xF1004103 = { op9 := 0x013, pred := 31, d := 8, a := 1, b := 2, c := 3 } ∧
  decSlot (fld 0xCB060427 10 10) 0xF2204200 = { op9 := 0x0C0, pred := 31, d := 17, a := 1, b := 4, c := 0 }

/-- The parcels that the encoder gives a well-formed instruction decode to it: no bit of an operand is dropped by any form
of any encoding table (R110 to R130). Events, and the three instructions whose operands lie in a task's word latch, have
no parcels of their own (LatchedWordsDecode is about those). -/
def Obligations.DecodeInvertsEncode : Prop :=
  ∀ i : Instr, i.wf = true → ∀ p0 ps, encode i = p0 :: ps → decode p0 (nth ps 0 0) (nth ps 1 0) = .ok i

/-- An instruction that the decoder gives is well-formed (R114, R115, R126, R130): no operand that the encoding tables call
illegal, and no reserved value of a field that the instruction keeps, gets past it. This says nothing of bits that the
decoder drops, nor of the three instructions whose operands lie in the latch. -/
def Obligations.DecodedInstructionsWellFormed : Prop :=
  ∀ p0 p1 p2 i, decode p0 p1 p2 = .ok i → i.wf = true

/-- A mask instruction that names a rejoin triple above s25 raises ILLEGAL, sub-code OPERAND (4), at decode; one that names
s0 to s25 decodes, and its triple overlaps neither am0 to am2 (s28 to s30) nor s31 (R34). -/
def Obligations.RejoinTripleAbove25Illegal : Prop :=
  ∀ (j p : BitVec 5), ∀ i ∈ [Instr.mif j p, .melse j, .mjoin j, .msave j, .pmovs j p, .smovp p j],
    ∀ w ps, encode i = w :: ps → ∀ p1 p2 : Word,
      (25 < j.toNat → decode w p1 p2 = .error 4 ∧
        ∀ s t, State.inRun s t .v → s.bump.fetch t .v (t.st .v).pc = .ok (w, p1, p2) →
          step s = .next (s.bump.takeTrap t .v (t.st .v).pc false 0 { cls := 0, sub := 4 })) ∧
      (j.toNat ≤ 25 → decode w p1 p2 = .ok i ∧ ∀ x ∈ [j, j + 1, j + 2], x.toNat < 28)

/-- The parcels of a paired word, of an XTILE and of an XSTEP.POP decode to the instruction, and the latch that holds them
gives back every field: header, both slots, and all the fields of the wide word (R123 to R129). -/
def Obligations.LatchedWordsDecode : Prop :=
  (∀ h sa sb, pairIllegal h sa sb = none → ∀ a b c, encPaired h sa sb = [a, b, c] →
    decode (BitVec.ofNat 32 a) (BitVec.ofNat 32 b) (BitVec.ofNat 32 c) = .ok .pairedWord ∧
    pairHead a = h ∧ decSlot (fld a 0 10) b = sa ∧ decSlot (fld a 10 10) c = sb) ∧
  (∀ w, wideIllegal 0x193 w = none → ∀ a b c, encWide 0x193 w = [a, b, c] →
    decode (BitVec.ofNat 32 a) (BitVec.ofNat 32 b) (BitVec.ofNat 32 c) = .ok .xtile ∧ wideFields a b c = w) ∧
  (∀ w, w.mod7.getLsbD 0 = true → wideIllegal 0x192 w = none → ∀ a b c, encWide 0x192 w = [a, b, c] →
    decode (BitVec.ofNat 32 a) (BitVec.ofNat 32 b) (BitVec.ofNat 32 c) = .ok .xstepPop ∧ wideFields a b c = w)

/-! ## The step -/

/-- A step of a stream that holds its run, where the parcels at its program counter decode to an instruction of a class
that the stream executes, no run boundary falls before it and it awaits no status word, is that instruction's meaning at
this state, with the counter of free values moved on; a vector word stands in its task's latch (R110, R112, R133, R134,
R238). A paired word that breaks only R129 is left to its meaning. An event that stands first on the agenda, which is the
model's own (log 4), is what the next step runs. -/
def Obligations.StepRunsDecodedInstruction : Prop :=
  (∀ (s : State) (t : Task) (k : StreamId) (p0 p1 p2 : Word), State.inRun s t k →
    s.bump.fetch t k (t.st k).pc = .ok (p0, p1, p2) → ∀ c, classOf p0 = some c → c.runsOn k = true →
    (∀ i, decode p0 p1 p2 = .ok i → runEndsBefore t (t.st k) c = false → t.statWaits k i = [] →
      step s = exec i (if c = .vector then s.bump.setTask { t with word := (p0, p1, p2) } else s.bump)) ∧
    (decode p0 p1 p2 = .error 5 →
      step s = exec .pairedWord (s.bump.setTask { t with word := (p0, p1, p2) }))) ∧
  (∀ (s : State) i rest, s.agenda = i :: rest → isEvent i = true → step s = exec i { s.bump with agenda := rest })

/-- Parcels that decode to nothing take ILLEGAL with the sub-code that the decoder gives, CLASS (3) going before OPERAND
(4) and the paired-word sub-code (5) where the stream does not execute the class (R112, R134, R135). -/
def Obligations.UndecodableParcelsTrapIllegal : Prop :=
  ∀ (s : State) (t : Task) (k : StreamId) (p0 p1 p2 : Word) sub, State.inRun s t k →
    s.bump.fetch t k (t.st k).pc = .ok (p0, p1, p2) → decode p0 p1 p2 = .error sub →
    let runs := ((classOf p0).map fun c => c.runsOn k).getD true
    (sub = 5 → runs = false) →
    step s = .next (s.bump.takeTrap t k (t.st k).pc false 0
      { cls := 0, sub := if runs = false ∧ 3 < sub then 3 else sub })

/-- Nothing stops the machine: every instruction and every event goes on from every state, be it to its result, to a
wait or to a trap. That it goes on also where the device itself accesses an address at which R368 provides no memory is
the model's choice (log 81). -/
def Obligations.NothingStops : Prop := ∀ (i : Instr) (s : State), goesOn (exec i s)

/-! ## Reset and memory -/

/-- What reset leaves by the rules: entry b of every die's bucket table holds slice b mod 16 (R370), the lap number is 0
(R268), no manifest is loaded and the ring control register reads 0x23 (R420), partition 0 holds every octant (R425),
the scrub interval of each die is 24 (R427), HOSTPORTS is 0x1111 (R367); and nothing runs: no task, block, span, launch,
mapped queue, queue pair or message. Memory is in canonical form. -/
def Obligations.ResetStateValues : Prop :=
  State.reset.buckets = List.replicate 4 ((List.range 64).map (· % 16)) ∧
  State.reset.ring.lap = 0 ∧ State.reset.ring.loaded = false ∧
  State.reset.mreg 0x2000 = 0x23 ∧ State.reset.mreg 0x3000 = 0xFF ∧ State.reset.mreg 0x3040 = 0 ∧
  (∀ d, d < 4 → State.reset.mreg (0x3230 + 0x80 * d) = 24) ∧ State.reset.mreg 0x4038 = 0x1111 ∧
  State.reset.tasks = [] ∧ State.reset.blocks = [] ∧ State.reset.spans = [] ∧ State.reset.launches = [] ∧
  State.reset.slots = [] ∧ State.reset.qps = [] ∧ State.reset.wire = [] ∧ State.reset.bytesOk = true

/-- Every step keeps package memory and every block's scratch in canonical form: addresses strictly rising, no listed
byte equal to what an unlisted one reads as (log 1). -/
def Obligations.StepKeepsMemoryCanonical : Prop :=
  ∀ s s' : State, s.bytesOk = true → step s = .next s' → s'.bytesOk = true

/-- Bytes written to package memory read back, the last write to a place winning, and every other place reads as before;
multi-byte values lie little-endian (R4). -/
def Obligations.MemoryReadsBackWrites : Prop :=
  ∀ (m : Memory), m.wf = true →
    (∀ a b x, (m.write a b).read x = if x = a then b else m.read x) ∧
    (∀ a bs x, (m.writeBytes a bs).read x = if a ≤ x ∧ x < a + bs.length then nth bs (x - a) 0 else m.read x) ∧
    (∀ a n v, v < 256 ^ n → (m.setField a n v).field a n = v) ∧
    (∀ a n v i, i < n → ((m.setField a n v).read (a + i)).toNat = v / 256 ^ i % 256)

/-! ## Registers and the end of an instruction -/

/-- Scalar registers (R32): s31 reads as zero and discards writes, every other register holds what was written last; a pair
holds bits [31:0] in its even register, and of the pair s30:31 the high half reads as zero and discards its write. -/
def Obligations.ScalarRegisterFile : Prop :=
  ∀ (st : StreamSt),
    st.reg 31 = 0 ∧ (∀ v, st.setReg 31 v = st) ∧
    (∀ r x v, r ≠ 31 → (st.setReg r v).reg x = if x = r then v else st.reg x) ∧
    (∀ p, (st.pair p).toNat = (st.reg (pairLo p)).toNat + 2 ^ 32 * (st.reg (pairHi p)).toNat) ∧
    (∀ p v, p ≠ 15 → (st.setPair p v).pair p = v) ∧
    (∀ v, ((st.setPair 15 v).pair 15).toNat = v.toNat % 2 ^ 32) ∧
    (∀ p v r, r ∉ halves p → (st.setPair p v).reg r = st.reg r)

/-- An instruction of `len` parcels that retires with its stream as `st` leaves the stream with its program counter 4 × len
further (R110), READY, or TRAP in trap mode (R15), and one more instruction counted toward its quantum, of which the
quarter of a deterministic task ends at Q/4 (R298), handler instructions not counting (R395); its run ends after 8
(R133) and at the quantum's end. Nothing else changes. -/
def Obligations.RetiringMovesTheStreamOn : Prop :=
  ∀ (s : State) (t : Task) (k : StreamId) (st : StreamSt) (len : Nat), s.task? t.uid = some t →
    let s' := s.retire t k st len
    ∃ st', s'.task? t.uid = some (t.setSt k st') ∧
      st'.pc = st.pc + BitVec.ofNat 64 (4 * len) ∧ st'.regs = st.regs ∧ st'.queue = st.queue ∧
      st'.fpmode = st.fpmode ∧ st'.fpflags = st.fpflags ∧ st'.srcnt = st.srcnt ∧ st'.cyc = st.cyc ∧ st'.ro = st.ro ∧
      st'.seen = st.seen ∧
      st'.status = (if t.tmode then .trap else .ready) ∧
      st'.retired = (if t.tmode then st.retired else st.retired + 1) ∧
      (st'.qend = true ↔ st.qend = true ∨ t.det = true ∧ t.tmode = false ∧ t.quantum / 4 ≤ st.retired + 1) ∧
      (st'.granted = true ↔ st.granted = true ∧ st.run + 1 < 8 ∧ st'.qend = false) ∧
      (∀ u, u ≠ t.uid → s'.task? u = s.task? u) ∧ { s' with tasks := s.tasks } = s

/-! ## Integer instructions -/

/-- What ADD to SEQ leave in their destination, as arithmetic on the two sources (R137). -/
def intRows : List ((BitVec 5 → BitVec 5 → BitVec 5 → Instr) × (Word → Word → Word)) :=
  [(.add, fun a b => BitVec.ofNat 32 (a.toNat + b.toNat)),
   (.sub, fun a b => BitVec.ofInt 32 ((a.toNat : Int) - b.toNat)),
   (.and, fun a b => BitVec.ofNat 32 (a.toNat &&& b.toNat)),
   (.or, fun a b => BitVec.ofNat 32 (a.toNat ||| b.toNat)),
   (.xor, fun a b => BitVec.ofNat 32 (a.toNat ^^^ b.toNat)),
   (.shl, fun a b => BitVec.ofNat 32 (a.toNat * 2 ^ (b.toNat % 32))),
   (.shr, fun a b => BitVec.ofNat 32 (a.toNat / 2 ^ (b.toNat % 32))),
   (.sra, fun a b => BitVec.ofInt 32 (a.toInt / 2 ^ (b.toNat % 32))),
   (.mul, fun a b => BitVec.ofNat 32 (a.toNat * b.toNat)),
   (.mulhI32, fun a b => BitVec.ofInt 32 (a.toInt * b.toInt / 2 ^ 32)),
   (.mulhB32, fun a b => BitVec.ofNat 32 (a.toNat * b.toNat / 2 ^ 32)),
   (.minI32, fun a b => BitVec.ofInt 32 (min a.toInt b.toInt)),
   (.maxI32, fun a b => BitVec.ofInt 32 (max a.toInt b.toInt)),
   (.minB32, fun a b => BitVec.ofNat 32 (min a.toNat b.toNat)),
   (.maxB32, fun a b => BitVec.ofNat 32 (max a.toNat b.toNat)),
   (.slt, fun a b => if a.toInt < b.toInt then 1 else 0),
   (.sltb, fun a b => if a.toNat < b.toNat then 1 else 0),
   (.seq, fun a b => if a = b then 1 else 0)]

/-- An instruction whose whole effect is a new value of one scalar register completes with it, retiring (R110, R137). -/
def setsReg (i : Instr) (d : BitVec 5) (v : StreamSt → Word) : Prop :=
  ∀ s t k, Issues s t k → exec i s = .next (s.retire t k ((t.st k).setReg d (v (t.st k))))

/-- The same for a pair. -/
def setsPair (i : Instr) (d : BitVec 4) (v : StreamSt → Dword) : Prop :=
  ∀ s t k, Issues s t k → exec i s = .next (s.retire t k ((t.st k).setPair d (v (t.st k))))

/-- The INT-R instructions complete with the results of R137, division apart. On 32 bits: each as integer arithmetic on
its sources, CLZ and POPC by what they count, SEL by the old value of its destination. On pairs: sums, differences and
products modulo 2^64, and shifts by b[5:0]. -/
def Obligations.IntegerRegisterResults : Prop :=
  (∀ r ∈ intRows, ∀ d a b, setsReg (r.1 d a b) d fun st => r.2 (st.reg a) (st.reg b)) ∧
  (∀ d a, ∃ f : Word → Nat, setsReg (.clz d a) d (fun st => BitVec.ofNat 32 (f (st.reg a))) ∧
    ∀ x, f x ≤ 32 ∧ x.toNat < 2 ^ (32 - f x) ∧ (f x < 32 → 2 ^ (31 - f x) ≤ x.toNat)) ∧
  (∀ d a, setsReg (.popc d a) d fun st =>
    BitVec.ofNat 32 ((List.range 32).filter fun i => (st.reg a).getLsbD i).length) ∧
  (∀ d a b, setsReg (.sel d a b) d fun st => if st.reg d ≠ 0 then st.reg a else st.reg b) ∧
  (∀ d a b, setsPair (.add64 d a b) d fun st => BitVec.ofNat 64 ((st.pair a).toNat + (st.pair b).toNat)) ∧
  (∀ d a b, setsPair (.sub64 d a b) d fun st => BitVec.ofInt 64 (((st.pair a).toNat : Int) - (st.pair b).toNat)) ∧
  (∀ d a b, setsPair (.mul64 d a b) d fun st => BitVec.ofNat 64 ((st.pair a).toNat * (st.pair b).toNat)) ∧
  (∀ d a b, setsPair (.shl64 d a b) d fun st => BitVec.ofNat 64 ((st.pair a).toNat * 2 ^ ((st.reg b).toNat % 64))) ∧
  (∀ d a b, setsPair (.shr64 d a b) d fun st => BitVec.ofNat 64 ((st.pair a).toNat / 2 ^ ((st.reg b).toNat % 64)))

/-- Division truncates toward zero, and division by zero and the one signed overflow give their fixed results; none of the
four traps (R138). -/
def Obligations.DivisionResults : Prop :=
  (∀ d a b, setsReg (.divI32 d a b) d fun st =>
    if st.reg b = 0 then 0xFFFFFFFF
    else if st.reg a = 0x80000000 ∧ st.reg b = 0xFFFFFFFF then 0x80000000
    else BitVec.ofInt 32 (Int.tdiv (st.reg a).toInt (st.reg b).toInt)) ∧
  (∀ d a b, setsReg (.remI32 d a b) d fun st =>
    if st.reg b = 0 then st.reg a
    else if st.reg a = 0x80000000 ∧ st.reg b = 0xFFFFFFFF then 0
    else BitVec.ofInt 32 (Int.tmod (st.reg a).toInt (st.reg b).toInt)) ∧
  (∀ d a b, setsReg (.divB32 d a b) d fun st =>
    if st.reg b = 0 then 0xFFFFFFFF else BitVec.ofNat 32 ((st.reg a).toNat / (st.reg b).toNat)) ∧
  (∀ d a b, setsReg (.remB32 d a b) d fun st =>
    if st.reg b = 0 then st.reg a else BitVec.ofNat 32 ((st.reg a).toNat % (st.reg b).toNat))

/-- The immediate group completes with the results of R139: the 14-bit immediate sign-extended, a shift count from 0 to
31. -/
def Obligations.ImmediateResults : Prop :=
  (∀ d a i, setsReg (.addi d a i) d fun st => BitVec.ofInt 32 ((st.reg a).toInt + i.toInt)) ∧
  (∀ d a i, setsReg (.andi d a i) d fun st => st.reg a &&& BitVec.ofInt 32 i.toInt) ∧
  (∀ d a i, setsReg (.ori d a i) d fun st => st.reg a ||| BitVec.ofInt 32 i.toInt) ∧
  (∀ d a i, setsReg (.xori d a i) d fun st => st.reg a ^^^ BitVec.ofInt 32 i.toInt) ∧
  (∀ d a i, setsReg (.slti d a i) d fun st => if (st.reg a).toInt < i.toInt then 1 else 0) ∧
  (∀ d a (i : BitVec 5), setsReg (.shli d a i) d fun st => BitVec.ofNat 32 ((st.reg a).toNat * 2 ^ i.toNat)) ∧
  (∀ d a (i : BitVec 5), setsReg (.shri d a i) d fun st => BitVec.ofNat 32 ((st.reg a).toNat / 2 ^ i.toNat)) ∧
  (∀ d a (i : BitVec 5), setsReg (.srai d a i) d fun st => BitVec.ofInt 32 ((st.reg a).toInt / 2 ^ i.toNat)) ∧
  (∀ d a i, setsPair (.addi64 d a i) d fun st => BitVec.ofInt 64 ((st.pair a).toInt + i.toInt))

/-- The address 4 × off bytes from a program counter, modulo 2^64 (R140, R141). -/
def parcelsFrom {n : Nat} (pc : Dword) (off : BitVec n) : Dword := BitVec.ofInt 64 ((pc.toNat : Int) + 4 * off.toInt)

/-- A branch goes to PC + 4 × sext(off14) when its condition holds, and otherwise to PC + 4; it changes no register
(R141). -/
def branchesWhen (i : Instr) (o : BitVec 14) (c : StreamSt → Prop) [∀ st, Decidable (c st)] : Prop :=
  ∀ s t k, Issues s t k → exec i s = .next (if c (t.st k) then s.branch t k (t.st k) (parcelsFrom (t.st k).pc o)
    else s.retire t k (t.st k))

/-- LUI and ADDPC (R140), the six conditional branches (R141), JAL and JALR (R142), in every stream. The link PC + 4 is
written unless d names s30:31, the target being computed from the old registers; a JALR whose target is no multiple of 4
takes MEMORY, ALIGN (5), with the target in TINFO, and writes nothing. -/
def Obligations.ControlFlowResults : Prop :=
  (∀ d (i : BitVec 19), setsReg (.lui d i) d fun _ => BitVec.ofNat 32 (i.toNat * 2 ^ 13)) ∧
  (∀ d (i : BitVec 19), setsPair (.addpc d i) d fun st => parcelsFrom st.pc i) ∧
  (∀ a b o, branchesWhen (.beq a b o) o fun st => (st.reg a).toNat = (st.reg b).toNat) ∧
  (∀ a b o, branchesWhen (.bne a b o) o fun st => (st.reg a).toNat ≠ (st.reg b).toNat) ∧
  (∀ a b o, branchesWhen (.blt a b o) o fun st => (st.reg a).toInt < (st.reg b).toInt) ∧
  (∀ a b o, branchesWhen (.bge a b o) o fun st => (st.reg b).toInt ≤ (st.reg a).toInt) ∧
  (∀ a b o, branchesWhen (.bltb a b o) o fun st => (st.reg a).toNat < (st.reg b).toNat) ∧
  (∀ a b o, branchesWhen (.bgeb a b o) o fun st => (st.reg b).toNat ≤ (st.reg a).toNat) ∧
  (∀ s t k, Issues s t k → ∀ d,
    let st := t.st k
    let linked := if d = 15 then st else st.setPair d (st.pc + 4)
    (∀ i, exec (.jal d i) s = .next (s.branch t k linked (parcelsFrom st.pc i))) ∧
    (∀ a (i : BitVec 14), let next := BitVec.ofInt 64 (((st.pair a).toNat : Int) + i.toInt)
      (next.toNat % 4 = 0 → exec (.jalr d a i) s = .next (s.branch t k linked next)) ∧
      (next.toNat % 4 ≠ 0 → exec (.jalr d a i) s = .next (s.takeTrap t k st.pc false 0 { cls := 1, sub := 5, info := next }))))

/-- One LOOPN, which closes a counted loop: where s_a is above 1, unsigned, it counts down and branches; otherwise s_a
becomes 0 and the stream goes on. It is encoded in B with opcode 0x18, f1 = s_a, f2 = 0 and the offset in imm14 (R143).
-/
def Obligations.CountedLoop : Prop :=
  (∀ (a : BitVec 5) (o : BitVec 14), decode (0x18#8 ++ a ++ 0#5 ++ o) 0 0 = .ok (.loopn a o)) ∧
  ∀ s t k, Issues s t k → ∀ a o,
    let st := t.st k
    (1 < (st.reg a).toNat → exec (.loopn a o) s =
      .next (s.branch t k (st.setReg a (BitVec.ofNat 32 ((st.reg a).toNat - 1))) (parcelsFrom st.pc o))) ∧
    ((st.reg a).toNat ≤ 1 → exec (.loopn a o) s = .next (s.retire t k (st.setReg a 0)))

/-- The instructions that touch nothing but their own stream, each with the scalar registers that it writes: those of the
scalar class first, then the mask instructions. -/
def scalarRows (d a b : BitVec 5) (D A B : BitVec 4) (i : BitVec 14) (n : BitVec 5) (j : BitVec 19) :
    List (Instr × List (BitVec 5)) :=
  (intRows.map fun r => (r.1 d a b, [d])) ++
  [(.divI32 d a b, [d]), (.divB32 d a b, [d]), (.remI32 d a b, [d]), (.remB32 d a b, [d]), (.sel d a b, [d]),
   (.clz d a, [d]), (.popc d a, [d]), (.addi d a i, [d]), (.andi d a i, [d]), (.ori d a i, [d]), (.xori d a i, [d]),
   (.slti d a i, [d]), (.shli d a n, [d]), (.shri d a n, [d]), (.srai d a n, [d]), (.lui d j, [d]),
   (.add64 D A B, halves D), (.sub64 D A B, halves D), (.mul64 D A B, halves D), (.shl64 D A b, halves D),
   (.shr64 D A b, halves D), (.addi64 D A i, halves D), (.addpc D j, halves D),
   (.jal D j, if D = 15 then [] else halves D), (.loopn a i, [a]),
   (.beq a b i, []), (.bne a b i, []), (.blt a b i, []), (.bge a b i, []), (.bltb a b i, []), (.bgeb a b i, []),
   (.nop, []), (.yield, []), (.cycles a i, [])]

/-- See `scalarRows`. -/
def maskRows (j p : BitVec 5) (o : BitVec 14) : List (Instr × List (BitVec 5)) :=
  [(.mif j p, [j, j + 1, j + 2, 28, 29, 30]), (.melse j, [28, 29, 30]), (.mjoin j, [28, 29, 30]),
   (.mbreak p, [28, 29, 30]), (.msave j, [j, j + 1, j + 2]), (.pmovs j p, [j, j + 1, j + 2]),
   (.bmany o, []), (.bmnone o, [])]

/-- The frame of the instructions that work on registers alone (R137 to R143, R163 to R166, R170): each goes on, and
changes nothing but its own stream's destination registers, program counter, state and counts; no flag, no other stream,
no special register, no byte of memory. A mask instruction that reads a predicate lets the cycles pass until the words that
write it have completed (R132, R163), or waits. -/
def Obligations.RegisterInstructionsFrame : Prop :=
  (∀ d a b D A B i n j, ∀ r ∈ scalarRows d a b D A B i n j, ∀ s t k, Issues s t k →
    ∃ s', exec r.1 s = .next s' ∧ OnlyStream s s' t k r.2) ∧
  (∀ j p o, ∀ r ∈ maskRows j p o, ∀ s t, Issues s t .v →
    ∃ s', exec r.1 s = .next s' ∧ s.now ≤ s'.now ∧ OnlyStream { s with now := s'.now } s' t .v r.2)

/-! ## Loads, stores and atomics -/

/-- The effective address (A + sext(imm14)) mod 2^64 (R144). -/
def addressOf (st : StreamSt) (a : BitVec 4) (i : BitVec 14) : Nat :=
  (BitVec.ofInt 64 (((st.pair a).toNat : Int) + i.toInt)).toNat

/-- The 32-bit loads with their bytes and how they extend the value (R144). -/
def loadRows : List ((BitVec 5 → BitVec 4 → BitVec 14 → Instr) × Nat × (Nat → Word)) :=
  [(.ldB8, 1, BitVec.ofNat 32), (.ldI8, 1, fun v => BitVec.ofInt 32 (BitVec.ofNat 8 v).toInt),
   (.ldB16, 2, BitVec.ofNat 32), (.ldI16, 2, fun v => BitVec.ofInt 32 (BitVec.ofNat 16 v).toInt),
   (.ldW, 4, BitVec.ofNat 32)]

/-- A load whose access nothing stops (R145) completes: its destination holds the little-endian value of its bytes,
extended; the core's caches keep what it used, and where it found only part of its bytes in the store queue, that queue
has drained (R96, R144). An LDRO outside the windows takes the read-only path, which finds no queued store (R105), and in a
window is the ordinary load (R146). -/
def Obligations.LoadResults : Prop :=
  ∀ s t k, Issues s t k → ∀ a i,
    let va := addressOf (t.st k) a i
    let places := fun n => s.locs (t.accessor s) va n false
    let value := fun n => leNat (s.loadBytes t k (places n))
    let after := fun n => s.afterLoad t k va n (places n)
    (∀ r ∈ loadRows, s.check t k va r.2.1 r.2.1 true false = .ok () → ∀ d,
      exec (r.1 d a i) s =
        .next ((after r.2.1).1.retire (after r.2.1).2 k (((after r.2.1).2.st k).setReg d (r.2.2 (value r.2.1))))) ∧
    (s.check t k va 8 8 true false = .ok () → ∀ d,
      exec (.ldD d a i) s = .next ((after 8).1.retire (after 8).2 k (((after 8).2.st k).setPair d (BitVec.ofNat 64 (value 8))))) ∧
    (inWindow va = true → ∀ d e, exec (.ldroW d a i) s = exec (.ldW d a i) s ∧ exec (.ldroD e a i) s = exec (.ldD e a i) s) ∧
    (inWindow va = false →
      (s.check t k va 4 4 true false true = .ok () → ∀ d, exec (.ldroW d a i) s =
        .next ((s.tlbFillRange (t.accessor s) va 4).retire t k
          ((t.st k).setReg d (BitVec.ofNat 32 (leNat ((places 4).map (s.roByte t k))))))) ∧
      (s.check t k va 8 8 true false true = .ok () → ∀ d, exec (.ldroD d a i) s =
        .next ((s.tlbFillRange (t.accessor s) va 8).retire t k
          ((t.st k).setPair d (BitVec.ofNat 64 (leNat ((places 8).map (s.roByte t k))))))))

/-- The stores with their bytes and the value that they store (R144). -/
def storeRows (a : BitVec 4) (i : BitVec 14) (d : BitVec 5) (D : BitVec 4) : List (Instr × Nat × (StreamSt → Nat)) :=
  [(.stB8 d a i, 1, fun st => (st.reg d).toNat), (.stB16 d a i, 2, fun st => (st.reg d).toNat),
   (.stW d a i, 4, fun st => (st.reg d).toNat), (.stD D a i, 8, fun st => (st.pair D).toNat)]

/-- The entry that a store gives its stream's queue (R96): the bytes of the value, lowest first, at the address (R144). -/
def queuedStore (s : State) (t : Task) (k : StreamId) (a : BitVec 4) (i : BitVec 14) (n v : Nat) : List (Loc × Byte) :=
  (s.locs (t.accessor s) (addressOf (t.st k) a i) n true).zip (natLe n v)

/-- A store whose access nothing stops completes: one entry joins the youngest end of its stream's queue, with the bytes
of the value at the effective address; memory, scratch, every register and flag, and every other stream are as
before. A stream sees its own store at once: a load of the places that its youngest entry writes, in whatever parts it is to
arrive, returns that entry's bytes, in deterministic mode by any stream of the task (R96, R144, R145, R300). -/
def Obligations.StoresEnterQueueAndForward : Prop :=
  (∀ s t k, Issues s t k → ∀ a i d D, ∀ r ∈ storeRows a i d D,
     s.check t k (addressOf (t.st k) a i) r.2.1 r.2.1 false true = .ok () →
     ∃ s' t', exec r.1 s = .next s' ∧ s'.task? t.uid = some t' ∧
       (t'.st k).queue = (t.st k).queue ++
         [{ seq := s.seq, pc := (t.st k).pc, eff := .store [queuedStore s t k a i r.2.1 (r.2.2 (t.st k))] }] ∧
       (t'.st k).pc = (t.st k).pc + 4 ∧ TaskFrame t t' k [] ∧ (∀ l, s'.byteAt l = s.byteAt l) ∧
       (∀ u, u ≠ t.uid → s'.task? u = s.task? u)) ∧
  (∀ (s : State) (t : Task) (k : StreamId) (pc : Dword) (ls : List Loc) (bs : List Byte), ls.Nodup → ls.length = bs.length →
     (∀ e ∈ t.allQueued, e.seq < s.seq) → ∀ us : List (List (Loc × Byte)), us.flatten = ls.zip bs →
     let u := s.push t k pc (.store us)
     u.1.loadBytes u.2 k ls = bs ∧ (t.det = true → ∀ j, u.1.loadBytes u.2 j ls = bs))

/-- STORE_QUEUE_DRAIN (R97). The oldest store of a queue leaves it, where the stored places are distinct and are not where
the device keeps the frames' own records: the parties on the core see its bytes at once; of a store to memory alone, every
byte at its home is as before (R97), and of any store every byte but those that it writes and those that were on the
core's path; and the task is as before but for its queue. With an empty queue a part that no older part
shares a byte with (chosen freely, log 6) leaves the core's outbound path: its bytes are at home, every other byte reads as
before, and what else was on the path stays there in its order. -/
def Obligations.StoresDrainToTheirHomes : Prop :=
  ∀ s t k, s.bytesOk = true → s.task? t.uid = some t → t.det = false →
    let core := s.coreOf t
    (∀ e es, (t.st k).queue = e :: es → let ls := e.eff.bytes.map (·.1)
      ls.Nodup → (∀ l ∈ ls, ¬ s.frameByte ls l) →
      ∃ s', exec (.storeQueueDrain t.uid k) s = .next s' ∧
        s'.task? t.uid = some (t.setSt k { t.st k with queue := es }) ∧
        (∀ pa b, (Loc.mem pa, b) ∈ e.eff.bytes → s'.seenByte core (.mem pa) = b) ∧
        ((∀ l ∈ ls, ∃ pa, l = .mem pa) → s'.mem = s.mem ∧ ∀ l, s'.byteAt l = s.byteAt l) ∧
        BytesKept s s' (ls ++ s.pathLocs core) ∧ s'.bytesOk = true) ∧
    ((t.st k).queue = [] → (s.core core).out ≠ [] →
      ∃ s' pre u post, exec (.storeQueueDrain t.uid k) s = .next s' ∧ (s.core core).out = pre ++ u :: post ∧
        (s'.core core).out = pre ++ post ∧ (∀ v ∈ pre, ∀ p ∈ v, ∀ q ∈ u, p.1 ≠ q.1) ∧
        ((u.map (·.1)).Nodup → (∀ l ∈ u.map (·.1), ¬ s.frameByte (u.map (·.1)) l) →
          ∀ pa b, (Loc.mem pa, b) ∈ u → s'.mem.read pa = b) ∧
        BytesKept s s' (u.map (·.1)) ∧ s'.bytesOk = true)

/-- A load or store that its access stops with MEMORY, or with POISON, takes that precise trap at its own program counter,
the faulting address in TINFO, and does nothing else (R93, R109, R145). -/
def Obligations.FaultingAccessTraps : Prop :=
  ∀ s t k, Issues s t k → ∀ a i d D (sub ad : Nat) (e : TrapReq), (e.cls = 1 ∨ e.cls = 2) →
    e = { cls := e.cls, sub := sub, info := BitVec.ofNat 64 ad } →
    let va := addressOf (t.st k) a i
    let trapped := Host.Outcome.next (s.takeTrap t k (t.st k).pc false 0 e)
    (∀ r ∈ loadRows, s.check t k va r.2.1 r.2.1 true false = .error (.trap e) → exec (r.1 d a i) s = trapped) ∧
    (s.check t k va 8 8 true false = .error (.trap e) → exec (.ldD D a i) s = trapped) ∧
    (s.check t k va 4 4 true false (!inWindow va) = .error (.trap e) → exec (.ldroW d a i) s = trapped) ∧
    (s.check t k va 8 8 true false (!inWindow va) = .error (.trap e) → exec (.ldroD D a i) s = trapped) ∧
    (∀ r ∈ storeRows a i d D, s.check t k va r.2.1 r.2.1 false true = .error (.trap e) → exec r.1 s = trapped)

/-- The read-modify-writes of R147 with the value that each leaves, of `n` bytes. -/
def atomRows : List ((BitVec 5 → BitVec 4 → BitVec 5 → Bool → Scope → Bool → Instr) × AtomOp × (Nat → Nat → Nat → Nat)) :=
  [(.atomAdd, .add, fun n old v => (old + v) % 256 ^ n),
   (.atomMinI, .minI, fun n old v => if (BitVec.ofNat (8 * n) v).toInt < (BitVec.ofNat (8 * n) old).toInt then v else old),
   (.atomMaxI, .maxI, fun n old v => if (BitVec.ofNat (8 * n) old).toInt < (BitVec.ofNat (8 * n) v).toInt then v else old),
   (.atomMinB, .minB, fun _ old v => min old v), (.atomMaxB, .maxB, fun _ old v => max old v),
   (.atomAnd, .and, fun _ old v => old &&& v), (.atomOr, .or, fun _ old v => old ||| v),
   (.atomXor, .xor, fun _ old v => old ^^^ v), (.atomExch, .exch, fun _ _ v => v)]

/-- An ATOM or ATOMCAS whose access nothing stops, with no pixel lane of its stream pending, completes outside
deterministic mode as one indivisible step at its home (R102, R147, R148); in a deterministic launch it enters the buffer,
and a returning form ends its stream's quantum (R298, R300, R301). -/
def Obligations.AtomicResults : Prop :=
  ∀ s t k, Issues s t k → s.lanesPending t k = false → ∀ (a : BitVec 4) (scope : Scope),
    let va := ((t.st k).pair a).toNat
    (∀ r ∈ atomRows, ∀ d b ret wide, let n := if wide then 8 else 4
      let v := if wide then ((t.st k).pair (b.extractLsb' 1 4)).toNat else ((t.st k).reg b).toNat
      s.check t k va n n true true = .ok () →
      (t.det = false → (s.locs (t.accessor s) va n true).length = n → exec (r.1 d a b ret scope wide) s =
        .next (s.afterAtomic t k va n scope (atomDest d ret wide) fun old => some (r.2.2 n old v))) ∧
      (t.det = true → exec (r.1 d a b ret scope wide) s = .next ((s.tlbFillRange (t.accessor s) va n).buffer t k
        (.atom [{ locs := s.locs (t.accessor s) va n true, op := r.2.1, val := v, ret := atomDest d ret wide }]) ret))) ∧
    (∀ d b ret, s.check t k va 4 4 true true = .ok () →
      (t.det = false → (s.locs (t.accessor s) va 4 true).length = 4 → exec (.atomAddF32 d a b ret scope) s =
        .next (s.afterAtomic t k va 4 scope (atomDest d ret false) fun old => some (fAtomAdd .f32 old ((t.st k).reg b).toNat))) ∧
      (t.det = true → exec (.atomAddF32 d a b ret scope) s = .next ((s.tlbFillRange (t.accessor s) va 4).buffer t k
        (.atom [{ locs := s.locs (t.accessor s) va 4 true, op := .addF32, val := ((t.st k).reg b).toNat,
                  ret := atomDest d ret false }]) ret))) ∧
    (∀ d b, let cmp := ((t.st k).reg (pairLo b)).toNat
      let new := ((t.st k).reg (pairHi b)).toNat
      s.check t k va 4 4 true true = .ok () →
      (t.det = false → (s.locs (t.accessor s) va 4 true).length = 4 → exec (.atomcasB32 d a b scope) s =
        .next (s.afterAtomic t k va 4 scope (.sreg d) fun old => if old = cmp then some new else none)) ∧
      (t.det = true → exec (.atomcasB32 d a b scope) s = .next ((s.tlbFillRange (t.accessor s) va 4).buffer t k
        (.cas [{ locs := s.locs (t.accessor s) va 4 true, cmp := cmp, new := new, ret := .sreg d }]) true))) ∧
    (∀ d (b : BitVec 3), let cmp := ((t.st k).pair (b ++ 0#1)).toNat
      let new := ((t.st k).pair (b ++ 1#1)).toNat
      s.check t k va 8 8 true true = .ok () →
      (t.det = false → (s.locs (t.accessor s) va 8 true).length = 8 → exec (.atomcasB64 d a b scope) s =
        .next (s.afterAtomic t k va 8 scope (.pair d) fun old => if old = cmp then some new else none)) ∧
      (t.det = true → exec (.atomcasB64 d a b scope) s = .next ((s.tlbFillRange (t.accessor s) va 8).buffer t k
        (.cas [{ locs := s.locs (t.accessor s) va 8 true, cmp := cmp, new := new, ret := .pair d }]) true)))

/-- The frame of loads and atomics (R90, R96, R102, R144, R147, R148). A load of a stream with no queued store, in
a task outside deterministic mode on a core whose L1 holds no line and whose outbound path is empty, changes only its
destination, which is what memory and scratch hold; with stores of its own queued it changes memory only where they or
the core's earlier stores go. An atomic leaves every byte as it was but those of its own places, those of the stores
queued before it and those of the core's earlier stores, and the task as it was but for the destination. -/
def Obligations.LoadAndAtomicFrame : Prop :=
  (∀ s t k, Issues s t k → s.bytesOk = true → ∀ a i, ∀ r ∈ loadRows, ∀ d,
     let va := addressOf (t.st k) a i
     s.check t k va r.2.1 r.2.1 true false = .ok () →
     ∃ s' t', exec (r.1 d a i) s = .next s' ∧ s'.task? t.uid = some t' ∧ TaskFrame t t' k [d] ∧
       BytesKept s s' (((t.st k).queue.flatMap fun e => e.eff.bytes.map (·.1)) ++ s.pathLocs (s.coreOf t)) ∧
       ((t.st k).queue = [] → t.det = false → (s.core (s.coreOf t)).l1 = [] → (s.core (s.coreOf t)).out = [] →
         (∀ l, s'.byteAt l = s.byteAt l) ∧
         (d ≠ 31 → (t'.st k).reg d = r.2.2 (leNat ((s.locs (t.accessor s) va r.2.1 false).map s.byteAt))))) ∧
  (∀ (s : State) (t : Task) (k : StreamId), s.bytesOk = true → s.task? t.uid = some t → t.det = false →
     ∀ va n scope d new ret, (ret = RetTo.none ∨ ret = RetTo.sreg d) →
       let s' := s.afterAtomic t k va n scope ret new
       ∃ t', s'.task? t.uid = some t' ∧ TaskFrame t t' k [d] ∧ (t'.st k).pc = (t.st k).pc + 4 ∧
         (∀ u, u ≠ t.uid → s'.task? u = s.task? u) ∧
         BytesKept s s' (s.locs (t.accessor s) va n true ++ ((t.st k).queue.flatMap fun e => e.eff.bytes.map (·.1)) ++
           s.pathLocs (s.coreOf t)))

/-! ## Fences and synchronization -/

/-- SIG and WAIT (R16, R18, R149): an index outside the task's semaphores raises RANGE and a sum above 255 OVERFLOW,
with the count unchanged. A SIG adds its count after its stream's stores have drained, and with no waiter that is
all; a WAIT whose count is there and that no earlier waiter precedes takes it at once; any other joins the waiters.
A semaphore serves its waiters in the order in which they began to wait, and one that it cannot satisfy blocks those
behind it: a served WAIT takes its count and its stream goes on. -/
def Obligations.SemaphoreResults : Prop :=
  (∀ s t k, Issues s t k → ∀ (i : BitVec 5) (n : BitVec 8),
     (t.nsems ≤ i.toNat →
       exec (.sig i n) s = .next (s.takeTrap t k (t.st k).pc false 0 { cls := 7, sub := 1 }) ∧
       exec (.wait i n) s = .next (s.takeTrap t k (t.st k).pc false 0 { cls := 7, sub := 1 })) ∧
     (i.toNat < t.nsems → t.det = false → 255 < t.sem i.toNat + n.toNat →
       exec (.sig i n) s = .next (s.takeTrap t k (t.st k).pc false 0 { cls := 7, sub := 2 })) ∧
     (i.toNat < t.nsems → t.det = true → exec (.sig i n) s = .next (s.buffer t k (.sig i.toNat n.toNat (s.seenBy t k)) false)) ∧
     (i.toNat < t.nsems → t.nsems ≤ t.sems.length → t.det = false → t.sem i.toNat + n.toNat ≤ 255 →
       (∀ w ∈ t.semQ, w.sem ≠ i.toNat) →
       ∃ s' t', exec (.sig i n) s = .next s' ∧ s'.task? t.uid = some t' ∧ t'.sem i.toNat = t.sem i.toNat + n.toNat ∧
         (∀ j, j ≠ i.toNat → t'.sem j = t.sem j) ∧ (t'.st k).queue = [] ∧ (t'.st k).pc = (t.st k).pc + 4 ∧
         (t'.st k).regs = (t.st k).regs) ∧
     (i.toNat < t.nsems → t.nsems ≤ t.sems.length → n.toNat ≤ t.sem i.toNat → (∀ w ∈ t.semQ, w.sem ≠ i.toNat) →
       ∃ s' t', exec (.wait i n) s = .next s' ∧ s'.task? t.uid = some t' ∧ t'.sem i.toNat = t.sem i.toNat - n.toNat ∧
         (∀ j, j ≠ i.toNat → t'.sem j = t.sem j) ∧ (t'.st k).pc = (t.st k).pc + 4 ∧ (t'.st k).regs = (t.st k).regs ∧
         { s' with tasks := s.tasks } = s) ∧
     (i.toNat < t.nsems → (t.sem i.toNat < n.toNat ∨ ∃ w ∈ t.semQ, w.sem = i.toNat) →
       exec (.wait i n) s = .next ((s.stall { t with semQ := t.semQ ++ [{ sem := i.toNat, stream := k, k := n.toNat }] } k
         (.sem i.toNat n.toNat)).testDeadlock t.uid))) ∧
  (∀ (t : Task) (i n : Nat) (w : SemWait), t.semQ.find? (fun x => x.sem == i) = some w → i < t.sems.length →
     (t.sem i < w.k → t.serveSem i (n + 1) = t) ∧
     (w.k ≤ t.sem i → ∃ t' : Task, t.serveSem i (n + 1) = t'.serveSem i n ∧ t'.sem i = t.sem i - w.k ∧
       (t'.st w.stream).pc = (t.st w.stream).pc + 4 ∧ (∀ x ∈ t'.semQ, x.stream ≠ w.stream) ∧
       (∀ j, j ≠ i → t'.sem j = t.sem j)))

/-- What the completion of a phase leaves of the streams of a task whose waits for it are `ends` and whose waits to
arrive again are `again` (R15, R151, R153, R154): the first retire, the second may arrive. -/
def phaseWakes (s s' : State) (t : Task) (ends : Wait → Prop) (again : Wait → Option Wait) : Prop :=
  ∀ k w, s.task? t.uid = some t → (t.st k).status = .waiting w →
    (ends w → ∃ t', s'.task? t.uid = some t' ∧ (t'.st k).pc = (t.st k).pc + 4 ∧ (t'.st k).regs = (t.st k).regs ∧
      (t'.st k).status = if t.tmode then .trap else .ready) ∧
    ∀ v, again w = some v → ∃ t', s'.task? t.uid = some t' ∧ (t'.st k).pc = (t.st k).pc ∧ (t'.st k).status = .waiting v

/-- The barrier instructions (R151, R153, R154): a first arrival of its task in the phase completes, after its stream's
stores have drained (at a span barrier: are at their homes), or is buffered in a deterministic launch; a second one
waits until the phase completes, and then arrives, whoever has arrived since; BARW and SBARW complete when the phase
differs from their parity, and otherwise wait. A phase of a block barrier completes at the moment when every task of the
block that has not retired has arrived and BAL is 0, and at no other: ABITS becomes 0, PHASE inverts, and each BARW that
waits for it completes, in one step (R15, R151, R152). An arrival sets its task's bit and adds its bytes to BAL; a byte
action subtracts its count; the retirement of a task can complete a phase too (R21). A phase of a span barrier completes
when every task of the span that has not retired has arrived (R154). -/
def Obligations.BarrierResults : Prop :=
  (∀ s t k, Issues s t k → ∀ (b : BitVec 4) (c : BitVec 2) (a : BitVec 5) (p : BitVec 1),
     let u := s.drain t k
     let w := s.perform t k .span
     let parity := ((t.st k).reg a).toNat % 2 != p.toNat
     let again := (t.st k).status = .waiting (.arrive b.toNat true)
     let spanAgain := (t.st k).status = .waiting (.spanArrive c.toNat true)
     (s.arrived t b.toNat = false ∨ again → t.det = false →
       exec (.bara b) s = .next ((u.1.retire u.2 k (u.2.st k)).arrive u.2 b.toNat 0) ∧
       exec (.bare b a) s = .next ((u.1.retire u.2 k (u.2.st k)).arrive u.2 b.toNat ((t.st k).reg a))) ∧
     (s.arrived t b.toNat = false ∨ again → t.det = true →
       exec (.bara b) s = .next (s.buffer t k (.bara b.toNat) false) ∧
       exec (.bare b a) s = .next (s.buffer t k (.bare b.toNat ((t.st k).reg a)) false)) ∧
     (s.arrived t b.toNat = true → ¬ again → exec (.bara b) s = .next (s.stall t k (.arrive b.toNat false)) ∧
       exec (.bare b a) s = .next (s.stall t k (.arrive b.toNat false))) ∧
     (s.spanArrived t c.toNat = false ∨ spanAgain → t.det = false →
       exec (.sbara c) s = .next ((w.1.retire w.2 k (w.2.st k)).spanArrive w.2 c.toNat)) ∧
     (s.spanArrived t c.toNat = false ∨ spanAgain → t.det = true →
       exec (.sbara c) s = .next (s.buffer t k (.sbara c.toNat) false)) ∧
     (s.spanArrived t c.toNat = true → ¬ spanAgain → exec (.sbara c) s = .next (s.stall t k (.spanArrive c.toNat false))) ∧
     (∀ x, s.blockOf t = some x →
       ((x.bar b.toNat).phase.getLsbD 0 ≠ parity → exec (.barw b a p) s = .next (s.retire t k (t.st k))) ∧
       ((x.bar b.toNat).phase.getLsbD 0 = parity → exec (.barw b a p) s = .next (s.stall t k (.phase b.toNat parity)))) ∧
     (∀ x, s.spanOf t = some x →
       ((x.bar c.toNat).phase.getLsbD 0 ≠ parity →
         exec (.sbarw c a p) s = .next ((s.acquire t .span).retire t k (t.st k))) ∧
       ((x.bar c.toNat).phase.getLsbD 0 = parity → exec (.sbarw c a p) s = .next (s.stall t k (.spanPhase c.toNat parity))))) ∧
  (∀ (s : State) (b : Block) (i : Nat), s.block? b.uid = some b → i < b.bars.length →
     let full := fun (x : BarSt) => s.liveTasks b ≠ [] ∧ (∀ n ∈ s.liveTasks b, x.abits.getLsbD n = true) ∧ x.bal = 0
     let next := fun (x : BarSt) => { abits := 0, bal := 0, phase := 1 - x.phase : BarSt }
     let wakesTask := fun (s' : State) t => phaseWakes s s' t (fun w => ∃ parity, w = .phase i parity)
       fun w => if w = .arrive i true ∨ w = .arrive i false then some (.arrive i true) else none
     let wakes := fun (s' : State) => ∀ t, t.block = b.uid → wakesTask s' t
     (∀ t n, s.blockOf t = some b →
       let x := { b.bar i with abits := (b.bar i).abits ||| (1 <<< t.taskId), bal := (b.bar i).bal + n }
       ∃ b', (s.arrive t i n).block? b.uid = some b' ∧ (full x → b'.bar i = next x ∧ wakes (s.arrive t i n)) ∧
         (¬ full x → b'.bar i = x) ∧ ∀ j, j ≠ i → b'.bar j = b.bar j) ∧
     (∀ n, let x := { b.bar i with bal := (b.bar i).bal - BitVec.ofNat 32 n }
       ∃ b', (s.deliverBytes b.uid i n).block? b.uid = some b' ∧
         (full x → b'.bar i = next x ∧ wakes (s.deliverBytes b.uid i n)) ∧ (¬ full x → b'.bar i = x) ∧
         ∀ j, j ≠ i → b'.bar j = b.bar j) ∧
     (∀ t, i < 16 → s.task? t.uid = some t → t.block = b.uid →
       (∀ u ∈ s.tasks, u.block = b.uid → u.uid ≠ t.uid → (b.bar i).abits.getLsbD u.taskId = true) →
       (∃ u ∈ s.tasks, u.block = b.uid ∧ u.uid ≠ t.uid) → (b.bar i).bal = 0 →
       (∃ b', (s.retireTask t).block? b.uid = some b' ∧ b'.bar i = next (b.bar i)) ∧
       ((∀ j, (t.st j).queue = []) → ∀ u, u.uid ≠ t.uid → u.block = b.uid →
         (∀ e ∈ (s.core (s.coreOf t)).oclmQ, e.1 ≠ u.uid) → wakesTask (s.retireTask t) u))) ∧
  (∀ (s : State) (p : Span) (i : Nat) t, s.spanOf t = some p → i < p.sbars.length →
     let s' := s.spanArrive t i
     let x := { p.bar i with abits := (p.bar i).abits ||| (1 <<< s.spanBit t) }
     let need := (s.spanBlocks p.uid).flatMap fun b => (s.liveTasks b).map fun n => b.pos * 32 + n
     let full := need ≠ [] ∧ ∀ n ∈ need, x.abits.getLsbD n = true
     ∃ p', s'.span? p.uid = some p' ∧ (∀ j, j ≠ i → p'.bar j = p.bar j) ∧ (¬ full → p'.bar i = x) ∧
       (full → p'.bar i = { abits := 0, phase := 1 - x.phase } ∧ ∀ u b, s.blockOf u = some b → b.span = p.uid →
         phaseWakes s s' u (fun w => ∃ parity, w = .spanPhase i parity) fun w =>
           if w = .spanArrive i true ∨ w = .spanArrive i false then some (.spanArrive i true) else none))

/-- The fences complete (R99): a release once no pixel lane of the stream is pending (R219), with the store queue
drained and, at .span scope or wider, nothing left on the core's outbound path; an acquire with the core's L1 emptied at
.span scope or wider (R90); FENCE.ro with an empty queue and now, as the core sees memory, as the stream's read-only
acquire point (R105). CWAIT completes when the copies that the task
issued before it began, but the n most recent ones, have completed, and until then its stream waits for exactly
those (R156). -/
def Obligations.FenceAndCopyWaitResults : Prop :=
  (∀ s t k, Issues s t k →
     let u := s.perform t k
     let w := s.drain t k
     (s.lanesPending t k = false → ∀ sc,
       exec (.fenceRel sc) s = .next ((u sc).1.retire (u sc).2 k ((u sc).2.st k)) ∧
       exec (.fenceAr sc) s = .next (((u sc).1.acquire (u sc).2 sc).retire (u sc).2 k ((u sc).2.st k))) ∧
     (s.lanesPending t k = true → ∀ sc,
       exec (.fenceRel sc) s = .next (s.stall t k .lanes) ∧ exec (.fenceAr sc) s = .next (s.stall t k .lanes)) ∧
     (∀ sc, exec (.fenceAcq sc) s = .next ((s.acquire t sc).retire t k (t.st k))) ∧
     exec .fenceRo s = .next (({ w.1 with seq := w.1.seq + 1 } : State).retire w.2 k
       { w.2.st k with ro := w.1.roPoint (w.1.coreOf w.2) }) ∧
     (t.det = false → ∀ sc, ((u sc).2.st k).queue = [] ∧ (w.2.st k).queue = [] ∧ ∀ j, j ≠ k → (u sc).2.st j = t.st j) ∧
     (t.det = false → ∀ sc ∈ [Scope.span, .pkg, .fab], ((u sc).1.core (s.coreOf t)).out = []) ∧
     (t.det = false → ∀ sc ∈ [Scope.span, .pkg, .fab], ((s.acquire t sc).core (s.coreOf t)).l1 = [])) ∧
  (∀ s t k, Issues s t k → (∀ ops, (t.st k).status ≠ .waiting (.cwait ops)) → ∀ a (i : BitVec 13),
     let n := (((t.st k).reg a).toNat + i.toNat) % 2 ^ 32
     ((∀ o ∈ t.cops, t.copies ≤ o.num + n) → exec (.cwait a i) s = .next (s.retire t k (t.st k))) ∧
     ((∃ o ∈ t.cops, o.num + n < t.copies) →
       exec (.cwait a i) s = .next (s.stall t k (.cwait ((t.cops.filter fun o => o.num + n < t.copies).map (·.id))))))

/-! ## Futures, launches and records -/

/-- What a resolve or a fault does to a future at its home (R286, R287): one that is done is unchanged and says which it
was; otherwise STATE becomes 2 or 3, RESULT is written, WAITERS and HEAD become 0, GEN stays, and the records that wait on
it are released from the one at HEAD on, the latest registered first; where software has stored over HEAD meanwhile, only
records that wait on it are (R288, log 74). Every other byte reads as before. -/
def Obligations.FutureResolvesOnce : Prop :=
  ∀ (s : State) (pa : Nat) (res : Word) (fault : Bool),
    let r := s.resolve pa res fault
    let places := (List.range 16).map fun i => Loc.mem (pa + i)
    (2 ≤ s.futState pa → r = (s, some (s.futState pa), [])) ∧
    (s.futState pa < 2 → s.mem.wf = true → (∀ l ∈ places, ¬ s.frameByte places l) →
      r.2.1 = none ∧ r.1.mem.field pa 2 = (if fault then 3 else 2) + s.mem.field pa 2 / 4 * 4 ∧
      r.1.mem.field (pa + 2) 2 = 0 ∧ r.1.mem.field (pa + 4) 4 = res.toNat ∧ r.1.mem.field (pa + 8) 8 = 0 ∧
      ((∀ c, (s.chainAt pa).head? = some c → c.record = s.mem.field (pa + 8) 8) →
        r.2.2.map (·.va) = (s.chainAt pa).map (·.record)) ∧
      (∀ x ∈ r.2.2, ∃ c ∈ s.chainAt pa, x.va = c.record) ∧ BytesKept s r.1 places)

/-- FRES, FFLT, FTRY and FSTAT (R157 to R159): with an operand that nothing stops, as an atomic on the future after
their stream's stores have been performed at .pkg; one that is done makes FRES and FFLT raise FUTURE and gives FTRY 1,
or 2 where it had faulted; to find it resolved is an acquire at .pkg (R101). In a deterministic launch they enter the
buffer (R301). -/
def Obligations.FutureInstructions : Prop :=
  ∀ s t k, Issues s t k → ∀ (a : BitVec 4) pa,
    let A := (t.st k).pair a
    let u := s.perform t k .pkg
    (s.futCheck t k A.toNat 16 16 true = .ok pa → ∀ (b : BitVec 5), let res := (t.st k).reg b
      let f := u.1.futState pa
      let done := fun fault st => let r := u.1.resolve pa res fault
        Host.Outcome.next (State.settle ((r.1.homeOp u.2 pa).retire u.2 k st, r.2.2))
      let raised := fun (v : State) sub => Host.Outcome.next (v.takeTrap u.2 k (t.st k).pc false 0 { cls := 6, sub := sub })
      let acquired := (u.1.homeOp u.2 pa).acquire u.2 .pkg
      (t.det = false → s.lanesPending t k = false →
        (f < 2 → exec (.fres a b) s = done false (u.2.st k) ∧ exec (.fflt a b) s = done true (u.2.st k) ∧
          ∀ d, exec (.ftry d a b) s = done false ((u.2.st k).setReg d 0)) ∧
        (f = 2 → exec (.fres a b) s = raised acquired 1 ∧ exec (.fflt a b) s = raised acquired 1 ∧
          ∀ d, exec (.ftry d a b) s = .next (acquired.retire u.2 k ((u.2.st k).setReg d 1))) ∧
        (f = 3 → exec (.fres a b) s = raised u.1 2 ∧ exec (.fflt a b) s = raised u.1 2 ∧ ∀ d, exec (.ftry d a b) s =
          .next ((u.1.homeOp u.2 pa).retire u.2 k ((u.2.st k).setReg d 2)))) ∧
      (t.det = true → exec (.fres a b) s = .next (s.buffer t k (.fres A pa res false) false) ∧
        exec (.fflt a b) s = .next (s.buffer t k (.fres A pa res true) false) ∧
        ∀ d, exec (.ftry d a b) s = .next (s.buffer t k (.ftry A pa res d) true))) ∧
    (s.futCheck t k A.toNat 16 16 false = .ok pa → ∀ d,
      (t.det = false → s.lanesPending t k = false → exec (.fstat d a) s = .next
        (((u.1.homeOp u.2 pa).acquire u.2 .pkg).retire u.2 k ((u.2.st k).setPair d (BitVec.ofNat 64 (u.1.mem.field pa 8))))) ∧
      (t.det = true → exec (.fstat d a) s = .next (s.buffer t k (.fstat pa d) true)))

/-- A packet that is submitted takes the next LAUNCH number (R160, R281); a grid that no check of R25 refuses is then
pending with its whole GRID, and one that a check refuses is removed, its future being faulted with the reason. -/
def Obligations.SubmittedGridsAreChecked : Prop :=
  ∀ (s : State) (part image : Nat) (p : Packet) (addr : Nat), p.variant = 0 →
    let x := s.submit part image p addr none none []
    x.2.1 = s.nextLaunch.toNat ∧ x.1.nextLaunch = s.nextLaunch + 1 ∧
    (s.gridCode part p = none →
      (∃ l ∈ x.1.launches, l.num = s.nextLaunch.toNat ∧ l.pkt = p ∧ l.left = p.grid ∧ l.live = true) ∧ x.2.2 = [] ∧
      x.1.mem = s.mem) ∧
    (∀ c, s.gridCode part p = some c → (∀ l ∈ x.1.launches, l.num ≠ s.nextLaunch.toNat) ∧
      (p.future = 0 → x.1.mem = s.mem) ∧
      ∀ f, p.future ≠ 0 → s.devPa part p.future.toNat true = some f →
        ∃ y : State,
        { y with launches := s.launches, nextLaunch := s.nextLaunch, seq := s.seq } = s ∧
        x.1 = (y.resolve f (BitVec.ofNat 32 c) true).1)

/-- TLAUNCH, TJOIN and GREC (R160 to R162) complete once their operands pass the checks of R157, the node's descriptor
keeps R290 and its buffer, in which the records of a cut batch stay until they are taken, has room; what they release moves
on in the same step. A GREC whose PACKET or GRAPH lies on a page that is away stops as an access of its own would (R277). In
a deterministic launch they enter the buffer. -/
def Obligations.LaunchInstructions : Prop :=
  ∀ s t k, Issues s t k → ∀ (a : BitVec 4) pa,
    let A := (t.st k).pair a
    let u := s.perform t k .pkg
    let free := t.det = false ∧ s.lanesPending t k = false
    (s.futCheck t k A.toNat 64 64 false = .ok pa → ∀ d, let ls := s.locs (t.accessor s) A.toNat 64 false
      let x := u.1.launchPkt u.2 (u.1.readLocs ls) A.toNat
      (free → exec (.tlaunch d a) s =
        .next (State.settle (x.1.retire x.2.1 k ((x.2.1.st k).setReg d (BitVec.ofNat 32 x.2.2.1)), x.2.2.2))) ∧
      (t.det = true → exec (.tlaunch d a) s = .next (s.buffer t k (.tlaunch A (s.loadBytes t k ls) d) true))) ∧
    (s.futCheck t k A.toNat 64 64 true = .ok pa →
      (∀ d x, free → u.1.joinRec u.2 k A.toNat = .ok x → exec (.tjoin d a) s =
        .next (State.settle (x.1.retire u.2 k ((u.2.st k).setReg d (BitVec.ofNat 32 x.2.1)), x.2.2))) ∧
      (∀ d, t.det = true → exec (.tjoin d a) s = .next (s.buffer t k (.tjoin A d) true)) ∧
      ∀ b, let val := (t.st k).reg b
        let desc := u.1.mem.bytes pa 64
        let away := (u.1.devAway t.part (fieldOf desc 0 8) 64 false).or (u.1.devAway t.part (fieldOf desc 8 8) 64 true)
        (∀ x pte e, away = some (x, pte, e) → exec (.grec a b) s = .next (s.stopped t k (s.awayStop t x pte e))) ∧
        (away = none → u.1.nodeOk t.part desc = none →
          exec (.grec a b) s = .next (s.takeTrap t k (t.st k).pc false 0 { cls := 5, sub := 7 })) ∧
        ∀ g cap, away = none → u.1.nodeOk t.part desc = some (g, cap) →
          let n := ((s.nodeAt pa).map fun x => x.recs.length + x.held).getD 0
          (cap ≤ n → exec (.grec a b) s = .next (s.stall t k (.record (((s.nodeAt pa).map (·.id)).getD 0) cap))) ∧
          (n < cap → t.det = true → exec (.grec a b) s =
            .next (s.buffer { t with recIdx := t.recIdx + 1 } k (.grec A val t.recIdx g) false)) ∧
          (n < cap → free → ∀ blk, u.1.blockOf u.2 = some blk →
            let y := u.1.acceptRec u.2.part g A.toNat pa
              { val := val, grid := u.2.launch, bid := blk.bid, taskId := u.2.taskId, idx := t.recIdx }
            exec (.grec a b) s = .next (State.settleAll (y.1.retire { u.2 with recIdx := t.recIdx + 1 } k (u.2.st k), y.2))))

/-! ## Masks -/

/-- A mask instruction leaves the triple at `j` and the activity mask, s30:s29:s28, with these values (R33, R34). One that
reads the predicate `p` first lets the cycles pass until the words that write it have completed, and waits for a
scoreboarded one (R132, R163). -/
def setsMasks (i : Instr) (p : Option (BitVec 5)) (j : BitVec 5) (f : Task → Mask → Mask → Mask × Mask) : Prop :=
  ∀ s t, Issues s t .v →
    let held := ∃ n, p = some n ∧ ∃ l ∈ t.sb, Dest.pred n.toNat ∈ l
    (held → exec i s = .next (s.stall t .v .score)) ∧
    (¬ held → ∃ st c, exec i s = .next (({ s with now := c } : State).retire t .v st) ∧ s.now ≤ c ∧ (p = none → c = s.now) ∧
      (∀ n, p = some n → ∀ x ∈ t.flights, x.dest = .pred n.toNat → x.issued + x.lat ≤ c) ∧
      let r := f t ((t.st .v).triple j) ((t.st .v).reg 30 ++ (t.st .v).reg 29 ++ (t.st .v).reg 28)
      st.triple j = r.1 ∧ st.reg 30 ++ st.reg 29 ++ st.reg 28 = r.2)

/-- The mask operations (R164): with M the activity mask, T the triple at s_J and P the predicate over all lanes, MIF
leaves T := M and M := M ∧ P, MELSE M := T ∧ ¬M, MJOIN M := T, MSAVE T := M, MBREAK M := M ∧ ¬P, and nothing else of the
two; their words hold J in d and N in a. -/
def Obligations.MaskResults : Prop :=
  ∀ (j n : BitVec 5), j.toNat ≤ 25 →
    setsMasks (.mif j n) (some n) j (fun t _ m => (m, m &&& t.pred n.toNat)) ∧
    setsMasks (.melse j) none j (fun _ x m => (x, x &&& ~~~m)) ∧
    setsMasks (.mjoin j) none j (fun _ x _ => (x, x)) ∧
    setsMasks (.msave j) none j (fun _ _ m => (m, m)) ∧
    setsMasks (.mbreak n) (some n) j (fun t x m => (x, m &&& ~~~t.pred n.toNat)) ∧
    decode (0x50#8 ++ j ++ n ++ 0#14) 0 0 = .ok (.mif j n) ∧ decode (0x51#8 ++ j ++ 0#19) 0 0 = .ok (.melse j) ∧
    decode (0x52#8 ++ j ++ 0#19) 0 0 = .ok (.mjoin j) ∧ decode (0x53#8 ++ j ++ 0#19) 0 0 = .ok (.msave j) ∧
    decode (0x54#8 ++ 0#5 ++ n ++ 0#14) 0 0 = .ok (.mbreak n)

/-- BMANY branches when some lane is in the activity mask and BMNONE when none is (R165); PMOVS gives a triple the lanes
of a predicate and SMOVP a predicate the lanes of a triple, p31 staying all true (R40, R166). -/
def Obligations.MaskBranchesAndMoves : Prop :=
  (∀ s t, Issues s t .v → ∀ o, let st := t.st .v
    let empty := st.reg 28 = 0 ∧ st.reg 29 = 0 ∧ st.reg 30 = 0
    let taken := Host.Outcome.next (s.branch t .v st (parcelsFrom st.pc o))
    let passed := Host.Outcome.next (s.retire t .v st)
    (¬ empty → exec (.bmany o) s = taken ∧ exec (.bmnone o) s = passed) ∧
    (empty → exec (.bmany o) s = passed ∧ exec (.bmnone o) s = taken)) ∧
  (∀ (j n : BitVec 5), j.toNat ≤ 25 → setsMasks (.pmovs j n) (some n) j fun t _ m => (t.pred n.toNat, m)) ∧
  (∀ s t, Issues s t .v → 32 ≤ t.preds.length → ∀ (n j : BitVec 5), ∃ u : Task,
    exec (.smovp n j) s = .next (s.retire u .v (t.st .v)) ∧ u.pred 31 = BitVec.allOnes 96 ∧
    (n ≠ 31 → u.pred n.toNat = (t.st .v).triple j) ∧ (∀ m, m ≠ n.toNat → u.pred m = t.pred m) ∧
    { u with preds := t.preds } = t)

/-! ## System registers, traps and the end of a stream -/

/-- The registers that SYSRD reads, by index, as stream `k` of a task in the block `b` sees them (R44 to R48, R392, R393);
CYCLO, CYCHI and the window on the streams' scalar registers stand apart. -/
def sysRows (s : State) (t : Task) (k : StreamId) (b : Block) : List (BitVec 12 × Word) :=
  let n := fun (x : Nat) => BitVec.ofNat 32 x
  let lo := fun (v : Dword) => n (v.toNat % 2 ^ 32)
  let hi := fun (v : Dword) => n (v.toNat / 2 ^ 32)
  [(0x000, n t.taskId), (0x001, n b.bid), (0x002, n (((s.span? b.span).map (·.sid)).getD 0)), (0x003, n t.slot),
   (0x004, n b.core), (0x005, n (b.core / 128)), (0x006, n (s.mfield 0x4030 0 12)), (0x007, n t.launch),
   (0x010, (t.st k).fpmode), (0x011, (t.st k).fpflags), (0x012, t.srseed), (0x013, (t.st k).srcnt),
   (0x020, t.mbnda), (0x021, t.mbndu), (0x022, t.mbndf), (0x030, n (t.chk.toNat + 2 * t.det.toNat)),
   (0x031, n (t.nrows % 256 + t.inUse * 256)), (0x050, t.droop), (0x051, t.runcnt),
   (0x100, lo t.tvec), (0x101, hi t.tvec), (0x102, t.tcause), (0x103, t.tstat),
   (0x104, lo t.tpcS), (0x105, hi t.tpcS), (0x106, lo t.tpcV), (0x107, hi t.tpcV),
   (0x108, lo t.tpcM), (0x109, hi t.tpcM), (0x10A, lo t.tpcC), (0x10B, hi t.tpcC),
   (0x10C, lo t.tinfo), (0x10D, hi t.tinfo), (0x110, t.tsave0), (0x111, t.tsave1), (0x112, t.tsave2), (0x113, t.tsave3),
   (0x120, n (s.lfrBase t.part b.core)), (0x121, n (s.lfrBase t.part b.core / 2 ^ 32)),
   (0x122, (s.core b.core).scrway), (0x123, n (s.mfield (0x818 + 0x20 * t.part) 0 16))]

/-- An index that R44, R392 or R393 lists. -/
def sysMapped (i : BitVec 12) : Bool :=
  (sysRows .reset .init .s .init).any (·.1 == i) || i == 0x040 || i == 0x041 || (0x200 ≤ i.toNat && i.toNat < 0x280)

/-- SYSRD (R44, R48, R167, R393): an index from 0x100 on raises PRIV outside trap mode, one that is not listed ILLEGAL,
OPERAND; otherwise the destination holds the register. A read of CYCLO keeps the counter's high half for the stream's
reads of CYCHI; a deterministic task's counter is its count of commits. A read of FPFLAGS in the vector stream waits for
the words in flight. -/
def Obligations.SystemRegisterReads : Prop :=
  ∀ s t k, Issues s t k → ∀ b, s.blockOf t = some b → ∀ (d : BitVec 5),
    (∀ i, 0x100 ≤ i.toNat → t.tmode = false →
      exec (.sysrd d i) s = .next (s.takeTrap t k (t.st k).pc false 0 { cls := 14, sub := 1 })) ∧
    (∀ i, sysMapped i = false → (i.toNat < 0x100 ∨ t.tmode = true) →
      exec (.sysrd d i) s = .next (s.takeTrap t k (t.st k).pc false 0 { cls := 0, sub := 4 })) ∧
    (∀ r ∈ sysRows s t k b, (r.1.toNat < 0x100 ∨ t.tmode = true) → (k = .v ∧ r.1 = 0x011 → t.sb = []) →
      exec (.sysrd d r.1) s = .next (s.retire t k ((t.st k).setReg d r.2))) ∧
    (k = .v → t.sb ≠ [] → exec (.sysrd d 0x011) s = .next (s.stall t k .score)) ∧
    (t.tmode = true → ∀ (j : StreamId) (r : BitVec 5),
      exec (.sysrd d (BitVec.ofNat 12 (0x200 + 32 * j.idx + r.toNat))) s =
        .next (s.retire t k ((t.st k).setReg d ((t.st j).reg r)))) ∧
    (let u := s.tickDie t
      let c := u.cycleCount t
      exec (.sysrd d 0x040) s =
        .next (u.retire t k (({ t.st k with cyc := some (c.extractLsb' 32 32) } : StreamSt).setReg d (c.extractLsb' 0 32))) ∧
      exec (.sysrd d 0x041) s = .next (u.retire t k ((t.st k).setReg d ((t.st k).cyc.getD (c.extractLsb' 32 32)))) ∧
      (t.det = true → c = BitVec.ofNat 64 t.commits))

/-- The indices of R44, R392 and R393 whose registers are RO. -/
def sysReadOnly : List (BitVec 12) :=
  [0x000, 0x001, 0x002, 0x003, 0x004, 0x005, 0x006, 0x007, 0x020, 0x021, 0x022, 0x031, 0x040, 0x041, 0x050, 0x051, 0x102, 0x10C,
   0x10D, 0x120, 0x121, 0x123]

/-- SYSWR (R44, R45, R88, R167, R392, R393): PRIV and ILLEGAL as for SYSRD; a write leaves in its register the fields that
are RW, and is ignored in one that is RO, which keeps its value; every other register of the row reads as before. TVEC keeps
multiples of 4,096, the trap program counters multiples of 4, and ENDED only gains bits. In every one of these cases the
instruction retires. A write of FPFLAGS in the vector stream waits for the words in flight, which is the model's reading of
R221 (log 91). A SYSWR to SCRWAY waits, is ignored or takes effect as R88 says. -/
def Obligations.SystemRegisterWrites : Prop :=
  ∀ s t k, Issues s t k → ∀ b, s.blockOf t = some b → ∀ (a : BitVec 5),
    let w := (t.st k).reg a
    let awaits := fun (i : BitVec 12) => k = .v ∧ i = 0x011 ∧ t.sb ≠ []
    (∀ i, awaits i → exec (.syswr a i) s = .next (s.stall t k .score)) ∧
    (∀ i ∈ sysReadOnly, (i.toNat < 0x100 ∨ t.tmode = true) → exec (.syswr a i) s = .next (s.retire t k (t.st k))) ∧
    (∀ i, 0x100 ≤ i.toNat → t.tmode = false →
      exec (.syswr a i) s = .next (s.takeTrap t k (t.st k).pc false 0 { cls := 14, sub := 1 })) ∧
    (∀ i, sysMapped i = false → (i.toNat < 0x100 ∨ t.tmode = true) →
      exec (.syswr a i) s = .next (s.takeTrap t k (t.st k).pc false 0 { cls := 0, sub := 4 })) ∧
    (∀ i, sysMapped i = true → (i.toNat < 0x100 ∨ t.tmode = true) → i ≠ 0x122 → ¬ awaits i → ∃ u : Task,
      exec (.syswr a i) s = .next (s.retire u k (u.st k)) ∧
      (i ∈ sysReadOnly → u = t ∧ ∀ v, (i, v) ∈ sysRows s t k b → (i, v) ∈ sysRows s u k b) ∧
      (i ∈ [0x010#12, 0x011, 0x012, 0x013, 0x030, 0x110, 0x111, 0x112, 0x113] → ∀ v, (i, v) ∈ sysRows s u k b →
        v = (if i = 0x010 then w &&& 0xFF07 else if i = 0x011 then w &&& 0xFF
             else if i = 0x030 then BitVec.ofNat 32 (w.toNat % 2 + 2 * t.det.toNat) else w)) ∧
      (i = 0x100 → u.tvec = BitVec.ofNat 64 ((t.tvec.toNat / 2 ^ 32 * 2 ^ 32 + w.toNat) / 4096 * 4096)) ∧
      (i = 0x101 → u.tvec = BitVec.ofNat 64 ((w.toNat * 2 ^ 32 + t.tvec.toNat % 2 ^ 32) / 4096 * 4096)) ∧
      (i ≠ 0x100 → i ≠ 0x101 → u.tvec = t.tvec) ∧
      (u.tcause, u.tinfo, u.tmode, u.claim, u.sems, u.vregs, u.preds, u.vqs, u.acc, u.wfa) =
        (t.tcause, t.tinfo, t.tmode, t.claim, t.sems, t.vregs, t.preds, t.vqs, t.acc, t.wfa) ∧
      (∀ j : StreamId, i.toNat = 0x104 + 2 * j.idx →
        u.tpc j = BitVec.ofNat 64 (((t.tpc j).toNat / 2 ^ 32 * 2 ^ 32 + w.toNat) / 4 * 4)) ∧
      (∀ j : StreamId, i.toNat = 0x105 + 2 * j.idx →
        u.tpc j = BitVec.ofNat 64 ((w.toNat * 2 ^ 32 + (t.tpc j).toNat % 2 ^ 32) / 4 * 4)) ∧
      (∀ j : StreamId, i.toNat ≠ 0x104 + 2 * j.idx → i.toNat ≠ 0x105 + 2 * j.idx → u.tpc j = t.tpc j) ∧
      (∀ n, u.tended.getLsbD n = (t.tended.getLsbD n || (decide (i = 0x103 ∧ n < 4) && w.getLsbD n))) ∧
      (∀ (j : StreamId) r, (u.st j).reg r = if i.toNat = 0x200 + 32 * j.idx + r.toNat ∧ r ≠ 31 then w else (t.st j).reg r) ∧
      (∀ x v, x ≠ i → x.toNat < 0x100 ∨ 0x110 ≤ x.toNat → (x, v) ∈ sysRows s t k b → (x, v) ∈ sysRows s u k b)) ∧
    (t.tmode = true →
      (s.waysBusy b.core (w &&& 0xFFFF) = true → exec (.syswr a 0x122) s = .next (s.stall t k (.ways (w &&& 0xFFFF)))) ∧
      (s.waysBusy b.core (w &&& 0xFFFF) = false → ∃ s', exec (.syswr a 0x122) s = .next (s'.retire t k (t.st k)) ∧
        ((s'.core b.core).scrway = w &&& 0xFFFF ∨ s' = s) ∧
        ((∀ x ∈ s.blocks, x.core = b.core → x.st = .resident → x.size = 0) →
          (s'.core b.core).scrway = w &&& 0xFFFF ∧ (w &&& 0xFFFF = 0xFFFF → (s'.core b.core).l1 = []))))

/-- Taking a trap. A handled one (R389, R392): every stream that has not ended halts where it stands, the four program
counters are saved, the trapping stream's as its rule names it, TCAUSE holds class, sub-code, stream and kind of
delivery, TSTAT.ENDED the streams that had ended, TINFO the information, and the scalar stream goes on in trap mode
at TVEC + 256 × class; registers, accumulators and memory are as before. One with TVEC 0, or of the handler itself,
ends the task's four streams as KILL does, and the task's fate is its class and sub-code (R23, R396). DEBUG under
the debug agent halts every stream instead, outside trap mode (R397). -/
def Obligations.TrapsAreTaken : Prop :=
  (∀ (s : State) (t : Task) (k : StreamId) (pc : Dword) (deliv : Bool) (also : BitVec 4) (r : TrapReq),
     s.task? t.uid = some t → t.tvec ≠ 0 → ¬ (t.tmode = true ∧ k = .s) → (r.cls = 10 → s.agentStops t = false) →
     r.lanes = none → r.cls < 15 → r.sub < 256 → ∃ u : Task,
       s.takeTrap t k pc deliv also r = s.setTask u ∧ u.uid = t.uid ∧ u.tmode = true ∧
       (∀ j, u.tpc j = if j = k then pc else (t.st j).pc) ∧
       u.tcause.toNat = r.sub + 2 ^ 8 * r.cls + 2 ^ 12 * k.idx + 2 ^ 15 * deliv.toNat + 2 ^ 16 * also.toNat ∧
       u.tinfo = r.info ∧ (∀ j : StreamId, u.tended.getLsbD j.idx = true ↔ (t.st j).status = .ended) ∧
       (u.st .s).pc = t.tvec + BitVec.ofNat 64 (256 * r.cls) ∧ (u.st .s).status = .trap ∧
       (∀ j, j ≠ .s → (u.st j).pc = (t.st j).pc ∧
         (u.st j).status = if (t.st j).status = .ended then .ended else .halted) ∧
       (∀ j, (u.st j).regs = (t.st j).regs ∧ (u.st j).queue = (t.st j).queue ∧ (u.st j).fpmode = (t.st j).fpmode ∧
         (u.st j).fpflags = (t.st j).fpflags) ∧
       { u with str := t.str, tpcS := t.tpcS, tpcV := t.tpcV, tpcM := t.tpcM, tpcC := t.tpcC, tcause := t.tcause,
                tended := t.tended, tinfo := t.tinfo, tmode := t.tmode, semQ := t.semQ, flights := t.flights, sb := t.sb } = t) ∧
  (∀ (s : State) (t : Task) (k : StreamId) (pc : Dword) (deliv : Bool) (also : BitVec 4) (r : TrapReq),
     (¬ (r.cls = 10 ∧ s.agentStops t = true) → (t.tvec = 0 ∨ (t.tmode = true ∧ k = .s)) → ∃ u : Task,
       s.takeTrap t k pc deliv also r = s.setTask u ∧ (∀ j, (u.st j).status = .ended ∧ (u.st j).regs = (t.st j).regs) ∧
       u.fate = some (r.cls, r.sub) ∧ u.pend = [] ∧ u.semQ = [] ∧ u.tmode = false) ∧
     (r.cls = 10 → s.agentStops t = true → ∃ (s' : State) (u : Task),
       s.takeTrap t k pc deliv also r = s' ∧ s'.tasks = (s.setTask u).tasks ∧ s'.mem = s.mem ∧ u.dbgHalt = true ∧
       u.tmode = t.tmode ∧ u.fate = t.fate ∧
       ∀ j, (u.st j).pc = (t.st j).pc ∧ (u.st j).regs = (t.st j).regs ∧
         (u.st j).status = if (t.st j).status = .ended then .ended else .halted))

/-- ERET (R169, R395) in trap mode leaves it: each stream whose ENDED bit is clear is READY at its trap program counter,
the others are ENDED; nothing else changes. Outside trap mode it raises PRIV, TRAPMODE (2). -/
def Obligations.EretResumesStreams : Prop :=
  ∀ s t k, Issues s t k →
    (t.tmode = false → exec .eret s = .next (s.takeTrap t k (t.st k).pc false 0 { cls := 14, sub := 2 })) ∧
    (t.tmode = true → ∃ u : Task, exec .eret s = .next (s.setTask u) ∧ u.tmode = false ∧
      (∀ j, (u.st j).pc = t.tpc j ∧ (u.st j).status = (if t.tended.getLsbD j.idx then .ended else .ready) ∧
        (u.st j).regs = (t.st j).regs ∧ (u.st j).queue = (t.st j).queue ∧ (u.st j).fpmode = (t.st j).fpmode ∧
        (u.st j).fpflags = (t.st j).fpflags ∧ (u.st j).srcnt = (t.st j).srcnt ∧ (u.st j).retired = (t.st j).retired) ∧
      { u with str := t.str, tmode := t.tmode } = t)

/-- TRAP retires and then raises USER with its code at the next instruction, BKPT raises DEBUG at itself (R168); YIELD,
NOP and CYCLES change no data (R170); END leaves its stream ENDED, or raises PRIV, HANDLER (3) in trap mode, and KILL ends
all four streams (R23, R171). -/
def Obligations.StreamControlResults : Prop :=
  ∀ s t k, Issues s t k →
    let st := t.st k
    (∀ c, exec (.trap c) s = .next ((s.retire t k st).takeTrap (t.setSt k (t.advance st 1)) k (st.pc + 4) false 0
      { cls := 9, sub := c.toNat })) ∧
    exec .bkpt s = .next (s.takeTrap t k st.pc false 0 { cls := 10, sub := 1 }) ∧
    exec .yield s = .next (s.setTask (t.setSt k { t.advance st 1 with granted := false, run := 0 })) ∧
    exec .nop s = .next (s.retire t k st) ∧
    (∀ a (i : BitVec 14), let n := ((st.reg a).toNat + i.toNat) % 2 ^ 32
      (n = 0 → exec (.cycles a i) s = .next (s.retire t k st)) ∧
      (0 < n → exec (.cycles a i) s = .next (s.setTask (t.setSt k
        { t.advance st 1 with status := .waiting (.cycles (s.now + n)), granted := false, run := 0 })))) ∧
    (t.tmode = true → exec .endStream s = .next (s.takeTrap t k st.pc false 0 { cls := 14, sub := 3 })) ∧
    (t.tmode = false → t.semQ = [] → exec .endStream s = .next (s.setTask (t.setSt k
      { st with status := .ended, granted := false, run := 0, retired := st.retired + 1 }))) ∧
    (∃ u : Task, exec .kill s = .next (s.setTask u) ∧ u.uid = t.uid ∧ u.fate = some (9, 0) ∧ u.pend = [] ∧
      ∀ j, (u.st j).status = .ended ∧ (u.st j).regs = (t.st j).regs ∧ (u.st j).queue = (t.st j).queue)

/-- An instruction of a class that its stream does not execute takes ILLEGAL, sub-code CLASS (3), and does nothing else:
the scalar class runs in every stream, masks and vector words in V, matrix instructions in M, copies in C (R112). -/
def Obligations.WrongClassTraps : Prop :=
  ∀ (i : Instr) s t k, Issues s t k →
    ((∃ w ps c, encode i = w :: ps ∧ classOf w = some c ∧
        ¬ (c = .scalar ∨ ((c = .mask ∨ c = .vector) ∧ k = .v) ∨ (c = .matrix ∧ k = .m) ∨ (c = .copy ∧ k = .c))) ∨
      (i ∈ [Instr.xtile, .xstepPop, .pairedWord] ∧ k ≠ .v)) →
    exec i s = .next (s.takeTrap t k (t.st k).pc false 0 { cls := 0, sub := 3 })

/-! ## Operand slots and the engines -/

/-- OCLM claims its slots whole, waits behind their owners and earlier claims, or raises MATRIX, SLOTHELD (5), where the
task holds a claim (R241), in a deterministic launch by the slots of the last commit (R302), in an order of turns that
is the model's (log 70); slots whose operations are outstanding are waited for (log 101); ORLS ends the claim, or has no
effect without one (R242); MSEED sets SRSEED and leaves SRCNT (R253). -/
def Obligations.SlotInstructions : Prop :=
  ∀ s t, Issues s t .m →
    let core := s.coreOf t
    (∀ (b : BitVec 6) (n : BitVec 7), let e := (t.uid, b.toNat, n.toNat)
      let q := (s.core core).oclmQ.filter fun f => f.1 != t.uid
      let waits := Host.Outcome.next ((s.setCore core { s.core core with oclmQ := q ++ [e] }).stall t .m .slots)
      let served := ∃ s' t', exec (.oclm b n) s = .next s' ∧ s'.task? t.uid = some t' ∧
        t'.claim = some (b.toNat, n.toNat) ∧ (t'.st .m).pc = (t.st .m).pc + 8 ∧ (t'.st .m).regs = (t.st .m).regs ∧
        (s'.core core).owners = (s.core core).owners ++ (List.range n.toNat).map fun i => (b.toNat + i, t.uid)
      let room := (∀ p ∈ (s.core core).owners, ¬ (b.toNat ≤ p.1 ∧ p.1 < b.toNat + n.toNat)) ∧
        ∀ f ∈ q, f.2.1 + f.2.2 ≤ b.toNat ∨ b.toNat + n.toNat ≤ f.2.1
      (t.claim ≠ none → exec (.oclm b n) s = .next (s.takeTrap t .m (t.st .m).pc false 0 { cls := 5, sub := 5 })) ∧
      (t.claim = none → t.det = false → (room → served) ∧ (¬ room → exec (.oclm b n) s = waits)) ∧
      (t.claim = none → t.det = true → (s.oclmWait t b.toNat n.toNat = none → served) ∧
        (s.oclmWait t b.toNat n.toNat = some .slots → exec (.oclm b n) s = waits) ∧
        ∀ w, s.oclmWait t b.toNat n.toNat = some w → w ≠ .slots → exec (.oclm b n) s = .next (s.stall t .m w))) ∧
    (t.claim = none → exec .orls s = .next (s.retire t .m (t.st .m) 2)) ∧
    (∀ b n, t.claim = some (b, n) → let u := { t with claim := none }
      (t.det = false → exec .orls s = .next ((s.retire u .m (t.st .m) 2).passSlots core)) ∧
      (t.det = true → exec .orls s = .next (s.buffer u .m (.orls b n) false 2))) ∧
    ∀ a, exec (.mseed a) s = .next (s.retire { t with srseed := (t.st .m).reg a } .m (t.st .m) 2)

/-- The engine instructions of the matrix stream start their operations (R233, R239, R243 to R252, R254). SLOT (1) is met
by slots that the task has not claimed, ACCRANGE (2) by acc tiles beyond its own, FOLLOWER (6) by an MMAP without one,
SHAPE (8) by a pitch that R245, R250 or R251 does not allow. -/
def Obligations.MatrixOperationsStart : Prop :=
  ∀ s t, Issues s t .m → ∀ (act : Act) (sa sb : BitVec 6) (c : BitVec 5) (mq nq : BitVec 3) (fa fb : BitVec 4) (z : Bool)
    (D sc : BitVec 4) (p k : BitVec 5) (l f n m : BitVec 5),
    let st := t.st .m
    let slot := fun b w => codeIf 1 (t.owns b w = false)
    let tiles := fun c w => codeIf 2 (t.nacc < c + w)
    let pitch := fun al => codeIf 8 ((st.reg p).toNat % al ≠ 0)
    let w := mmaW fa.toNat
    let a := sa.toNat
    let b := sb.toNat
    let M := 16 * (mq.toNat + 1)
    let N := 16 * (nq.toNat + 1)
    let va := (st.pair D).toNat
    let rows := (List.range M).map fun i => (va + i * (st.reg p).toNat) % 2 ^ 64
    let reach := fun v len wr => s.fpVa (t.accessor s) v len wr
    let W := [t.fpAcc 0 26 true]
    let ab := fun x => { slots := idxFrom a x ++ idxFrom b x : IssueChk }
    (∀ (cnt : BitVec 7) side, let size := (if side then 4352 else 4096) * cnt.toNat
      matrixStarts s t (.mold act sa cnt c side) act [t.fpScr (st.reg c).toNat size false, fpSlot a cnt.toNat true]
        (slot a cnt.toNat) { bad := s.scrBad t (st.reg c).toNat size 64 }) ∧
    matrixStarts s t (.mma act sa sb c mq nq fa fb z) act [fpSlot a w false, fpSlot b w false, t.fpAcc c.toNat 4 true]
      (slot a w ++ slot b w ++ tiles c.toNat 4) (ab w) ∧
    matrixStarts s t (.mmap act sa sb c mq nq fa fb z) act
      ([fpSlot a w false, fpSlot b (2 * w) false, t.fpAcc c.toNat 4 true] ++
        ((s.followerOf t).map fun u => { sp := .acc u, lo := c.toNat, hi := c.toNat + 4, wr := true : Fp }).toList)
      (slot a w ++ slot b (2 * w) ++ tiles c.toNat 4 ++ codeIf 6 (s.followerOf t = none))
      { slots := idxFrom a w ++ idxFrom b (2 * w) } ∧
    (let x := 2 * fa.toNat
      ∀ i ∈ [Instr.mmasFull act sa sb fa mq nq, .mmasTri act sa sb fa mq nq],
        matrixStarts s t i act ([fpSlot a x false, fpSlot b x false] ++ W) (slot a x ++ slot b x ++ tiles 0 26) (ab x)) ∧
    matrixStarts s t (.mwclr act) act W (tiles 0 26) {} ∧
    matrixStarts s t (.mwst act D p mq nq) act (t.fpAcc 0 26 false :: rows.flatMap fun v => reach v (8 * N) true)
      (tiles 0 26 ++ pitch 8) { bad := alignBad va 8, ranges := rows.map fun v => (v, 8 * N, true) } ∧
    matrixStarts s t (.macz act c k) act [t.fpAcc c.toNat (k.toNat + 1) true] (tiles c.toNat (k.toNat + 1)) {} ∧
    matrixStarts s t (.macld act D p c mq nq) act
      (rows.flatMap (fun v => reach v (4 * N) false) ++ [t.fpAcc c.toNat 4 true]) (tiles c.toNat 4 ++ pitch 16)
      { bad := alignBad va 16, ranges := rows.map fun v => (v, 4 * N, false) } ∧
    (∀ sr, let fmt := macstFmt fa.toNat
      let ranges := rows.map (fun v => (v, N * fmt.1.bits / 8, true)) ++
        (if fmt.2 then [((st.pair sc).toNat, M * (N / 32), true)] else [])
      matrixStarts s t (.macst act D p c mq nq fa sr sc) act
        (t.fpAcc c.toNat 4 false :: ranges.flatMap fun r => reach r.1 r.2.1 true) (tiles c.toNat 4 ++ pitch 16)
        { bad := alignBad va 16, ranges := ranges }) ∧
    (let cnt := (st.reg n).toNat;
      matrixStarts s t (.rboard act sa l f n m) act [fpSlot a (2 * cnt) true]
        (s.boardBad t a (st.reg l).toNat (st.reg f).toNat cnt) {})

/-- The copy instructions on byte ranges, queues and indices start their copies (R237, R239, R259 to R262, R265); CSTAT
says how many are outstanding and whether an ASYNC is pending (R266). A floating CPYRED of a deterministic launch raises
DETERMINISM, FPRED (1), at a place among the checks that is the model's choice (log 99). -/
def Obligations.RangeCopiesStart : Prop :=
  ∀ s t, Issues s t .c → ∀ (act : Act) (A D : BitVec 4) (a e n l r : BitVec 5),
    let st := t.st .c
    let ac := t.accessor s
    let P := (st.pair A).toNat
    let Q := (st.pair D).toNat
    let off := (st.reg a).toNat
    let len := (st.reg n).toNat
    copyStarts s s t (.cpy act D A n) act (if len = 0 then [] else s.fpVa ac P len false ++ s.fpVa ac Q len true) True []
      { bad := s.copyBad ac P len ++ s.copyBad ac Q len } ∧
    copyStarts s s t (.spref act A n) act (if len = 0 then [] else s.fpVa ac P len false) True [] { bad := s.copyBad ac P len } ∧
    (∀ (op : BitVec 3) (ty : BitVec 2), let es := if ty = 3 then 2 else 4
      copyStarts s s t (.cpyred act D a n op ty) act (t.fpScr off len false :: s.fpVa ac Q len true)
        (t.det = false ∨ ty.toNat < 2) []
        { bad := (if inWindow Q then [(3, Q)] else s.copyBad ac Q len) ++ s.scrBad t off len es ++ alignBad Q es ++
            (if len % es = 0 then [] else [(5, Q)]) } ∧
      (t.cops.length < 64 → (act.sige = 1 → act.sem.toNat < t.nsems) → t.det = true → 2 ≤ ty.toNat →
        exec (.cpyred act D a n op ty) s = .next (s.takeTrap t .c st.pc false 0 { cls := 13, sub := 1 }))) ∧
    (∀ q : BitVec 2, let L := (st.reg l).toNat
      let E := (st.reg e).toNat
      let size := if len = 0 then 0 else (len - 1) * E + 95 * L + 4
      let chk := { bad := alignBad P 4 ++ (if L % 4 = 0 ∧ E % 4 = 0 then [] else [(5, P)]) ++ s.copyBad ac P size : IssueChk }
      copyStarts s s t (.qfill act q A l e n) act (if len = 0 then [] else fpQueue q.toNat true :: s.fpVa ac P size false) True [] chk ∧
      copyStarts s s t (.qsink act q A l e n) act (if len = 0 then [] else fpQueue q.toNat true :: s.fpVa ac P size true) True [] chk) ∧
    (let W := (st.reg e).toNat
      let R := (st.reg r).toNat
      let foot := fun store => [t.fpScr off (len * W) (!store)] ++ s.fpVa ac Q (4 * len) false ++ s.fpVa ac P (R * W) store
      let codes := codeIf 8 (W = 0 ∨ 65536 < W)
      let chk := { bad := s.scrBad t off (len * W) 1 ++ alignBad Q 4 ++ s.copyBad ac Q (4 * len) ++ s.copyBad ac P (R * W)
        : IssueChk }
      copyStarts s s t (.gather act a A D n e r) act (foot false) True codes chk ∧
      copyStarts s s t (.scatter act a A D n e r) act (foot true) True codes chk) ∧
    (∀ (b : BitVec 6) (cnt : BitVec 4) (rq : BitVec 3), let foot := fun size =>
        [t.fpScr off size false, fpSlot b.toNat (2 * cnt.toNat) true]
      let codes := codeIf 1 (t.owns b.toNat (2 * cnt.toNat) = false)
      copyStarts s s t (.osliceA act a b cnt rq) act (foot (512 * (16 * (rq.toNat + 1)))) True codes
        { bad := s.scrBad t off (512 * (16 * (rq.toNat + 1))) 8 } ∧
      copyStarts s s t (.osliceB act a b cnt rq) act (foot 65536) True codes { bad := s.scrBad t off 65536 8 }) ∧
    exec (.cstat n) s = .next (s.retire t .c (st.setReg n (BitVec.ofNat 32
      (min 0xFFFF t.cops.length + if ∃ p ∈ t.pend, p.stream = .c ∧ p.cls = 11 then 0x10000 else 0))) 2)

/-- The copy instructions that read a record start their copies (R239, R255 to R257, R263, R264): a tensor record or group
record that breaks its rules raises MATRIX, RECORD (7); a box that R256 or R257 does not allow, and a SEND or RECV to no
member, SHAPE (8). An arrival-mode COLLRED of a deterministic launch raises DETERMINISM, ARRIVAL (2). The order of the
checks of TCOPYO (log 65), where DETERMINISM (log 99) and the reads of the member list (log 100) stand among the checks,
and the places that a collective takes on its TAG (log 29) are the model's choices. -/
def Obligations.RecordCopiesStart : Prop :=
  ∀ s t, Issues s t .c → ∀ (act : Act) (P : BitVec 4) (a c n : BitVec 5) (b : BitVec 6),
    let st := t.st .c
    let ac := t.accessor s
    let off := (st.reg a).toNat
    let dst := (st.reg c).toNat
    let len := (st.reg n).toNat
    let free := t.cops.length < 64 ∧ (act.sige = 1 → act.sem.toNat < t.nsems)
    let noRecord := fun i => exec i s = .next (s.takeTrap t .c st.pc false 0 { cls := 5, sub := 7 })
    (∀ bs, s.readRecord t (st.pair P).toNat = .ok bs → let r := tensorOf bs
      let org := coordsOf st c r
      let gs := r.bounds org
      let reach := fun wr => gs.flatMap fun g => s.fpVa ac g.1 g.2 wr
      let bad := gs.flatMap fun g => s.copyBad ac g.1 g.2
      let tc := fun wr => t.fpScr off r.span (!wr) :: reach wr
      (free → r.ok = false → noRecord (.tcopy act P a c) ∧ noRecord (.tcopySt act P a c) ∧ noRecord (.tcopyo act P b c)) ∧
      copyStarts s s t (.tcopy act P a c) act (tc false) (r.ok = true) (shapeBad r c org)
        { bad := s.scrBad t off r.span 16 ++ bad } ∧
      copyStarts s s t (.tcopySt act P a c) act (tc true) (r.ok = true) (shapeBad r c org)
        { bad := s.scrBad t off r.span 16 ++ bad } ∧
      copyStarts s s t (.tcopyo act P b c) act (fpSlot b.toNat r.slotCount true :: reach false)
        (r.ok = true ∧ r.flatBox = true ∧ b.toNat + r.slotCount ≤ 64)
        (codeIf 1 (t.owns b.toNat r.slotCount = false) ++ shapeBad r c org) { bad := bad }) ∧
    (∀ bs bc, s.readGroup t (st.pair P).toNat bc = .ok bs → let g := groupOf bs
      let u := fun kind peer => (s.takePlaces g.tag g.me peer g.p kind).1
      (bc = false → ∀ (op : BitVec 3) (ty : BitVec 2) arr, let es := if ty = 3 then 2 else 4
        copyStarts s (u (.red op ty arr) 0) t (.collred act P c a n op ty arr) act [t.fpScr off len false, t.fpScr dst len true]
          (t.det = false ∨ arr = false) []
          { bad := s.scrBad t off len 1 ++ s.scrBad t dst len 1 ++ (if len % es = 0 then [] else [(5, winBase + dst)]) ++
              alignBad (winBase + dst) es ++ alignBad (winBase + off) es } ∧
        (free → t.det = true → arr = true → exec (.collred act P c a n op ty arr) s =
          .next (s.takeTrap t .c st.pc false 0 { cls := 13, sub := 2 }))) ∧
      (bc = true → copyStarts s (u .bc 0) t (.collbc act P c n) act [t.fpScr dst len (g.root != g.me)] True []
        { bad := s.scrBad t dst len 1 }) ∧
      (bc = false → let peer := dst
        let codes := codeIf 8 (g.p ≤ peer)
        copyStarts s (u .send peer) t (.collsendSend act P c a n) act [t.fpScr off len false] True codes
          { bad := s.scrBad t off len 1 } ∧
        copyStarts s (u .recv peer) t (.collsendRecv act P c a n) act [t.fpScr off len true] True codes
          { bad := s.scrBad t off len 1 }))


/-! ## Vector words -/

/-- The wide words of the latency classes with their op9 and what one operation does (R173 to R206). -/
def wideRows : List ((VW → Instr) × Nat × VFn) :=
  [(.fadd, 0x010, fpFn 0x010 (laneAdd .f32)), (.fsub, 0x011, fpFn 0x011 (laneSub .f32)),
   (.fmul, 0x012, fpFn 0x012 (laneMul .f32)), (.ffma, 0x013, fpFn 0x013 (laneFma .f32)),
   (.ffnma, 0x014, fpFn 0x014 (laneFnma .f32)), (.fmin, 0x015, fpFn 0x015 (laneMinMax .f32 false)),
   (.fmax, 0x016, fpFn 0x016 (laneMinMax .f32 true)), (.fceq, 0x017, fpFn 0x017 (laneCmp .f32 .eq)),
   (.fcne, 0x018, fpFn 0x018 (laneCmp .f32 .ne)), (.fclt, 0x019, fpFn 0x019 (laneCmp .f32 .lt)),
   (.fcle, 0x01A, fpFn 0x01A (laneCmp .f32 .le)), (.fcun, 0x01B, fpFn 0x01B (laneCmp .f32 .un)),
   (.fclass, 0x01C, fpFn 0x01C laneClass), (.frnd, 0x01D, fpFn 0x01D (laneRnd .f32)),
   (.dadd, 0x040, fpFn 0x040 (laneAdd .f64)), (.dsub, 0x041, fpFn 0x041 (laneSub .f64)),
   (.dmul, 0x042, fpFn 0x042 (laneMul .f64)), (.dfma, 0x043, fpFn 0x043 (laneFma .f64)),
   (.dfnma, 0x044, fpFn 0x044 (laneFnma .f64)), (.dmin, 0x045, fpFn 0x045 (laneMinMax .f64 false)),
   (.dmax, 0x046, fpFn 0x046 (laneMinMax .f64 true)), (.dceq, 0x047, fpFn 0x047 (laneCmp .f64 .eq)),
   (.dcne, 0x048, fpFn 0x048 (laneCmp .f64 .ne)), (.dclt, 0x049, fpFn 0x049 (laneCmp .f64 .lt)),
   (.dcle, 0x04A, fpFn 0x04A (laneCmp .f64 .le)), (.dcun, 0x04B, fpFn 0x04B (laneCmp .f64 .un)),
   (.drnd, 0x04C, fpFn 0x04C (laneRnd .f64)), (.hadd2, 0x070, fpFn 0x070 (packed laneAdd)),
   (.hsub2, 0x071, fpFn 0x071 (packed laneSub)), (.hmul2, 0x072, fpFn 0x072 (packed laneMul)),
   (.hfma2, 0x073, fpFn 0x073 (packed laneFma)), (.hmin2, 0x074, fpFn 0x074 (packed fun f => laneMinMax f false))] ++
  [(.hmax2, 0x075, fpFn 0x075 (packed fun f => laneMinMax f true)), (.dot2, 0x076, fpFn 0x076 laneDot2),
   (.dot4, 0x077, fpFn 0x077 laneDot4), (.idot4, 0x078, fpFn 0x078 laneIdot4),
   (.rcp, 0x0A0, fpFn 0x0A0 (laneSfu (sfuRcp .f32))), (.rsq, 0x0A1, fpFn 0x0A1 (laneSfu sfuRsq)),
   (.sqrt, 0x0A2, fpFn 0x0A2 (laneSfu (sfuSqrt .f32))), (.exp2, 0x0A3, fpFn 0x0A3 (laneSfu sfuExp2)),
   (.log2, 0x0A4, fpFn 0x0A4 (laneSfu sfuLog2)), (.sinpi, 0x0A5, fpFn 0x0A5 (laneSfu sfuSinpi)),
   (.cospi, 0x0A6, fpFn 0x0A6 (laneSfu sfuCospi)), (.tanh, 0x0A7, fpFn 0x0A7 (laneSfu sfuTanh)),
   (.drcp, 0x0A8, fpFn 0x0A8 (fun x a _ _ _ => sfuRcp .f64 (x.ftz .f64) (Fmt.f64.decode a))),
   (.dsqrt, 0x0A9, fpFn 0x0A9 (fun x a _ _ _ => sfuSqrt .f64 (x.ftz .f64) (Fmt.f64.decode a))),
   (.iadd, 0x0C0, stdFn 0x0C0 laneIadd (lineSum false)), (.isub, 0x0C1, stdFn 0x0C1 laneIsub (lineSum true)),
   (.imul, 0x0C2, stdFn 0x0C2 laneImul lineMul), (.imad, 0x0C3, stdFn 0x0C3 laneImad lineMad),
   (.imulh, 0x0C4, fpFn 0x0C4 laneImulh), (.imin, 0x0C5, fpFn 0x0C5 laneImin),
   (.imax, 0x0C6, fpFn 0x0C6 laneImax), (.iabs, 0x0C7, fpFn 0x0C7 laneIabs),
   (.ishl, 0x0C8, stdFn 0x0C8 laneIshl lineShl), (.ishr, 0x0C9, fpFn 0x0C9 laneIshr),
   (.isra, 0x0CA, fpFn 0x0CA laneIsra), (.vlut, 0x0CB, fpFn 0x0CB laneVlut),
   (.isum3, 0x0CC, stdFn 0x0CC laneIsum3 lineSum3), (.iceq, 0x0CD, fpFn 0x0CD (laneIcmp (· == ·) true)),
   (.icne, 0x0CE, fpFn 0x0CE (laneIcmp (· != ·) true)),
   (.iclt, 0x0CF, (fpFn 0x0CF (laneIcmp (fun a b => decide (a < b)) true))),
   (.icle, 0x0D0, (fpFn 0x0D0 (laneIcmp (fun a b => decide (a ≤ b)) true))),
   (.icltb, 0x0D1, (fpFn 0x0D1 (laneIcmp (fun a b => decide (a < b)) false)))] ++
  [(.icleb, 0x0D2, (fpFn 0x0D2 (laneIcmp (fun a b => decide (a ≤ b)) false))),
   (.vpopc, 0x0D3, fpFn 0x0D3 laneVpopc), (.vclz, 0x0D4, fpFn 0x0D4 laneVclz),
   (.brev, 0x0D5, fpFn 0x0D5 laneBrev), (.bfx, 0x0D6, fpFn 0x0D6 laneBfx), (.bfi, 0x0D7, fpFn 0x0D7 laneBfi),
   (.iadd64, 0x0D8, fpFn 0x0D8 laneIadd64), (.imad64, 0x0D9, fpFn 0x0D9 laneImad64),
   (.cvt, 0x100, fpFn 0x100 laneCvt), (.cvti, 0x101, fpFn 0x101 laneCvti), (.pk2, 0x102, fpFn 0x102 lanePk2),
   (.pk4, 0x103, fpFn 0x103 lanePk4), (.unpk2, 0x104, fpFn 0x104 laneUnpk2),
   (.unpk4, 0x105, fpFn 0x105 laneUnpk4), (.mxq, 0x106, fnMxq), (.mxdq, 0x107, fpFn 0x107 laneMxdq),
   (.vmov, 0x120, fnVmov), (.vmovi, 0x121, fnVmovi), (.vsel, 0x122, fnVsel), (.viota, 0x123, fnViota),
   (.vperm, 0x124, fnVperm), (.bcast, 0x125, fnBcast), (.redux, 0x126, fnRedux), (.scan, 0x127, fnScan),
   (.vtag, 0x128, fnVtag), (.vunif, 0x129, fnVunif), (.vdef, 0x12A, fnVdef), (.vmovsToVector, 0x12B, fnVmovsIn),
   (.vmovsToScalar, 0x12B, fnVmovsOut), (.vreadl, 0x12C, fnVreadl), (.plut, 0x140, fnPlut), (.pmov, 0x141, fnPmov)]

/-- A wide word of a latency class that issues (its fields below .vregs, its queues and scoreboard ready, SCHED not met: R131
to R135) completes: with a row for every GENERAL result and no enabled flag raised, its destinations are written, its flags
kept, and its stream has moved on (R174 to R176). A bank without a row raises ROWS with the bank (R38); an enabled flag
raises ARITH at the word, with the flags kept and nothing else written (R175). What stops the issue stops the word. -/
def Obligations.VectorWordsComplete : Prop :=
  ∀ r ∈ wideRows, ∀ (w : VW) s t, Issues s t .v →
    (∀ e, s.vecBegin t [(r.2.1, w)] = .error e → exec (r.1 w) s = .next (s.stopped t .v e)) ∧
    ∀ at_ x, s.vecBegin t [(r.2.1, w)] = .ok (at_, [x]) →
      let o := r.2.2 x
      let fl := wordFlags x.mask o
      (∀ b, s.vecWrite t at_ x o = .error b →
        exec (r.1 w) s = .next (s.takeTrap t .v (t.st .v).pc false 0 { cls := 3, sub := b })) ∧
      ∀ u, s.vecWrite t at_ x o = .ok u →
        (∀ q, arithTrap (t.st .v).fpmode fl = some q → exec (r.1 w) s =
          .next (s.takeTrap (t.setSt .v ((t.st .v).orFlags (orAll fl))) .v (t.st .v).pc false 0 q)) ∧
        (arithTrap (t.st .v).fpmode fl = none → exec (r.1 w) s = .next (s.afterWide t u at_ r.2.1 w fl))

/-- What one operation of a word leaves of its task (R33, R36, R174): destination lanes inside the mask hold the result,
those outside keep their values, and no other register or predicate changes; nor does anything else of the task but its
queues and the scalar registers that the operation names. With no word in flight (R132). The word changes no byte of memory
or scratch and no other task. -/
def Obligations.VectorWriteFrame : Prop :=
  (∀ (m : Mask) (old new : VReg) l, l < 96 →
    ((maskRule m old new).getD old).lane l = if m.getLsbD l then new.lane l else old.lane l) ∧
  ∀ (s : State) (t : Task) at_ (x : VIn) (o : VOut) u, s.vecWrite t at_ x o = .ok u → t.flights = [] →
    (∀ n, (∀ r ∈ o.regs, r.1 ≠ n) → (∀ r ∈ o.tags, r.1 ≠ n) → u.vreg n = t.vreg n) ∧
    ((o.regs.map (·.1)).Nodup → o.tags = [] → ∀ r ∈ o.regs, r.1 < 124 → r.1 < t.vregs.length → ∀ l, l < 96 →
      (u.vreg r.1).lane l = if x.mask.getLsbD l then r.2.lane l else (t.vreg r.1).lane l) ∧
    (∀ p, (∀ r ∈ o.preds, r.1 ≠ p) → u.pred p = t.pred p) ∧
    ((o.preds.map (·.1)).Nodup → ∀ r ∈ o.preds, r.1 ≠ 31 → r.1 < t.preds.length → ∀ l,
      (u.pred r.1).getLsbD l = if x.mask.getLsbD l then r.2.getLsbD l else (t.pred r.1).getLsbD l) ∧
    (∀ j r, (j = .v → ∀ p ∈ o.sregs, p.1 ≠ r) → (u.st j).reg r = (t.st j).reg r) ∧
    (∀ j, (u.st j).pc = (t.st j).pc ∧ (u.st j).fpmode = (t.st j).fpmode ∧ (u.st j).fpflags = (t.st j).fpflags) ∧
    { u with vregs := t.vregs, preds := t.preds, vqs := t.vqs, str := t.str } = t ∧
    ∀ op w fl, let s' := s.afterWide t u at_ op w fl
      (∀ l, s'.byteAt l = s.byteAt l) ∧ ∀ n, n ≠ t.uid → s'.task? n = s.task? n

/-- A word by its bits. -/
def wordOf (bit : Nat → Bool) : Word := BitVec.ofNat 32 (((List.range 32).map fun k => if bit k then 2 ^ k else 0).sum)

/-- The start and the width of the field of BFX and BFI, cut at bit 31 (R188). -/
def fieldAt (imm : Word) : Nat × Nat := (imm.toNat % 32, min (imm.toNat / 256 % 64) (32 - imm.toNat % 32))

/-- The integer words on a bit table and on bit fields, as the rows of `intLanes`, with their imm32: VLUT with INV, BFX
with U, and BFI (R186, R188). -/
def bitLanes (imm : Word) : List (Nat × (Bool → Bool → Word → Word → Word → Word) × (Nat → Nat → Nat → Nat)) :=
  let any := fun a b c => if a ≤ 1 ∧ b ≤ 1 ∧ c ≤ 1 then 1 else 3
  let s := (fieldAt imm).1
  let w := (fieldAt imm).2
  [(0x0CB, fun inv _ a b c => wordOf fun k =>
      imm.getLsbD ((a.getLsbD k).toNat + 2 * (b.getLsbD k).toNat + 4 * (c.getLsbD k).toNat) != inv, any),
   (0x0D4, fun _ _ a _ _ => BitVec.ofNat 32 (((List.range 32).find? fun i => a.getLsbD (31 - i)).getD 32), any),
   (0x0D6, fun u _ a _ _ => wordOf fun k =>
      if k < w then a.getLsbD (s + k) else !u && decide (0 < w) && a.getLsbD (s + w - 1), any),
   (0x0D7, fun _ _ a b _ => wordOf fun k => if s ≤ k ∧ k < s + w then a.getLsbD (k - s) else b.getLsbD k, any)]

/-- The 64-bit results of R189 by lanes, `u` being U. -/
def pairLanes : List (Nat × (Bool → Dword → Dword → Dword → Dword)) :=
  let wide := fun (u : Bool) (a : Dword) => if u then (a.extractLsb' 0 32).zeroExtend 64 else (a.extractLsb' 0 32).signExtend 64
  [(0x0D8, fun _ a b _ => a + b), (0x0D9, fun u a b c => wide u a * wide u b + c)]

/-- The result of an integer word by lanes as 32-bit arithmetic on the lanes of its operands, U or NB and NC being its X
bits (R185, R186, R188), and its tag by theirs, 0 and 1 counting as UNIFORM (R36). -/
def intLanes : List (Nat × (Bool → Bool → Word → Word → Word → Word) × (Nat → Nat → Nat → Nat)) :=
  let sum := fun (l : List Nat) => if 3 ∈ l then 3 else if 2 ∈ l then 2 else 1
  let any := fun a b c => if a ≤ 1 ∧ b ≤ 1 ∧ c ≤ 1 then 1 else 3
  let mul := fun a b => if a ≤ 1 ∧ b ≤ 1 then 1 else if (a = 2 ∧ b ≤ 1) ∨ (a ≤ 1 ∧ b = 2) then 2 else 3
  let sh := fun (b : Word) => b.toNat % 32
  [(0x0C0, fun _ _ a b _ => a + b, fun a b _ => sum [a, b]), (0x0C1, fun _ _ a b _ => a - b, fun a b _ => sum [a, b]),
   (0x0C2, fun _ _ a b _ => a * b, fun a b _ => mul a b),
   (0x0C3, fun _ _ a b c => a * b + c, fun a b c => sum [mul a b, c]),
   (0x0C4, fun u _ a b _ => if u then BitVec.ofNat 32 (a.toNat * b.toNat / 2 ^ 32)
      else BitVec.ofInt 32 (a.toInt * b.toInt / 2 ^ 32), any),
   (0x0C5, fun u _ a b _ => if (if u then a.toNat ≤ b.toNat else a.toInt ≤ b.toInt) then a else b, any),
   (0x0C6, fun u _ a b _ => if (if u then a.toNat ≤ b.toNat else a.toInt ≤ b.toInt) then b else a, any),
   (0x0C7, fun _ _ a _ _ => BitVec.ofNat 32 a.toInt.natAbs, any),
   (0x0C8, fun _ _ a b _ => BitVec.ofNat 32 (a.toNat * 2 ^ sh b),
      fun a b _ => if a ≤ 1 ∧ b ≤ 1 then 1 else if a = 2 ∧ b ≤ 1 then 2 else 3),
   (0x0C9, fun _ _ a b _ => BitVec.ofNat 32 (a.toNat / 2 ^ sh b), any),
   (0x0CA, fun _ _ a b _ => BitVec.ofInt 32 (a.toInt / 2 ^ sh b), any),
   (0x0CC, fun nb nc a b c => a + (if nb then -b else b) + (if nc then -c else c), fun a b c => sum [a, b, c]),
   (0x0D3, fun _ _ a _ _ => BitVec.ofNat 32 ((List.range 32).filter fun i => a.getLsbD i).length, any),
   (0x0D5, fun _ _ a _ _ => a.reverse, any)]

/-- The integer compares of R187. -/
def cmpLanes : List (Nat × (Word → Word → Bool)) :=
  [(0x0CD, fun a b => a == b), (0x0CE, fun a b => a != b), (0x0CF, fun a b => decide (a.toInt < b.toInt)),
   (0x0D0, fun a b => decide (a.toInt ≤ b.toInt)), (0x0D1, fun a b => decide (a.toNat < b.toNat)),
   (0x0D2, fun a b => decide (a.toNat ≤ b.toNat))]

/-- Integer vector results (R36, R172, R185 to R189): one destination register, of the 64-bit words a pair, with the tag
that R36 gives, whose every lane is the operation on the operands' lanes, AFFINE results included; a compare gives its
predicate the lanes where it is true. No flag is raised. -/
def Obligations.IntegerLanesAndTags : Prop :=
  ∀ q ∈ wideRows, ∀ (x : VIn),
    let a := (x.a q.2.1).lo
    let b := (x.b q.2.1).lo
    let c := (x.c q.2.1).lo
    let o := q.2.2 x
    (∀ r ∈ intLanes ++ bitLanes x.w.imm, r.1 = q.2.1 → orAll o.flags = 0 ∧ o.preds = [] ∧
      ∃ v : VReg, o.regs = [(x.w.d.toNat, v)] ∧ v.tag = r.2.2 a.tag b.tag c.tag ∧
        ∀ l, l < 96 → v.lane l = r.2.1 x.x0 x.x1 (a.lane l) (b.lane l) (c.lane l)) ∧
    (∀ r ∈ cmpLanes, r.1 = q.2.1 → orAll o.flags = 0 ∧ o.regs = [] ∧
      ∃ m : Mask, o.preds = [(x.w.d.toNat, m)] ∧ ∀ l, l < 96 → m.getLsbD l = r.2 (a.lane l) (b.lane l)) ∧
    (∀ r ∈ pairLanes, r.1 = q.2.1 → orAll o.flags = 0 ∧ o.preds = [] ∧
      let ps := [x.a q.2.1, x.b q.2.1, x.c q.2.1]
      let at_ := fun (p : Opd) l => p.hi.lane l ++ p.lo.lane l
      ∃ v u : VReg, o.regs = [(x.w.d.toNat, v), (x.w.d.toNat + 1, u)] ∧ v.tag = u.tag ∧
        v.tag = (if ∀ p ∈ ps, p.lo.tag ≤ 1 ∧ p.hi.tag ≤ 1 then 1 else 3) ∧
        ∀ l, l < 96 → u.lane l ++ v.lane l = r.2 x.x0 (at_ (x.a q.2.1) l) (at_ (x.b q.2.1) l) (at_ (x.c q.2.1) l))

/-- The effect of a VATOMCAS, for `k` words a lane: compare in the first half of the c7 group, new value in the second
(R214). -/
def casBody (w : VW) : State → Task → VIn → Except Stop (State × Task × VOut) :=
  let k := 2 ^ (w.mod7.toNat % 4)
  fun s t x =>
    let cas := fun (p : Nat × List Loc) =>
      { locs := p.2, cmp := x.groupAt x.w.c.toNat k p.1, new := x.groupAt (x.w.c.toNat + k) k p.1,
        ret := vret true x.w.d.toNat k p.1 : Cas }
    vatomBody 0x164 k true (fun ls => .cas (ls.map cas)) (fun s core ls l => s.applyCas core (cas (l, ls))) s t x

/-- The scoreboarded words with their op9, fields and effect, `v` being the word in the task's latch (R207 to R223, R225 to
R232). -/
def memRows (w v : VW) : List (Instr × Nat × VW × (State → Task → VIn → Except Stop (State × Task × VOut))) :=
  [(.vld w, 0x160, w, loadBody 0x160 false), (.vldro w, 0x162, w, loadBody 0x162 true), (.vst w, 0x161, w, storeBody),
   (.vpref w, 0x167, w, prefBody),
   (.vatom w, 0x163, w, rmwBody 0x163 (if w.mod7.getLsbD 4 then 2 else 1) fun x => atomOpOf (x.w.mod7.toNat % 16)),
   (.vfadd w, 0x165, w, rmwBody 0x165 1 fun _ => .addF32), (.vatomcas w, 0x164, w, casBody w),
   (.vquad w, 0x166, w, quadBody), (.pxw w, 0x168, w, pxwBody), (.vxm w, 0x180, w, vxmBody),
   (.xbox w, 0x190, w, xboxBody), (.xtri w, 0x191, w, xtriBody), (.xstep w, 0x192, w, xstepBody false),
   (.xstepPop, 0x192, v, xstepBody true), (.xtile, 0x193, v, xtileBody)]

/-- The effective address of a lane (R208): by AM the pair at b plus a lane's offset, unsigned or signed, scaled by SC, or
the lane's own pointer; with the displacement, modulo 2^64. -/
def laneAddress (x : VIn) (op l : Nat) : Nat :=
  let a : Nat := ((x.a op).lo.lane l).toNat + ((x.a op).hi.lane l).toNat * 2 ^ 32
  let b : Int := ((x.st.pair (x.w.b.extractLsb' 1 4)).toNat : Int)
  let v : Int := if x.w.am = 2 then (a : Int) + x.w.imm.toInt
    else b + (if x.w.am = 1 then (BitVec.ofNat 32 a).toInt else (a : Int)) * 2 ^ x.w.sc + x.w.imm.toInt
  (v % 2 ^ 64).toNat

/-- A scoreboarded word that issues and that its checks do not stop (R209) completes: its results are in its
destinations, which stay on the scoreboard until the word's completion (R132), its stream has moved on; what its checks
stop, and a bank without a row, stops it. A 32-bit VLD gives each active lane the little-endian value at its address
(R208, R210), and a VST adds one entry to the store queue, its lanes in ascending order, each a part of its own (R103,
R212). A paired word completes as its two operations, both read before either writes (R129, R174). -/
def Obligations.VectorMemoryWordsComplete : Prop :=
  (∀ s t, Issues s t .v → ∀ w, ∀ r ∈ memRows w s.latched,
    (∀ e, s.vecBegin t [(r.2.1, r.2.2.1)] = .error e → exec r.1 s = .next (s.stopped t .v e)) ∧
    ∀ at_ x, s.vecBegin t [(r.2.1, r.2.2.1)] = .ok (at_, [x]) →
      (∀ e, r.2.2.2 s t x = .error e → exec r.1 s = .next (s.stopped t .v e)) ∧
      ∀ s' t' o, r.2.2.2 s t x = .ok (s', t', o) →
        (∀ b, s'.vecWrite t' at_ x o = .error b →
          exec r.1 s = .next (s.takeTrap t .v (t.st .v).pc false 0 { cls := 3, sub := b })) ∧
        ∀ u, s'.vecWrite t' at_ x o = .ok u → exec r.1 s = .next (s.afterMem s' t u at_ r.2.1 r.2.2.1 x o)) ∧
  (∀ s t x s' t' o, loadBody 0x160 false s t x = .ok (s', t', o) → x.w.sz < 5 → ∃ v : VReg,
    o.regs = [(x.w.d.toNat, v)] ∧ o.flags = [] ∧ ∀ l, l < 96 → x.mask.getLsbD l = true →
      (v.lane l).toNat = szExtend x.w.sz (leNat (s.vload t (laneAddress x 0x160 l) (szBytes x.w.sz)))) ∧
  (∀ s t x s' t' o, storeBody s t x = .ok (s', t', o) → x.mask ≠ 0 → o.regs = [] ∧ (∀ l, s'.byteAt l = s.byteAt l) ∧
    let n := szBytes x.w.sz
    let stored := ((List.range 96).filter fun l => x.mask.getLsbD l).map fun l =>
      (s.locs (t.accessor s) (laneAddress x 0x161 l) n true).zip (natLe n ((x.c 0x161).at l))
    (t'.st .v).queue = (t.st .v).queue ++ [{ seq := s.seq, pc := x.st.pc, eff := .store stored }]) ∧
  (∀ s t, Issues s t .v → let h := pairHead t.word.1.toNat
    let sa := decSlot (fld t.word.1.toNat 0 10) t.word.2.1.toNat
    let sb := decSlot (fld t.word.1.toNat 10 10) t.word.2.2.toNat
    let ps := [sa, sb].map fun p => { op := p.op9.toNat, w := p.toVW h, fn := pairFn p.op9.toNat : Piece }
    pairIllegal h sa sb = none → exec .pairedWord s = vecRun ps h.stall h.e s ∧
    ∀ at_ x y, s.vecBegin t (ps.map fun p => (p.op, p.w)) = .ok (at_, [x, y]) →
      let a := pairFn sa.op9.toNat x
      let b := pairFn sb.op9.toNat y
      ∀ u v, s.vecWrite t at_ x a = .ok u → s.vecWrite u at_ y b = .ok v →
        arithTrap (t.st .v).fpmode
          ((upto 96).map fun l => nth (activeFlags x.mask a.flags) l 0 ||| nth (activeFlags y.mask b.flags) l 0) = none →
        ∃ s' t', exec .pairedWord s = .next s' ∧ s'.task? t.uid = some t' ∧ t'.vregs = v.vregs ∧ t'.preds = v.preds ∧
          t'.vqs = v.vqs ∧ (t'.st .v).regs = (v.st .v).regs ∧ (t'.st .v).pc = (t.st .v).pc + 12 ∧
          ∀ l, s'.byteAt l = s.byteAt l)

/-! ## Events: the streams and the engines

Each statement says under which conditions an event of the device has its effect, and what it leaves. An event whose
conditions do not hold changes nothing, which is the model's choice (log 8). -/

/-- An arbiter grants `a` rather than `b`: a task refused 31 times first, then by PRIO, then the one whose last run ended
earlier, then the lower slot (R295); the same among several tasks refused 31 times, which is the model's choice (log 70). -/
def grantFirst (s : State) (x : CoreSt) (k : StreamId) (a b : Task) : Prop :=
  let worn := fun (t : Task) => decide (31 ≤ (x.arbOf k t.uid).refused)
  let last := fun (t : Task) => (((x.arbOf k t.uid).lastEnd).map (· + 1)).getD 0
  (worn a = true ∧ worn b = false) ∨ (worn a = worn b ∧ (s.prio b < s.prio a ∨ (s.prio a = s.prio b ∧
    (last a < last b ∨ (last a = last b ∧ a.slot ≤ b.slot)))))

/-- A stream as a fresh task has it (R14): READY at its entry address, or ENDED; s2:3 the packet's address, the am
registers of the vector stream all ones for a launch without records, every other register 0. -/
def freshStream (l : Launch) (k : StreamId) (entry : Word) (st : StreamSt) : Prop :=
  (if entry = 0 then st.status = .ended else st.status = .ready ∧ st.pc = l.pkt.codebase + entry.zeroExtend 64) ∧
  st.pair 1 = l.addr ∧ st.fpmode = 0 ∧ st.fpflags = 0 ∧ st.queue = [] ∧
  (∀ r : BitVec 5, r ≠ 2 → r ≠ 3 → (k = .v → r ≠ 28 ∧ r ≠ 29 ∧ r ≠ 30) → st.reg r = 0) ∧
  (k = .v → l.node = none → st.reg 28 = 0xFFFFFFFF ∧ st.reg 29 = 0xFFFFFFFF ∧ st.reg 30 = 0xFFFFFFFF)

/-- A fresh task of a launch (R14, R47, R282). -/
def freshTask (l : Launch) (t : Task) : Prop :=
  t.launch = l.num ∧ t.part = l.part ∧ t.nv = l.pkt.vregs ∧ t.det = l.pkt.det ∧ t.chk = false ∧ t.tmode = false ∧
  freshStream l .s l.pkt.entryS (t.st .s) ∧ freshStream l .v l.pkt.entryV (t.st .v) ∧
  freshStream l .m l.pkt.entryM (t.st .m) ∧ freshStream l .c l.pkt.entryC (t.st .c) ∧
  (∀ v ∈ t.vregs, v = .undef) ∧ (∀ p ∈ t.preds, p = 0) ∧ (∀ n ∈ t.sems, n = 0) ∧ t.acc = [] ∧ t.mops = [] ∧ t.cops = []

/-- RUN_GRANT (R294, R295): the stream that holds an unfinished run keeps it. Otherwise, where some stream of the kind
is READY, no stall count holding it (R335), the first of them by R295 gets the run, its RUNCNT counts it, every other
candidate counts a refusal, and what is no candidate has none, the 31 refusals being consecutive.
PLACE_BLOCK and BLOCK_RESUMPTION (R26, R27, R284): where the head of the partition's pending lists fits on the cores
at the bases, it is placed there: a fresh block starts its tasks in the state of R14, a block that had been evicted
is restored. Where the head still fits elsewhere, nothing happens. That several tasks refused 31 times are granted by
PRIO, last run and SLOT is the model's choice (log 70). -/
def Obligations.GrantsAndPlacements : Prop :=
  (∀ s core k, let ready := s.tasks.filter fun t => s.coreOf t == core && s.ready t k
     (∀ t, (ready.find? fun t => (t.st k).granted) = some t →
       exec (.runGrant core k) s = .next { s with focus := some { task := t.uid, k := k } }) ∧
     (ready ≠ [] → (∀ t ∈ ready, (t.st k).granted = false) → ∃ t ∈ ready, (∀ u ∈ ready, grantFirst s (s.core core) k t u) ∧
       ∃ s', exec (.runGrant core k) s = .next s' ∧ s'.focus = some { task := t.uid, k := k } ∧
         s'.task? t.uid = some (({ t with runcnt := t.runcnt + 1 } : Task).setSt k
           { t.st k with granted := true, run := 0, runVec := false }) ∧
         ((s'.core core).arbOf k t.uid).refused = 0 ∧
         (∀ u ∈ ready, u.uid ≠ t.uid →
           ((s'.core core).arbOf k u.uid).refused = ((s.core core).arbOf k u.uid).refused + 1) ∧
         (∀ u, (∀ r ∈ ready, r.uid ≠ u) → ((s'.core core).arbOf k u).refused = 0) ∧
         (∀ u, u ≠ t.uid → s'.task? u = s.task? u) ∧ ∀ l, s'.byteAt l = s.byteAt l)) ∧
  (∀ (s : State) (cores bases : List Nat) p l ns, (cores.head?).bind s.partOfCore = some p → s.dispatching = true →
     cores.length = bases.length →
     let places := (ns.map (·.1)).zip (cores.zip bases)
     (∀ n j, s.pendingHead p = some (.fresh n j) → s.waitingNeeds (.fresh n j) = some (l, ns) →
       s.coresAllowed l (.fresh n j) ((ns.map (·.1)).zip cores) = true →
       s.placesFit (.fresh n j) [] ns places = true →
       ∃ s', exec (.placeBlock cores bases) s = .next s' ∧ s'.byder.power = .active ∧ s'.mem = s.mem ∧
         (∀ t ∈ s.tasks, t ∈ s'.tasks) ∧ s'.tasks.length = s.tasks.length + places.length * l.pkt.tasks ∧
         (∀ t ∈ s'.tasks, t ∈ s.tasks ∨ freshTask l t) ∧
         (∀ b ∈ s'.blocks, b ∈ s.blocks ∨ (b.launch = n ∧ b.scratch = [] ∧ b.st = .resident ∧ (b.core, b.base) ∈ cores.zip bases))) ∧
     (∀ n j, s.pendingHead p = some (.fresh n j) → s.waitingNeeds (.fresh n j) = some (l, ns) →
       (s.coresAllowed l (.fresh n j) ((ns.map (·.1)).zip cores) && s.placesFit (.fresh n j) [] ns places) = false →
       (s.findPlace (.fresh n j)).isSome = true → exec (.placeBlock cores bases) s = .next s) ∧
     (∀ u b, s.pendingHead p = some (.back u) → b ∈ s.blocksOf u → s.waitingNeeds (.back u) = some (l, ns) →
       s.coresAllowed l (.back u) ((ns.map (·.1)).zip cores) = true → s.placesFit (.back u) [] ns places = true →
       exec (.blockResumption b.uid cores bases) s = .next (s.takePlace (.back u) places)))

/-- The events of tasks and blocks. A CYCLES or a vector stall that has run out lets its stream go on (R131, R170); the
oldest scoreboarded word completes (R132); the oldest delivered trap is taken at its stream's boundary (R390); a task
whose streams have all ended and that nothing more is owed to retires, and one of which that is not so does not (R20,
R23); a block that waits for a page leaves with its span (R401), or where the pools have no room goes on once no page is
awaited (R402); a deterministic launch commits (R303); records that have waited are cut into a batch (R291); the debug
agent halts a task and resumes it (R397, R416). What taskRetire, commit, blockEviction and batchFlushTimeout then do is
named by the model's own operations. That CYCLES may end at any step (log 22), and that a debug resume leaves the PCs
where they are (log 61), are the model's choices. -/
def Obligations.TaskEventsComplete : Prop :=
  (∀ s u k t c, s.task? u = some t → (t.st k).status = .waiting (.cycles c) →
    exec (.cyclesExpiry u k) s = .next
      { s.setTask (t.setSt k { t.st k with status := if t.tmode then .trap else .ready }) with now := Nat.max s.now c }) ∧
  (∀ s u t, s.task? u = some t → exec (.stallExpiry u) s = .next { s with now := Nat.max s.now t.vready }) ∧
  (∀ s u t, s.task? u = some t → exec (.scoreboardedWordCompletion u) s = .next (s.setTask { t with sb := t.sb.tail })) ∧
  (∀ s u t p ps, s.task? u = some t → s.resident t = true → t.tmode = false → t.dbgHalt = false → t.pend = p :: ps →
    exec (.trapEntry u) s = .next (s.takeTrap { t with pend := ps } p.stream (t.st p.stream).pc true p.also
      { cls := p.cls, sub := p.sub, info := p.info })) ∧
  (∀ s u t, s.task? u = some t → t.det = false → s.resident t = true →
    (((∀ k, (t.st k).status = .ended) ∧ t.mops = [] ∧ t.cops = [] ∧ t.pend = [] ∧ t.dbgHalt = false) →
      exec (.taskRetire u) s = .next (s.retireTask t)) ∧
    (((∃ k, (t.st k).status ≠ .ended) ∨ t.mops ≠ [] ∨ t.cops ≠ [] ∨ t.pend ≠ []) → exec (.taskRetire u) s = .next s)) ∧
  (∀ s u b, s.block? u = some b → b.held = true → (∀ x ∈ s.blocksOf b.span, x.st = .resident) →
    s.poolRoom (s.blocksOf b.span) = true →
    exec (.blockEviction u) s = .next (s.evict ((s.blocksOf b.span).map (·.uid)) false)) ∧
  (∀ s u b, s.block? u = some b → b.held = true → (∀ x ∈ s.blocksOf b.span, x.st = .resident) →
    s.poolRoom (s.blocksOf b.span) = false →
    ((∃ x ∈ s.blocksOf b.span, x.page ≠ none) → exec (.blockEviction u) s = .next s) ∧
    ((∀ x ∈ s.blocksOf b.span, x.page = none) → exec (.blockEviction u) s = .next { s with
      blocks := s.blocks.map fun x => if x.span = b.span then { x with held := false } else x })) ∧
  (∀ s n l, s.launch? n = some l → s.mayCommit l = true → exec (.commit n) s = .next (s.commitNow l)) ∧
  (∀ s id n g, s.node? id = some n → s.graph? n.graph = some g →
    ((n.recs = [] ∨ g.det = true) → exec (.batchFlushTimeout id) s = .next s) ∧
    (n.recs ≠ [] → g.det = false →
      exec (.batchFlushTimeout id) s = .next (State.settleAll (s.cutBatch n (Nat.min 96 n.recs.length))))) ∧
  (∀ s u t, s.task? u = some t → s.byder.power = .active → s.mgmtOpen = true → s.agentStops t = true →
    s.resident t = true → t.dbgHalt = false →
    exec (.debugHaltRequest u) s = .next (s.takeTrap t .s (t.st .s).pc true 0 { cls := 10, sub := 2 })) ∧
  (∀ s u t, s.task? u = some t → t.dbgHalt = true → s.mgmtOpen = true → ∃ v, exec (.debugResume u) s = .next (s.setTask v) ∧
    v.dbgHalt = false ∧ ∀ k, (v.st k).pc = (t.st k).pc ∧ (v.st k).regs = (t.st k).regs ∧
      ((t.st k).status = .halted → t.tmode = false → (v.st k).status = .ready))

/-- A task after an operation without SIG, BYTE or FUT has left it with the status word `w` (R233, R238); of an operation
that follows it, the point from which its reads are held to has moved on (R107). -/
def opLeft (t u : Task) (k : StreamId) (o : AsyncOp) (w : Word) : Prop :=
  u.uid = t.uid ∧ (∀ x ∈ u.mops ++ u.cops, x.id ≠ o.id) ∧
  (∀ x ∈ t.mops ++ t.cops, x.id ≠ o.id → ∃ y ∈ u.mops ++ u.cops, { y with readAt := x.readAt } = x) ∧
  (∀ r, (u.st k).reg r = if o.act.stat = some r ∧ r ≠ 31 then w else (t.st k).reg r) ∧
  (∀ j, j ≠ k → u.st j = t.st j) ∧ u.sems = t.sems ∧ u.vregs = t.vregs

/-- Nothing holds an operation of a task back (R17, R107, R235, R249): its block is resident, its footprint meets that of no
outstanding operation that it follows, and, for an MMAP, of none that its follower issued earlier. -/
def mayRun (s : State) (t : Task) (o : AsyncOp) : Prop :=
  (∃ b, s.blockOf t = some b ∧ b.st = .resident) ∧
  (∀ e, (e ∈ t.mops ∧ e.seq < o.seen.getD 2 0) ∨ (e ∈ t.cops ∧ e.seq < o.seen.getD 3 0) → footClash e.foot o.foot = false) ∧
  ∀ f, o.follower.bind s.task? = some f → ∀ e ∈ f.mops, e.seq < o.seq → footClash e.foot o.foot = false

/-- It is a matrix operation's turn (R235): no RBOARD, behind no earlier one but an RBOARD, and on each array that it takes
nothing came ready before it. -/
def arrayGives (s : State) (t : Task) (o : AsyncOp) : Prop :=
  o.board = none ∧ (∀ e ∈ t.mops, e.seq < o.seq → e.board.isSome = true) ∧
  (o.instr matches .mma .. | .mmap .. | .mmasFull .. | .mmasTri .. → ∀ c ∈ s.opCores t o,
    ∀ e, (s.core c).arrayQ.find? (s.arrayLive c) = some e → e = (t.uid, some o.id))

/-- The state after a completion of an operation of the last of `us` (R19, R235, R242): slots that nothing holds pass on,
DEADLOCK is tested of its task, of the follower of an MMAP first, and what has become ready for the array has its place. -/
def settled (s : State) (core : Nat) (us : List Nat) : State :=
  (us.foldl State.testDeadlock (({ s with seq := s.seq + 1 } : State).passSlots core)).noteArray core

/-- The engines' completions (R233 to R235) and the pixel writes of PXW (R218). An operation that nothing holds back
completes, behind the stores that its core's outbound path held (log 6), and a matrix operation is then no longer
outstanding. A MACZ leaves +0.0 in its tiles and every other accumulator element as it was. A CPY whose addresses are all
there, free of poison and not overlapping moves every byte, with a clean status word; a source byte of an 8-byte unit that
nothing wrote since the operation issued is the byte at its home (R107). A pending pixel is written once its order word has
reached its number, and not before, behind what the paths of its cores held for its places; the last of its word, tile and
number raises the order word, never lowering it, and the lines of both leave L1 (R102, R219). -/
def Obligations.EngineOperationsComplete : Prop :=
  (∀ s t o, s.task? t.uid = some t → (t.mops.find? fun x => x.id == o.id) = some o → mayRun s t o → arrayGives s t o →
    exec (.matrixOpCompletion t.uid o.id) s = .next (s.completeMop t o) ∧
    (o.act.fut = none → ∃ u, (s.completeMop t o).task? t.uid = some u ∧ ∀ x ∈ u.mops, x.id ≠ o.id)) ∧
  (∀ s t o, s.task? t.uid = some t → (t.cops.find? fun x => x.id == o.id) = some o → mayRun s t o →
    exec (.copyCompletion t.uid o.id) s = .next (s.runCop t o)) ∧
  (∀ s t o act c n, s.task? t.uid = some t → (t.mops.find? fun x => x.id == o.id) = some o → mayRun s t o → arrayGives s t o →
    o.instr = .macz act c n → o.out = none → t.det = false → o.act.sem = none → o.act.bar = none → o.act.fut = none → ∃ u,
      exec (.matrixOpCompletion t.uid o.id) s =
        .next (settled (((s.landAll (s.coreOf t)).setTask u).applyCopied (s.coreOf t) [] []) (s.coreOf t)
          (o.follower.toList ++ [t.uid])) ∧
      opLeft t u .m o 0x80000000 ∧
      ∀ a, u.acc.read a = if 16384 * c.toNat ≤ a ∧ a < 16384 * (c.toNat + n.toNat + 1) then 0 else t.acc.read a) ∧
  (∀ s t o act d a n dst src len (dl sl : Nat → Loc), s.task? t.uid = some t → let h := s.landAll (s.coreOf t)
    (t.cops.find? fun x => x.id == o.id) = some o → mayRun s t o →
    o.instr = .cpy act d a n → o.vals = [dst, src, len] → o.out = none → t.det = false → o.act.sem = none → o.act.bar = none →
    o.act.fut = none → (∀ i, i < len → h.place (o.accessor t h) (src + i) false = .here (sl i) ∧
      h.place (o.accessor t h) (dst + i) true = .here (dl i) ∧ h.locPoison (sl i) = false) →
    (∀ c ∈ h.cpyBytes t dst src len, c.free = false) → ∃ u,
      exec (.copyCompletion t.uid o.id) s = .next (settled ((h.setTask u).applyCopied (s.coreOf t)
        ((List.range len).map fun i => (dl i, h.opByte t o (sl i))) []) (s.coreOf t) (o.follower.toList ++ [t.uid])) ∧
      opLeft t u .c o 0x80000000 ∧ u.acc = t.acc ∧
      ∀ i, i < len → (∀ p ∈ h.past, p.slot = slotAt (sl i) → p.seq ≤ o.readAt) → h.opByte t o (sl i) = h.byteAt (sl i)) ∧
  (∀ s die lane p, ((s.pxw.filter fun p => p.die == die)[lane]?) = some p →
    (leNat (s.readLocs p.order) < p.need.toNat → exec (.pxwLanePerform die lane) s = .next s) ∧
    (p.need.toNat ≤ leNat (s.readLocs p.order) →
      (∀ q ∈ s.pxw, q.group = p.group → q.lane < p.lane → q.need = p.need → q.pixel.map (·.1) ≠ p.pixel.map (·.1)) →
      let cs := dedup (p.core :: ((s.task? p.task).map s.coreOf).toList)
      let ls := p.pixel.map (·.1) ++ p.order
      let h := cs.foldl (fun s c => s.landAt c ls) s
      let w : State := { (if p.nowrite then h else h.applyBytes p.pixel) with
        pxw := h.pxw.filter fun q => !(q.group == p.group && q.lane == p.lane) }
      (p.last = false ∨ (∃ q ∈ w.pxw, q.group = p.group ∧ q.order = p.order ∧ q.need = p.need) →
        exec (.pxwLanePerform die lane) s = .next (cs.foldl (fun s c => s.l1Drop c ls) w)) ∧
      (p.last = true → (∀ q ∈ w.pxw, q.group = p.group → q.order = p.order → q.need ≠ p.need) →
        exec (.pxwLanePerform die lane) s = .next (cs.foldl (fun s c => s.l1Drop c ls) (w.applyBytes
          (p.order.zip (natLe 4 (max (leNat (w.readLocs p.order)) (p.need + 1).toNat))))))))

/-! ## Events: user queues -/

/-- The packet `b` at `va` stands at the head of the queue of slot `i`, and it is the slot's turn (R284, R362). -/
def atHead (s : State) (i : Nat) (x : HwSlot) (va : Nat) (b : List Byte) : Prop :=
  s.hwSlot i = some x ∧ s.head x = .packet va b ∧ s.dispatching = true ∧ s.nextSlot = some i

/-- User queues. The queue scheduler takes a DISPATCH or GRAPH and submits it, and holds a queue by a JOIN or MARKER as
it was read (R281, R362); a JOIN moves on exactly when every future that it names is done, having the pages of its futures
read meanwhile (R277), a MARKER when no earlier grid of its queue is left, resolving its future with 0. A packet that cannot
be interpreted, and a ring entry that cannot be read, stop the queue with their codes and name the entry (R283, R365). A
notify moves a producer index forward, never back, one more than 2^LOG2SIZE packets ahead is an OVERRUN, and one that names
no queue or has reserved bits set is counted (R361). MAP fills a free slot from a valid descriptor, UNMAP frees it; a command
that cannot act says why in RESULT and changes no slot (R363, R364; the order of the RESULT codes is the model's, log 34);
one that is written while another is BUSY is LOST. Where a descriptor's page is away, notifies and commands wait for it. -/
def Obligations.UserQueuesWork : Prop :=
  ((∀ s i x va b, atHead s i x va b →
     (packetGood b = false → exec (.badpacket i) s = .next ((s.served x).queueError x 1 (some va))) ∧
     (packetGood b = true →
       (fieldOf b 0 1 = 1 → exec (.dispatch i) s = .next (
         let r := ((s.served x).setHwSlot { x with rd := x.rd + 1, holding := false }).submit x.part x.image (packetOf b) va
           (some x.qid) none []
         State.settle (r.1, r.2.2))) ∧
       (fieldOf b 0 1 = 3 → exec (.graph i) s = .next ((s.served x).takeGraph x va b)) ∧
       (fieldOf b 0 1 = 2 → exec (.join i) s = .next ((s.served x).setHwSlot { x with holding := true, pkt := b })) ∧
       (fieldOf b 0 1 = 4 → exec (.marker i) s = .next ((s.served x).setHwSlot { x with holding := true, pkt := b })))) ∧
   (∀ s i x, s.hwSlot i = some x → x.holding = true → x.image = s.activeImage x.part → let b := x.pkt
     let c := s.setHwSlot { x with rd := x.rd + 1, holding := false }
     (fieldOf b 0 1 = 2 → exec (.joinRelease i) s = .next (
       if (packetFutures b).all (s.futDone x.part) then c else s.joinReads x b)) ∧
     (fieldOf b 0 1 = 4 → ((∃ l ∈ s.launches, l.queue = some x.qid) → exec (.markerResolve i) s = .next s) ∧
       ((∀ l ∈ s.launches, l.queue ≠ some x.qid) →
         (fieldOf b 40 8 = 0 → exec (.markerResolve i) s = .next c) ∧
         (fieldOf b 40 8 ≠ 0 → ∀ pa, c.devPa x.part (fieldOf b 40 8) true = some pa → exec (.markerResolve i) s = .next (
           let r := c.resolve pa 0 false
           State.settle (r.1, r.2.2)))))) ∧
   (∀ s i x va, s.hwSlot i = some x → s.head x = .fault va → s.dispatching = true → s.nextSlot = some i →
     exec (.ringfault i) s = .next ((s.served x).queueError x 4 (some va))) ∧
   (∀ (s : State) x code pkt, s.hwSlot x.slot = some x → ∃ y, (s.queueError x code pkt).hwSlot x.slot = some y ∧
     y = { x with err := true, holding := false } ∧ (s.queueError x code pkt).head y = .none)) ∧
  ((∀ s i (word : Dword), s.mgmtOpen = true → i < 16384 → let q := word.toNat % 2 ^ 20
     let new := word.toNat / 2 ^ 32
     (s.qcount ≤ q ∨ word.toNat / 2 ^ 20 % 2 ^ 12 ≠ 0 →
       exec (.notify i word) s = .next { s with badNotifies := s.badNotifies + 1 }) ∧
     (q < s.qcount → word.toNat / 2 ^ 20 % 2 ^ 12 = 0 →
       (∀ x, s.hwSlot i = some x → x.qid = q →
         (2 ^ x.log2 < x.dist new → exec (.notify i word) s = .next (s.queueError x 3 none)) ∧
         (x.dist new ≤ 2 ^ x.log2 → exec (.notify i word) s = .next
           (if x.dist x.wr.toNat < x.dist new then s.setHwSlot { x with wr := BitVec.ofNat 32 new } else s))) ∧
       (∀ p, ((∃ x, s.hwSlot i = some x ∧ x.qid ≠ q ∧ x.part = p) ∨ (s.hwSlot i = none ∧ s.partOfSlot i = some p)) →
         (s.devAway p (s.descVa q) 64 true = none → exec (.notify i word) s = .next (s.notifyPending p q new)) ∧
         ∀ va pte e, s.devAway p (s.descVa q) 64 true = some (va, pte, e) →
           exec (.notify i word) s = .next (s.devAwait p va pte e (.notify i word))))) ∧
   (∀ s (cmd : Dword), s.mgmtOpen = true →
     let d := s.wakeIdle.setMreg 0x0010 (BitVec.ofNat 64 (cmd.toNat % 2 ^ 36))
     let c := d.setMfield 0x18 0 1 0
     let i := cmd.toNat % 2 ^ 14
     let q := cmd.toNat / 2 ^ 16 % 2 ^ 20
     let op := cmd.toNat / 2 ^ 14 % 4
     let acts := fun (P : State → Prop) => (op = 1 → ∃ s', exec (.mapQueue cmd) s = .next s' ∧ P s') ∧
       (op = 2 → ∃ s', exec (.unmapQueue cmd) s = .next s' ∧ P s')
     (s.mfield 0x18 0 1 = 1 → acts fun s' => s'.mfield 0x18 1 1 = 1 ∧ s'.slots = s.slots ∧ s'.mem = s.mem) ∧
     (s.mfield 0x18 0 1 = 0 → ∀ p va pte e, d.commandAway cmd = some (p, va, pte, e) → acts fun s' =>
       s' = (d.setMfield 0x18 0 1 1).devAwait p va pte e (.command cmd) ∧ s'.slots = s.slots) ∧
     (s.mfield 0x18 0 1 = 0 → d.commandAway cmd = none →
       (op = 1 →
         (∀ r, c.mapCheck i q = .error r → ∃ s', exec (.mapQueue cmd) s = .next s' ∧ s'.mfield 0x18 4 4 = r ∧
           s'.slots = s.slots ∧ s'.mem = s.mem) ∧
         (∀ x, c.mapCheck i q = .ok x → x.slot = i ∧ x.qid = q ∧ c.hwSlot i = none ∧ (∀ y ∈ s.slots, y.qid ≠ q) ∧
           ∃ s', exec (.mapQueue cmd) s = .next s' ∧ s'.mfield 0x18 4 4 = 0 ∧
             ∃ y, s'.slots = s.slots ++ [y] ∧ y.slot = i ∧ y.qid = q ∧ y.rd = x.rd)) ∧
       (op = 2 →
         (c.hwSlot i = none → ∃ s', exec (.unmapQueue cmd) s = .next s' ∧ s'.mfield 0x18 4 4 = 2 ∧ s'.slots = s.slots) ∧
         (∀ x, c.hwSlot i = some x → ∃ s', exec (.unmapQueue cmd) s = .next s' ∧ s'.mfield 0x18 4 4 = 0 ∧
           s'.slots = s.slots.filter fun y => y.slot != i)))))

/-! ## Events: the host and other packages -/

/-- The requests of a host on an open queue pair that holds none back (R355 to R359). A WRITE or READ of device memory
acts on the bytes of its range at their homes and is answered; a notify, the staging window and a register of the
management window are targets too; a request that no region admits, or whose range is not mapped, or poisoned, is NAKed
and changes no byte, and one whose page is away waits, the later ones of its queue pair behind it, each with the entry
of its region as it was accepted (R367). A SEND fills the next entry of the receive ring. A refused operation, a message
that is too long and a seventeenth outstanding READ put the queue pair in error, after the requests before them, and a
queue pair in error takes nothing more. CNPs answer the packets with an ECN mark, at most one for each packet of the
request. How many are marked, and that a SEND finds its ring full once every entry has been used, are the model's free
choices (log 33); the codes of the NAKs and the handling of retries are the model's, presumed (log 42). -/
def Obligations.HostRequestsAreServed : Prop :=
  ∀ s n q, s.qp? n = some q → s.qpOpen q = true →
    let ring := fieldOf q.desc 48 4 / 2 ^ 16
    let entryOf := fun (k : Word) => s.region (k.toNat / 2 ^ 16)
    let keyed := fun (len : Nat) (k : Word) => (s.ecn q len).holdRegion (k.toNat / 2 ^ 16)
    let behind := fun (c : State) (r : HeldRequest) => c.setQp { q with held := q.held ++ [r] }
    let waits := fun (c : State) (r : HeldRequest) part v pte e =>
      (c.setQp { q with held := [r], due := none }).devAwait part v pte e (.request n)
    let inError := fun (c : State) => (c.setQp { q with err := true }).send (.nak n 1)
    (∀ c, (inError c).qp? n = none) ∧
    (q.held ≠ [] → (∀ rkey va data, exec (.rdmaWrite n rkey va data) s =
        .next (behind (keyed data.length rkey) { req := .write rkey va data, entry := entryOf rkey })) ∧
      (∀ rkey va len, (q.reads < 16 → exec (.rdmaRead n rkey va len) s =
          .next (behind (keyed 0 rkey) { req := .read rkey va len, entry := entryOf rkey })) ∧
        (16 ≤ q.reads → exec (.rdmaRead n rkey va len) s = .next (behind (s.ecn q 0) { req := .refused, entry := none }))) ∧
      (∀ payload, exec (.send n payload) s =
        .next (behind ((s.ecn q payload.length).holdRegion ring) { req := .send payload, entry := s.region ring })) ∧
      exec (.refusedOperation n) s = .next (behind (s.ecn q (2 ^ 31)) { req := .refused, entry := none })) ∧
    (∀ len, ∃ k, k ≤ q.packets len ∧ s.ecn q len = { s with wire := s.wire ++ List.replicate k (.cnp n) }) ∧
    (q.held = [] → (∀ (rkey : Word) (va : Dword) (data : List Byte),
      let c := keyed data.length rkey
      let target := s.target q rkey va.toNat data.length true
      (2 ^ 31 < data.length → exec (.rdmaWrite n rkey va data) s = .next (inError c)) ∧
      (data.length ≤ 2 ^ 31 →
        (target = none → exec (.rdmaWrite n rkey va data) s = .next (c.send (.nak n 2))) ∧
        (∀ part, target = some (.memory part) →
          (s.memOpen = false → exec (.rdmaWrite n rkey va data) s = .next (c.send (.nak n 2))) ∧
          (s.memOpen = true →
            (∀ ls, c.rdmaLocs part va.toNat data.length true = .ok ls →
              exec (.rdmaWrite n rkey va data) s = .next ((c.applyBytes (ls.zip data)).writeDone n data.length)) ∧
            (∀ k, c.rdmaLocs part va.toNat data.length true = .error (.nak k) →
              exec (.rdmaWrite n rkey va data) s = .next (c.send (.nak n k))) ∧
            (∀ v pte e, c.rdmaLocs part va.toNat data.length true = .error (.away v pte e) →
              exec (.rdmaWrite n rkey va data) s =
                .next (waits c { req := .write rkey va data, entry := entryOf rkey } part v pte e)))) ∧
        (∀ i, target = some (.notify i) → s.memOpen = true →
          exec (.rdmaWrite n rkey va data) s = .next ((c.notify i (BitVec.ofNat 64 (leNat data))).writeDone n 8)) ∧
        (∀ off, target = some (.staging off) → ∃ c' : State,
          exec (.rdmaWrite n rkey va data) s = .next (c'.writeDone n data.length) ∧ c'.mem = s.mem ∧
          c'.byder.staging = s.byder.staging.writeBytes off data) ∧
        (∀ off c', target = some (.management off) → off % 8 = 0 → data.length = 8 →
          c.regServed off = true → c.regWrite n off (BitVec.ofNat 64 (leNat data)) = .next c' →
          exec (.rdmaWrite n rkey va data) s = .next (c'.writeDone n 8)))) ∧
    (∀ (rkey : Word) (va : Dword) len, let c := keyed 0 rkey
      let target := s.target q rkey va.toNat len false
      (2 ^ 31 < len → exec (.rdmaRead n rkey va len) s = .next (inError c)) ∧
      (len ≤ 2 ^ 31 →
        (target = none → exec (.rdmaRead n rkey va len) s = .next (c.send (.nak n 2))) ∧
        (∀ part, target = some (.memory part) →
          (s.memOpen = false → exec (.rdmaRead n rkey va len) s = .next (c.send (.nak n 2))) ∧
          (s.memOpen = true →
            (∀ ls, c.rdmaLocs part va.toNat len false = .ok ls → ∃ s', exec (.rdmaRead n rkey va len) s = .next s' ∧
              s'.wire = c.wire ++ [.readData n (s.readLocs ls)] ∧ s'.mem = s.mem ∧ s'.blocks = s.blocks) ∧
            (∀ k, c.rdmaLocs part va.toNat len false = .error (.nak k) →
              exec (.rdmaRead n rkey va len) s = .next (c.send (.nak n k))) ∧
            (∀ v pte e, c.rdmaLocs part va.toNat len false = .error (.away v pte e) →
              exec (.rdmaRead n rkey va len) s =
                .next (waits c { req := .read rkey va len, entry := entryOf rkey } part v pte e)))) ∧
        (∀ off, target = some (.management off) → off % 8 = 0 → len = 8 → c.regServed off = true → ∃ s',
          exec (.rdmaRead n rkey va len) s = .next s' ∧ s'.mem = s.mem ∧
          s'.wire = c.wire ++ [.readData n (natLe 8 (c.regRead off).toNat)]))) ∧
    (∀ payload : List Byte, let c := (s.ecn q payload.length).holdRegion ring
      let full := fieldOf q.desc 52 2 ≤ q.ringPut ∧ Config.choice s.fresh 8000002 = true
      (4032 < payload.length → exec (.send n payload) s = .next (inError c)) ∧
      (payload.length ≤ 4032 → full → exec (.send n payload) s = .next (c.send (.nak n 32))) ∧
      (payload.length ≤ 4032 → ¬ full →
        let va := (fieldOf q.desc 40 8 + 4096 * (q.ringPut % Nat.max 1 (fieldOf q.desc 52 2))) % 2 ^ 64
        let bytes := natLe 64 payload.length ++ payload
        let target := s.target q (BitVec.ofNat 32 (fieldOf q.desc 48 4)) va bytes.length true
        (s.memOpen = false ∨ (∀ part, target ≠ some (.memory part)) → exec (.send n payload) s = .next (c.send (.nak n 3))) ∧
        ∀ part, target = some (.memory part) → s.memOpen = true →
          (∀ ls, c.rdmaLocs part va bytes.length true = .ok ls → ∃ s',
            exec (.send n payload) s = .next s' ∧ s'.wire = c.wire ++ [.ack n] ∧ s'.mem = (c.applyBytes (ls.zip bytes)).mem) ∧
          (∀ k, c.rdmaLocs part va bytes.length true = .error (.nak k) →
            exec (.send n payload) s = .next (c.send (.nak n 3))) ∧
          (∀ v pte e, c.rdmaLocs part va bytes.length true = .error (.away v pte e) → exec (.send n payload) s =
            .next (waits c { req := .send payload, entry := s.region ring } part v pte e)))) ∧
    exec (.refusedOperation n) s = .next (inError (s.ecn q (2 ^ 31)))) ∧
    (exec (.cnp n) s = .next ((s.setQp { q with rateCuts := q.rateCuts + 1 }).countMreg (0x3600 + 0x20 * q.port + 8) 0)) ∧
    (exec (.localAckTimeout n) s = .next (if q.retries < fieldOf q.desc 54 1 then
      (s.setQp { q with retries := q.retries + 1 }).send (.retry n) else s.setQp { q with err := true }))

/-- Making and ending queue pairs (R367): each host port accepts one connection, as a privileged queue pair with the
next number, where CREATE would make it; CREATE makes a queue pair from a valid descriptor, up to 4096 on a port (R355),
a privileged one only on a privileged queue pair; DESTROY ends one; RGNINV makes the device hold the table's entry,
which the requests that wait do not use (R367). RESULT says why a command did not act. That DESTROY answers each held
request with a NAK (logs 57 and 42), the numbers of queue pairs (log 71), and when the device holds an entry (log 56),
are the model's choices. -/
def Obligations.QueuePairsAreMade : Prop :=
  (∀ s port desc, s.mgmtOpen = true → s.hostRole port = true →
    let may := s.qpDescOk desc = true ∧ fieldOf desc 0 1 = port ∧ (s.qps.filter fun q => q.port == port).length < 4096
    (port ∈ s.connected ∨ ¬ may → exec (.connectionRequest port desc) s = .next (s.send (.connReject port))) ∧
    (port ∉ s.connected → may → ∃ s' q, exec (.connectionRequest port desc) s = .next s' ∧ s'.qps = s.qps ++ [q] ∧
      q.qpn = s.nextQpn ∧ q.port = port ∧ q.priv = true ∧ q.desc = desc ∧ q.err = false ∧ s'.nextQpn = s.nextQpn + 1 ∧
      s'.connected = port :: s.connected ∧ s'.wire = s.wire ++ [.connAccept port s.nextQpn])) ∧
  (∀ s n, s.mgmtOpen = true → let c := s.wakeIdle
    (c.qpDesc 0 128 = none → exec (.create n) s = .next (c.qpResult 1 3)) ∧
    ∀ d, c.qpDesc 0 128 = some d → let port := fieldOf d 0 1
      (c.qpDescOk d = false → exec (.create n) s = .next (c.qpResult 1 3)) ∧
      (c.qpDescOk d = true → 4096 ≤ (s.qps.filter fun q => q.port == port).length →
        exec (.create n) s = .next (c.qpResult 1 2)) ∧
      (c.qpDescOk d = true → (s.qps.filter fun q => q.port == port).length < 4096 → fieldOf d 1 1 % 2 = 1 →
        (∀ q ∈ s.qps, q.qpn = n → q.priv = false) → exec (.create n) s = .next (c.qpResult 1 4)) ∧
      (c.qpDescOk d = true → (s.qps.filter fun q => q.port == port).length < 4096 →
        (fieldOf d 1 1 % 2 = 1 → ∃ q ∈ s.qps, q.qpn = n ∧ q.priv = true) → ∃ s' q, exec (.create n) s = .next s' ∧
        s'.qps = s.qps ++ [q] ∧ q.qpn = s.nextQpn ∧ q.port = port ∧ q.desc = d ∧ s'.mfield 0x4008 4 4 = 0)) ∧
  (∀ s, s.mgmtOpen = true → (s.wakeIdle.qpDesc 64 4 = none → exec .destroy s = .next (s.wakeIdle.qpResult 2 1)) ∧
    ∀ d, s.wakeIdle.qpDesc 64 4 = some d → let n := leNat d
    (∀ q, (s.qps.find? fun q => q.qpn == n) = some q → ∃ s', exec .destroy s = .next s' ∧
      s'.qps = s.qps.filter (fun q => q.qpn != n) ∧ s'.mfield 0x4008 4 4 = 0 ∧
      s'.wire = s.wire ++ List.replicate q.held.length (.nak n 1)) ∧
    ((∀ q ∈ s.qps, q.qpn ≠ n) → exec .destroy s = .next (s.wakeIdle.qpResult 2 1))) ∧
  (∀ s (i : BitVec 16), s.mgmtOpen = true → s.rgnTable = true → ∃ s', exec (.rgninv i) s = .next s' ∧
    s'.region i.toNat = regionOf (s.regionBytes i.toNat) ∧ s'.qps = s.qps)

/-- Flaori as the receiver (R366) and the Ethernet links (R354, R433). Announcements of one source and TAG are taken in
issue order; one makes the device pull every chunk, or tells a member that the group's operation has met a different
kind (R263). A chunk that arrives whole is kept, and with the last one the CRC-32C of the message is checked; one with a
bad check, or one that is lost, is pulled again, until the eighth failure in a row abandons the message; a peer's
silence abandons its unfinished messages and the collectives that await it. A link that goes down or comes up takes the
role of HOSTPORTS; dropped frames with a bad FCS, or a bad ICRC or CRC, are counted. That failures and silence are kept
by message, and that a bad CRC pulls the whole message again, is the model's choice (log 58), and so are the ordinals
and places of a TAG (log 29) and the counter that a frame of another protocol raises (log 39). -/
def Obligations.MessagesAndLinks : Prop :=
  (∀ s msg, s.flaoriOn = true → msg.src ≠ s.rank → s.peerUp msg.src = true →
    let pulls := (chunksOf msg).map fun off => WireMsg.pull msg.src msg.tag msg.seq off
    let next := s.flaoriNext msg.src msg.tag.toNat
    (msg.seq ≠ next → exec (.flaoriRequest msg) s = .next s) ∧
    (msg.seq = next → ∃ s', exec (.flaoriRequest msg) s = .next s' ∧ s'.flaoriNext msg.src msg.tag.toNat = next + 1 ∧
      (∀ i, msg.bad = some i → (msg.tag.toNat, msg.peer, i) ∈ s'.collBad ∧ s'.flaori = s.flaori ∧ s'.wire = s.wire) ∧
      (msg.bad = none → ∃ ord pos,
        let f : FlaoriIn := { msg := msg, ord := ord, pos := pos, data := [], got := [], fails := 0, fault := none }
        let hit := ∃ t ∈ s.tasks, ∃ o ∈ t.cops, ∃ kind, collKind o.instr = some kind ∧ o.announced = true ∧ o.clashes kind f = true
        (hit → s'.flaori = s.flaori ++ [{ f with fault := some 0xA }]) ∧
        (¬ hit → s'.flaori = s.flaori ++ [f] ∧ s'.wire = s.wire ++ pulls)))) ∧
  (∀ s src tag seq off data x, s.flaoriOn = true → s.peerUp src = true → s.chunkOf src tag seq off = some x →
    let reg := 0x3600 + 0x20 * s.rankPort src
    let y := { x with data := x.data.writeBytes off data, got := off :: x.got, fails := 0 }
    let wrong := y.whole = true ∧ crc32c (y.data.bytes 0 y.msg.len) ≠ y.msg.crc
    (data.length = Nat.min 4096 (x.msg.len - off) → ¬ wrong →
      exec (.flaoriChunk src tag seq off data true) s = .next (s.mapMsg x fun _ => y)) ∧
    (data.length = Nat.min 4096 (x.msg.len - off) → wrong →
      exec (.flaoriChunk src tag seq off data true) s = .next ((s.countMreg reg 32).pullFailed x (chunksOf x.msg))) ∧
    (data.length ≠ Nat.min 4096 (x.msg.len - off) →
      exec (.flaoriChunk src tag seq off data true) s = .next (s.pullFailed x [off])) ∧
    exec (.flaoriChunk src tag seq off data false) s = .next ((s.countMreg reg 0).pullFailed x [off]) ∧
    exec (.flaoriLostChunk src tag seq off) s = .next (s.pullFailed x [off])) ∧
  (∀ (s : State) (x : FlaoriIn) offs, let s' := s.pullFailed x offs
    (x.fails < 7 → s'.wire = s.wire ++ offs.map (fun off => .pull x.msg.src x.msg.tag x.msg.seq off) ∧ s'.flaori = (s.mapMsg x fun y =>
      { y with fails := y.fails + 1, got := y.got.filter fun off => !(offs.contains off) }).flaori) ∧
    (7 ≤ x.fails → s'.wire = s.wire ∧ s'.flaori = (s.mapMsg x fun y => { y with fault := some 9 }).flaori)) ∧
  (∀ s peer, s.flaoriOn = true → peer ≠ s.rank →
    let fails := fun (o : AsyncOp) => if s.awaitsRank o peer then { o with fault := some (0, 9) } else o
    ∃ s', exec (.flaoriSilenceTimeout peer) s = .next s' ∧
    (∀ y ∈ s'.flaori, y.msg.src = peer → y.msg.kind ≠ .recv → y.whole = false → y.fault.isSome = true) ∧
    (∀ x ∈ s'.flaoriOut, x.dst ≠ peer) ∧ s'.tasks = s.tasks.map fun t => { t with cops := t.cops.map fails }) ∧
  (∀ s peer, s.flaoriOn = true → s.peerUp peer = true → (s.peerWaits peer = true →
      exec (.flaoriKeepalive peer) s = .next { s with wire := s.wire ++ [.keepalive peer] }) ∧
    (s.peerWaits peer = false → exec (.flaoriKeepalive peer) s = .next s)) ∧
  (∀ s port, port < 16 → let reg := 0x3600 + 0x20 * port
    (s.mfield (reg + 0x18) 0 1 = 1 → ∃ s', exec (.linkDown port) s = .next s' ∧ s'.mfield (reg + 0x18) 0 1 = 0 ∧
      s'.mfield (reg + 0x18) 1 1 = (!(s.hostPort port)).toNat ∧
      s'.mfield (reg + 0x10) 32 32 = Nat.min 0xFFFFFFFF (s.mfield (reg + 0x10) 32 32 + 1)) ∧
    (s.byder.mode ≠ .off → s.byder.power ≠ .off → ((s.byder.mode = .dawn ∨ s.byder.power = .sleep) → port = 0) →
      (s.mreg 0x4038).getLsbD (16 + port) = false → ∃ s', exec (.linkUp port) s = .next s' ∧
      s'.mfield (reg + 0x18) 0 1 = 1 ∧ s'.mfield (reg + 0x18) 1 1 = (!(s.hostPort port)).toNat) ∧
    exec (.droppedFrame port .fcs) s = .next (s.countMreg reg 0) ∧
    exec (.droppedFrame port .crc) s = .next (s.countMreg reg 32) ∧ exec (.droppedFrame port .protocol) s = .next
      { s with protoDrops := s.protoDrops.set port (s.protoDrops.getD port 0 + 1) })

/-! ## Events: storage, memory and the ring -/

/-- Storage and the translation caches (R378 to R386, R433). A page read that ends well fills its frame with the SSD's
page and makes the entry resident, one that fails, or whose protection information does not check, restores the entry
and reports why; an entry that the driver has changed meanwhile keeps its value. A command that is outstanding for 5 s
is aborted. EVICT starts a reclaim of a resident frame, and says by RESULT or LOST why it does not; a write-back that
ends frees the frame or reports. TLBICMD invalidates, an empty range nothing, and is LOST while BUSY. An admin command
goes to its SSD and its completion is written beside it; queue commands the engine answers itself. A write-back fails
where its binding no longer holds or its SSD is not ready. An SSD that comes up is identified and given its queues, one
that is reset loses them, and a health poll reads its log. The layout of a completion is the model's, presumed (log 41),
and so are the commands that the engine sends (log 77); RESULT 1 for an entry that the driver has changed (log 78), and
what a reset and a timeout end (log 44), are the model's choices. -/
def Obligations.StorageEventsComplete : Prop :=
  (∀ s id r i, s.mgmtOpen = true → (s.reads.find? fun x => x.id == id) = some r → r.frame = some i →
    let c := { s with reads := s.reads.filter fun x => x.id != r.id }
    let pa := c.frameAddr r.part i
    let f := (c.fillFrame pa r.entry).setFrame r.part i 2 0 r.pte r.entry
    let fails := fun (d : State) res => d.failRead r.part r.pte r.entry r.va r.launch r.core (readSub res)
    (c.guardOk r.entry = true →
      (f.mem.field r.pte 8 = r.entry + 32 → exec (.pageReadDone id .ok) s = .next
        ((f.engineWrite r.pte 8 (r.entry % 16 + 16 + pa)).wakePage r.pte none)) ∧
      (f.mem.field r.pte 8 ≠ r.entry + 32 → exec (.pageReadDone id .ok) s = .next (f.wakePage r.pte none))) ∧
    (c.guardOk r.entry = false → exec (.pageReadDone id .ok) s = exec (.pageReadDone id .guard) s) ∧
    (∀ res ∈ [ReadResult.media, .guard, .nodev],
      (c.mem.field r.pte 8 = r.entry + 32 → exec (.pageReadDone id res) s = .next
        (fails ((c.engineWrite r.pte 8 r.entry).dropFrame r.part i) res)) ∧
      (c.mem.field r.pte 8 ≠ r.entry + 32 → exec (.pageReadDone id res) s = .next (fails c res)))) ∧
  (∀ s id, s.mgmtOpen = true → let aborted := fun (n : Nat) => ({ s with wire := s.wire ++ [.ssdAdmin n 8 1] } : State)
    (∀ r i, (s.reads.find? fun x => x.id == id) = some r → r.frame = some i → exec (.nvmeCommandTimeout id) s = .next
      ((aborted (entrySsd r.entry)).readDone id .nodev)) ∧
    ((∀ r ∈ s.reads, r.id ≠ id) →
      (∀ r, (s.reclaims.find? fun x => x.id == id) = some r → r.writing = true → exec (.nvmeCommandTimeout id) s = .next
        ((aborted (entrySsd r.entry)).reclaimFailed r 3)) ∧
      ((∀ r ∈ s.reclaims, r.id ≠ id) → ∀ n, (n, id) ∈ s.admins → (∀ m, (m, id) ∈ s.admins → m = n) → ∃ s',
        exec (.nvmeCommandTimeout id) s = .next s' ∧ s'.mfield (0x1000 + 0x100 * n + 0x90) 0 1 = 0 ∧ s'.mem = s.mem))) ∧
  (∀ (s : State) pa e, s.mem.wf = true → s.ssd.wf = true → ∀ x, (s.fillFrame pa e).mem.read x =
    if pa ≤ x ∧ x < pa + 65536 then s.ssd.read (s.ssdBase e + (x - pa)) else s.mem.read x) ∧
  (∀ s (p : BitVec 3) (a : Dword), s.mgmtOpen = true →
    let pa := a.toNat / 65536 % 2 ^ 32 * 65536
    let reg := 0x430 + 0x40 * p.toNat
    let c := s.wakeIdle.setMreg (0x428 + 0x40 * p.toNat) (BitVec.ofNat 64 pa)
    ((∃ r ∈ s.reclaims, r.part = p.toNat) → exec (.evict p a) s = .next (c.setMfield reg 1 1 1)) ∧
    ((∀ r ∈ s.reclaims, r.part ≠ p.toNat) →
      ((∀ i, c.frameOf pa ≠ some (p.toNat, i)) → exec (.evict p a) s = .next (c.evictResult p.toNat 2)) ∧
      (∀ i, c.frameOf pa = some (p.toNat, i) → c.frameState p.toNat i ≠ 2 →
        exec (.evict p a) s = .next (c.evictResult p.toNat 1)) ∧
      (∀ i, c.frameOf pa = some (p.toNat, i) → c.frameState p.toNat i = 2 →
        let pte := c.mem.field (c.frameRec p.toNat i + 8) 8
        let entry := c.mem.field (c.frameRec p.toNat i + 16) 8
        (c.mem.field pte 8 ≠ entry % 16 + 16 + pa → exec (.evict p a) s = .next (c.evictResult p.toNat 1)) ∧
        (c.mem.field pte 8 = entry % 16 + 16 + pa →
          exec (.evict p a) s = .next (s.wakeIdle.startReclaim p.toNat a.toNat))))) ∧
  (∀ s (p : BitVec 3) r, s.mgmtOpen = true → (s.reclaims.find? fun r => r.part == p.toNat) = some r → r.writing = true →
    exec (.writeBackDone p .media) s = .next (s.reclaimFailed r 1) ∧
    exec (.writeBackDone p .nodev) s = .next (s.reclaimFailed r 3) ∧
    let w := s.ssdWrite r.entry (s.frameAddr r.part r.frame)
    w.ssd = moveBytes s.mem (s.frameAddr r.part r.frame) 65536 s.ssd (s.ssdBase r.entry) ∧
    exec (.writeBackDone p .ok) s = .next (w.reclaimDone r)) ∧
  (∀ s (p : BitVec 3) r, s.mgmtOpen = true → (s.reclaims.find? fun r => r.part == p.toNat) = some r → r.writing = false →
    s.storesInto (s.frameAddr r.part r.frame) = false → s.opsOver r = false →
    let flags := (s.mem.read (s.frameRec r.part r.frame + 1)).toNat
    let next := fun res => exec (.writeBackDone p res) s
    ∀ res, (flags / 2 % 2 = 1 → next res = .next (s.reclaimFailed r 5)) ∧
      (flags % 4 = 1 → s.bound r.part r.entry = false → next res = .next (s.reclaimFailed r 4)) ∧
      (flags % 4 = 1 → s.bound r.part r.entry = true → s.ssdUp (entrySsd r.entry) = false →
        next res = .next (s.reclaimFailed r 3)) ∧
      (flags % 4 = 0 → next res = .next (s.reclaimDone r))) ∧
  (∀ s (cmd : Dword), s.mgmtOpen = true →
    let range := cmd.toNat / 8 % 2 = 1
    let i : Instr := if range then .tlbicmdRange cmd else .tlbicmdPartition cmd
    let c := s.wakeIdle.setMfield 0x100 0 4 cmd.toNat
    let lo := if range then c.mfield 0x108 12 45 * 4096 else 0
    let hi := if range then lo + 4096 * c.mfield 0x110 0 32 else 2 ^ 64
    (s.mfield 0x118 0 1 = 1 → exec i s = .next (s.wakeIdle.setMfield 0x118 1 1 1)) ∧
    (s.mfield 0x118 0 1 = 0 → exec i s = .next (if hi ≤ lo then c else c.tlbi (cmd.toNat % 8) lo hi))) ∧
  (∀ s (n : BitVec 3) (a : Dword), s.mgmtOpen = true →
    let pa := a.toNat / 64 % 2 ^ 42 * 64
    let base := 0x1000 + 0x100 * n.toNat
    let cmd := s.physBytes pa 64
    (s.mfield (base + 0x90) 0 1 = 1 → exec (.admaddr n a) s = .next (s.wakeIdle.setMfield (base + 0x90) 1 1 1)) ∧
    (s.mfield (base + 0x90) 0 1 = 0 →
      (fieldOf cmd 0 1 ∈ [0, 1, 4, 5] → exec (.admaddr n a) s = .next
        ((s.wakeIdle.setMreg (base + 0x88) (BitVec.ofNat 64 pa)).engineWrite (pa + 64) 16 ((fieldOf cmd 2 2 + 2 ^ 17) * 2 ^ 96))) ∧
      (fieldOf cmd 0 1 ∉ [0, 1, 4, 5] → ∃ s', exec (.admaddr n a) s = .next s' ∧ s'.mfield (base + 0x90) 0 1 = 1 ∧
        s'.wire = s.wire ++ [.adminCmd n.toNat cmd] ∧ s'.mem = s.mem))) ∧
  (∀ s (n : BitVec 3) entry id, s.mgmtOpen = true → (n.toNat, id) ∈ s.admins → ∃ s', exec (.adminCompletion n entry) s = .next s' ∧
    s'.mfield (0x1000 + 0x100 * n.toNat + 0x90) 0 1 = 0 ∧ ∀ x ∈ s'.admins, x.1 ≠ n.toNat) ∧
  (∀ s (n : BitVec 3), s.mgmtOpen = true → let c := s.wakeIdle
    let d := if c.ssdUp n.toNat then { c with wire := c.wire ++ [.ssdAdmin n.toNat 0 64, .ssdAdmin n.toNat 4 64] } else c
    exec (.ssdReset n) s = .next ((d.setMfield (0x1000 + 0x100 * n.toNat) 0 3 0).ssdLost n.toNat)) ∧
  (∀ s (n : BitVec 3) (v : Dword), let reg := 0x1000 + 0x100 * n.toNat
    (s.mgmtOpen = true → ∃ s', exec (.ssdReady n) s = .next s' ∧ s'.ssdUp n.toNat = true ∧ s'.wire = s.wire ++
      [(6, 1), (9, 1), (5, 64), (1, 64)].map fun (x : Nat × Nat) => .ssdAdmin n.toNat x.1 x.2) ∧
    (∃ s', exec (.ssdLinkDown n) s = .next s' ∧ s'.mfield reg 0 2 = 0) ∧
    (s.mgmtOpen = true → s.ssdUp n.toNat = true → let polled := { s with wire := s.wire ++ [.ssdAdmin n.toNat 2 1] }
      (∃ s', exec (.healthPoll n (some v)) s = .next s' ∧ s'.wire = polled.wire ∧
        s'.mreg (reg + 0xA0) = BitVec.ofNat 64 (v.toNat % 2 ^ 16 + v.toNat / 2 ^ 32 * 2 ^ 32)) ∧
      exec (.healthPoll n none) s = .next polled) ∧
    (s.mgmtOpen = false ∨ s.ssdUp n.toNat = false → ∀ log, exec (.healthPoll n log) s = .next s) ∧
    (s.mgmtOpen = false → ∀ id entry, exec (.nvmeCommandTimeout id) s = .next s ∧ exec (.adminCompletion n entry) s = .next s))

/-- Self-refresh, scrubbing, soft errors and slices (R373, R427 to R432). A correctable error is counted and changes
nothing, one of an L2 sector counting for its slice too; an uncorrectable one acts by where it lies: a sector of memory
is poisoned, a task whose state it hits ends, at once or when it resumes. A shadow region that holds no context is not
scrubbed. RETIRE moves exactly the buckets of its slice, each to a slice that has not retired, and refuses a slice that
has retired and a fifth one; a slice whose corrected errors reach THRESH retires. Counters saturate, and CLR clears them
all. That SLICE_AUTO_RETIRE brings a slice's count to THRESH is the model's choice (log 40), and so are when a channel
leaves self-refresh and what an HBM sector of CACHE mode holds (log 82). -/
def Obligations.MemoryMaintenance : Prop :=
  (∀ s ch, s.mfield 0x188 0 16 ≠ 0 → Channel.dieNo ch < 4 → ch ∉ s.selfRefresh →
    exec (.selfRefreshEntry ch) s = .next { s with selfRefresh := s.selfRefresh ++ [ch] }) ∧
  (∀ s ch, s.byder.power ≠ .sleep → ∃ s', exec (.selfRefreshExit ch) s = .next s' ∧ ch ∉ s'.selfRefresh) ∧
  (∀ (s : State) sector x, physDie s.byder.cacheMode (32 * sector) = some x → (inShadow (32 * sector) = true → s.shadowHeld x.1 = true) →
    s.scrubAt sector = some (x.1, x.2.2, some sector)) ∧
  (∀ s sector die hbm at_ ch, s.scrubAt sector = some (die, hbm, at_) → s.mgmtOpen = true →
    channelOf false (32 * sector) = some ch → s.mfield (0x3230 + 0x80 * die) 0 16 ≠ 0 →
    let c := s.wakeChannel ch
    let reg := 0x3200 + 0x80 * die + (if hbm then 0 else 8)
    exec (.scrubRead sector .clean false) s = .next c ∧
    exec (.scrubRead sector .correctable false) s = .next (c.countMreg reg 0) ∧
    (∀ g, at_ = some g → exec (.scrubRead sector .uncorrectable false) s = .next ((c.setPoison (.mem g)).countMreg reg 32)) ∧
    (at_ = none → exec (.scrubRead sector .uncorrectable false) s = .next (c.countMreg reg 32)) ∧
    ∀ f, exec (.scrubRead sector f true) s = .next c) ∧
  (∀ s site d, s.siteDie site = some d →
    let reg := 0x3200 + 0x80 * d + (match site with
      | .dram g => if ((s.dramAt g).map (·.2.1)) = some true then 0 else 8
      | .l2 _ => 0x10
      | _ => 0x18)
    ((∀ g, site ≠ .l2 g) → exec (.softError site false) s = .next (s.countMreg reg 0)) ∧
    (∀ g x k, site = .l2 g → s.homeSlice (32 * g) = some (x, k) →
      exec (.softError site false) s = .next ((s.countSlice d (BitVec.ofNat 4 k) 1).autoRetire d (BitVec.ofNat 4 k))) ∧
    let c := s.countMreg reg 32
    (∀ g, site = .dram g → exec (.softError site true) s = .next (((s.dramAt g).bind (·.2.2)).elim c fun x => c.setPoison (.mem x))) ∧
    (∀ g, site = .l2 g → exec (.softError site true) s = .next (c.setPoison (.mem g))) ∧
    (∀ g x, physDie s.byder.cacheMode (32 * g) = some x → s.dramAt g = some (x.1, x.2.2, some g)) ∧
    (∀ g, physDie s.byder.cacheMode (32 * g) = none → (s.dramAt g).all (fun y => y.2.1) = true) ∧
    (∀ b w, site = .scratch b w → exec (.softError site true) s = .next (c.setPoison (.scr b w))) ∧
    (∀ x l, site = .l1 x l → exec (.softError site true) s = .next
      (c.setCore x { s.core x with l1 := (s.core x).l1.filter fun p => p.1 != l })) ∧
    (∀ x i, site = .slot x i → ∃ s', exec (.softError site true) s = .next s' ∧ i ∈ (s'.core x).slotPoison) ∧
    (∀ u t, site = .taskState u → s.task? u = some t →
      ((s.blockOf t).any (fun b => b.st == .resident) = true → exec (.softError site true) s = .next (c.killByError t)) ∧
      ((s.blockOf t).any (fun b => b.st == .resident) = false →
        exec (.softError site true) s = .next (c.setTask { t with doomed := true })))) ∧
  (∀ (s : State) off lo, lo = 0 ∨ lo = 32 →
    (s.countMreg off lo).mfield off lo 32 = Nat.min 0xFFFFFFFF (s.mfield off lo 32 + 1)) ∧
  (∀ s die (k : BitVec 4), s.mgmtOpen = true → die < 4 → let reg := 0x3400 + 0x40 * die
    let c := s.wakeIdle.setMfield reg 0 4 k.toNat
    (∀ j : BitVec 4, ((c.retireSlice die k).retiredMask die).getLsbD j.toNat = ((c.retiredMask die).getLsbD j.toNat || j == k)) ∧
    ((c.retiredMask die).getLsbD k.toNat = true → exec (.retire die k) s = .next (c.setMfield reg 8 4 1)) ∧
    ((c.retiredMask die).getLsbD k.toNat = false → 4 ≤ c.retiredCount die →
      exec (.retire die k) s = .next (c.setMfield reg 8 4 2)) ∧
    ((c.retiredMask die).getLsbD k.toNat = false → c.retiredCount die < 4 → s.buckets.length = 4 →
      (nth s.buckets die []).length = 64 → ∃ s', exec (.retire die k) s = .next s' ∧ s'.mfield reg 8 4 = 0 ∧
      ∀ b, b < 64 → let old := nth (nth s.buckets die []) b 0
        let new := nth (nth s'.buckets die []) b 0
        (old ≠ k.toNat → new = old) ∧ (old = k.toNat → new < 16 ∧ (s'.retiredMask die).getLsbD new = false))) ∧
  (∀ (s : State) die (k : BitVec 4), let thresh := s.mfield (0x3408 + 0x40 * die) 0 16
    let quiet := thresh = 0 ∨ s.mfield (sliceCe die k).1 (sliceCe die k).2 16 < thresh ∨
      (s.retiredMask die).getLsbD k.toNat = true ∨ 4 ≤ s.retiredCount die
    (quiet → s.autoRetire die k = s) ∧ (¬ quiet → s.byder.mode = .normal → s.autoRetire die k = s.retireSlice die k)) ∧
  (∀ s die (k : BitVec 4), die < 4 → s.byder.mode = .normal → let thresh := s.mfield (0x3408 + 0x40 * die) 0 16
    let reg := (sliceCe die k).1
    let lo := (sliceCe die k).2
    let c := s.countSlice die k (thresh - s.mfield reg lo 16)
    thresh ≠ 0 → c.mfield reg lo 16 = Nat.max thresh (s.mfield reg lo 16) ∧ exec (.sliceAutoRetire die k) s =
      .next (if (c.retiredMask die).getLsbD k.toNat = true ∨ 4 ≤ c.retiredCount die then c else c.retireSlice die k)) ∧
  (∀ s die, s.mgmtOpen = true → die < 4 → ∃ s', exec (.clr die) s = .next s' ∧
    (∀ i, i < 5 → s'.mreg (0x3200 + 0x80 * die + 8 * i) = 0) ∧
    ∀ off, (∀ i, i < 5 → off ≠ 0x3200 + 0x80 * die + 8 * i) → s'.mreg off = s.mreg off)

/-- The weight ring (R267 to R276, R420 to R423), partitions (R425, R426) and swaps (R403, R404, R418). A tap passes its
layer's tiles in order, and a tile of poisoned source data is reported; a layer starts after the last has passed, and
the lap counts each start of layer 0; LOAD installs a manifest that keeps the rules and starts it, or says by RESULT why
not. APPLY puts a partition's fields in force only where nothing forbids it. A swap runs at once, or waits for the
package to be ACTIVE. That a LOAD raises the lap also while the ring is paused (log 72), that loaders' reports are
counted (log 45), and that a layer does not start before the taps of waiting RBOARDs have counted the one before (log
32), are the model's choices. -/
def Obligations.RingAndPartitionCommands : Prop :=
  (∀ s core ok l, s.mgmtOpen = true → s.ring.layers[s.ring.layer]? = some l → s.ring.loaded = true → s.ringSpeed ≠ 3 →
    (s.tapOf core).seq < l.dwell → (∀ t ∈ s.tasks, ∀ o ∈ t.mops, o.board = none) →
    let c := if s.loaderPoison (l.src + 8704 * (s.tapOf core).tile) 8704 = true
      then { s with ring := { s.ring with reports := s.ring.reports + 1 } } else s
    exec (.tilePassage core ok) s = .next (c.setCore core { s.core core with tap := some (let x := s.tapOf core
      if x.tile + 1 < l.tiles then { x with tile := x.tile + 1 } else { x with seq := x.seq + 1, tile := 0 }) })) ∧
  (∀ (s : State) t o b tile bytes, o.board = some b → b.first ≤ tile → tile - b.first < b.count →
    nth b.bitmap (tile - b.first) true = false → ∀ lap, b.minLap ≤ lap →
    let i := tile - b.first
    let bits := b.bitmap.set i true
    let c := s.setCore (s.coreOf t) ((s.core (s.coreOf t)).putTile (b.base + 2 * i) bytes)
    s.boardPass t o lap b.layer tile true bytes = if bits.all id then c.finishOp t.uid .m o {}
      else c.setMop t.uid { o with board := some { b with bitmap := bits } }) ∧
  (∀ s, s.mgmtOpen = true → s.ring.loaded = true → s.ringSpeed ≠ 3 → s.ringOwes = false → ∃ s', exec .layerStart s = .next s' ∧
    s'.ring.layer = (if s.ring.layer + 1 < s.ring.layers.length then s.ring.layer + 1 else 0) ∧
    s'.ring.lap = (if s'.ring.layer = 0 then s.ring.lap + 1 else s.ring.lap) ∧ s'.ring.starts = s.ring.starts + 1) ∧
  (∀ s, s.mgmtOpen = true → let c := s.wakeIdle
    let base := c.mfield 0x2010 5 43 * 32
    let n := c.mfield 0x2018 0 17
    (∀ r, c.loadCheck base n = .error r → exec .load s = .next (c.setMfield 0x2000 12 4 r)) ∧
    (∀ ls, c.loadCheck base n = .ok ls → ∃ s', exec .load s = .next s' ∧ s'.ring.layers = ls ∧ s'.ring.loaded = true ∧
      s'.ring.layer = 0 ∧ s'.ring.mgen = s.ring.mgen + 1 ∧ s'.ring.lap = s.ring.lap + 1 ∧ s'.mfield 0x2000 12 4 = 0)) ∧
  (∀ s (cmd : Dword), s.mgmtOpen = true → ∃ c : State, c.mfield 0x2000 0 2 = cmd.toNat % 4 ∧ c.ring = s.ring ∧
    c.mfield 0x2000 4 4 = (if cmd.toNat / 16 % 16 = 0 then s.mfield 0x2000 4 4 else cmd.toNat / 16 % 16) ∧
    exec (.speedWrite cmd) s = .next (if cmd.toNat / 256 % 2 = 1 then c.loadManifest else c)) ∧
  (∀ s (p : BitVec 3), s.mgmtOpen = true → let c := s.wakeIdle
    let reg := 0x3000 + 0x40 * p.toNat
    (∀ r, c.applyError p.toNat = some r → exec (.apply p) s = .next (c.setMfield (reg + 0x38) 4 4 r)) ∧
    (c.applyError p.toNat = none → ∃ s', exec (.apply p) s = .next s' ∧ s'.mfield (reg + 0x38) 4 4 = 0 ∧
      ∀ o ∈ [0, 0x10, 0x18, 0x20, 0x28, 0x30], s'.mreg (reg + 0x10000 + o) = s.mreg (reg + o))) ∧
  (∀ s (p : BitVec 3), s.byderOpen = true → let reg := 0x800 + 0x20 * p.toNat
    (s.mfield reg 1 1 = 1 → exec (.swap p) s = .next (s.setMfield reg 4 4 1)) ∧
    (s.mfield reg 1 1 = 0 → exec (.swap p) s = .next
      (if s.dispatching then s.wakeIdle.swap p.toNat else s.setMfield reg 1 1 1)))

/-! ## Events: Byder -/

/-- Starts, recovery, update, attestation, debug and fuses (R409 to R416, R434). A start counts itself first; an image that
fails its checks ends it at stage 2, as does that stage's timeout before them, a package without an enabled core at stage 5
(log 90), the fourth start in a row enters Dawn mode, and a start that meets nothing reaches host ready with nothing running;
either measures the flash. A staged image is flashed only when it passes the checks. The debug states and fuse changes
that a security state permits take effect, and no others. Whether a flash write compares comes with the event. That a failed
compare leaves an empty flash and the floor raised (log 47), and the errors of SPDM (log 62), are the model's choices. -/
def Obligations.ByderCommands : Prop :=
  (∀ s env, s.byder.mode = .off → env.failure (· == 1) = none →
    (3 ≤ s.byder.starts → ∃ s', exec (.boot env) s = .next s' ∧ s'.byder.mode = .dawn ∧ s'.byder.starts = s.byder.starts + 1 ∧
      s'.tasks = [] ∧ s'.byder.measured = s.byder.flash.take 512) ∧
    (s.byder.starts < 3 → let sec := s.byder.nextSec.getD s.byder.sec
      (∀ st e, env.failure (· == 2) = some (st, e) → ∃ s', exec (.boot env) s = .next s' ∧
        s'.byder.mode = .off ∧ s'.byder.stage = 2 ∧ s'.byder.hist = ((2, e) :: s.byder.hist).take 4) ∧
      (∀ e, env.failure (· == 2) = none → imageError sec s.byder.floor s.byder.flash = some e → ∃ s', exec (.boot env) s = .next s' ∧
        s'.byder.mode = .off ∧ s'.byder.stage = 2 ∧ s'.byder.hist = ((2, e) :: s.byder.hist).take 4 ∧
        s'.byder.starts = s.byder.starts + 1) ∧
      (imageError sec s.byder.floor s.byder.flash = none → anyCore env.cores = false →
        env.failure (fun n => decide (2 ≤ n) && decide (n ≤ 4)) = none → ∃ s', exec (.boot env) s = .next s' ∧
        s'.byder.mode = .off ∧ s'.byder.stage = 5 ∧ s'.byder.hist = ((5, 5) :: s.byder.hist).take 4) ∧
      (imageError sec s.byder.floor s.byder.flash = none → env.fail = none → anyCore env.cores = true →
        ∃ s', exec (.boot env) s = .next s' ∧ s'.byder.mode = .normal ∧ s'.byder.measured = s.byder.flash.take 512 ∧
        s'.byder.stage = 8 ∧ s'.byder.power = .active ∧ s'.byder.starts = 0 ∧ s'.byder.sec = sec ∧ s'.tasks = [] ∧
        s'.mem = State.reset.mem ∧ s'.coreMap = (List.range 4).flatMap (dieCores env.cores)))) ∧
  (∀ s (n : BitVec 8), s.byder.mode = .off → 1 ≤ n.toNat → n.toNat ≤ 8 → (n.toNat = 1 ∨ (s.byder.starts < 3 ∧
      (n.toNat = 2 ∨ imageError (s.byder.nextSec.getD s.byder.sec) s.byder.floor s.byder.flash = none))) →
    ∃ s', exec (.stageTimeout n) s = .next s' ∧ s'.byder.mode = .off ∧ s'.byder.starts = s.byder.starts + 1 ∧
      s'.byder.hist = ((n, 4) :: s.byder.hist).take 4) ∧
  (∀ s ok, s.byder.mode = .dawn → let e := imageError s.byder.sec s.byder.floor s.byder.staged
    (e ≠ none → exec (.recover ok) s = .next (s.setMfield 0x2020 4 4 1)) ∧
    (e = none → ∃ s', exec (.recover ok) s = .next s' ∧
      (ok = true → s'.byder.flash = s.byder.staged ∧ s'.byder.starts = 0 ∧ s'.byder.mode = .off) ∧
      (ok = false → s'.byder.flash = [] ∧ s'.mfield 0x2020 4 4 = 2 ∧ s'.byder.mode = .dawn))) ∧
  (∀ s ok, s.mgmtOpen = true → let e := imageError s.byder.sec s.byder.floor s.byder.staged
    (e ≠ none → exec (.update ok) s = .next (s.wakeIdle.setMfield 0x2038 4 4 1)) ∧
    (e = none → ∃ s', exec (.update ok) s = .next s' ∧ s'.byder.flash = (if ok then s.byder.staged else []) ∧
      s'.mfield 0x2038 4 4 = (if ok then 0 else 2) ∧ s'.byder.floor =
        if s.byder.sec = .prod ∨ s.byder.sec = .lockdown then Nat.max s.byder.floor (imageVersion s.byder.staged)
        else s.byder.floor)) ∧
  (∀ s n (i : BitVec 8), s.byder.mode ≠ .off → s.byder.power ≠ .off → s.privQp n = true →
    (∀ v, s.measurement i.toNat = some v → s.byder.sec ≠ .blank → exec (.getMeasurements n i) s =
      .next { s with wire := s.wire ++ [.spdm n i.toNat v (Config.identitySign v)] }) ∧
    (s.byder.sec = .blank ∨ s.measurement i.toNat = none → exec (.getMeasurements n i) s =
      .next { s with wire := s.wire ++ [.spdmError n] })) ∧
  (∀ s d (p : BitVec 3) sig, s.mgmtOpen = true → ∃ s', exec (.debugRequest d p sig) s = .next s' ∧
    s'.byder.debug = (if d = .none ∨ s.byder.sec = .blank ∨ s.byder.sec = .dev ∨
      (s.byder.sec = .prod ∧ d = .user ∧ sig = true) then d else s.byder.debug)) ∧
  (∀ s d sig, s.mgmtOpen = true → s.byder.nextSec = none → ∃ s', exec (.fuseCommand d sig) s = .next s' ∧
    s'.byder.sec = s.byder.sec ∧ s'.byder.nextSec = (if sig = true ∧ (s.byder.sec, d) ∈
      [(SecState.blank, SecState.dev), (.blank, .prod), (.dev, .prod), (.prod, .lockdown)] then some d else none))

/-- Power states (R417, R418) and register writes (R6). NAP is entered from IDLE, SLEEP from NAP, port 0 alone keeping
its link (log 82), WAKE leaves SLEEP for NAP; a command in another state is refused with RESULT 1 and changes nothing
else; OFF and a loss of power keep flash, fuses and Byder's record alone. An idle or napping package wakes when a packet
can take effect. A register's RW bits take what is written, its other bits keep what they have, and a write that starts
a command is that command; one of FPBASE, FCOUNT or FRTAB makes FFREE count the pool (R385). NAP with a packet ready is
refused (R417). That a wake from NAP empties the caches (log 60), what a loss of power leaves (logs 1 and 3), and the
locked fields (log 55), are the model's choices. -/
def Obligations.PowerAndRegisterWrites : Prop :=
  (∀ s, s.byderOpen = true →
    (s.byder.power = .idle → s.packetReady = false → ∃ s', exec .pwrcmdNap s = .next s' ∧ s'.byder.power = .nap ∧
      s'.mfield 0x2028 4 4 = 0 ∧ s'.mem = s.mem ∧ s'.tasks = s.tasks) ∧
    (s.byder.power ≠ .idle ∨ s.packetReady = true → exec .pwrcmdNap s = .next (s.powerResult 1 1)) ∧
    (s.byder.power = .nap → ∃ s', exec .pwrcmdSleep s = .next s' ∧ s'.byder.power = .sleep ∧ s'.mfield 0x2028 4 4 = 0 ∧
      (∀ ch, Channel.dieNo ch < 4 → ch ∈ s'.selfRefresh) ∧
      ∀ port, 1 ≤ port → port < 16 → s'.mfield (0x3618 + 0x20 * port) 0 1 = 0) ∧
    (s.byder.power ≠ .nap → exec .pwrcmdSleep s = .next (s.powerResult 2 1)) ∧
    (s.byder.power = .sleep → ∃ s', exec .pwrcmdWake s = .next s' ∧ s'.byder.power = .nap ∧ s'.mfield 0x2028 4 4 = 0) ∧
    (s.byder.power ≠ .sleep → exec .pwrcmdWake s = .next (s.powerResult 3 1)) ∧
    (∃ s', exec .pwrcmdOff s = .next s' ∧ s'.byder.power = .off ∧ s'.tasks = [] ∧ s'.ssd = s.ssd)) ∧
  (∀ s, ∃ s', exec .powerLoss s = .next s' ∧ s'.byder.power = .off ∧ s'.byder.mode = .off ∧ s'.tasks = [] ∧
    s'.mem = State.reset.mem ∧ s'.ssd = s.ssd ∧ s'.byder.flash = s.byder.flash ∧ s'.byder.sec = s.byder.sec ∧
    s'.byder.floor = s.byder.floor ∧ s'.byder.hist = s.byder.hist ∧ s'.byder.retired = s.byder.retired) ∧
  (∀ s, s.byder.power = .active → s.byder.mode = .normal → (∀ b ∈ s.blocks, b.st ≠ .resident) → s.nextSlot = none →
    exec .idleEntry s = .next { s with byder := { s.byder with power := .idle } }) ∧
  (∀ s, s.packetReady = true →
    (s.byder.power = .idle → exec .idleWake s = .next { s with byder := { s.byder with power := .active } }) ∧
    (s.byder.power = .nap → ∃ s', exec .napWake s = .next s' ∧ s'.byder.power = .active ∧ s'.mem = s.mem ∧
      s'.tasks = s.tasks ∧ ∀ p ∈ s'.cores, p.2.l1 = [] ∧ p.2.tlb = [])) ∧
  (∀ s (v : Dword), s.byderOpen = true →
    (∀ off ∈ [0x0000, 0x0008, 0x0108, 0x0110, 0x0140, 0x0188, 0x0418, 0x2008, 0x2010, 0x2018, 0x4000, 0x4020],
      s.fieldsLocked off = false → ∃ s', exec (.registerWrite off v) s = .next s' ∧ s'.mem = s.mem ∧
        s'.mreg off = (s.mreg off &&& ~~~BitVec.ofNat 64 (rwMask off)) ||| (v &&& BitVec.ofNat 64 (rwMask off)) ∧
        ∀ o, o ≠ off → s'.mreg o = s.mreg o) ∧
    (∀ off ∈ [0x0000, 0x0008, 0x0400, 0x0408, 0x0410, 0x0418], s.fieldsLocked off = true →
      exec (.registerWrite off v) s = .next s) ∧
    (∀ off ∈ [0x0400, 0x0408, 0x0410], s.fieldsLocked off = false → ∃ s', exec (.registerWrite off v) s = .next s' ∧
      s'.mreg off = (s.mreg off &&& ~~~BitVec.ofNat 64 (rwMask off)) ||| (v &&& BitVec.ofNat 64 (rwMask off)) ∧
      s'.mfield 0x0420 0 24 = s'.mfield 0x0408 0 24) ∧
    exec (.registerWrite 0x0100 v) s = (if v.toNat / 8 % 2 = 1 then exec (.tlbicmdRange v) s else exec (.tlbicmdPartition v) s) ∧
    (∀ p : BitVec 3, exec (.registerWrite (0x0428 + 0x40 * p.toNat) v) s = exec (.evict p v) s) ∧
    exec (.registerWrite 0x2000 v) s = exec (.speedWrite v) s ∧
    (v.toNat % 8 = 1 → exec (.registerWrite 0x2028 v) s = exec .pwrcmdNap s) ∧
    (v.toNat % 8 = 4 → exec (.registerWrite 0x2028 v) s = exec .pwrcmdOff s))
end

