-- ==== Sys2Proof/Laws/Memory.lean ====
section
/-! SUPPORT. The canonical form of memory: every operation keeps it, and a read after a write. -/
namespace Sys2Proof.Machine

/-! ## One byte -/

theorem Memory.wfFrom_cons {lo k : Nat} {v : Byte} {m : Memory} :
    Memory.wfFrom lo ((k, v) :: m) = true ↔ lo ≤ k ∧ v ≠ 0 ∧ Memory.wfFrom (k + 1) m = true := by
  simp [Memory.wfFrom, and_assoc]

theorem Memory.wfFrom_mono {a b : Nat} (h : a ≤ b) : ∀ {m : Memory}, m.wfFrom b = true → m.wfFrom a = true
  | [], _ => rfl
  | (_, _) :: _, w => by
    rw [Memory.wfFrom_cons] at *
    exact ⟨h.trans w.1, w.2⟩

theorem Memory.wfFrom_write {lo a : Nat} (b : Byte) (ha : lo ≤ a) :
    ∀ {m : Memory}, m.wfFrom lo = true → (m.write a b).wfFrom lo = true
  | [], _ => by
    unfold Memory.write
    split
    · rfl
    · exact Memory.wfFrom_cons.2 ⟨ha, by assumption, rfl⟩
  | (k, v) :: r, w => by
    have w' := Memory.wfFrom_cons.1 w
    unfold Memory.write
    split
    · split
      · exact w
      · exact Memory.wfFrom_cons.2 ⟨ha, by assumption, Memory.wfFrom_cons.2 ⟨by omega, w'.2⟩⟩
    · split
      · subst a
        split
        · exact Memory.wfFrom_mono (by omega) w'.2.2
        · exact Memory.wfFrom_cons.2 ⟨w'.1, by assumption, w'.2.2⟩
      · exact Memory.wfFrom_cons.2 ⟨w'.1, w'.2.1, Memory.wfFrom_write b (by omega) w'.2.2⟩

/-- A write of one byte keeps the canonical form. -/
theorem Memory.wf_write {m : Memory} (h : m.wf = true) (a : Nat) (b : Byte) : (m.write a b).wf = true :=
  Memory.wfFrom_write b (Nat.zero_le a) h

theorem Memory.read_below {lo a : Nat} (h : a < lo) : ∀ {m : Memory}, m.wfFrom lo = true → m.read a = 0
  | [], _ => rfl
  | (k, v) :: r, w => by
    have w' := Memory.wfFrom_cons.1 w
    simp [Memory.read, show k ≠ a by omega, show a < k by omega]

/-- A read after a write: the byte written at its address, the old one elsewhere. -/
theorem Memory.read_write : ∀ {m : Memory} {lo : Nat}, m.wfFrom lo = true → ∀ (a : Nat) (b : Byte) (x : Nat),
    (m.write a b).read x = if x = a then b else m.read x
  | [], _, _, a, b, x => by
    unfold Memory.write
    split <;> rename_i hb
    · simp [Memory.read, hb]
    · by_cases h : x = a
      · simp [Memory.read, h]
      · simp [Memory.read, h, show ¬(a = x) from fun e => h e.symm]
  | (k, v) :: r, lo, w, a, b, x => by
    have w' := Memory.wfFrom_cons.1 w
    unfold Memory.write
    split <;> rename_i h1
    · split <;> rename_i hb
      · by_cases h : x = a
        · subst x; subst b; simp [Memory.read, show k ≠ a by omega, h1]
        · simp [h]
      · by_cases h : x = a
        · subst x; simp [Memory.read]
        · have h' : ¬ a = x := fun e => h e.symm
          simp only [Memory.read, h', if_false, h]
          by_cases hlt : x < a
          · simp [hlt, show ¬ k = x by omega, show x < k by omega]
          · simp [hlt]
    · split <;> rename_i h2
      · subst h2
        split <;> rename_i hb
        · by_cases h : x = a
          · subst x; subst b; simp [Memory.read_below (Nat.lt_succ_self a) w'.2.2]
          · have h' : ¬ a = x := fun e => h e.symm
            simp only [Memory.read, h, h', if_false]
            by_cases hlt : x < a
            · simp [hlt, Memory.read_below (show x < a + 1 by omega) w'.2.2]
            · simp [hlt]
        · by_cases h : x = a
          · subst x; simp [Memory.read]
          · have h' : ¬ a = x := fun e => h e.symm
            simp [Memory.read, h, h']
      · have ih := Memory.read_write w'.2.2 a b x
        by_cases h : x = a
        · subst x; simp [Memory.read, show ¬ k = a by omega, show ¬ a < k by omega, ih]
        · simp only [Memory.read, ih, h, if_false]

/-! ## Lists of writes -/

/-- Any fold of writes keeps the canonical form. -/
theorem Memory.wf_foldl {α : Type} (f : Memory → α → Memory) (hf : ∀ m x, m.wf = true → (f m x).wf = true) :
    ∀ (l : List α) (m : Memory), m.wf = true → (l.foldl f m).wf = true
  | [], _, h => h
  | x :: xs, m, h => Memory.wf_foldl f hf xs (f m x) (hf m x h)

theorem Memory.wf_writeBytes : ∀ (bs : List Byte) (a : Nat) {m : Memory}, m.wf = true → (m.writeBytes a bs).wf = true
  | [], _, _, h => h
  | b :: bs, a, _, h => Memory.wf_writeBytes bs (a + 1) (Memory.wf_write h a b)

theorem Memory.wf_setField {m : Memory} (h : m.wf = true) (a n v : Nat) : (m.setField a n v).wf = true :=
  Memory.wf_writeBytes _ a h

theorem Memory.wfFrom_filter (p : Nat × Byte → Bool) : ∀ {lo : Nat} {m : Memory},
    m.wfFrom lo = true → Memory.wfFrom lo (m.filter p) = true
  | _, [], _ => rfl
  | lo, (k, v) :: r, w => by
    have w' := Memory.wfFrom_cons.1 w
    rw [List.filter_cons]
    split
    · exact Memory.wfFrom_cons.2 ⟨w'.1, w'.2.1, Memory.wfFrom_filter p w'.2.2⟩
    · exact Memory.wfFrom_mono (by omega) (Memory.wfFrom_filter p w'.2.2)

/-- Leaving out entries keeps the canonical form. -/
theorem Memory.wf_filter {m : Memory} (h : m.wf = true) (p : Nat × Byte → Bool) :
    Memory.wf (m.filter p) = true := Memory.wfFrom_filter p h

/-- Bytes moved over another memory keep its canonical form. -/
theorem wf_moveBytes {src dst : Memory} (h : dst.wf = true) (a n b : Nat) : (moveBytes src a n dst b).wf = true :=
  Memory.wf_foldl _ (fun _ _ hm => Memory.wf_write hm _ _) _ _ (Memory.wf_filter h _)

/-- A read below or above the bytes of a write is as before. -/
theorem Memory.read_writeBytes_of_not_mem : ∀ (bs : List Byte) (a : Nat) {m : Memory}, m.wf = true → ∀ (x : Nat),
    (x < a ∨ a + bs.length ≤ x) → (m.writeBytes a bs).read x = m.read x
  | [], _, _, _, _, _ => rfl
  | b :: bs, a, m, h, x, hx => by
    have := Memory.read_writeBytes_of_not_mem bs (a + 1) (Memory.wf_write h a b) x (by simp at hx; omega)
    simp only [Memory.writeBytes, this]
    rw [Memory.read_write (m := m) h a b x, if_neg (by simp at hx; omega)]

/-! ## Bytes at their home -/

@[simp] theorem State.setBlock_mem (s : State) (b : Block) : (s.setBlock b).mem = s.mem := rfl
@[simp] theorem State.setTask_mem (s : State) (t : Task) : (s.setTask t).mem = s.mem := rfl
@[simp] theorem State.setSpan_mem (s : State) (p : Span) : (s.setSpan p).mem = s.mem := rfl
@[simp] theorem State.setLaunch_mem (s : State) (l : Launch) : (s.setLaunch l).mem = s.mem := rfl
@[simp] theorem State.setMreg_mem (s : State) (o : Nat) (v : Dword) : (s.setMreg o v).mem = s.mem := rfl
@[simp] theorem State.setMfield_mem (s : State) (o a b c : Nat) : (s.setMfield o a b c).mem = s.mem := rfl
@[simp] theorem State.countMreg_mem (s : State) (o a : Nat) : (s.countMreg o a).mem = s.mem := rfl
@[simp] theorem State.bump_mem (s : State) : s.bump.mem = s.mem := rfl
@[simp] theorem State.setCore_mem (s : State) (c : Nat) (x : CoreSt) : (s.setCore c x).mem = s.mem := by
  unfold State.setCore; split <;> rfl
@[simp] theorem State.l1Clear_mem (s : State) (c : Nat) : (s.l1Clear c).mem = s.mem := by
  unfold State.l1Clear; simp only []; split <;> simp
@[simp] theorem State.l1Store_mem (s : State) (c : Nat) (bs : List (Loc × Byte)) : (s.l1Store c bs).mem = s.mem := by
  unfold State.l1Store; simp only []; split <;> simp
@[simp] theorem State.l1Drop_mem (s : State) (c : Nat) (ls : List Loc) : (s.l1Drop c ls).mem = s.mem := by
  unfold State.l1Drop; simp only []; split <;> simp

@[simp] theorem State.keepPast_mem (s : State) (bs : List (Loc × Byte)) : (s.keepPast bs).mem = s.mem := by
  unfold State.keepPast; split <;> rfl
@[simp] theorem State.forgetPast_mem (s : State) (pa n : Nat) : (s.forgetPast pa n).mem = s.mem := rfl

theorem State.putByte_wf {s : State} (h : s.mem.wf = true) (l : Loc) (b : Byte) : (s.putByte l b).mem.wf = true := by
  unfold State.putByte
  split
  · exact Memory.wf_write h _ _
  · split <;> simpa using h

/-- Any fold of updates that keep the form keeps it. -/
theorem State.foldl_wf {α : Type} (f : State → α → State)
    (hf : ∀ s x, s.mem.wf = true → (f s x).mem.wf = true) :
    ∀ (l : List α) (s : State), s.mem.wf = true → (l.foldl f s).mem.wf = true
  | [], _, h => h
  | x :: xs, s, h => State.foldl_wf f hf xs (f s x) (hf s x h)

theorem State.putBytes_wf {s : State} (h : s.mem.wf = true) (bs : List (Loc × Byte)) : (s.putBytes bs).mem.wf = true :=
  State.foldl_wf _ (fun _ _ hs => State.putByte_wf hs _ _) bs s h

theorem State.frameFlag_wf {s : State} (h : s.mem.wf = true) (pa : Nat) : (s.frameFlag pa).mem.wf = true := by
  unfold State.frameFlag
  split
  · exact h
  · exact Memory.wf_write h _ _

theorem State.clearPoison_wf {s : State} (h : s.mem.wf = true) (g : Loc) : (s.clearPoison g).mem.wf = true := by
  unfold State.clearPoison
  split
  · split
    · exact State.frameFlag_wf (by exact h) _
    · exact h
  · split <;> simpa using h

theorem State.setPoison_wf {s : State} (h : s.mem.wf = true) (g : Loc) : (s.setPoison g).mem.wf = true := by
  unfold State.setPoison
  split
  · exact h
  · split
    · exact State.frameFlag_wf (by exact h) _
    · split <;> simpa using h

theorem State.dirty_wf {s : State} (h : s.mem.wf = true) (pa : Nat) : (s.dirty pa).mem.wf = true := by
  unfold State.dirty
  split
  · exact h
  · simp only []
    split
    · exact Memory.wf_write h _ _
    · exact h

/-- A write that reaches its home keeps the canonical form of memory. -/
theorem State.applyBytes_wf {s : State} (h : s.mem.wf = true) (bs : List (Loc × Byte)) : (s.applyBytes bs).mem.wf = true :=
  State.foldl_wf _ (fun _ _ hs => State.clearPoison_wf hs _) _ _
    (State.putBytes_wf (State.foldl_wf _ (fun _ _ hs => State.dirty_wf hs _) _ _ (by simpa using h)) bs)

theorem State.applyStore_wf {s : State} (h : s.mem.wf = true) (c : Nat) (bs : List (Loc × Byte)) :
    (s.applyStore c bs).mem.wf = true := by
  unfold State.applyStore
  simpa using State.applyBytes_wf h bs

theorem State.fillFrame_wf {s : State} (h : s.mem.wf = true) (pa entry : Nat) : (s.fillFrame pa entry).mem.wf = true :=
  wf_moveBytes h _ _ _

/-- Memory after reset is in canonical form. -/
theorem reset_mem_wf : State.reset.mem.wf = true := rfl

end Sys2Proof.Machine
end

