-- ==== Sys2Proof/Laws/Bytes.lean ====
section
/-! SUPPORT. What a write of bytes to their homes changes (R4, R108, R384): only bytes and poison, and of the bytes only those
that were written and the record bytes of their frames; and that it keeps memory and scratch in canonical form. -/
namespace Sys2Proof.Machine

/-! ## Only bytes and poison -/

/-- A block apart from its bytes and its poison. -/
def Block.bare (b : Block) : Block := { b with scratch := [], poison := [] }

/-- Only bytes of memory and scratch, poison, and the record of what slots held before may differ. -/
def State.OnlyBytes (s u : State) : Prop :=
  (∃ m p bs q, u = { s with mem := m, poison := p, blocks := bs, past := q }) ∧
  ∀ n, (u.block? n).map Block.bare = (s.block? n).map Block.bare

theorem State.OnlyBytes.refl (s : State) : s.OnlyBytes s := ⟨⟨s.mem, s.poison, s.blocks, s.past, rfl⟩, fun _ => rfl⟩
theorem State.OnlyBytes.trans {s u v : State} (h : s.OnlyBytes u) (h' : u.OnlyBytes v) : s.OnlyBytes v := by
  obtain ⟨⟨m, p, bs, q, rfl⟩, hb⟩ := h
  obtain ⟨⟨m', p', bs', q', rfl⟩, hb'⟩ := h'
  exact ⟨⟨m', p', bs', q', rfl⟩, fun n => (hb' n).trans (hb n)⟩

theorem State.OnlyBytes.tasks {s u : State} (h : s.OnlyBytes u) : u.tasks = s.tasks := by obtain ⟨⟨_, _, _, _, rfl⟩, _⟩ := h; rfl
theorem State.OnlyBytes.cores {s u : State} (h : s.OnlyBytes u) : u.cores = s.cores := by obtain ⟨⟨_, _, _, _, rfl⟩, _⟩ := h; rfl
theorem State.OnlyBytes.mgmt {s u : State} (h : s.OnlyBytes u) : u.mgmt = s.mgmt := by obtain ⟨⟨_, _, _, _, rfl⟩, _⟩ := h; rfl
theorem State.OnlyBytes.wire {s u : State} (h : s.OnlyBytes u) : u.wire = s.wire := by obtain ⟨⟨_, _, _, _, rfl⟩, _⟩ := h; rfl
theorem State.OnlyBytes.ring {s u : State} (h : s.OnlyBytes u) : u.ring = s.ring := by obtain ⟨⟨_, _, _, _, rfl⟩, _⟩ := h; rfl
theorem State.OnlyBytes.byder {s u : State} (h : s.OnlyBytes u) : u.byder = s.byder := by obtain ⟨⟨_, _, _, _, rfl⟩, _⟩ := h; rfl
theorem State.OnlyBytes.slots {s u : State} (h : s.OnlyBytes u) : u.slots = s.slots := by obtain ⟨⟨_, _, _, _, rfl⟩, _⟩ := h; rfl
theorem State.OnlyBytes.qps {s u : State} (h : s.OnlyBytes u) : u.qps = s.qps := by obtain ⟨⟨_, _, _, _, rfl⟩, _⟩ := h; rfl
theorem State.OnlyBytes.pxw {s u : State} (h : s.OnlyBytes u) : u.pxw = s.pxw := by obtain ⟨⟨_, _, _, _, rfl⟩, _⟩ := h; rfl
theorem State.OnlyBytes.launches {s u : State} (h : s.OnlyBytes u) : u.launches = s.launches := by
  obtain ⟨⟨_, _, _, _, rfl⟩, _⟩ := h; rfl
theorem State.OnlyBytes.task? {s u : State} (h : s.OnlyBytes u) (n : Nat) : u.task? n = s.task? n := by
  rw [State.task?, h.tasks]; rfl
theorem State.OnlyBytes.core {s u : State} (h : s.OnlyBytes u) (c : Nat) : u.core c = s.core c := by
  rw [State.core, h.cores]; rfl
theorem State.OnlyBytes.mreg {s u : State} (h : s.OnlyBytes u) (o : Nat) : u.mreg o = s.mreg o := by
  rw [State.mreg, h.mgmt]; rfl
theorem State.OnlyBytes.mfield {s u : State} (h : s.OnlyBytes u) (o lo n : Nat) : u.mfield o lo n = s.mfield o lo n := by
  rw [State.mfield, h.mreg]; rfl
theorem State.OnlyBytes.frameOf {s u : State} (h : s.OnlyBytes u) (pa : Nat) : u.frameOf pa = s.frameOf pa := by
  simp only [State.frameOf, h.mfield]
theorem State.OnlyBytes.frameRec {s u : State} (h : s.OnlyBytes u) (p i : Nat) : u.frameRec p i = s.frameRec p i := by
  simp only [State.frameRec, h.mfield]

/-- The core of a block, and so of a task, is the same. -/
theorem State.OnlyBytes.blockCore {s u : State} (h : s.OnlyBytes u) (n : Nat) :
    (u.block? n).map Block.core = (s.block? n).map Block.core := by
  have e := congrArg (Option.map Block.core) (h.2 n)
  rwa [Option.map_map, Option.map_map] at e
theorem State.OnlyBytes.coreOf {s u : State} (h : s.OnlyBytes u) (t : Task) : u.coreOf t = s.coreOf t := by
  rw [State.coreOf, h.blockCore]; rfl

theorem State.block?_uid {s : State} {n : Nat} {x : Block} (h : s.block? n = some x) : x.uid = n := by
  simpa using List.find?_some h

/-- What a replaced block reads as. -/
theorem State.block?_setBlock (s : State) (y : Block) (n : Nat) :
    (s.setBlock y).block? n = (s.block? n).map fun x => if n = y.uid then y else x := by
  unfold State.block? State.setBlock
  induction s.blocks with
  | nil => rfl
  | cons x xs ih =>
    simp only [List.map_cons, List.find?_cons]
    by_cases hx : x.uid = y.uid
    · by_cases hn : y.uid = n
      · subst hn; simp [hx]
      · have h1 : (x.uid == n) = false := by simpa [hx] using hn
        have h2 : (y.uid == n) = false := by simpa using hn
        simpa [hx, h1, h2] using ih
    · by_cases hn : x.uid = n
      · subst hn; simp [hx]
      · have h1 : (x.uid == n) = false := by simpa using hn
        simpa [hx, h1] using ih

theorem State.setBlock_only {s : State} {x y : Block} (h : s.block? x.uid = some x) (hy : y.bare = x.bare) :
    s.OnlyBytes (s.setBlock y) := by
  refine ⟨⟨s.mem, s.poison, _, s.past, rfl⟩, fun n => ?_⟩
  have hu : y.uid = x.uid := (congrArg Block.uid hy : y.bare.uid = x.bare.uid)
  rw [State.block?_setBlock, Option.map_map]
  by_cases hn : n = y.uid
  · subst hn
    rw [hu, h]
    simp [hy]
  · cases s.block? n with
    | none => rfl
    | some z => simp [hn]

theorem State.foldl_onlyBytes {α : Type} (f : State → α → State) (hf : ∀ (s : State) x, s.OnlyBytes (f s x)) :
    ∀ (l : List α) (s : State), s.OnlyBytes (l.foldl f s)
  | [], s => .refl s
  | x :: xs, s => (hf s x).trans (State.foldl_onlyBytes f hf xs (f s x))

theorem State.putByte_only (s : State) (l : Loc) (b : Byte) : s.OnlyBytes (s.putByte l b) := by
  cases l with
  | mem pa => exact ⟨⟨_, s.poison, s.blocks, s.past, rfl⟩, fun _ => rfl⟩
  | scr u off =>
    simp only [State.putByte]
    split
    · rename_i x hx
      exact State.setBlock_only (x := x) (by rw [State.block?_uid hx]; exact hx) rfl
    · exact .refl s
theorem State.putBytes_only (s : State) (bs : List (Loc × Byte)) : s.OnlyBytes (s.putBytes bs) :=
  State.foldl_onlyBytes (fun (s : State) (p : Loc × Byte) => s.putByte p.1 p.2) (fun s p => State.putByte_only s p.1 p.2) bs s
theorem State.frameFlag_only (s : State) (pa : Nat) : s.OnlyBytes (s.frameFlag pa) := by
  unfold State.frameFlag
  split
  · exact .refl s
  · exact ⟨⟨_, s.poison, s.blocks, s.past, rfl⟩, fun _ => rfl⟩
theorem State.clearPoison_only (s : State) (g : Loc) : s.OnlyBytes (s.clearPoison g) := by
  cases g with
  | mem n =>
    simp only [State.clearPoison]
    split
    · exact State.OnlyBytes.trans ⟨⟨s.mem, _, s.blocks, s.past, rfl⟩, fun _ => rfl⟩ (State.frameFlag_only _ _)
    · exact .refl s
  | scr b n =>
    simp only [State.clearPoison]
    split
    · rename_i x hx
      exact State.setBlock_only (x := x) (by rw [State.block?_uid hx]; exact hx) rfl
    · exact .refl s
theorem State.setPoison_only (s : State) (g : Loc) : s.OnlyBytes (s.setPoison g) := by
  unfold State.setPoison
  split
  · exact .refl s
  · cases g with
    | mem n => exact State.OnlyBytes.trans ⟨⟨s.mem, _, s.blocks, s.past, rfl⟩, fun _ => rfl⟩ (State.frameFlag_only _ _)
    | scr b n =>
      dsimp only
      split
      · rename_i x hx
        exact State.setBlock_only (x := x) (by rw [State.block?_uid hx]; exact hx) rfl
      · exact .refl s
theorem State.dirty_only (s : State) (pa : Nat) : s.OnlyBytes (s.dirty pa) := by
  unfold State.dirty
  split
  · exact .refl s
  · dsimp only
    split
    · exact ⟨⟨_, s.poison, s.blocks, s.past, rfl⟩, fun _ => rfl⟩
    · exact .refl s
theorem State.dirtyAll_only (s : State) (bs : List (Loc × Byte)) : s.OnlyBytes (s.dirtyAll bs) :=
  State.foldl_onlyBytes _ State.dirty_only _ s

theorem State.keepPast_only (s : State) (bs : List (Loc × Byte)) : s.OnlyBytes (s.keepPast bs) := by
  unfold State.keepPast
  split
  · exact .refl s
  · exact ⟨⟨s.mem, s.poison, s.blocks, _, rfl⟩, fun _ => rfl⟩

/-- A write of bytes to their homes changes bytes and poison alone. -/
theorem State.applyBytes_only (s : State) (bs : List (Loc × Byte)) : s.OnlyBytes (s.applyBytes bs) :=
  (((State.keepPast_only s bs).trans (State.dirtyAll_only _ bs)).trans (State.putBytes_only _ bs)).trans
    (State.foldl_onlyBytes _ State.clearPoison_only _ _)

theorem State.engineWrite_only (s : State) (pa n v : Nat) : s.OnlyBytes (s.engineWrite pa n v) := by
  unfold State.engineWrite
  split
  · exact State.applyBytes_only s _
  · exact .refl s

/-! ## The canonical form -/

theorem State.bytesOk_mem {s : State} (h : s.bytesOk = true) : s.mem.wf = true := by
  rw [State.bytesOk, Bool.and_eq_true] at h; exact h.1
theorem State.bytesOk_block {s : State} (h : s.bytesOk = true) {n : Nat} {x : Block} (hx : s.block? n = some x) :
    x.scratch.wf = true := by
  rw [State.bytesOk, Bool.and_eq_true, List.all_eq_true] at h
  exact h.2 x (List.mem_of_find?_eq_some hx)
theorem State.bytesOk_setMem {s : State} (h : s.bytesOk = true) {m : Memory} (p : List Nat) (hm : m.wf = true) :
    State.bytesOk { s with mem := m, poison := p } = true := by
  rw [State.bytesOk, Bool.and_eq_true] at h ⊢; exact ⟨hm, h.2⟩
theorem State.bytesOk_setBlock {s : State} (h : s.bytesOk = true) {y : Block} (hy : y.scratch.wf = true) :
    (s.setBlock y).bytesOk = true := by
  rw [State.bytesOk, Bool.and_eq_true, List.all_eq_true] at h ⊢
  refine ⟨h.1, fun z hz => ?_⟩
  simp only [State.setBlock, List.mem_map] at hz
  obtain ⟨x, hx, rfl⟩ := hz
  split
  · exact hy
  · exact h.2 x hx

theorem State.putByte_ok {s : State} (h : s.bytesOk = true) (l : Loc) (b : Byte) : (s.putByte l b).bytesOk = true := by
  cases l with
  | mem pa => exact State.bytesOk_setMem h s.poison (Memory.wf_write (State.bytesOk_mem h) pa b)
  | scr u off =>
    simp only [State.putByte]
    split
    · exact State.bytesOk_setBlock h (Memory.wf_write (State.bytesOk_block h ‹_›) off b)
    · exact h
theorem State.foldl_ok {α : Type} (f : State → α → State) (hf : ∀ (s : State) x, s.bytesOk = true → (f s x).bytesOk = true) :
    ∀ (l : List α) (s : State), s.bytesOk = true → (l.foldl f s).bytesOk = true
  | [], _, h => h
  | x :: xs, s, h => State.foldl_ok f hf xs (f s x) (hf s x h)
theorem State.putBytes_ok {s : State} (h : s.bytesOk = true) (bs : List (Loc × Byte)) : (s.putBytes bs).bytesOk = true :=
  State.foldl_ok (fun (s : State) (p : Loc × Byte) => s.putByte p.1 p.2) (fun _ p h => State.putByte_ok h p.1 p.2) bs s h
theorem State.frameFlag_ok {s : State} (h : s.bytesOk = true) (pa : Nat) : (s.frameFlag pa).bytesOk = true := by
  unfold State.frameFlag
  split
  · exact h
  · exact State.bytesOk_setMem h s.poison (Memory.wf_write (State.bytesOk_mem h) _ _)
theorem State.bytesOk_poison {s : State} (h : s.bytesOk = true) (p : List Nat) :
    State.bytesOk { s with poison := p } = true := h
theorem State.clearPoison_ok {s : State} (h : s.bytesOk = true) (g : Loc) : (s.clearPoison g).bytesOk = true := by
  cases g with
  | mem n =>
    simp only [State.clearPoison]
    split
    · exact State.frameFlag_ok (State.bytesOk_poison h _) _
    · exact h
  | scr b n =>
    simp only [State.clearPoison]
    split
    · exact State.bytesOk_setBlock h (State.bytesOk_block (x := ‹Block›) h ‹_›)
    · exact h
theorem State.setPoison_ok {s : State} (h : s.bytesOk = true) (g : Loc) : (s.setPoison g).bytesOk = true := by
  unfold State.setPoison
  split
  · exact h
  · cases g with
    | mem n => exact State.frameFlag_ok (State.bytesOk_poison h _) _
    | scr b n =>
      dsimp only
      split
      · exact State.bytesOk_setBlock h (State.bytesOk_block (x := ‹Block›) h ‹_›)
      · exact h
theorem State.dirty_ok {s : State} (h : s.bytesOk = true) (pa : Nat) : (s.dirty pa).bytesOk = true := by
  unfold State.dirty
  split
  · exact h
  · dsimp only
    split
    · exact State.bytesOk_setMem h s.poison (Memory.wf_write (State.bytesOk_mem h) _ _)
    · exact h
theorem State.dirtyAll_ok {s : State} (h : s.bytesOk = true) (bs : List (Loc × Byte)) : (s.dirtyAll bs).bytesOk = true :=
  State.foldl_ok State.dirty (fun _ p h => State.dirty_ok h p) _ s h

theorem State.keepPast_ok {s : State} (h : s.bytesOk = true) (bs : List (Loc × Byte)) : (s.keepPast bs).bytesOk = true := by
  unfold State.keepPast; split <;> exact h
theorem State.keepPast_byteAt (s : State) (bs : List (Loc × Byte)) (l : Loc) : (s.keepPast bs).byteAt l = s.byteAt l := by
  unfold State.keepPast; split <;> cases l <;> rfl

/-- A write of bytes keeps the canonical form. -/
theorem State.applyBytes_ok {s : State} (h : s.bytesOk = true) (bs : List (Loc × Byte)) : (s.applyBytes bs).bytesOk = true :=
  State.foldl_ok State.clearPoison (fun _ g h => State.clearPoison_ok h g) _ _ (State.putBytes_ok (State.dirtyAll_ok (State.keepPast_ok h bs) bs) bs)

/-! ## Which bytes -/

/-- A byte put at one place leaves every other place as it was. -/
theorem State.byteAt_putByte {s : State} (h : s.bytesOk = true) (l : Loc) (b : Byte) {x : Loc} (hx : x ≠ l) :
    (s.putByte l b).byteAt x = s.byteAt x := by
  cases l with
  | mem pa => cases x with
    | mem pb =>
      have : pb ≠ pa := fun e => hx (e ▸ rfl)
      simp only [State.putByte, State.byteAt, Memory.read_write (State.bytesOk_mem h), if_neg this]
    | scr v o => rfl
  | scr u off =>
    simp only [State.putByte]
    split
    · rename_i y hy
      have hu := State.block?_uid hy
      cases x with
      | mem pb => rfl
      | scr v o =>
        simp only [State.byteAt, State.block?_setBlock, Option.map_map]
        by_cases hv : v = u
        · subst hv
          have ho : o ≠ off := fun e => hx (e ▸ rfl)
          simp [hy, hu, Memory.read_write (State.bytesOk_block h hy), ho]
        · cases s.block? v with
          | none => rfl
          | some z => simp [hu, hv]
    · rfl

theorem State.byteAt_putBytes : ∀ (bs : List (Loc × Byte)) {s : State}, s.bytesOk = true → ∀ {x : Loc},
    x ∉ bs.map (·.1) → (s.putBytes bs).byteAt x = s.byteAt x
  | [], _, _, _, _ => rfl
  | p :: bs, s, h, x, hx => by
    rw [List.map_cons, List.mem_cons, not_or] at hx
    exact (State.byteAt_putBytes bs (State.putByte_ok h p.1 p.2) hx.2).trans (State.byteAt_putByte h p.1 p.2 hx.1)

theorem State.frameFlag_kept {s : State} (h : s.bytesOk = true) (pa : Nat) {x : Loc}
    (hx : ∀ p i, s.frameOf pa = some (p, i) → x ≠ .mem (s.frameRec p i + 1)) : (s.frameFlag pa).byteAt x = s.byteAt x := by
  unfold State.frameFlag
  split
  · rfl
  · rename_i p i hp
    exact State.byteAt_putByte h (.mem (s.frameRec p i + 1)) _ (hx p i hp)
theorem State.dirty_kept {s : State} (h : s.bytesOk = true) (pa : Nat) {x : Loc}
    (hx : ∀ p i, s.frameOf pa = some (p, i) → x ≠ .mem (s.frameRec p i + 1)) : (s.dirty pa).byteAt x = s.byteAt x := by
  unfold State.dirty
  split
  · rfl
  · rename_i p i hp
    dsimp only
    split
    · exact State.byteAt_putByte h (.mem (s.frameRec p i + 1)) _ (hx p i hp)
    · rfl

/-- Addresses of one 64 KiB page lie in one frame (R380). -/
theorem State.frameOf_page (s : State) {a b : Nat} (h : a / 65536 = b / 65536) : s.frameOf a = s.frameOf b := by
  have e : (fun p => decide (s.mfield (0x400 + 0x40 * p) 16 32 * 2 ^ 16 ≤ a) &&
        decide (a < s.mfield (0x400 + 0x40 * p) 16 32 * 2 ^ 16 + s.mfield (0x408 + 0x40 * p) 0 24 * 65536)) =
      fun p => decide (s.mfield (0x400 + 0x40 * p) 16 32 * 2 ^ 16 ≤ b) &&
        decide (b < s.mfield (0x400 + 0x40 * p) 16 32 * 2 ^ 16 + s.mfield (0x408 + 0x40 * p) 0 24 * 65536) := by
    funext p
    generalize s.mfield (0x400 + 0x40 * p) 16 32 = f
    generalize s.mfield (0x408 + 0x40 * p) 0 24 = n
    congr 1 <;> rw [decide_eq_decide] <;> omega
  unfold State.frameOf
  dsimp only
  rw [e]
  cases (upto 8).find? _ with
  | none => rfl
  | some p =>
    simp only [Option.map_some, Option.some.injEq, Prod.mk.injEq, true_and]
    generalize s.mfield (0x400 + 0x40 * p) 16 32 = f
    omega

theorem State.foldl_kept {α : Type} (f : State → α → State) (P : State → Prop) (x : Loc) :
    ∀ (l : List α), (∀ (s : State) y, P s → y ∈ l → P (f s y) ∧ (f s y).byteAt x = s.byteAt x) →
      ∀ (s : State), P s → (l.foldl f s).byteAt x = s.byteAt x
  | [], _, _, _ => rfl
  | y :: ys, h, s, hs => by
    have h1 := h s y hs (List.mem_cons_self ..)
    exact (State.foldl_kept f P x ys (fun s z hz hm => h s z hz (List.mem_cons_of_mem _ hm)) _ h1.1).trans h1.2

theorem mem_dedup {α : Type} [DecidableEq α] {x : α} : ∀ {l : List α}, x ∈ dedup l → x ∈ l
  | [], h => h
  | y :: ys, h => by
    rw [dedup, List.mem_cons, List.mem_filter] at h
    rcases h with rfl | h
    · exact List.mem_cons_self ..
    · exact List.mem_cons_of_mem _ (mem_dedup h.1)

theorem wholeGranules_mem {bs : List (Loc × Byte)} {g : Loc} (h : g ∈ wholeGranules bs) : ∃ l ∈ bs.map (·.1), granule l = g := by
  have h1 := mem_dedup (List.mem_of_mem_filter h)
  rw [List.mem_map] at h1
  obtain ⟨l, hl, rfl⟩ := h1
  exact ⟨l, mem_dedup hl, rfl⟩

/-- A write of bytes leaves every byte that it does not write, and that is no record byte of a frame that it writes to, as it
was. -/
theorem State.applyBytes_kept {s : State} (h : s.bytesOk = true) (bs : List (Loc × Byte)) :
    BytesKept s (s.applyBytes bs) (bs.map (·.1)) := by
  intro x hx hf
  have hrec : ∀ (u : State) pa, s.OnlyBytes u → (∃ pb, Loc.mem pb ∈ bs.map (·.1) ∧ pa / 65536 = pb / 65536) →
      ∀ p i, u.frameOf pa = some (p, i) → x ≠ .mem (u.frameRec p i + 1) := by
    intro u pa hu ⟨pb, hb, he⟩ p i hp e
    rw [hu.frameOf, State.frameOf_page s he] at hp
    exact hf ⟨pb, p, i, hb, hp, by rw [e, hu.frameRec]⟩
  have hk := State.keepPast_ok h bs
  have hko := State.keepPast_only s bs
  have h1 : ((s.keepPast bs).dirtyAll bs).byteAt x = s.byteAt x := by
    refine Eq.trans ?_ (State.keepPast_byteAt s bs x)
    refine State.foldl_kept State.dirty (fun u => u.bytesOk = true ∧ s.OnlyBytes u) x _ ?_ _ ⟨hk, hko⟩
    intro u pa ⟨hu, ho⟩ hm
    refine ⟨⟨State.dirty_ok hu pa, ho.trans (State.dirty_only u pa)⟩, State.dirty_kept hu pa (hrec u pa ho ?_)⟩
    have h2 := mem_dedup hm
    rw [List.mem_filterMap] at h2
    obtain ⟨q, hq, hp⟩ := h2
    cases hl : q.1 with
    | mem pb =>
      rw [hl] at hp
      injection hp with hp
      exact ⟨pb, List.mem_map.mpr ⟨q, hq, hl⟩, by omega⟩
    | scr u o => rw [hl] at hp; cases hp
  have h2 : (((s.keepPast bs).dirtyAll bs).putBytes bs).byteAt x = ((s.keepPast bs).dirtyAll bs).byteAt x :=
    State.byteAt_putBytes bs (State.dirtyAll_ok hk bs) hx
  refine Eq.trans ?_ (h2.trans h1)
  refine State.foldl_kept State.clearPoison (fun u => u.bytesOk = true ∧ s.OnlyBytes u) x _ ?_ _
    ⟨State.putBytes_ok (State.dirtyAll_ok hk bs) bs, (hko.trans (State.dirtyAll_only _ bs)).trans (State.putBytes_only _ bs)⟩
  intro u g ⟨hu, ho⟩ hg
  refine ⟨⟨State.clearPoison_ok hu g, ho.trans (State.clearPoison_only u g)⟩, ?_⟩
  obtain ⟨l, hl, rfl⟩ := wholeGranules_mem hg
  cases l with
  | mem pb =>
    simp only [granule, State.clearPoison]
    split
    · exact State.frameFlag_kept (s := { u with poison := u.poison.filter (· != pb / 32) }) hu _
        (hrec _ _ (ho.trans ⟨⟨u.mem, _, u.blocks, u.past, rfl⟩, fun _ => rfl⟩) ⟨pb, hl, by omega⟩)
    · rfl
  | scr b o =>
    simp only [granule, State.clearPoison]
    split
    · rename_i y hy
      have hu' := State.block?_uid hy
      cases x with
      | mem pa => rfl
      | scr v o' =>
        simp only [State.byteAt, State.block?_setBlock, Option.map_map]
        by_cases hv : v = b
        · subst hv; simp [hy, hu']
        · cases u.block? v with
          | none => rfl
          | some z => simp [hu', hv]
    · rfl

end Sys2Proof.Machine
end

