-- ==== Sys2Proof/Laws/Encode.lean ====
section
/-! SUPPORT. The fields of encoded words: each format of R113 to R125 read back field by field. -/
namespace Sys2Proof

/-! ## Fields of sums -/

/-- A field below a part that starts at k. -/
theorem fld_low {q x k lo len : Nat} (h : lo + len ≤ k) : fld (q + x * 2 ^ k) lo len = fld q lo len := by
  unfold fld
  obtain ⟨j, rfl⟩ := Nat.exists_eq_add_of_le h
  have e : x * 2 ^ (lo + len + j) = 2 ^ lo * (2 ^ len * (x * 2 ^ j)) := by ring
  rw [e, Nat.add_mul_div_left _ _ (Nat.two_pow_pos lo), Nat.add_mul_mod_self_left]

/-- The highest part of a sum. -/
theorem fld_top {q x k len : Nat} (hq : q < 2 ^ k) (hx : x < 2 ^ len) : fld (q + x * 2 ^ k) k len = x := by
  unfold fld
  rw [Nat.add_mul_div_right _ _ (Nat.two_pow_pos k), Nat.div_eq_of_lt hq, Nat.zero_add, Nat.mod_eq_of_lt hx]

/-- The lowest part of a sum. -/
theorem fld_first {x len : Nat} (hx : x < 2 ^ len) : fld x 0 len = x := by
  unfold fld
  rw [Nat.pow_zero, Nat.div_one, Nat.mod_eq_of_lt hx]

/-- A part alone, in its place. -/
theorem fld_only {x k len : Nat} (hx : x < 2 ^ len) : fld (x * 2 ^ k) k len = x := by
  unfold fld
  rw [Nat.mul_div_cancel _ (Nat.two_pow_pos k), Nat.mod_eq_of_lt hx]

/-- A field below a part that stands alone. -/
theorem fld_under {x k lo len : Nat} (h : lo + len ≤ k) : fld (x * 2 ^ k) lo len = 0 := by
  have := @fld_low 0 x k lo len h
  rw [Nat.zero_add] at this
  rw [this]; simp [fld]

/-- A field past the end of a number. -/
theorem fld_past {q lo len : Nat} (hq : q < 2 ^ lo) : fld q lo len = 0 := by
  unfold fld
  rw [Nat.div_eq_of_lt hq, Nat.zero_mod]

/-- A field of zero. -/
@[simp] theorem fld_zero (lo len : Nat) : fld 0 lo len = 0 := by simp [fld]

@[simp] theorem fld_bv {w : Nat} (b : BitVec w) : fld b.toNat 0 w = b.toNat := fld_first b.isLt
@[simp] theorem fld_bv_past {w lo len : Nat} (b : BitVec w) (h : w ≤ lo) : fld b.toNat lo len = 0 :=
  fld_past (Nat.lt_of_lt_of_le b.isLt (Nat.pow_le_pow_right (by decide) h))

/-- A flag as a field. -/
@[simp] theorem toNat_beq_one (b : Bool) : (b.toNat == 1) = b := by cases b <;> rfl

/-! ## Formats of the 32-bit class -/

section
variable {op d a b f i lo len : Nat}

theorem fmtSR_lt (ho : op < 128) (hd : d < 32) (ha : a < 32) (hb : b < 32) (hf : f < 512) :
    fmtSR op d a b f < 2 ^ 31 := by unfold fmtSR; omega
theorem fmtSI_lt (ho : op < 128) (hd : d < 32) (ha : a < 32) (hi : i < 2 ^ 14) : fmtSI op d a i < 2 ^ 31 := by
  unfold fmtSI; omega
theorem fmtSJ_lt (ho : op < 128) (hd : d < 32) (hi : i < 2 ^ 19) : fmtSJ op d i < 2 ^ 31 := by unfold fmtSJ; omega

@[simp] theorem sr_op (ho : op < 128) (hd : d < 32) (ha : a < 32) (hb : b < 32) (hf : f < 512) :
    fld (fmtSR op d a b f) 24 7 = op := by unfold fld fmtSR; omega
@[simp] theorem sr_d (hd : d < 32) (ha : a < 32) (hb : b < 32) (hf : f < 512) : fld (fmtSR op d a b f) 19 5 = d := by
  unfold fld fmtSR; omega
@[simp] theorem sr_a (ha : a < 32) (hb : b < 32) (hf : f < 512) : fld (fmtSR op d a b f) 14 5 = a := by
  unfold fld fmtSR; omega
@[simp] theorem sr_b (hb : b < 32) (hf : f < 512) : fld (fmtSR op d a b f) 9 5 = b := by unfold fld fmtSR; omega
@[simp] theorem sr_f (hf : f < 512) : fld (fmtSR op d a b f) 0 9 = f := by unfold fld fmtSR; omega
@[simp] theorem sr_dp (hd : d < 32) (ha : a < 32) (hb : b < 32) (hf : f < 512) : fld (fmtSR op d a b f) 20 4 = d / 2 := by
  unfold fld fmtSR; omega
@[simp] theorem sr_ap (ha : a < 32) (hb : b < 32) (hf : f < 512) : fld (fmtSR op d a b f) 15 4 = a / 2 := by
  unfold fld fmtSR; omega
@[simp] theorem sr_bp (hb : b < 32) (hf : f < 512) : fld (fmtSR op d a b f) 10 4 = b / 2 := by unfold fld fmtSR; omega
@[simp] theorem sr_bq (hb : b < 32) (hf : f < 512) : fld (fmtSR op d a b f) 11 3 = b / 4 := by unfold fld fmtSR; omega
@[simp] theorem sr_de (ha : a < 32) (hb : b < 32) (hf : f < 512) : fld (fmtSR op d a b f) 19 1 = d % 2 := by
  unfold fld fmtSR; omega
@[simp] theorem sr_ae (hb : b < 32) (hf : f < 512) : fld (fmtSR op d a b f) 14 1 = a % 2 := by unfold fld fmtSR; omega
@[simp] theorem sr_be (hf : f < 512) : fld (fmtSR op d a b f) 9 1 = b % 2 := by unfold fld fmtSR; omega
@[simp] theorem sr_be2 (hf : f < 512) : fld (fmtSR op d a b f) 9 2 = b % 4 := by unfold fld fmtSR; omega
@[simp] theorem sr_bf (hb : b < 32) (hf : f < 512) : fld (fmtSR op d a b f) 0 14 = b * 512 + f := by unfold fld fmtSR; omega
@[simp] theorem sr_f0 : fld (fmtSR op d a b f) 0 4 = f % 16 := by unfold fld fmtSR; omega
@[simp] theorem sr_f4 : fld (fmtSR op d a b f) 4 1 = f / 16 % 2 := by unfold fld fmtSR; omega
@[simp] theorem sr_f5 : fld (fmtSR op d a b f) 5 3 = f / 32 % 8 := by unfold fld fmtSR; omega
@[simp] theorem sr_f8 : fld (fmtSR op d a b f) 8 1 = f / 256 % 2 := by unfold fld fmtSR; omega

@[simp] theorem si_op (ho : op < 128) (hd : d < 32) (ha : a < 32) (hi : i < 2 ^ 14) : fld (fmtSI op d a i) 24 7 = op := by
  unfold fld fmtSI; omega
@[simp] theorem si_d (hd : d < 32) (ha : a < 32) (hi : i < 2 ^ 14) : fld (fmtSI op d a i) 19 5 = d := by
  unfold fld fmtSI; omega
@[simp] theorem si_d4 (hd : d < 16) (ha : a < 32) (hi : i < 2 ^ 14) : fld (fmtSI op d a i) 19 4 = d := by
  unfold fld fmtSI; omega
@[simp] theorem si_d2 (hd : d < 4) (ha : a < 32) (hi : i < 2 ^ 14) : fld (fmtSI op d a i) 19 2 = d := by
  unfold fld fmtSI; omega
@[simp] theorem si_dh1 (hd : d < 16) (ha : a < 32) (hi : i < 2 ^ 14) : fld (fmtSI op d a i) 23 1 = 0 := by
  unfold fld fmtSI; omega
@[simp] theorem si_dh3 (hd : d < 4) (ha : a < 32) (hi : i < 2 ^ 14) : fld (fmtSI op d a i) 21 3 = 0 := by
  unfold fld fmtSI; omega
@[simp] theorem si_da (ha : a < 32) (hi : i < 2 ^ 14) (hd : d < 32) : fld (fmtSI op d a i) 14 10 = d * 32 + a := by
  unfold fld fmtSI; omega
@[simp] theorem si_dp (hd : d < 32) (ha : a < 32) (hi : i < 2 ^ 14) : fld (fmtSI op d a i) 20 4 = d / 2 := by
  unfold fld fmtSI; omega
@[simp] theorem si_de (ha : a < 32) (hi : i < 2 ^ 14) : fld (fmtSI op d a i) 19 1 = d % 2 := by unfold fld fmtSI; omega
@[simp] theorem si_a (ha : a < 32) (hi : i < 2 ^ 14) : fld (fmtSI op d a i) 14 5 = a := by unfold fld fmtSI; omega
@[simp] theorem si_ap (ha : a < 32) (hi : i < 2 ^ 14) : fld (fmtSI op d a i) 15 4 = a / 2 := by unfold fld fmtSI; omega
@[simp] theorem si_ae (hi : i < 2 ^ 14) : fld (fmtSI op d a i) 14 1 = a % 2 := by unfold fld fmtSI; omega
@[simp] theorem si_i (hi : i < 2 ^ 14) : fld (fmtSI op d a i) 0 14 = i := by unfold fld fmtSI; omega

/-- A field of the immediate. -/
@[simp] theorem si_sub (h : lo + len ≤ 14) : fld (fmtSI op d a i) lo len = fld i lo len := by
  have e : fmtSI op d a i = i + (op * 2 ^ 10 + d * 2 ^ 5 + a) * 2 ^ 14 := by unfold fmtSI; omega
  rw [e, fld_low h]

@[simp] theorem sj_op (ho : op < 128) (hd : d < 32) (hi : i < 2 ^ 19) : fld (fmtSJ op d i) 24 7 = op := by
  unfold fld fmtSJ; omega
@[simp] theorem sj_d (hd : d < 32) (hi : i < 2 ^ 19) : fld (fmtSJ op d i) 19 5 = d := by unfold fld fmtSJ; omega
@[simp] theorem sj_dp (hd : d < 32) (hi : i < 2 ^ 19) : fld (fmtSJ op d i) 20 4 = d / 2 := by unfold fld fmtSJ; omega
@[simp] theorem sj_de (hi : i < 2 ^ 19) : fld (fmtSJ op d i) 19 1 = d % 2 := by unfold fld fmtSJ; omega
@[simp] theorem sj_i (hi : i < 2 ^ 19) : fld (fmtSJ op d i) 0 19 = i := by unfold fld fmtSJ; omega

/-- P0 of an instruction without operands. -/
@[simp] theorem op_op (ho : op < 128) : fld (op * 2 ^ 24) 24 7 = op := by unfold fld; omega
@[simp] theorem op_low : fld (op * 2 ^ 24) 0 24 = 0 := by unfold fld; omega

end

/-! ## func9 of ATOM and ATOMCAS -/

section
variable {op : Nat} (w r : Bool) (s : Scope)

theorem fmtAtom_lt (ho : op < 16) : fmtAtom op w r s < 512 := by
  unfold fmtAtom; cases w <;> cases r <;> cases s <;> simp [Scope.code] <;> omega
@[simp] theorem atom_op (ho : op < 16) : fmtAtom op w r s % 16 = op := by
  unfold fmtAtom; cases w <;> cases r <;> cases s <;> simp [Scope.code] <;> omega
@[simp] theorem atom_wide (ho : op < 16) : fmtAtom op w r s / 16 % 2 = w.toNat := by
  unfold fmtAtom; cases w <;> cases r <;> cases s <;> simp [Scope.code] <;> omega
@[simp] theorem atom_scope (ho : op < 16) : fmtAtom op w r s / 32 % 8 = s.code := by
  unfold fmtAtom; cases w <;> cases r <;> cases s <;> simp [Scope.code] <;> omega
@[simp] theorem atom_ret (ho : op < 16) : fmtAtom op w r s / 256 % 2 = r.toNat := by
  unfold fmtAtom; cases w <;> cases r <;> cases s <;> simp [Scope.code] <;> omega

/-- A scope from its code. -/
@[simp] theorem withScope_code (k : Scope → Dec) : withScope s.code k = k s := by cases s <;> rfl
theorem Scope.code_lt : s.code < 8 := by cases s <;> decide

end

/-! ## P0 of the engine class -/

section
variable {eng op8 : Nat} {a : Act}

theorem fmtEng_lt (he : eng < 16) (ho : op8 < 256) : fmtEng eng op8 a < 2 ^ 31 + 2 ^ 30 := by
  unfold fmtEng
  have := a.stat.isLt; have := a.sige.isLt; have := a.sem.isLt; have := a.byte.isLt; have := a.bar.isLt; have := a.fut.isLt
  omega
theorem fmtEng_ge : 2 ^ 31 ≤ fmtEng eng op8 a := by unfold fmtEng; omega
@[simp] theorem eng_eng (he : eng < 16) (ho : op8 < 256) : fld (fmtEng eng op8 a) 26 4 = eng := by
  unfold fld fmtEng
  have := a.stat.isLt; have := a.sige.isLt; have := a.sem.isLt; have := a.byte.isLt; have := a.bar.isLt; have := a.fut.isLt
  omega
@[simp] theorem eng_op (ho : op8 < 256) : fld (fmtEng eng op8 a) 18 8 = op8 := by
  unfold fld fmtEng
  have := a.stat.isLt; have := a.sige.isLt; have := a.sem.isLt; have := a.byte.isLt; have := a.bar.isLt; have := a.fut.isLt
  omega

theorem fbv_of {p lo len : Nat} {b : BitVec len} (h : fld p lo len = b.toNat) : fbv p lo len = b := by
  unfold fbv; rw [h]; simp

/-- The action field of an engine instruction reads back. -/
@[simp] theorem eng_act : decAct (fmtEng eng op8 a) = a := by
  have := a.stat.isLt; have := a.sige.isLt; have := a.sem.isLt; have := a.byte.isLt; have := a.bar.isLt; have := a.fut.isLt
  obtain ⟨x1, x2, x3, x4, x5, x6⟩ := a
  simp only [decAct, Act.mk.injEq]
  refine ⟨?_, ?_, ?_, ?_, ?_, ?_⟩ <;> (apply fbv_of; simp only [fld, fmtEng] at *; omega)

theorem fmtEng0_lt (he : eng < 16) (ho : op8 < 256) : fmtEng0 eng op8 < 2 ^ 31 + 2 ^ 30 := by unfold fmtEng0; omega
theorem fmtEng0_ge : 2 ^ 31 ≤ fmtEng0 eng op8 := by unfold fmtEng0; omega
@[simp] theorem eng0_eng (he : eng < 16) (ho : op8 < 256) : fld (fmtEng0 eng op8) 26 4 = eng := by unfold fld fmtEng0; omega
@[simp] theorem eng0_op (ho : op8 < 256) : fld (fmtEng0 eng op8) 18 8 = op8 := by unfold fld fmtEng0; omega
@[simp] theorem eng0_low : fld (fmtEng0 eng op8) 0 18 = 0 := by unfold fld fmtEng0; omega

end

/-! ## The register fields -/

@[simp] theorem fD_eq (p : Nat) : fD p = BitVec.ofNat 5 (fld p 19 5) := rfl
@[simp] theorem fA_eq (p : Nat) : fA p = BitVec.ofNat 5 (fld p 14 5) := rfl
@[simp] theorem fB_eq (p : Nat) : fB p = BitVec.ofNat 5 (fld p 9 5) := rfl
@[simp] theorem fDp_eq (p : Nat) : fDp p = BitVec.ofNat 4 (fld p 20 4) := rfl
@[simp] theorem fAp_eq (p : Nat) : fAp p = BitVec.ofNat 4 (fld p 15 4) := rfl
@[simp] theorem fBp_eq (p : Nat) : fBp p = BitVec.ofNat 4 (fld p 10 4) := rfl
@[simp] theorem evD_eq (p : Nat) : evD p = (fld p 19 1 == 0) := rfl
@[simp] theorem evA_eq (p : Nat) : evA p = (fld p 14 1 == 0) := rfl
@[simp] theorem evB_eq (p : Nat) : evB p = (fld p 9 1 == 0) := rfl
@[simp] theorem imm14_eq (p : Nat) : imm14 p = BitVec.ofNat 14 (fld p 0 14) := rfl
@[simp] theorem imm19_eq (p : Nat) : imm19 p = BitVec.ofNat 19 (fld p 0 19) := rfl
@[simp] theorem fbv_eq (p lo len : Nat) : fbv p lo len = BitVec.ofNat len (fld p lo len) := rfl
@[simp] theorem evAt_eq (q lo : Nat) : evAt q lo = (fld q lo 1 == 0) := rfl
@[simp] theorem fbit_eq (q lo : Nat) : fbit q lo = (fld q lo 1 == 1) := rfl
@[simp] theorem resv_true (k : Dec) : resv true k = k := rfl
@[simp] theorem need_true (k : Dec) : need true k = k := rfl

/-! ## Words as numbers -/

theorem toNat_ofNat32 {n : Nat} (h : n < 2 ^ 32) : (BitVec.ofNat 32 n).toNat = n := by
  rw [BitVec.toNat_ofNat, Nat.mod_eq_of_lt h]

/-- A bit of a number as a word. -/
theorem getLsbD_ofNat32 {n j : Nat} (hj : j < 32) : (BitVec.ofNat 32 n).getLsbD j = (n / 2 ^ j % 2 == 1) := by
  rw [BitVec.getLsbD_ofNat, Nat.testBit_eq_decide_div_mod_eq]
  simp only [hj, decide_true, Bool.true_and]
  rfl

theorem bit31_of_lt {n : Nat} (h : n < 2 ^ 31) : (BitVec.ofNat 32 n).getLsbD 31 = false := by
  rw [getLsbD_ofNat32 (by decide), show n / 2 ^ 31 % 2 = 0 by omega]; rfl

theorem bit31_of_ge {n : Nat} (h : 2 ^ 31 ≤ n) (h' : n < 2 ^ 32) : (BitVec.ofNat 32 n).getLsbD 31 = true := by
  rw [getLsbD_ofNat32 (by decide), show n / 2 ^ 31 % 2 = 1 by omega]; rfl

theorem bit30_of_lt {n : Nat} (h : 2 ^ 31 ≤ n) (h' : n < 2 ^ 31 + 2 ^ 30) : (BitVec.ofNat 32 n).getLsbD 30 = false := by
  rw [getLsbD_ofNat32 (by decide), show n / 2 ^ 30 % 2 = 0 by omega]; rfl

theorem bit30_of_ge {n : Nat} (h : 2 ^ 31 + 2 ^ 30 ≤ n) (h' : n < 2 ^ 32) : (BitVec.ofNat 32 n).getLsbD 30 = true := by
  rw [getLsbD_ofNat32 (by decide), show n / 2 ^ 30 % 2 = 1 by omega]; rfl

/-! ## Decoding by class -/

/-- A word of the 32-bit class (R112). -/
theorem decode_32 {n : Nat} (h : n < 2 ^ 31) (p1 p2 : Word) : decode (BitVec.ofNat 32 n) p1 p2 = dec32 n := by
  unfold decode
  simp only [bit31_of_lt h, toNat_ofNat32 (Nat.lt_trans h (by decide)), Bool.false_eq_true, if_false]

/-- An engine word (R112, R119). -/
theorem decode_engine {n q : Nat} (h : 2 ^ 31 ≤ n) (h' : n < 2 ^ 31 + 2 ^ 30) (hq : q < 2 ^ 32) (p2 : Word) :
    decode (BitVec.ofNat 32 n) (BitVec.ofNat 32 q) p2 =
      if fld n 26 4 = 0 then decMatrix n q else if fld n 26 4 = 1 then decCopy n q else .opcode := by
  unfold decode
  simp only [bit31_of_ge h (by omega), bit30_of_lt h h', toNat_ofNat32 hq, toNat_ofNat32 (show n < 2 ^ 32 by omega),
    Bool.false_eq_true, if_false, if_true]

/-- A vector word (R112, R123). -/
theorem decode_vector {n q r : Nat} (h : 2 ^ 31 + 2 ^ 30 ≤ n) (hn : n < 2 ^ 32) (hq : q < 2 ^ 32) (hr : r < 2 ^ 32) :
    decode (BitVec.ofNat 32 n) (BitVec.ofNat 32 q) (BitVec.ofNat 32 r) =
      if fbit n 24 then decPaired n q r else decWide n q r := by
  unfold decode
  simp only [bit31_of_ge (show 2 ^ 31 ≤ n by omega) hn, bit30_of_ge h hn, toNat_ofNat32 hq, toNat_ofNat32 hr,
    toNat_ofNat32 hn, if_true]

/-! ## Wide words -/

section
variable (op : Nat) (w : VW)

/-- The fields of a wide word read back (R123, R124). -/
theorem wideFields_enc (ho : op < 512) :
    wideFields (3 * 2 ^ 30 + w.stall.toNat * 2 ^ 26 + w.e.toNat * 2 ^ 25 + op * 2 ^ 13 + w.pred.toNat * 2 ^ 8 +
        w.neg.toNat * 2 ^ 7 + w.mod7.toNat)
      (w.d.toNat * 2 ^ 25 + w.a.toNat * 2 ^ 18 + w.b.toNat * 2 ^ 11 + w.c.toNat * 2 ^ 4 + w.mod4.toNat) w.imm.toNat = w := by
  obtain ⟨x1, x2, x3, x4, x5, x6, x7, x8, x9, x10, x11⟩ := w
  simp only [wideFields, VW.mk.injEq]
  have := x1.isLt; have := x2.isLt; have := x3.isLt; have := x4.isLt; have := x5.isLt; have := x6.isLt
  have := x7.isLt; have := x8.isLt; have := x9.isLt; have := x10.isLt; have := x11.isLt
  refine ⟨?_, ?_, ?_, ?_, ?_, ?_, ?_, ?_, ?_, ?_, ?_⟩ <;> (apply fbv_of; simp only [fld]; omega)

/-- An encoded wide word decodes to its instruction. -/
theorem decode_encWide {i : Instr} (ho : op < 512) (hv : vecInstr op w = some i) (hw : wideIllegal op w = none)
    (p0 p1 p2 : Nat) (h : encWide op w = [p0, p1, p2]) :
    decode (BitVec.ofNat 32 p0) (BitVec.ofNat 32 p1) (BitVec.ofNat 32 p2) = .ok i := by
  simp only [encWide, List.cons.injEq, and_true] at h
  obtain ⟨h0, h1, h2⟩ := h
  have := w.stall.isLt; have := w.e.isLt; have := w.pred.isLt; have := w.neg.isLt; have := w.mod7.isLt
  have := w.d.isLt; have := w.a.isLt; have := w.b.isLt; have := w.c.isLt; have := w.mod4.isLt; have := w.imm.isLt
  rw [decode_vector (by omega) (by omega) (by omega) (by omega)]
  have hb : fbit p0 24 = false := by
    have : fld p0 24 1 = 0 := by unfold fld; omega
    simp [fbit, this]
  have hop : fld p0 13 9 = op := by unfold fld; omega
  have hz : fld p0 22 2 = 0 := by unfold fld; omega
  have hf : wideFields p0 p1 p2 = w := by rw [← h0, ← h1, ← h2]; exact wideFields_enc op w ho
  simp only [hb, decWide, hop, hf, hv, hz, hw, resv, beq_self_eq_true, if_true, Bool.false_eq_true, if_false]

end

end Sys2Proof
end

