-- ==== Sys2Proof/Laws/Exec.lean ====
section
/-! SUPPORT. One lemma for each arm of exec: the instruction or event runs its meaning. -/
namespace Sys2Proof.Machine
set_option Elab.async false

@[simp] theorem exec_add : ∀ d a b s, exec (.add d a b) s = execAdd d a b s := by intros; rfl
@[simp] theorem exec_sub : ∀ d a b s, exec (.sub d a b) s = execSub d a b s := by intros; rfl
@[simp] theorem exec_and : ∀ d a b s, exec (.and d a b) s = execAnd d a b s := by intros; rfl
@[simp] theorem exec_or : ∀ d a b s, exec (.or d a b) s = execOr d a b s := by intros; rfl
@[simp] theorem exec_xor : ∀ d a b s, exec (.xor d a b) s = execXor d a b s := by intros; rfl
@[simp] theorem exec_shl : ∀ d a b s, exec (.shl d a b) s = execShl d a b s := by intros; rfl
@[simp] theorem exec_shr : ∀ d a b s, exec (.shr d a b) s = execShr d a b s := by intros; rfl
@[simp] theorem exec_sra : ∀ d a b s, exec (.sra d a b) s = execSra d a b s := by intros; rfl
@[simp] theorem exec_mul : ∀ d a b s, exec (.mul d a b) s = execMul d a b s := by intros; rfl
@[simp] theorem exec_mulhI32 : ∀ d a b s, exec (.mulhI32 d a b) s = execMulhI32 d a b s := by intros; rfl
@[simp] theorem exec_mulhB32 : ∀ d a b s, exec (.mulhB32 d a b) s = execMulhB32 d a b s := by intros; rfl
@[simp] theorem exec_divI32 : ∀ d a b s, exec (.divI32 d a b) s = execDivI32 d a b s := by intros; rfl
@[simp] theorem exec_divB32 : ∀ d a b s, exec (.divB32 d a b) s = execDivB32 d a b s := by intros; rfl
@[simp] theorem exec_remI32 : ∀ d a b s, exec (.remI32 d a b) s = execRemI32 d a b s := by intros; rfl
@[simp] theorem exec_remB32 : ∀ d a b s, exec (.remB32 d a b) s = execRemB32 d a b s := by intros; rfl
@[simp] theorem exec_minI32 : ∀ d a b s, exec (.minI32 d a b) s = execMinI32 d a b s := by intros; rfl
@[simp] theorem exec_maxI32 : ∀ d a b s, exec (.maxI32 d a b) s = execMaxI32 d a b s := by intros; rfl
@[simp] theorem exec_minB32 : ∀ d a b s, exec (.minB32 d a b) s = execMinB32 d a b s := by intros; rfl
@[simp] theorem exec_maxB32 : ∀ d a b s, exec (.maxB32 d a b) s = execMaxB32 d a b s := by intros; rfl
@[simp] theorem exec_slt : ∀ d a b s, exec (.slt d a b) s = execSlt d a b s := by intros; rfl
@[simp] theorem exec_sltb : ∀ d a b s, exec (.sltb d a b) s = execSltb d a b s := by intros; rfl
@[simp] theorem exec_seq : ∀ d a b s, exec (.seq d a b) s = execSeq d a b s := by intros; rfl
@[simp] theorem exec_clz : ∀ d a s, exec (.clz d a) s = execClz d a s := by intros; rfl
@[simp] theorem exec_popc : ∀ d a s, exec (.popc d a) s = execPopc d a s := by intros; rfl
@[simp] theorem exec_add64 : ∀ d a b s, exec (.add64 d a b) s = execAdd64 d a b s := by intros; rfl
@[simp] theorem exec_sub64 : ∀ d a b s, exec (.sub64 d a b) s = execSub64 d a b s := by intros; rfl
@[simp] theorem exec_shl64 : ∀ d a b s, exec (.shl64 d a b) s = execShl64 d a b s := by intros; rfl
@[simp] theorem exec_shr64 : ∀ d a b s, exec (.shr64 d a b) s = execShr64 d a b s := by intros; rfl
@[simp] theorem exec_mul64 : ∀ d a b s, exec (.mul64 d a b) s = execMul64 d a b s := by intros; rfl
@[simp] theorem exec_sel : ∀ d a b s, exec (.sel d a b) s = execSel d a b s := by intros; rfl
@[simp] theorem exec_addi : ∀ d a imm s, exec (.addi d a imm) s = execAddi d a imm s := by intros; rfl
@[simp] theorem exec_andi : ∀ d a imm s, exec (.andi d a imm) s = execAndi d a imm s := by intros; rfl
@[simp] theorem exec_ori : ∀ d a imm s, exec (.ori d a imm) s = execOri d a imm s := by intros; rfl
@[simp] theorem exec_xori : ∀ d a imm s, exec (.xori d a imm) s = execXori d a imm s := by intros; rfl
@[simp] theorem exec_shli : ∀ d a imm s, exec (.shli d a imm) s = execShli d a imm s := by intros; rfl
@[simp] theorem exec_shri : ∀ d a imm s, exec (.shri d a imm) s = execShri d a imm s := by intros; rfl
@[simp] theorem exec_srai : ∀ d a imm s, exec (.srai d a imm) s = execSrai d a imm s := by intros; rfl
@[simp] theorem exec_slti : ∀ d a imm s, exec (.slti d a imm) s = execSlti d a imm s := by intros; rfl
@[simp] theorem exec_addi64 : ∀ d a imm s, exec (.addi64 d a imm) s = execAddi64 d a imm s := by intros; rfl
@[simp] theorem exec_lui : ∀ d imm s, exec (.lui d imm) s = execLui d imm s := by intros; rfl
@[simp] theorem exec_addpc : ∀ d imm s, exec (.addpc d imm) s = execAddpc d imm s := by intros; rfl
@[simp] theorem exec_beq : ∀ a b o s, exec (.beq a b o) s = execBeq a b o s := by intros; rfl
@[simp] theorem exec_bne : ∀ a b o s, exec (.bne a b o) s = execBne a b o s := by intros; rfl
@[simp] theorem exec_blt : ∀ a b o s, exec (.blt a b o) s = execBlt a b o s := by intros; rfl
@[simp] theorem exec_bge : ∀ a b o s, exec (.bge a b o) s = execBge a b o s := by intros; rfl
@[simp] theorem exec_bltb : ∀ a b o s, exec (.bltb a b o) s = execBltb a b o s := by intros; rfl
@[simp] theorem exec_bgeb : ∀ a b o s, exec (.bgeb a b o) s = execBgeb a b o s := by intros; rfl
@[simp] theorem exec_jal : ∀ d imm s, exec (.jal d imm) s = execJal d imm s := by intros; rfl
@[simp] theorem exec_jalr : ∀ d a imm s, exec (.jalr d a imm) s = execJalr d a imm s := by intros; rfl
@[simp] theorem exec_loopn : ∀ a o s, exec (.loopn a o) s = execLoopn a o s := by intros; rfl
@[simp] theorem exec_ldB8 : ∀ d a imm s, exec (.ldB8 d a imm) s = execLdB8 d a imm s := by intros; rfl
@[simp] theorem exec_ldI8 : ∀ d a imm s, exec (.ldI8 d a imm) s = execLdI8 d a imm s := by intros; rfl
@[simp] theorem exec_ldB16 : ∀ d a imm s, exec (.ldB16 d a imm) s = execLdB16 d a imm s := by intros; rfl
@[simp] theorem exec_ldI16 : ∀ d a imm s, exec (.ldI16 d a imm) s = execLdI16 d a imm s := by intros; rfl
@[simp] theorem exec_ldW : ∀ d a imm s, exec (.ldW d a imm) s = execLdW d a imm s := by intros; rfl
@[simp] theorem exec_ldD : ∀ d a imm s, exec (.ldD d a imm) s = execLdD d a imm s := by intros; rfl
@[simp] theorem exec_stB8 : ∀ d a imm s, exec (.stB8 d a imm) s = execStB8 d a imm s := by intros; rfl
@[simp] theorem exec_stB16 : ∀ d a imm s, exec (.stB16 d a imm) s = execStB16 d a imm s := by intros; rfl
@[simp] theorem exec_stW : ∀ d a imm s, exec (.stW d a imm) s = execStW d a imm s := by intros; rfl
@[simp] theorem exec_stD : ∀ d a imm s, exec (.stD d a imm) s = execStD d a imm s := by intros; rfl
@[simp] theorem exec_ldroW : ∀ d a imm s, exec (.ldroW d a imm) s = execLdroW d a imm s := by intros; rfl
@[simp] theorem exec_ldroD : ∀ d a imm s, exec (.ldroD d a imm) s = execLdroD d a imm s := by intros; rfl
@[simp] theorem exec_atomAdd : ∀ d a b ret scope wide s, exec (.atomAdd d a b ret scope wide) s = execAtomAdd d a b ret scope wide s := by intros; rfl
@[simp] theorem exec_atomMinI : ∀ d a b ret scope wide s, exec (.atomMinI d a b ret scope wide) s = execAtomMinI d a b ret scope wide s := by intros; rfl
@[simp] theorem exec_atomMaxI : ∀ d a b ret scope wide s, exec (.atomMaxI d a b ret scope wide) s = execAtomMaxI d a b ret scope wide s := by intros; rfl
@[simp] theorem exec_atomMinB : ∀ d a b ret scope wide s, exec (.atomMinB d a b ret scope wide) s = execAtomMinB d a b ret scope wide s := by intros; rfl
@[simp] theorem exec_atomMaxB : ∀ d a b ret scope wide s, exec (.atomMaxB d a b ret scope wide) s = execAtomMaxB d a b ret scope wide s := by intros; rfl
@[simp] theorem exec_atomAnd : ∀ d a b ret scope wide s, exec (.atomAnd d a b ret scope wide) s = execAtomAnd d a b ret scope wide s := by intros; rfl
@[simp] theorem exec_atomOr : ∀ d a b ret scope wide s, exec (.atomOr d a b ret scope wide) s = execAtomOr d a b ret scope wide s := by intros; rfl
@[simp] theorem exec_atomXor : ∀ d a b ret scope wide s, exec (.atomXor d a b ret scope wide) s = execAtomXor d a b ret scope wide s := by intros; rfl
@[simp] theorem exec_atomExch : ∀ d a b ret scope wide s, exec (.atomExch d a b ret scope wide) s = execAtomExch d a b ret scope wide s := by intros; rfl
@[simp] theorem exec_atomAddF32 : ∀ d a b ret scope s, exec (.atomAddF32 d a b ret scope) s = execAtomAddF32 d a b ret scope s := by intros; rfl
@[simp] theorem exec_atomcasB32 : ∀ d a b scope s, exec (.atomcasB32 d a b scope) s = execAtomcasB32 d a b scope s := by intros; rfl
@[simp] theorem exec_atomcasB64 : ∀ d a b scope s, exec (.atomcasB64 d a b scope) s = execAtomcasB64 d a b scope s := by intros; rfl
@[simp] theorem exec_sig : ∀ sem k s, exec (.sig sem k) s = execSig sem k s := by intros; rfl
@[simp] theorem exec_wait : ∀ sem k s, exec (.wait sem k) s = execWait sem k s := by intros; rfl
@[simp] theorem exec_bara : ∀ ba s, exec (.bara ba) s = execBara ba s := by intros; rfl
@[simp] theorem exec_barw : ∀ ba a k s, exec (.barw ba a k) s = execBarw ba a k s := by intros; rfl
@[simp] theorem exec_bare : ∀ ba a s, exec (.bare ba a) s = execBare ba a s := by intros; rfl
@[simp] theorem exec_sbara : ∀ sa s, exec (.sbara sa) s = execSbara sa s := by intros; rfl
@[simp] theorem exec_sbarw : ∀ sa a k s, exec (.sbarw sa a k) s = execSbarw sa a k s := by intros; rfl
@[simp] theorem exec_fenceRel : ∀ scope s, exec (.fenceRel scope) s = execFenceRel scope s := by intros; rfl
@[simp] theorem exec_fenceAcq : ∀ scope s, exec (.fenceAcq scope) s = execFenceAcq scope s := by intros; rfl
@[simp] theorem exec_fenceAr : ∀ scope s, exec (.fenceAr scope) s = execFenceAr scope s := by intros; rfl
@[simp] theorem exec_cwait : ∀ a n s, exec (.cwait a n) s = execCwait a n s := by intros; rfl
@[simp] theorem exec_fres : ∀ a b s, exec (.fres a b) s = execFres a b s := by intros; rfl
@[simp] theorem exec_fflt : ∀ a b s, exec (.fflt a b) s = execFflt a b s := by intros; rfl
@[simp] theorem exec_ftry : ∀ d a b s, exec (.ftry d a b) s = execFtry d a b s := by intros; rfl
@[simp] theorem exec_fstat : ∀ d a s, exec (.fstat d a) s = execFstat d a s := by intros; rfl
@[simp] theorem exec_tlaunch : ∀ d a s, exec (.tlaunch d a) s = execTlaunch d a s := by intros; rfl
@[simp] theorem exec_tjoin : ∀ d a s, exec (.tjoin d a) s = execTjoin d a s := by intros; rfl
@[simp] theorem exec_grec : ∀ a b s, exec (.grec a b) s = execGrec a b s := by intros; rfl
@[simp] theorem exec_mif : ∀ j p s, exec (.mif j p) s = execMif j p s := by intros; rfl
@[simp] theorem exec_melse : ∀ j s, exec (.melse j) s = execMelse j s := by intros; rfl
@[simp] theorem exec_mjoin : ∀ j s, exec (.mjoin j) s = execMjoin j s := by intros; rfl
@[simp] theorem exec_msave : ∀ j s, exec (.msave j) s = execMsave j s := by intros; rfl
@[simp] theorem exec_mbreak : ∀ p s, exec (.mbreak p) s = execMbreak p s := by intros; rfl
@[simp] theorem exec_bmany : ∀ o s, exec (.bmany o) s = execBmany o s := by intros; rfl
@[simp] theorem exec_bmnone : ∀ o s, exec (.bmnone o) s = execBmnone o s := by intros; rfl
@[simp] theorem exec_pmovs : ∀ j p s, exec (.pmovs j p) s = execPmovs j p s := by intros; rfl
@[simp] theorem exec_smovp : ∀ p j s, exec (.smovp p j) s = execSmovp p j s := by intros; rfl
@[simp] theorem exec_sysrd : ∀ d imm s, exec (.sysrd d imm) s = execSysrd d imm s := by intros; rfl
@[simp] theorem exec_syswr : ∀ a imm s, exec (.syswr a imm) s = execSyswr a imm s := by intros; rfl
@[simp] theorem exec_trap : ∀ k s, exec (.trap k) s = execTrap k s := by intros; rfl
@[simp] theorem exec_cycles : ∀ a imm s, exec (.cycles a imm) s = execCycles a imm s := by intros; rfl
@[simp] theorem exec_oclm : ∀ b n s, exec (.oclm b n) s = execOclm b n s := by intros; rfl
@[simp] theorem exec_mold : ∀ act b n a side s, exec (.mold act b n a side) s = execMold act b n a side s := by intros; rfl
@[simp] theorem exec_mma : ∀ act sa sb c mq nq fa fb z s, exec (.mma act sa sb c mq nq fa fb z) s = execMma act sa sb c mq nq fa fb z s := by intros; rfl
@[simp] theorem exec_mmap : ∀ act sa sb c mq nq fa fb z s, exec (.mmap act sa sb c mq nq fa fb z) s = execMmap act sa sb c mq nq fa fb z s := by intros; rfl
@[simp] theorem exec_mmasFull : ∀ act sa sb n mq nq s, exec (.mmasFull act sa sb n mq nq) s = execMmasFull act sa sb n mq nq s := by intros; rfl
@[simp] theorem exec_mmasTri : ∀ act sa sb n mq nq s, exec (.mmasTri act sa sb n mq nq) s = execMmasTri act sa sb n mq nq s := by intros; rfl
@[simp] theorem exec_mwclr : ∀ act s, exec (.mwclr act) s = execMwclr act s := by intros; rfl
@[simp] theorem exec_mwst : ∀ act d p mq nq s, exec (.mwst act d p mq nq) s = execMwst act d p mq nq s := by intros; rfl
@[simp] theorem exec_macz : ∀ act c k s, exec (.macz act c k) s = execMacz act c k s := by intros; rfl
@[simp] theorem exec_macld : ∀ act a p c mq nq s, exec (.macld act a p c mq nq) s = execMacld act a p c mq nq s := by intros; rfl
@[simp] theorem exec_macst : ∀ act d p c mq nq fmt sr sc s, exec (.macst act d p c mq nq fmt sr sc) s = execMacst act d p c mq nq fmt sr sc s := by intros; rfl
@[simp] theorem exec_rboard : ∀ act b l f n m s, exec (.rboard act b l f n m) s = execRboard act b l f n m s := by intros; rfl
@[simp] theorem exec_mseed : ∀ a s, exec (.mseed a) s = execMseed a s := by intros; rfl
@[simp] theorem exec_cpy : ∀ act d a n s, exec (.cpy act d a n) s = execCpy act d a n s := by intros; rfl
@[simp] theorem exec_tcopy : ∀ act r a c s, exec (.tcopy act r a c) s = execTcopy act r a c s := by intros; rfl
@[simp] theorem exec_tcopySt : ∀ act r a c s, exec (.tcopySt act r a c) s = execTcopySt act r a c s := by intros; rfl
@[simp] theorem exec_tcopyo : ∀ act r b c s, exec (.tcopyo act r b c) s = execTcopyo act r b c s := by intros; rfl
@[simp] theorem exec_osliceA : ∀ act a b rs rq s, exec (.osliceA act a b rs rq) s = execOsliceA act a b rs rq s := by intros; rfl
@[simp] theorem exec_osliceB : ∀ act a b rs rq s, exec (.osliceB act a b rs rq) s = execOsliceB act a b rs rq s := by intros; rfl
@[simp] theorem exec_gather : ∀ act d a imm n w t s, exec (.gather act d a imm n w t) s = execGather act d a imm n w t s := by intros; rfl
@[simp] theorem exec_scatter : ∀ act d a imm n w t s, exec (.scatter act d a imm n w t) s = execScatter act d a imm n w t s := by intros; rfl
@[simp] theorem exec_cpyred : ∀ act d rs n op ty s, exec (.cpyred act d rs n op ty) s = execCpyred act d rs n op ty s := by intros; rfl
@[simp] theorem exec_qfill : ∀ act q a l e n s, exec (.qfill act q a l e n) s = execQfill act q a l e n s := by intros; rfl
@[simp] theorem exec_qsink : ∀ act q a l e n s, exec (.qsink act q a l e n) s = execQsink act q a l e n s := by intros; rfl
@[simp] theorem exec_collred : ∀ act g d rs n op ty arr s, exec (.collred act g d rs n op ty arr) s = execCollred act g d rs n op ty arr s := by intros; rfl
@[simp] theorem exec_collbc : ∀ act g d n s, exec (.collbc act g d n) s = execCollbc act g d n s := by intros; rfl
@[simp] theorem exec_collsendSend : ∀ act g t rs n s, exec (.collsendSend act g t rs n) s = execCollsendSend act g t rs n s := by intros; rfl
@[simp] theorem exec_collsendRecv : ∀ act g t rs n s, exec (.collsendRecv act g t rs n) s = execCollsendRecv act g t rs n s := by intros; rfl
@[simp] theorem exec_spref : ∀ act a n s, exec (.spref act a n) s = execSpref act a n s := by intros; rfl
@[simp] theorem exec_cstat : ∀ d s, exec (.cstat d) s = execCstat d s := by intros; rfl
@[simp] theorem exec_fadd : ∀ w s, exec (.fadd w) s = execFadd w s := by intros; rfl
@[simp] theorem exec_fsub : ∀ w s, exec (.fsub w) s = execFsub w s := by intros; rfl
@[simp] theorem exec_fmul : ∀ w s, exec (.fmul w) s = execFmul w s := by intros; rfl
@[simp] theorem exec_ffma : ∀ w s, exec (.ffma w) s = execFfma w s := by intros; rfl
@[simp] theorem exec_ffnma : ∀ w s, exec (.ffnma w) s = execFfnma w s := by intros; rfl
@[simp] theorem exec_fmin : ∀ w s, exec (.fmin w) s = execFmin w s := by intros; rfl
@[simp] theorem exec_fmax : ∀ w s, exec (.fmax w) s = execFmax w s := by intros; rfl
@[simp] theorem exec_fceq : ∀ w s, exec (.fceq w) s = execFceq w s := by intros; rfl
@[simp] theorem exec_fcne : ∀ w s, exec (.fcne w) s = execFcne w s := by intros; rfl
@[simp] theorem exec_fclt : ∀ w s, exec (.fclt w) s = execFclt w s := by intros; rfl
@[simp] theorem exec_fcle : ∀ w s, exec (.fcle w) s = execFcle w s := by intros; rfl
@[simp] theorem exec_fcun : ∀ w s, exec (.fcun w) s = execFcun w s := by intros; rfl
@[simp] theorem exec_fclass : ∀ w s, exec (.fclass w) s = execFclass w s := by intros; rfl
@[simp] theorem exec_frnd : ∀ w s, exec (.frnd w) s = execFrnd w s := by intros; rfl
@[simp] theorem exec_dadd : ∀ w s, exec (.dadd w) s = execDadd w s := by intros; rfl
@[simp] theorem exec_dsub : ∀ w s, exec (.dsub w) s = execDsub w s := by intros; rfl
@[simp] theorem exec_dmul : ∀ w s, exec (.dmul w) s = execDmul w s := by intros; rfl
@[simp] theorem exec_dfma : ∀ w s, exec (.dfma w) s = execDfma w s := by intros; rfl
@[simp] theorem exec_dfnma : ∀ w s, exec (.dfnma w) s = execDfnma w s := by intros; rfl
@[simp] theorem exec_dmin : ∀ w s, exec (.dmin w) s = execDmin w s := by intros; rfl
@[simp] theorem exec_dmax : ∀ w s, exec (.dmax w) s = execDmax w s := by intros; rfl
@[simp] theorem exec_dceq : ∀ w s, exec (.dceq w) s = execDceq w s := by intros; rfl
@[simp] theorem exec_dcne : ∀ w s, exec (.dcne w) s = execDcne w s := by intros; rfl
@[simp] theorem exec_dclt : ∀ w s, exec (.dclt w) s = execDclt w s := by intros; rfl
@[simp] theorem exec_dcle : ∀ w s, exec (.dcle w) s = execDcle w s := by intros; rfl
@[simp] theorem exec_dcun : ∀ w s, exec (.dcun w) s = execDcun w s := by intros; rfl
@[simp] theorem exec_drnd : ∀ w s, exec (.drnd w) s = execDrnd w s := by intros; rfl
@[simp] theorem exec_hadd2 : ∀ w s, exec (.hadd2 w) s = execHadd2 w s := by intros; rfl
@[simp] theorem exec_hsub2 : ∀ w s, exec (.hsub2 w) s = execHsub2 w s := by intros; rfl
@[simp] theorem exec_hmul2 : ∀ w s, exec (.hmul2 w) s = execHmul2 w s := by intros; rfl
@[simp] theorem exec_hfma2 : ∀ w s, exec (.hfma2 w) s = execHfma2 w s := by intros; rfl
@[simp] theorem exec_hmin2 : ∀ w s, exec (.hmin2 w) s = execHmin2 w s := by intros; rfl
@[simp] theorem exec_hmax2 : ∀ w s, exec (.hmax2 w) s = execHmax2 w s := by intros; rfl
@[simp] theorem exec_dot2 : ∀ w s, exec (.dot2 w) s = execDot2 w s := by intros; rfl
@[simp] theorem exec_dot4 : ∀ w s, exec (.dot4 w) s = execDot4 w s := by intros; rfl
@[simp] theorem exec_idot4 : ∀ w s, exec (.idot4 w) s = execIdot4 w s := by intros; rfl
@[simp] theorem exec_rcp : ∀ w s, exec (.rcp w) s = execRcp w s := by intros; rfl
@[simp] theorem exec_rsq : ∀ w s, exec (.rsq w) s = execRsq w s := by intros; rfl
@[simp] theorem exec_sqrt : ∀ w s, exec (.sqrt w) s = execSqrt w s := by intros; rfl
@[simp] theorem exec_exp2 : ∀ w s, exec (.exp2 w) s = execExp2 w s := by intros; rfl
@[simp] theorem exec_log2 : ∀ w s, exec (.log2 w) s = execLog2 w s := by intros; rfl
@[simp] theorem exec_sinpi : ∀ w s, exec (.sinpi w) s = execSinpi w s := by intros; rfl
@[simp] theorem exec_cospi : ∀ w s, exec (.cospi w) s = execCospi w s := by intros; rfl
@[simp] theorem exec_tanh : ∀ w s, exec (.tanh w) s = execTanh w s := by intros; rfl
@[simp] theorem exec_drcp : ∀ w s, exec (.drcp w) s = execDrcp w s := by intros; rfl
@[simp] theorem exec_dsqrt : ∀ w s, exec (.dsqrt w) s = execDsqrt w s := by intros; rfl
@[simp] theorem exec_iadd : ∀ w s, exec (.iadd w) s = execIadd w s := by intros; rfl
@[simp] theorem exec_isub : ∀ w s, exec (.isub w) s = execIsub w s := by intros; rfl
@[simp] theorem exec_imul : ∀ w s, exec (.imul w) s = execImul w s := by intros; rfl
@[simp] theorem exec_imad : ∀ w s, exec (.imad w) s = execImad w s := by intros; rfl
@[simp] theorem exec_imulh : ∀ w s, exec (.imulh w) s = execImulh w s := by intros; rfl
@[simp] theorem exec_imin : ∀ w s, exec (.imin w) s = execImin w s := by intros; rfl
@[simp] theorem exec_imax : ∀ w s, exec (.imax w) s = execImax w s := by intros; rfl
@[simp] theorem exec_iabs : ∀ w s, exec (.iabs w) s = execIabs w s := by intros; rfl
@[simp] theorem exec_ishl : ∀ w s, exec (.ishl w) s = execIshl w s := by intros; rfl
@[simp] theorem exec_ishr : ∀ w s, exec (.ishr w) s = execIshr w s := by intros; rfl
@[simp] theorem exec_isra : ∀ w s, exec (.isra w) s = execIsra w s := by intros; rfl
@[simp] theorem exec_vlut : ∀ w s, exec (.vlut w) s = execVlut w s := by intros; rfl
@[simp] theorem exec_isum3 : ∀ w s, exec (.isum3 w) s = execIsum3 w s := by intros; rfl
@[simp] theorem exec_iceq : ∀ w s, exec (.iceq w) s = execIceq w s := by intros; rfl
@[simp] theorem exec_icne : ∀ w s, exec (.icne w) s = execIcne w s := by intros; rfl
@[simp] theorem exec_iclt : ∀ w s, exec (.iclt w) s = execIclt w s := by intros; rfl
@[simp] theorem exec_icle : ∀ w s, exec (.icle w) s = execIcle w s := by intros; rfl
@[simp] theorem exec_icltb : ∀ w s, exec (.icltb w) s = execIcltb w s := by intros; rfl
@[simp] theorem exec_icleb : ∀ w s, exec (.icleb w) s = execIcleb w s := by intros; rfl
@[simp] theorem exec_vpopc : ∀ w s, exec (.vpopc w) s = execVpopc w s := by intros; rfl
@[simp] theorem exec_vclz : ∀ w s, exec (.vclz w) s = execVclz w s := by intros; rfl
@[simp] theorem exec_brev : ∀ w s, exec (.brev w) s = execBrev w s := by intros; rfl
@[simp] theorem exec_bfx : ∀ w s, exec (.bfx w) s = execBfx w s := by intros; rfl
@[simp] theorem exec_bfi : ∀ w s, exec (.bfi w) s = execBfi w s := by intros; rfl
@[simp] theorem exec_iadd64 : ∀ w s, exec (.iadd64 w) s = execIadd64 w s := by intros; rfl
@[simp] theorem exec_imad64 : ∀ w s, exec (.imad64 w) s = execImad64 w s := by intros; rfl
@[simp] theorem exec_cvt : ∀ w s, exec (.cvt w) s = execCvt w s := by intros; rfl
@[simp] theorem exec_cvti : ∀ w s, exec (.cvti w) s = execCvti w s := by intros; rfl
@[simp] theorem exec_pk2 : ∀ w s, exec (.pk2 w) s = execPk2 w s := by intros; rfl
@[simp] theorem exec_pk4 : ∀ w s, exec (.pk4 w) s = execPk4 w s := by intros; rfl
@[simp] theorem exec_unpk2 : ∀ w s, exec (.unpk2 w) s = execUnpk2 w s := by intros; rfl
@[simp] theorem exec_unpk4 : ∀ w s, exec (.unpk4 w) s = execUnpk4 w s := by intros; rfl
@[simp] theorem exec_mxq : ∀ w s, exec (.mxq w) s = execMxq w s := by intros; rfl
@[simp] theorem exec_mxdq : ∀ w s, exec (.mxdq w) s = execMxdq w s := by intros; rfl
@[simp] theorem exec_vmov : ∀ w s, exec (.vmov w) s = execVmov w s := by intros; rfl
@[simp] theorem exec_vmovi : ∀ w s, exec (.vmovi w) s = execVmovi w s := by intros; rfl
@[simp] theorem exec_vsel : ∀ w s, exec (.vsel w) s = execVsel w s := by intros; rfl
@[simp] theorem exec_viota : ∀ w s, exec (.viota w) s = execViota w s := by intros; rfl
@[simp] theorem exec_vperm : ∀ w s, exec (.vperm w) s = execVperm w s := by intros; rfl
@[simp] theorem exec_bcast : ∀ w s, exec (.bcast w) s = execBcast w s := by intros; rfl
@[simp] theorem exec_redux : ∀ w s, exec (.redux w) s = execRedux w s := by intros; rfl
@[simp] theorem exec_scan : ∀ w s, exec (.scan w) s = execScan w s := by intros; rfl
@[simp] theorem exec_vtag : ∀ w s, exec (.vtag w) s = execVtag w s := by intros; rfl
@[simp] theorem exec_vunif : ∀ w s, exec (.vunif w) s = execVunif w s := by intros; rfl
@[simp] theorem exec_vdef : ∀ w s, exec (.vdef w) s = execVdef w s := by intros; rfl
@[simp] theorem exec_vmovsToVector : ∀ w s, exec (.vmovsToVector w) s = execVmovsToVector w s := by intros; rfl
@[simp] theorem exec_vmovsToScalar : ∀ w s, exec (.vmovsToScalar w) s = execVmovsToScalar w s := by intros; rfl
@[simp] theorem exec_vreadl : ∀ w s, exec (.vreadl w) s = execVreadl w s := by intros; rfl
@[simp] theorem exec_plut : ∀ w s, exec (.plut w) s = execPlut w s := by intros; rfl
@[simp] theorem exec_pmov : ∀ w s, exec (.pmov w) s = execPmov w s := by intros; rfl
@[simp] theorem exec_vld : ∀ w s, exec (.vld w) s = execVld w s := by intros; rfl
@[simp] theorem exec_vst : ∀ w s, exec (.vst w) s = execVst w s := by intros; rfl
@[simp] theorem exec_vldro : ∀ w s, exec (.vldro w) s = execVldro w s := by intros; rfl
@[simp] theorem exec_vatom : ∀ w s, exec (.vatom w) s = execVatom w s := by intros; rfl
@[simp] theorem exec_vatomcas : ∀ w s, exec (.vatomcas w) s = execVatomcas w s := by intros; rfl
@[simp] theorem exec_vfadd : ∀ w s, exec (.vfadd w) s = execVfadd w s := by intros; rfl
@[simp] theorem exec_vquad : ∀ w s, exec (.vquad w) s = execVquad w s := by intros; rfl
@[simp] theorem exec_vpref : ∀ w s, exec (.vpref w) s = execVpref w s := by intros; rfl
@[simp] theorem exec_pxw : ∀ w s, exec (.pxw w) s = execPxw w s := by intros; rfl
@[simp] theorem exec_vxm : ∀ w s, exec (.vxm w) s = execVxm w s := by intros; rfl
@[simp] theorem exec_xbox : ∀ w s, exec (.xbox w) s = execXbox w s := by intros; rfl
@[simp] theorem exec_xtri : ∀ w s, exec (.xtri w) s = execXtri w s := by intros; rfl
@[simp] theorem exec_xstep : ∀ w s, exec (.xstep w) s = execXstep w s := by intros; rfl
@[simp] theorem exec_fenceRo : ∀ s, exec (.fenceRo) s = execFenceRo s := by intros; rfl
@[simp] theorem exec_eret : ∀ s, exec (.eret) s = execEret s := by intros; rfl
@[simp] theorem exec_yield : ∀ s, exec (.yield) s = execYield s := by intros; rfl
@[simp] theorem exec_nop : ∀ s, exec (.nop) s = execNop s := by intros; rfl
@[simp] theorem exec_bkpt : ∀ s, exec (.bkpt) s = execBkpt s := by intros; rfl
@[simp] theorem exec_endStream : ∀ s, exec (.endStream) s = execEndStream s := by intros; rfl
@[simp] theorem exec_kill : ∀ s, exec (.kill) s = execKill s := by intros; rfl
@[simp] theorem exec_orls : ∀ s, exec (.orls) s = execOrls s := by intros; rfl
@[simp] theorem exec_xstepPop : ∀ s, exec (.xstepPop) s = execXstepPop s := by intros; rfl
@[simp] theorem exec_xtile : ∀ s, exec (.xtile) s = execXtile s := by intros; rfl
@[simp] theorem exec_pairedWord : ∀ s, exec (.pairedWord) s = execPairedWord s := by intros; rfl
@[simp] theorem exec_cyclesExpiry : ∀ task k s, exec (.cyclesExpiry task k) s = execCyclesExpiry task k s := by intros; rfl
@[simp] theorem exec_stallExpiry : ∀ task s, exec (.stallExpiry task) s = execStallExpiry task s := by intros; rfl
@[simp] theorem exec_runGrant : ∀ core k s, exec (.runGrant core k) s = execRunGrant core k s := by intros; rfl
@[simp] theorem exec_matrixOpCompletion : ∀ task op s, exec (.matrixOpCompletion task op) s = execMatrixOpCompletion task op s := by intros; rfl
@[simp] theorem exec_copyCompletion : ∀ task op s, exec (.copyCompletion task op) s = execCopyCompletion task op s := by intros; rfl
@[simp] theorem exec_tilePassage : ∀ core crcOk s, exec (.tilePassage core crcOk) s = execTilePassage core crcOk s := by intros; rfl
@[simp] theorem exec_layerStart : ∀ s, exec (.layerStart) s = execLayerStart s := by intros; rfl
@[simp] theorem exec_pxwLanePerform : ∀ die lane s, exec (.pxwLanePerform die lane) s = execPxwLanePerform die lane s := by intros; rfl
@[simp] theorem exec_trapEntry : ∀ task s, exec (.trapEntry task) s = execTrapEntry task s := by intros; rfl
@[simp] theorem exec_taskRetire : ∀ task s, exec (.taskRetire task) s = execTaskRetire task s := by intros; rfl
@[simp] theorem exec_placeBlock : ∀ cores bases s, exec (.placeBlock cores bases) s = execPlaceBlock cores bases s := by intros; rfl
@[simp] theorem exec_blockEviction : ∀ block s, exec (.blockEviction block) s = execBlockEviction block s := by intros; rfl
@[simp] theorem exec_blockResumption : ∀ block cores bases s, exec (.blockResumption block cores bases) s = execBlockResumption block cores bases s := by intros; rfl
@[simp] theorem exec_commit : ∀ launch s, exec (.commit launch) s = execCommit launch s := by intros; rfl
@[simp] theorem exec_dispatch : ∀ slot s, exec (.dispatch slot) s = execDispatch slot s := by intros; rfl
@[simp] theorem exec_join : ∀ slot s, exec (.join slot) s = execJoin slot s := by intros; rfl
@[simp] theorem exec_joinRelease : ∀ slot s, exec (.joinRelease slot) s = execJoinRelease slot s := by intros; rfl
@[simp] theorem exec_graph : ∀ slot s, exec (.graph slot) s = execGraph slot s := by intros; rfl
@[simp] theorem exec_marker : ∀ slot s, exec (.marker slot) s = execMarker slot s := by intros; rfl
@[simp] theorem exec_markerResolve : ∀ slot s, exec (.markerResolve slot) s = execMarkerResolve slot s := by intros; rfl
@[simp] theorem exec_batchFlushTimeout : ∀ node s, exec (.batchFlushTimeout node) s = execBatchFlushTimeout node s := by intros; rfl
@[simp] theorem exec_notify : ∀ slot word s, exec (.notify slot word) s = execNotify slot word s := by intros; rfl
@[simp] theorem exec_mapQueue : ∀ cmd s, exec (.mapQueue cmd) s = execMapQueue cmd s := by intros; rfl
@[simp] theorem exec_unmapQueue : ∀ cmd s, exec (.unmapQueue cmd) s = execUnmapQueue cmd s := by intros; rfl
@[simp] theorem exec_send : ∀ qpn payload s, exec (.send qpn payload) s = execSend qpn payload s := by intros; rfl
@[simp] theorem exec_rdmaWrite : ∀ qpn rkey va data s, exec (.rdmaWrite qpn rkey va data) s = execRdmaWrite qpn rkey va data s := by intros; rfl
@[simp] theorem exec_rdmaRead : ∀ qpn rkey va len s, exec (.rdmaRead qpn rkey va len) s = execRdmaRead qpn rkey va len s := by intros; rfl
@[simp] theorem exec_refusedOperation : ∀ qpn s, exec (.refusedOperation qpn) s = execRefusedOperation qpn s := by intros; rfl
@[simp] theorem exec_cnp : ∀ qpn s, exec (.cnp qpn) s = execCnp qpn s := by intros; rfl
@[simp] theorem exec_connectionRequest : ∀ port desc s, exec (.connectionRequest port desc) s = execConnectionRequest port desc s := by intros; rfl
@[simp] theorem exec_create : ∀ qpn s, exec (.create qpn) s = execCreate qpn s := by intros; rfl
@[simp] theorem exec_destroy : ∀ s, exec (.destroy) s = execDestroy s := by intros; rfl
@[simp] theorem exec_rgninv : ∀ index s, exec (.rgninv index) s = execRgninv index s := by intros; rfl
@[simp] theorem exec_flaoriRequest : ∀ msg s, exec (.flaoriRequest msg) s = execFlaoriRequest msg s := by intros; rfl
@[simp] theorem exec_flaoriChunk : ∀ src tag seq off data good s, exec (.flaoriChunk src tag seq off data good) s = execFlaoriChunk src tag seq off data good s := by intros; rfl
@[simp] theorem exec_flaoriSilenceTimeout : ∀ peer s, exec (.flaoriSilenceTimeout peer) s = execFlaoriSilenceTimeout peer s := by intros; rfl
@[simp] theorem exec_linkDown : ∀ port s, exec (.linkDown port) s = execLinkDown port s := by intros; rfl
@[simp] theorem exec_linkUp : ∀ port s, exec (.linkUp port) s = execLinkUp port s := by intros; rfl
@[simp] theorem exec_tlbicmdPartition : ∀ cmd s, exec (.tlbicmdPartition cmd) s = execTlbicmdPartition cmd s := by intros; rfl
@[simp] theorem exec_tlbicmdRange : ∀ cmd s, exec (.tlbicmdRange cmd) s = execTlbicmdRange cmd s := by intros; rfl
@[simp] theorem exec_pageReadDone : ∀ id res s, exec (.pageReadDone id res) s = execPageReadDone id res s := by intros; rfl
@[simp] theorem exec_evict : ∀ part frame s, exec (.evict part frame) s = execEvict part frame s := by intros; rfl
@[simp] theorem exec_writeBackDone : ∀ part res s, exec (.writeBackDone part res) s = execWriteBackDone part res s := by intros; rfl
@[simp] theorem exec_nvmeCommandTimeout : ∀ id s, exec (.nvmeCommandTimeout id) s = execNvmeCommandTimeout id s := by intros; rfl
@[simp] theorem exec_admaddr : ∀ ssd addr s, exec (.admaddr ssd addr) s = execAdmaddr ssd addr s := by intros; rfl
@[simp] theorem exec_ssdReset : ∀ ssd s, exec (.ssdReset ssd) s = execSsdReset ssd s := by intros; rfl
@[simp] theorem exec_healthPoll : ∀ ssd log s, exec (.healthPoll ssd log) s = execHealthPoll ssd log s := by intros; rfl
@[simp] theorem exec_selfRefreshEntry : ∀ ch s, exec (.selfRefreshEntry ch) s = execSelfRefreshEntry ch s := by intros; rfl
@[simp] theorem exec_scrubRead : ∀ sector found raced s, exec (.scrubRead sector found raced) s = execScrubRead sector found raced s := by intros; rfl
@[simp] theorem exec_softError : ∀ site double s, exec (.softError site double) s = execSoftError site double s := by intros; rfl
@[simp] theorem exec_retire : ∀ die slice s, exec (.retire die slice) s = execRetire die slice s := by intros; rfl
@[simp] theorem exec_sliceAutoRetire : ∀ die slice s, exec (.sliceAutoRetire die slice) s = execSliceAutoRetire die slice s := by intros; rfl
@[simp] theorem exec_clr : ∀ die s, exec (.clr die) s = execClr die s := by intros; rfl
@[simp] theorem exec_apply : ∀ part s, exec (.apply part) s = execApply part s := by intros; rfl
@[simp] theorem exec_swap : ∀ part s, exec (.swap part) s = execSwap part s := by intros; rfl
@[simp] theorem exec_boot : ∀ env s, exec (.boot env) s = execBoot env s := by intros; rfl
@[simp] theorem exec_stageTimeout : ∀ stage s, exec (.stageTimeout stage) s = execStageTimeout stage s := by intros; rfl
@[simp] theorem exec_recover : ∀ flashOk s, exec (.recover flashOk) s = execRecover flashOk s := by intros; rfl
@[simp] theorem exec_update : ∀ flashOk s, exec (.update flashOk) s = execUpdate flashOk s := by intros; rfl
@[simp] theorem exec_getMeasurements : ∀ qpn index s, exec (.getMeasurements qpn index) s = execGetMeasurements qpn index s := by intros; rfl
@[simp] theorem exec_load : ∀ s, exec (.load) s = execLoad s := by intros; rfl
@[simp] theorem exec_speedWrite : ∀ cmd s, exec (.speedWrite cmd) s = execSpeedWrite cmd s := by intros; rfl
@[simp] theorem exec_pwrcmdNap : ∀ s, exec (.pwrcmdNap) s = execPwrcmdNap s := by intros; rfl
@[simp] theorem exec_pwrcmdSleep : ∀ s, exec (.pwrcmdSleep) s = execPwrcmdSleep s := by intros; rfl
@[simp] theorem exec_pwrcmdWake : ∀ s, exec (.pwrcmdWake) s = execPwrcmdWake s := by intros; rfl
@[simp] theorem exec_pwrcmdOff : ∀ s, exec (.pwrcmdOff) s = execPwrcmdOff s := by intros; rfl
@[simp] theorem exec_idleEntry : ∀ s, exec (.idleEntry) s = execIdleEntry s := by intros; rfl
@[simp] theorem exec_idleWake : ∀ s, exec (.idleWake) s = execIdleWake s := by intros; rfl
@[simp] theorem exec_napWake : ∀ s, exec (.napWake) s = execNapWake s := by intros; rfl
@[simp] theorem exec_powerLoss : ∀ s, exec (.powerLoss) s = execPowerLoss s := by intros; rfl
@[simp] theorem exec_debugHaltRequest : ∀ task s, exec (.debugHaltRequest task) s = execDebugHaltRequest task s := by intros; rfl
@[simp] theorem exec_debugResume : ∀ task s, exec (.debugResume task) s = execDebugResume task s := by intros; rfl
@[simp] theorem exec_registerWrite : ∀ off val s, exec (.registerWrite off val) s = execRegisterWrite off val s := by intros; rfl
@[simp] theorem exec_storeQueueDrain : ∀ task k s, exec (.storeQueueDrain task k) s = execStoreQueueDrain task k s := by intros; rfl
@[simp] theorem exec_scoreboardedWordCompletion : ∀ task s, exec (.scoreboardedWordCompletion task) s = execScoreboardedWordCompletion task s := by intros; rfl
@[simp] theorem exec_badpacket : ∀ slot s, exec (.badpacket slot) s = execBadpacket slot s := by intros; rfl
@[simp] theorem exec_ringfault : ∀ slot s, exec (.ringfault slot) s = execRingfault slot s := by intros; rfl
@[simp] theorem exec_droppedFrame : ∀ port why s, exec (.droppedFrame port why) s = execDroppedFrame port why s := by intros; rfl
@[simp] theorem exec_selfRefreshExit : ∀ ch s, exec (.selfRefreshExit ch) s = execSelfRefreshExit ch s := by intros; rfl
@[simp] theorem exec_adminCompletion : ∀ ssd entry s, exec (.adminCompletion ssd entry) s = execAdminCompletion ssd entry s := by intros; rfl
@[simp] theorem exec_ssdReady : ∀ ssd s, exec (.ssdReady ssd) s = execSsdReady ssd s := by intros; rfl
@[simp] theorem exec_ssdLinkDown : ∀ ssd s, exec (.ssdLinkDown ssd) s = execSsdLinkDown ssd s := by intros; rfl
@[simp] theorem exec_localAckTimeout : ∀ qpn s, exec (.localAckTimeout qpn) s = execLocalAckTimeout qpn s := by intros; rfl
@[simp] theorem exec_flaoriKeepalive : ∀ peer s, exec (.flaoriKeepalive peer) s = execFlaoriKeepalive peer s := by intros; rfl
@[simp] theorem exec_flaoriLostChunk : ∀ src tag seq off s, exec (.flaoriLostChunk src tag seq off) s = execFlaoriLostChunk src tag seq off s := by intros; rfl
@[simp] theorem exec_debugRequest : ∀ state part signed s, exec (.debugRequest state part signed) s = execDebugRequest state part signed s := by intros; rfl
@[simp] theorem exec_fuseCommand : ∀ target signed s, exec (.fuseCommand target signed) s = execFuseCommand target signed s := by intros; rfl

end Sys2Proof.Machine
end

