-- ==== Sys2Proof/Laws/State.lean ====
section
/-! SUPPORT. One lemma per field and update of the state: streams, tasks, registers, and what replacing a task leaves. -/
namespace Sys2Proof.Machine

/-! ## Streams of a task -/

@[simp] theorem Streams.get_set (x : Streams) (k : StreamId) (st : StreamSt) : (x.set k st).get k = st := by
  cases k <;> rfl
theorem Streams.get_set_ne (x : Streams) {j k : StreamId} (st : StreamSt) (h : j ≠ k) : (x.set k st).get j = x.get j := by
  cases j <;> cases k <;> first | rfl | exact absurd rfl h

@[simp] theorem Task.st_setSt (t : Task) (k : StreamId) (st : StreamSt) : (t.setSt k st).st k = st :=
  Streams.get_set t.str k st
theorem Task.st_setSt_ne (t : Task) {j k : StreamId} (st : StreamSt) (h : j ≠ k) : (t.setSt k st).st j = t.st j :=
  Streams.get_set_ne t.str st h
@[simp] theorem Task.setSt_uid (t : Task) (k : StreamId) (st : StreamSt) : (t.setSt k st).uid = t.uid := rfl
@[simp] theorem Task.setSt_det (t : Task) (k : StreamId) (st : StreamSt) : (t.setSt k st).det = t.det := rfl
@[simp] theorem Task.setSt_block (t : Task) (k : StreamId) (st : StreamSt) : (t.setSt k st).block = t.block := rfl
@[simp] theorem Task.setSt_preds (t : Task) (k : StreamId) (st : StreamSt) : (t.setSt k st).preds = t.preds := rfl
@[simp] theorem Task.setSt_vregs (t : Task) (k : StreamId) (st : StreamSt) : (t.setSt k st).vregs = t.vregs := rfl
@[simp] theorem Task.setSt_tmode (t : Task) (k : StreamId) (st : StreamSt) : (t.setSt k st).tmode = t.tmode := rfl
@[simp] theorem Task.setSt_quantum (t : Task) (k : StreamId) (st : StreamSt) : (t.setSt k st).quantum = t.quantum := rfl
@[simp] theorem Task.setSt_sems (t : Task) (k : StreamId) (st : StreamSt) : (t.setSt k st).sems = t.sems := rfl
@[simp] theorem Task.setSt_semQ (t : Task) (k : StreamId) (st : StreamSt) : (t.setSt k st).semQ = t.semQ := rfl
@[simp] theorem Task.setSt_acc (t : Task) (k : StreamId) (st : StreamSt) : (t.setSt k st).acc = t.acc := rfl
@[simp] theorem Task.setSt_setSt (t : Task) (k : StreamId) (a b : StreamSt) : (t.setSt k a).setSt k b = t.setSt k b := by
  cases k <;> rfl
@[simp] theorem Task.setSt_st (t : Task) (k : StreamId) : t.setSt k (t.st k) = t := by
  cases k <;> rfl

/-! ## A stream that has issued -/

@[simp] theorem Task.advance_pc (t : Task) (st : StreamSt) (n : Nat) : (t.advance st n).pc = st.pc + BitVec.ofNat 64 (4 * n) := rfl
@[simp] theorem Task.advance_regs (t : Task) (st : StreamSt) (n : Nat) : (t.advance st n).regs = st.regs := rfl
@[simp] theorem Task.advance_fpmode (t : Task) (st : StreamSt) (n : Nat) : (t.advance st n).fpmode = st.fpmode := rfl
@[simp] theorem Task.advance_fpflags (t : Task) (st : StreamSt) (n : Nat) : (t.advance st n).fpflags = st.fpflags := rfl
@[simp] theorem Task.advance_srcnt (t : Task) (st : StreamSt) (n : Nat) : (t.advance st n).srcnt = st.srcnt := rfl
@[simp] theorem Task.advance_cyc (t : Task) (st : StreamSt) (n : Nat) : (t.advance st n).cyc = st.cyc := rfl
@[simp] theorem Task.advance_queue (t : Task) (st : StreamSt) (n : Nat) : (t.advance st n).queue = st.queue := rfl
@[simp] theorem Task.advance_ro (t : Task) (st : StreamSt) (n : Nat) : (t.advance st n).ro = st.ro := rfl
@[simp] theorem Task.advance_seen (t : Task) (st : StreamSt) (n : Nat) : (t.advance st n).seen = st.seen := rfl
@[simp] theorem Task.advance_reg (t : Task) (st : StreamSt) (n : Nat) (r : BitVec 5) : (t.advance st n).reg r = st.reg r := rfl

/-! ## Scalar registers -/

/-- s31 reads as zero (R32). -/
@[simp] theorem StreamSt.reg_zero (st : StreamSt) : st.reg 31 = 0 := rfl
/-- A write to s31 is discarded (R32). -/
@[simp] theorem StreamSt.setReg_zero (st : StreamSt) (v : Word) : st.setReg 31 v = st := rfl

theorem StreamSt.reg_of_ne (st : StreamSt) {r : BitVec 5} (h : r ≠ 31) : st.reg r = st.regs[r.toNat] := if_neg h
theorem StreamSt.setReg_of_ne (st : StreamSt) {r : BitVec 5} (h : r ≠ 31) (v : Word) :
    st.setReg r v = { st with regs := st.regs.set r.toNat v } := if_neg h

/-- A register reads what was written to it last; s31 reads zero (R32). -/
theorem StreamSt.reg_setReg (st : StreamSt) (r x : BitVec 5) (v : Word) :
    (st.setReg r v).reg x = if x = r ∧ r ≠ 31 then v else st.reg x := by
  by_cases hr : r = 31
  · rw [hr, StreamSt.setReg_zero, if_neg (fun h => h.2 rfl)]
  · by_cases hx : x = 31
    · subst hx
      rw [if_neg (fun h => hr h.1.symm)]; rfl
    · rw [StreamSt.setReg_of_ne _ hr, StreamSt.reg_of_ne _ hx, StreamSt.reg_of_ne _ hx]
      by_cases e : x = r
      · subst e; simp only [Vector.getElem_set_self, true_and]; rw [if_pos hr]
      · have : r.toNat ≠ x.toNat := fun h => e (BitVec.eq_of_toNat_eq h.symm)
        rw [if_neg (fun h => e h.1)]
        exact Vector.getElem_set_ne r.isLt x.isLt this

@[simp] theorem StreamSt.setReg_pc (st : StreamSt) (r : BitVec 5) (v : Word) : (st.setReg r v).pc = st.pc := by
  unfold StreamSt.setReg; split <;> rfl
@[simp] theorem StreamSt.setReg_queue (st : StreamSt) (r : BitVec 5) (v : Word) : (st.setReg r v).queue = st.queue := by
  unfold StreamSt.setReg; split <;> rfl
@[simp] theorem StreamSt.setReg_fpmode (st : StreamSt) (r : BitVec 5) (v : Word) : (st.setReg r v).fpmode = st.fpmode := by
  unfold StreamSt.setReg; split <;> rfl
@[simp] theorem StreamSt.setReg_fpflags (st : StreamSt) (r : BitVec 5) (v : Word) : (st.setReg r v).fpflags = st.fpflags := by
  unfold StreamSt.setReg; split <;> rfl
@[simp] theorem StreamSt.setReg_srcnt (st : StreamSt) (r : BitVec 5) (v : Word) : (st.setReg r v).srcnt = st.srcnt := by
  unfold StreamSt.setReg; split <;> rfl
@[simp] theorem StreamSt.setReg_status (st : StreamSt) (r : BitVec 5) (v : Word) : (st.setReg r v).status = st.status := by
  unfold StreamSt.setReg; split <;> rfl
@[simp] theorem StreamSt.setPair_pc (st : StreamSt) (p : BitVec 4) (v : Dword) : (st.setPair p v).pc = st.pc := by
  simp [StreamSt.setPair]
@[simp] theorem StreamSt.setPair_queue (st : StreamSt) (p : BitVec 4) (v : Dword) : (st.setPair p v).queue = st.queue := by
  simp [StreamSt.setPair]
@[simp] theorem StreamSt.setPair_fpmode (st : StreamSt) (p : BitVec 4) (v : Dword) : (st.setPair p v).fpmode = st.fpmode := by
  simp [StreamSt.setPair]
@[simp] theorem StreamSt.setPair_fpflags (st : StreamSt) (p : BitVec 4) (v : Dword) : (st.setPair p v).fpflags = st.fpflags := by
  simp [StreamSt.setPair]
@[simp] theorem StreamSt.setPair_srcnt (st : StreamSt) (p : BitVec 4) (v : Dword) : (st.setPair p v).srcnt = st.srcnt := by
  simp [StreamSt.setPair]

theorem pairLo_ne_pairHi : ∀ p q : BitVec 4, pairLo p ≠ pairHi q := by decide

theorem StreamSt.reg_setPair_of_ne (st : StreamSt) (p : BitVec 4) (v : Dword) {r : BitVec 5} (h1 : r ≠ pairLo p)
    (h2 : r ≠ pairHi p) : (st.setPair p v).reg r = st.reg r := by
  unfold StreamSt.setPair
  rw [StreamSt.reg_setReg, StreamSt.reg_setReg, if_neg (fun h => h2 h.1), if_neg (fun h => h1 h.1)]

theorem pairLo_ne : ∀ {p : BitVec 4}, pairLo p ≠ 31 := by decide
theorem pairHi_ne : ∀ {p : BitVec 4}, p ≠ 15 → pairHi p ≠ 31 := by decide

theorem Dword.mk_lo_hi (v : Dword) : Dword.mk v.lo v.hi = v := by
  apply BitVec.eq_of_getLsbD_eq
  intro i hi
  simp only [Dword.mk, Dword.lo, Dword.hi, BitVec.getLsbD_append, BitVec.getLsbD_extractLsb']
  by_cases h : i < 32
  · simp [h]
  · simp [h, show i - 32 < 32 by omega, show 32 + (i - 32) = i by omega]

/-- A pair other than s30:31 reads back what was written (R32). -/
theorem StreamSt.pair_setPair (st : StreamSt) {p : BitVec 4} (v : Dword) (h : p ≠ 15) : (st.setPair p v).pair p = v := by
  unfold StreamSt.setPair StreamSt.pair
  rw [StreamSt.reg_setReg, StreamSt.reg_setReg, StreamSt.reg_setReg,
    if_neg (fun e => pairLo_ne_pairHi _ _ e.1), if_pos ⟨rfl, pairLo_ne⟩, if_pos ⟨rfl, pairHi_ne h⟩, Dword.mk_lo_hi]

/-! ## Tasks of the package -/

theorem find_map_other {l : List Task} {t : Task} {u : Nat} (h : u ≠ t.uid) :
    (l.map fun x => if x.uid == t.uid then t else x).find? (fun x => x.uid == u) = l.find? fun x => x.uid == u := by
  induction l with
  | nil => rfl
  | cons x xs ih =>
    rw [List.map_cons, List.find?_cons, List.find?_cons, ih]
    by_cases hx : x.uid = t.uid
    · rw [if_pos (beq_iff_eq.2 hx), hx, beq_false_of_ne (Ne.symm h)]
    · rw [if_neg (by simpa using hx)]

theorem find_map_self {l : List Task} {t : Task} (h : (l.find? fun x => x.uid == t.uid).isSome) :
    (l.map fun x => if x.uid == t.uid then t else x).find? (fun x => x.uid == t.uid) = some t := by
  induction l with
  | nil => simp at h
  | cons x xs ih =>
    rw [List.map_cons, List.find?_cons]
    rw [List.find?_cons] at h
    by_cases hx : x.uid = t.uid
    · rw [if_pos (beq_iff_eq.2 hx)]; simp
    · rw [if_neg (by simpa using hx), show (x.uid == t.uid) = false by simpa using hx]
      rw [show (x.uid == t.uid) = false by simpa using hx] at h
      exact ih h

/-- Replacing a task leaves the others. -/
theorem State.task?_setTask_ne (s : State) (t : Task) {u : Nat} (h : u ≠ t.uid) : (s.setTask t).task? u = s.task? u :=
  find_map_other h

/-- A task replaced is the one found. -/
theorem State.task?_setTask (s : State) (t : Task) (h : (s.task? t.uid).isSome) : (s.setTask t).task? t.uid = some t :=
  find_map_self h

@[simp] theorem State.setTask_byteAt (s : State) (t : Task) (l : Loc) : (s.setTask t).byteAt l = s.byteAt l := by
  cases l <;> rfl
@[simp] theorem State.setTask_blocks (s : State) (t : Task) : (s.setTask t).blocks = s.blocks := rfl
@[simp] theorem State.setTask_cores (s : State) (t : Task) : (s.setTask t).cores = s.cores := rfl
@[simp] theorem State.setTask_mgmt (s : State) (t : Task) : (s.setTask t).mgmt = s.mgmt := rfl
@[simp] theorem State.setTask_poison (s : State) (t : Task) : (s.setTask t).poison = s.poison := rfl
@[simp] theorem State.setTask_focus (s : State) (t : Task) : (s.setTask t).focus = s.focus := rfl
@[simp] theorem State.setTask_fresh (s : State) (t : Task) : (s.setTask t).fresh = s.fresh := rfl
theorem State.setTask_rest (s : State) (t : Task) : { s.setTask t with tasks := s.tasks } = s := rfl

end Sys2Proof.Machine
end

