-- ==== Sys2Proof/Laws/Issue.lean ====
section
/-! SUPPORT. What issuing an instruction can do, and what retiring it changes. -/
namespace Sys2Proof.Machine

/-- An instruction of a class that its stream executes, whose meaning answers a state, goes on to it. -/
theorem issue_next {s : State} {t : Task} {k : StreamId} (h : Issues s t k) {cls : InstrClass} (hk : cls.runsOn k = true)
    {f : Task → StreamId → Except Stop State} {s' : State} (hf : f t k = .ok s') : issue cls s f = .next s' := by
  unfold issue
  rw [h.focus]
  simp only [h.task, h.can, hk, hf, Bool.not_true, Bool.false_eq_true, if_false]

/-- Where the meaning stops, the stop is taken. -/
theorem issue_stop {s : State} {t : Task} {k : StreamId} (h : Issues s t k) {cls : InstrClass} (hk : cls.runsOn k = true)
    {f : Task → StreamId → Except Stop State} {e : Stop} (hf : f t k = .error e) :
    issue cls s f = .next (s.stopped t k e) := by
  unfold issue
  rw [h.focus]
  simp only [h.task, h.can, hk, hf, Bool.not_true, Bool.false_eq_true, if_false]

/-- A class that the stream does not execute raises ILLEGAL, CLASS (R112). -/
theorem issue_class {s : State} {t : Task} {k : StreamId} (h : Issues s t k) {cls : InstrClass} (hk : cls.runsOn k = false)
    (f : Task → StreamId → Except Stop State) :
    issue cls s f = .next (s.takeTrap t k (t.st k).pc false 0 { cls := clsIllegal, sub := 3 }) := by
  unfold issue
  rw [h.focus]
  simp only [h.task, h.can, hk, Bool.not_true, Bool.false_eq_true, if_false, Bool.not_false, if_true]
  rfl

/-- Issuing never stops the machine. -/
theorem issue_goesOn (cls : InstrClass) (s : State) (f : Task → StreamId → Except Stop State) : goesOn (issue cls s f) := by
  unfold issue goesOn
  split
  · exact ⟨_, rfl⟩
  · split
    · exact ⟨_, rfl⟩
    · split
      · exact ⟨_, rfl⟩
      · split
        · exact ⟨_, rfl⟩
        · split <;> exact ⟨_, rfl⟩

/-- A stop that is a trap, of any class but STORAGE, is the taking of that trap. -/
theorem State.stopped_trap (s : State) (t : Task) (k : StreamId) (r : TrapReq) (h : r.cls ≠ clsStorage) :
    s.stopped t k (.trap r) = s.takeTrap t k (t.st k).pc false 0 r := by
  simp only [State.stopped, if_neg h]

/-- The scalar class runs in every stream (R112). -/
@[simp] theorem runsOn_scalar (k : StreamId) : InstrClass.scalar.runsOn k = true := by cases k <;> rfl

/-- An instruction that changes its own stream alone completes by retiring. -/
theorem streamOp_next {s : State} {t : Task} {k : StreamId} (h : Issues s t k) {cls : InstrClass} (hk : cls.runsOn k = true)
    (f : StreamSt → StreamSt) : streamOp cls f s = .next (s.retire t k (f (t.st k))) :=
  issue_next h hk rfl

/-- A task with one stream replaced, in the package: that stream alone has changed. -/
theorem setTask_only {s : State} {t : Task} {k : StreamId} {st : StreamSt} {dst : List (BitVec 5)}
    (h : s.task? t.uid = some t) (hf : StreamFrame (t.st k) st dst) : OnlyStream s (s.setTask (t.setSt k st)) t k dst where
  own := ⟨st, hf, State.task?_setTask s (t.setSt k st) (by rw [Task.setSt_uid, h]; rfl)⟩
  others := fun _ hu => State.task?_setTask_ne s (t.setSt k st) hu
  rest := State.setTask_rest s _
  bytes := fun l => State.setTask_byteAt s _ l

/-- Retiring changes only the stream, as far as the stream's new state does. -/
theorem retire_only {s : State} {t : Task} {k : StreamId} {st : StreamSt} {dst : List (BitVec 5)} (len : Nat)
    (h : s.task? t.uid = some t) (hf : StreamFrame (t.st k) st dst) : OnlyStream s (s.retire t k st len) t k dst :=
  setTask_only h ⟨hf.regs, hf.fpmode, hf.fpflags, hf.srcnt, hf.cyc, hf.queue, hf.ro, hf.seen⟩

theorem branch_only {s : State} {t : Task} {k : StreamId} {st : StreamSt} {dst : List (BitVec 5)} (pc : Dword)
    (h : s.task? t.uid = some t) (hf : StreamFrame (t.st k) st dst) : OnlyStream s (s.branch t k st pc) t k dst :=
  setTask_only h ⟨hf.regs, hf.fpmode, hf.fpflags, hf.srcnt, hf.cyc, hf.queue, hf.ro, hf.seen⟩

theorem StreamFrame.refl (a : StreamSt) (dst : List (BitVec 5)) : StreamFrame a a dst :=
  ⟨fun _ _ => rfl, rfl, rfl, rfl, rfl, rfl, rfl, rfl⟩

/-- A register that is written is a destination. -/
theorem StreamFrame.setReg (a : StreamSt) {b : StreamSt} {dst : List (BitVec 5)} (h : StreamFrame a b dst) {r : BitVec 5}
    (hr : r ∈ dst) (v : Word) : StreamFrame a (b.setReg r v) dst where
  regs := fun x hx => by
    have hn : ¬ (x = r ∧ r ≠ 31) := by rintro ⟨rfl, -⟩; exact hx hr
    rw [StreamSt.reg_setReg, if_neg hn, h.regs x hx]
  fpmode := by simp [h.fpmode]
  fpflags := by simp [h.fpflags]
  srcnt := by simp [h.srcnt]
  cyc := by unfold StreamSt.setReg; split <;> exact h.cyc
  queue := by simp [h.queue]
  ro := by unfold StreamSt.setReg; split <;> exact h.ro
  seen := by unfold StreamSt.setReg; split <;> exact h.seen

theorem StreamFrame.setPair (a : StreamSt) {b : StreamSt} {dst : List (BitVec 5)} (h : StreamFrame a b dst) {p : BitVec 4}
    (hp : ∀ r ∈ halves p, r ∈ dst) (v : Dword) : StreamFrame a (b.setPair p v) dst :=
  (h.setReg a (hp _ (by simp [halves])) _).setReg a (hp _ (by simp [halves])) _

theorem StreamFrame.setTriple (a : StreamSt) {b : StreamSt} {dst : List (BitVec 5)} (h : StreamFrame a b dst) {j : BitVec 5}
    (h0 : j ∈ dst) (h1 : j + 1 ∈ dst) (h2 : j + 2 ∈ dst) (m : Mask) : StreamFrame a (b.setTriple j m) dst :=
  ((h.setReg a h0 _).setReg a h1 _).setReg a h2 _

end Sys2Proof.Machine
end

