-- ==== Sys2Proof/Laws/Mgmt.lean ====
section
/-! SUPPORT. Fields of numbers and of the management registers (R6): what a field reads after a field is written; and what
the operations that reach the management window leave alone. -/
namespace Sys2Proof.Machine

/-! ## Fields of a number -/

theorem bitsOf_lt (v lo len : Nat) : bitsOf v lo len < 2 ^ len := Nat.mod_lt _ (Nat.two_pow_pos _)

/-- A number by its bits above, in and below a field. -/
theorem split_field (v lo len : Nat) :
    v = v / 2 ^ (lo + len) * 2 ^ (lo + len) + bitsOf v lo len * 2 ^ lo + v % 2 ^ lo := by
  have h1 := Nat.div_add_mod v (2 ^ lo)
  have h2 := Nat.div_add_mod (v / 2 ^ lo) (2 ^ len)
  rw [Nat.div_div_eq_div_mul, ← Nat.pow_add] at h2
  unfold bitsOf
  rw [Nat.pow_add] at *
  generalize v / 2 ^ lo = q at *
  generalize v / (2 ^ lo * 2 ^ len) = h at *
  rw [← h2] at h1
  calc v = 2 ^ lo * (2 ^ len * h + q % 2 ^ len) + v % 2 ^ lo := h1.symm
    _ = _ := by ring

theorem putBits_eq (v lo len x : Nat) :
    putBits v lo len x = (v / 2 ^ (lo + len) * 2 ^ len + x % 2 ^ len) * 2 ^ lo + v % 2 ^ lo := by
  have h := split_field v lo len
  have : v - bitsOf v lo len * 2 ^ lo = v / 2 ^ (lo + len) * 2 ^ (lo + len) + v % 2 ^ lo := by omega
  rw [putBits, this, Nat.pow_add]
  ring

/-- A field reads as the value that was put there, cut to its width. -/
theorem bitsOf_putBits (v lo len x : Nat) : bitsOf (putBits v lo len x) lo len = x % 2 ^ len := by
  rw [putBits_eq, bitsOf, Nat.add_comm, Nat.add_mul_div_right _ _ (Nat.two_pow_pos _),
    Nat.div_eq_of_lt (Nat.mod_lt _ (Nat.two_pow_pos _)), Nat.zero_add, Nat.add_comm, Nat.add_mul_mod_self_right,
    Nat.mod_mod]

/-- Every bit of a number with a field replaced. -/
theorem testBit_putBits (v lo len x i : Nat) :
    (putBits v lo len x).testBit i = if lo ≤ i ∧ i < lo + len then x.testBit (i - lo) else v.testBit i := by
  have h1 : v % 2 ^ lo < 2 ^ lo := Nat.mod_lt _ (Nat.two_pow_pos _)
  have h2 : x % 2 ^ len < 2 ^ len := Nat.mod_lt _ (Nat.two_pow_pos _)
  rw [putBits_eq, Nat.mul_comm, Nat.testBit_two_pow_mul_add _ h1]
  split
  · rename_i h
    rw [Nat.testBit_mod_two_pow, if_neg (by omega)]
    simp [h]
  · rename_i h
    rw [Nat.mul_comm (v / _), Nat.testBit_two_pow_mul_add _ h2]
    split
    · rename_i h'
      rw [Nat.testBit_mod_two_pow, if_pos (by omega)]
      simp [h']
    · rename_i h'
      rw [if_neg (by omega), Nat.testBit_div_two_pow]
      congr 1
      omega

theorem testBit_bitsOf (v lo len i : Nat) : (bitsOf v lo len).testBit i = (decide (i < len) && v.testBit (lo + i)) := by
  rw [bitsOf, Nat.testBit_mod_two_pow, Nat.testBit_div_two_pow, Nat.add_comm]

/-- Another field keeps its value. -/
theorem bitsOf_putBits_ne (v lo len x lo' len' : Nat) (h : lo' + len' ≤ lo ∨ lo + len ≤ lo') :
    bitsOf (putBits v lo len x) lo' len' = bitsOf v lo' len' := by
  apply Nat.eq_of_testBit_eq
  intro i
  rw [testBit_bitsOf, testBit_bitsOf, testBit_putBits]
  by_cases hi : i < len'
  · rw [if_neg (by omega)]
  · simp [hi]

theorem putBits_lt {v lo len : Nat} (x : Nat) {n : Nat} (hv : v < 2 ^ n) (h : lo + len ≤ n) : putBits v lo len x < 2 ^ n := by
  apply Nat.lt_pow_two_of_testBit
  intro i hi
  rw [testBit_putBits, if_neg (by omega)]
  exact Nat.testBit_lt_two_pow (Nat.lt_of_lt_of_le hv (Nat.pow_le_pow_right (by decide) hi))

/-! ## Management registers -/

/-- A register reads what was written to it last. -/
theorem State.mreg_setMreg (s : State) (off o : Nat) (v : Dword) :
    (s.setMreg off v).mreg o = if o = off then v else s.mreg o := by
  unfold State.mreg State.setMreg
  by_cases h : o = off
  · simp [h]
  · have h' : ¬ off = o := fun e => h e.symm
    simp only [List.find?_cons]
    have : (off == o) = false := by simpa using h'
    rw [this, if_neg h]
    simp only [List.find?_filter]
    congr 3
    funext p
    by_cases hp : p.1 = o
    · simp [hp, h]
    · simp [hp]

@[simp] theorem State.mreg_setMreg_same (s : State) (off : Nat) (v : Dword) : (s.setMreg off v).mreg off = v := by
  rw [State.mreg_setMreg, if_pos rfl]
theorem State.mreg_setMreg_ne (s : State) {off o : Nat} (v : Dword) (h : o ≠ off) : (s.setMreg off v).mreg o = s.mreg o := by
  rw [State.mreg_setMreg, if_neg h]
theorem State.mreg_setMfield_ne (s : State) {off o : Nat} (lo len x : Nat) (h : o ≠ off) :
    (s.setMfield off lo len x).mreg o = s.mreg o := State.mreg_setMreg_ne s _ h
theorem State.mfield_setMreg_ne (s : State) {off o : Nat} (v : Dword) (lo len : Nat) (h : o ≠ off) :
    (s.setMreg off v).mfield o lo len = s.mfield o lo len := by rw [State.mfield, State.mreg_setMreg_ne s v h]; rfl
theorem State.mfield_setMfield_off (s : State) {off o : Nat} (lo len x lo' len' : Nat) (h : o ≠ off) :
    (s.setMfield off lo len x).mfield o lo' len' = s.mfield o lo' len' := State.mfield_setMreg_ne s _ _ _ h

theorem State.toNat_setMfield (s : State) (off : Nat) {lo len : Nat} (x : Nat) (h : lo + len ≤ 64) :
    ((s.setMfield off lo len x).mreg off).toNat = putBits (s.mreg off).toNat lo len x := by
  rw [State.setMfield, State.mreg_setMreg_same, BitVec.toNat_ofNat, Nat.mod_eq_of_lt (putBits_lt x (BitVec.isLt _) h)]

/-- A field reads as the value that was written, cut to its width. -/
theorem State.mfield_setMfield (s : State) (off : Nat) {lo len : Nat} (x : Nat) (h : lo + len ≤ 64) :
    (s.setMfield off lo len x).mfield off lo len = x % 2 ^ len := by
  rw [State.mfield, State.toNat_setMfield s off x h, bitsOf_putBits]

/-- Another field of the same register keeps its value. -/
theorem State.mfield_setMfield_ne (s : State) (off : Nat) {lo len lo' len' : Nat} (x : Nat) (h : lo + len ≤ 64)
    (hd : lo' + len' ≤ lo ∨ lo + len ≤ lo') : (s.setMfield off lo len x).mfield off lo' len' = s.mfield off lo' len' := by
  rw [State.mfield, State.toNat_setMfield s off x h, bitsOf_putBits_ne _ _ _ _ _ _ hd]; rfl

theorem State.mfield_lt (s : State) (off lo len : Nat) : s.mfield off lo len < 2 ^ len := bitsOf_lt _ _ _

/-! ## Commands -/

/-- A command that Byder serves acts once an idle package is ACTIVE (R417). -/
theorem State.command_open {s : State} (h : s.mgmtOpen = true) (f : State → Out State Fault Refusal) :
    s.command f = f s.wakeIdle := if_pos h

theorem State.wakeIdle_cases (s : State) : ∃ b, s.wakeIdle = { s with byder := b } ∧ b = { s.byder with power := b.power } ∧
    (s.byder.power = .idle → b.power = .active) ∧ (s.byder.power ≠ .idle → b = s.byder) := by
  unfold State.wakeIdle
  split
  · exact ⟨_, rfl, rfl, fun _ => rfl, fun h => absurd ‹_› h⟩
  · exact ⟨s.byder, rfl, rfl, fun h => absurd h ‹_›, fun _ => rfl⟩

@[simp] theorem State.wakeIdle_mreg (s : State) (o : Nat) : s.wakeIdle.mreg o = s.mreg o := by
  unfold State.wakeIdle; split <;> rfl
@[simp] theorem State.wakeIdle_mfield (s : State) (o lo len : Nat) : s.wakeIdle.mfield o lo len = s.mfield o lo len := by
  unfold State.wakeIdle; split <;> rfl
@[simp] theorem State.wakeIdle_mem (s : State) : s.wakeIdle.mem = s.mem := by unfold State.wakeIdle; split <;> rfl
@[simp] theorem State.wakeIdle_tasks (s : State) : s.wakeIdle.tasks = s.tasks := by unfold State.wakeIdle; split <;> rfl
@[simp] theorem State.wakeIdle_blocks (s : State) : s.wakeIdle.blocks = s.blocks := by unfold State.wakeIdle; split <;> rfl
@[simp] theorem State.wakeIdle_slots (s : State) : s.wakeIdle.slots = s.slots := by unfold State.wakeIdle; split <;> rfl
@[simp] theorem State.wakeIdle_qps (s : State) : s.wakeIdle.qps = s.qps := by unfold State.wakeIdle; split <;> rfl
@[simp] theorem State.wakeIdle_wire (s : State) : s.wakeIdle.wire = s.wire := by unfold State.wakeIdle; split <;> rfl
@[simp] theorem State.wakeIdle_ring (s : State) : s.wakeIdle.ring = s.ring := by unfold State.wakeIdle; split <;> rfl
@[simp] theorem State.wakeIdle_reclaims (s : State) : s.wakeIdle.reclaims = s.reclaims := by
  unfold State.wakeIdle; split <;> rfl
@[simp] theorem State.wakeIdle_buckets (s : State) : s.wakeIdle.buckets = s.buckets := by unfold State.wakeIdle; split <;> rfl

end Sys2Proof.Machine
end

