-- ==== Sys2Proof/Laws/Shared.lean ====
section
/-! SUPPORT. What the shared operations leave as it was: the caches' updates change cores alone, and a write changes its own
bytes and the records of their frames. -/
namespace Sys2Proof.Machine

/-! ## Index lists -/

theorem idxFrom_eq_range' : ∀ (n a : Nat), idxFrom a n = List.range' a n := by
  intro n
  induction n with
  | zero => intro a; rfl
  | succ n ih => intro a; simp [idxFrom, List.range'_succ, ih]
theorem upto_eq_range (n : Nat) : upto n = List.range n := by rw [upto, idxFrom_eq_range', List.range_eq_range']

/-! ## Caches -/

/-- Only the cores' private state (caches, slots, arbiters) and the translation caches of the dies may differ. -/
def State.OnlyCores (s u : State) : Prop := ∃ x d w, u = { s with cores := x, dieTlbs := d, walks := w }

theorem State.OnlyCores.refl (s : State) : s.OnlyCores s := ⟨s.cores, s.dieTlbs, s.walks, rfl⟩
theorem State.OnlyCores.trans {s u v : State} (h : s.OnlyCores u) (h' : u.OnlyCores v) : s.OnlyCores v := by
  obtain ⟨x, d, w, rfl⟩ := h
  obtain ⟨x', d', w', rfl⟩ := h'
  exact ⟨x', d', w', rfl⟩

theorem State.OnlyCores.tasks {s u : State} (h : s.OnlyCores u) : u.tasks = s.tasks := by obtain ⟨x, d, w, rfl⟩ := h; rfl
theorem State.OnlyCores.mem {s u : State} (h : s.OnlyCores u) : u.mem = s.mem := by obtain ⟨x, d, w, rfl⟩ := h; rfl
theorem State.OnlyCores.blocks {s u : State} (h : s.OnlyCores u) : u.blocks = s.blocks := by obtain ⟨x, d, w, rfl⟩ := h; rfl
theorem State.OnlyCores.seq {s u : State} (h : s.OnlyCores u) : u.seq = s.seq := by obtain ⟨x, d, w, rfl⟩ := h; rfl
theorem State.OnlyCores.task? {s u : State} (h : s.OnlyCores u) (n : Nat) : u.task? n = s.task? n := by
  obtain ⟨x, d, w, rfl⟩ := h; rfl
theorem State.OnlyCores.byteAt {s u : State} (h : s.OnlyCores u) (l : Loc) : u.byteAt l = s.byteAt l := by
  obtain ⟨x, d, w, rfl⟩ := h; cases l <;> rfl

theorem State.setCore_only (s : State) (c : Nat) (x : CoreSt) : s.OnlyCores (s.setCore c x) := by
  unfold State.setCore; split <;> exact ⟨_, s.dieTlbs, s.walks, rfl⟩
theorem State.l1Drop_only (s : State) (c : Nat) (ls : List Loc) : s.OnlyCores (s.l1Drop c ls) := by
  unfold State.l1Drop; dsimp only; split
  · exact .refl s
  · exact State.setCore_only _ _ _
theorem State.l1Clear_only (s : State) (c : Nat) : s.OnlyCores (s.l1Clear c) := by
  unfold State.l1Clear; dsimp only; split
  · exact .refl s
  · exact State.setCore_only _ _ _
theorem State.l1Store_only (s : State) (c : Nat) (bs : List (Loc × Byte)) : s.OnlyCores (s.l1Store c bs) := by
  unfold State.l1Store; dsimp only; split
  · exact .refl s
  · exact State.setCore_only _ _ _
theorem State.l1Fill_only (s : State) (c : Nat) (ls : List Loc) : s.OnlyCores (s.l1Fill c ls) := by
  unfold State.l1Fill; dsimp only; split
  · exact .refl s
  · exact State.setCore_only _ _ _
theorem State.acquire_only (s : State) (t : Task) (sc : Scope) : s.OnlyCores (s.acquire t sc) := by
  unfold State.acquire; split
  · exact .refl s
  · split
    · exact .refl s
    · exact State.l1Clear_only _ _
theorem State.tlbFill_only (s : State) (a : Accessor) (va : Nat) : s.OnlyCores (s.tlbFill a va) := by
  unfold State.tlbFill; split
  · exact .refl s
  · split
    · dsimp only; split
      · exact .refl s
      · exact State.OnlyCores.trans (State.setCore_only _ _ _) ⟨_, _, _, rfl⟩
    · exact .refl s

theorem State.foldl_only {α : Type} (f : State → α → State) (hf : ∀ (s : State) x, s.OnlyCores (f s x)) :
    ∀ (l : List α) (s : State), s.OnlyCores (l.foldl f s) := by
  intro l
  induction l with
  | nil => exact State.OnlyCores.refl
  | cons x xs ih => intro s; exact (hf s x).trans (ih (f s x))

theorem State.tlbFillRange_only (s : State) (a : Accessor) (va n : Nat) : s.OnlyCores (s.tlbFillRange a va n) := by
  refine State.foldl_only _ ?_ _ _
  intro s p; split
  · exact .refl s
  · exact State.tlbFill_only _ _ _

theorem State.joinArray_only (s : State) (c : Nat) (e : Nat × Option Nat) : s.OnlyCores (s.joinArray c e) := by
  unfold State.joinArray; dsimp only; split
  · exact .refl s
  · exact State.setCore_only _ _ _
/-- Taking places for the array changes the queues of cores alone. -/
theorem State.noteArray_only (s : State) (c : Nat) : s.OnlyCores (s.noteArray c) :=
  State.foldl_only _ (fun s _ => State.foldl_only _ (fun s c => State.joinArray_only s c _) _ s) _ s

/-! ## The start of an operation -/

theorem lowestCond_min (codes : List Nat) (c : Nat) (hc : c ∈ codes) (hm : ∀ x ∈ codes, c ≤ x) :
    ∃ a, lowestCond (codes.map fun m => (m, 0)) = some (c, a) := by
  have gen : ∀ (l : List Nat) (b : Nat × Nat), c ≤ b.1 → (∀ x ∈ l, c ≤ x) → (c = b.1 ∨ c ∈ l) →
      ∃ a, (l.map fun m => (m, 0)).foldl (fun (best : Option (Nat × Nat)) c => match best with
        | none => some c
        | some b => if c.1 < b.1 then some c else some b) (some b) = some (c, a) := by
    intro l
    induction l with
    | nil => intro b _ _ h; rcases h with h | h
             · subst h; exact ⟨b.2, rfl⟩
             · simp at h
    | cons x l ih =>
      intro b hb hl h
      simp only [List.map_cons, List.foldl_cons]
      have hx := hl x (by simp)
      by_cases hlt : x < b.1
      · rw [if_pos hlt]
        refine ih (x, 0) hx (fun y hy => hl y (by simp [hy])) ?_
        rcases h with h | h
        · omega
        · simpa using h
      · rw [if_neg hlt]
        refine ih b hb (fun y hy => hl y (by simp [hy])) ?_
        rcases h with h | h
        · exact .inl h
        · rcases List.mem_cons.1 h with h | h
          · left; omega
          · exact .inr h
  cases codes with
  | nil => simp at hc
  | cons x l =>
    exact gen l (x, 0) (hm x (by simp)) (fun y hy => hm y (by simp [hy])) (by simpa using hc)

/-- A task is as before for the frame when only counters, engines and the stream in focus have changed as `startOp` changes
them. -/
theorem startOp_started {s u : State} {t : Task} {k : StreamId} (h : s.task? t.uid = some t)
    (hb : ∀ l, u.byteAt l = s.byteAt l) (ht : ∀ n, u.task? n = s.task? n) {i : Instr} {foot : List Fp} {o : AsyncOp}
    (ho : o.instr = i ∧ o.foot = foot ∧ o.pc = (t.st k).pc ∧ o.seq = s.seq) (hk : k = .m ∨ k = .c) :
    Started s (u.startOp t k o) t k i foot := by
  have htask : ∀ x : Task, x.uid = t.uid → ∀ y : State, (∀ n, y.task? n = u.task? n) →
      (y.setTask x).task? t.uid = some x := by
    intro x hx y hy
    rw [← hx]
    exact State.task?_setTask y x (by rw [hx, hy, ht, h]; rfl)
  have hq : ∀ (c : Bool) (st : StreamSt) (q : List QEntry), ∃ q', (if c then { st with queue := q } else st) =
      { st with queue := q' } := fun c st q => by
    cases c
    · exact ⟨st.queue, rfl⟩
    · exact ⟨q, rfl⟩
  unfold State.startOp State.retire
  dsimp only
  have note : ∀ (v : State) (c : Nat), Started s v t k i foot → Started s (v.noteArray c) t k i foot := by
    intro v c ⟨⟨o, t', h1, h2⟩, hbytes, hothers⟩
    have hn := State.noteArray_only v c
    exact ⟨⟨o, t', (hn.task? _).trans h1, h2⟩, fun l => (hn.byteAt l).trans (hbytes l),
      fun n hne => (hn.task? n).trans (hothers n hne)⟩
  apply note
  obtain ⟨q, hq⟩ := hq (t.det && o.holdsQuantum) (t.st k)
    ((t.st k).queue ++ [{ seq := u.seq, pc := (t.st k).pc, eff := .op o.id }])
  rw [hq]
  rcases hk with rfl | rfl
  all_goals
    refine ⟨⟨o, _, by apply htask <;> intros <;> rfl, rfl, ho.1, ho.2.1, ho.2.2.1, ho.2.2.2, rfl, ?_⟩, ?_, ?_⟩
    · exact ⟨fun j r _ => by cases j <;> rfl, fun j => by cases j <;> rfl, fun j => by cases j <;> rfl,
        fun j hj => by cases j <;> first | rfl | exact absurd rfl hj, rfl, rfl, rfl, rfl, rfl, rfl, rfl, rfl, rfl, rfl⟩
    · intro l; rw [State.setTask_byteAt]; exact (by cases l <;> rfl : _ = u.byteAt l).trans (hb l)
    · intro n hn
      refine (State.task?_setTask_ne _ _ ?_).trans (ht n)
      exact hn

theorem semRange_ok {t : Task} {act : Act} (h : act.sige = 1 → act.sem.toNat < t.nsems) : semRange t act = .ok () := by
  unfold semRange
  rw [if_neg]
  simp only [Bool.and_eq_true, decide_eq_true_eq, not_and, Nat.not_le]
  intro hs; exact h (by simpa using hs)

/-- What a matrix instruction that answers by `matrixIssue` does, in whole (R233, R234, R239). -/
theorem matrixIssue_starts {s : State} {t : Task} (h : Issues s t .m) {i : Instr} {act : Act} {foot : List Fp}
    {codes : List Nat} {chk : IssueChk} {bytes : Nat} {vals : List Nat} {fill : AsyncOp → AsyncOp}
    (hfill : ∀ o, (fill o).instr = o.instr ∧ (fill o).foot = o.foot ∧ (fill o).pc = o.pc ∧ (fill o).seq = o.seq)
    {f : Task → StreamId → Except Stop State} (hf : f t .m = s.matrixIssue t .m i act foot bytes codes chk vals fill)
    (he : exec i s = issue .matrix s f) : matrixStarts s t i act foot codes chk := by
  refine ⟨fun hl => ?_, fun hl hb => ?_, fun hl hb => ?_⟩
  · rw [he]
    refine issue_stop h rfl (e := .wait .engine) (hf.trans ?_)
    simp only [State.matrixIssue, if_pos hl]; rfl
  · rw [he]
    refine issue_stop h rfl (e := .wait (.hazard _)) (hf.trans ?_)
    have : (!(s.blockers t foot).isEmpty) = true := by simpa using hb
    simp only [State.matrixIssue, if_neg (Nat.not_le.mpr hl), this, if_true]; rfl
  · have hb' : (!(s.blockers t foot).isEmpty) = false := by simp [hb]
    have hpre : f t .m = (do
        semRange t act
        s.issueChecks t codes (futOf (t.st .m) act) chk
        let xl := chk.ranges.flatMap fun r => s.pieceLocs (t.accessor s) r.1 r.2.1 r.2.2
        let s := chk.ranges.foldl (fun s r => s.tlbFillRange (t.accessor s) r.1 r.2.1) s
        let o := s.newOp t .m i (s.captureAct t act (futOf (t.st .m) act) bytes) foot vals
        return s.startOp t .m (fill { o with xl := xl })) := by
      rw [hf]; simp only [State.matrixIssue, if_neg (Nat.not_le.mpr hl), hb']; rfl
    refine ⟨fun hs hn => ?_, fun hs => ?_⟩
    · rw [he]
      refine (issue_stop h rfl (e := .trap { cls := 7, sub := 1 }) (hpre.trans ?_)).trans
        (by rw [State.stopped_trap _ _ _ _ (by decide)])
      have : semRange t act = .error (.trap { cls := 7, sub := 1 }) := by
        unfold semRange; simp [hs, hn]; rfl
      rw [this]; rfl
    · have hsr : semRange t act = .ok () := semRange_ok hs
      refine ⟨fun c hc hm => ?_, fun hc hchk => ?_⟩
      · rw [he]
        refine (issue_stop h rfl (e := .trap { cls := 5, sub := c }) (hpre.trans ?_)).trans
          (by rw [State.stopped_trap _ _ _ _ (by simp [clsStorage])])
        obtain ⟨a, ha⟩ := lowestCond_min codes c hc hm
        rw [hsr]
        simp only [State.issueChecks, ha]; rfl
      · subst hc
        rw [he]
        rw [hsr] at hpre
        simp only [hchk, bind, Except.bind, pure, Except.pure] at hpre
        refine ⟨_, issue_next h rfl hpre, ?_⟩
        have hc := State.foldl_only (fun s (r : Nat × Nat × Bool) => s.tlbFillRange (t.accessor s) r.1 r.2.1)
          (fun s r => State.tlbFillRange_only s _ _ _) chk.ranges s
        refine startOp_started h.task hc.byteAt hc.task? ?_ (.inl rfl)
        refine ⟨(hfill _).1, (hfill _).2.1, (hfill _).2.2.1, ((hfill _).2.2.2).trans hc.seq⟩

/-- What a copy instruction does whose operands are read as `ok` and that then answers by `copyIssue` in the state `u` (R233,
R234, R237, R239). -/
theorem copyIssue_starts {s u : State} {t : Task} (h : Issues s t .c) {i : Instr} {act : Act} {foot : List Fp} {ok : Prop}
    {codes : List Nat} {chk : IssueChk} {bytes : Nat} {vals : List Nat} {record : List Byte}
    {f : Task → StreamId → Except Stop State}
    (hf : f t .c = (do copyFirst t act; g : Except Stop State))
    (hg : ok → g = u.copyIssue t .c i act foot bytes codes chk vals record)
    (hb : ∀ l, u.byteAt l = s.byteAt l) (ht : ∀ n, u.task? n = s.task? n) (hq : u.seq = s.seq)
    (he : exec i s = issue .copy s f) : copyStarts s u t i act foot ok codes chk := by
  refine ⟨fun hl => ?_, fun hl hs hn => ?_, fun hl hs hok => ⟨fun c hc hm => ?_, fun hc hchk => ?_⟩⟩
  · rw [he]
    refine issue_stop h rfl (e := .wait .engine) (hf.trans ?_)
    simp only [copyFirst, if_pos hl]; rfl
  · rw [he]
    refine (issue_stop h rfl (e := .trap { cls := 7, sub := 1 }) (hf.trans ?_)).trans
      (by rw [State.stopped_trap _ _ _ _ (by decide)])
    have : semRange t act = .error (.trap { cls := 7, sub := 1 }) := by
      unfold semRange; simp [hs, hn]; rfl
    simp only [copyFirst, if_neg (Nat.not_le.mpr hl), this]; rfl
  all_goals
    have hsr : copyFirst t act = .ok () := by
      have : semRange t act = .ok () := semRange_ok hs
      simp only [copyFirst, if_neg (Nat.not_le.mpr hl), this]
    rw [hsr] at hf
    have hf : f t .c = _ := hf.trans (hg hok)
    rw [he]
  · refine (issue_stop h rfl (e := .trap { cls := 5, sub := c }) (hf.trans ?_)).trans
      (by rw [State.stopped_trap _ _ _ _ (by simp [clsStorage])])
    obtain ⟨a, ha⟩ := lowestCond_min codes c hc hm
    simp only [State.copyIssue, State.issueChecks, ha]; rfl
  · subst hc
    simp only [State.copyIssue, hchk, bind, Except.bind, pure, Except.pure] at hf
    exact ⟨_, issue_next h rfl hf, startOp_started h.task hb ht ⟨rfl, rfl, rfl, hq⟩ (.inr rfl)⟩

end Sys2Proof.Machine
end

