-- ==== Sys2Proof/Laws/Path.lean ====
section
/-! SUPPORT. What the outbound path of a core does (R97): what leaves a queue or reaches its home changes only the bytes that it
carries, keeps the canonical form, and touches no task. -/
namespace Sys2Proof.Machine

/-! ## Composition of frames -/

theorem State.frameByte_congr {s u : State} (h : u.mgmt = s.mgmt) (ls : List Loc) (l : Loc) :
    u.frameByte ls l ↔ s.frameByte ls l := by
  have hm : ∀ o lo n, u.mfield o lo n = s.mfield o lo n := fun o lo n => by
    simp only [State.mfield, State.mreg, h]
  simp only [State.frameByte, State.frameOf, State.frameRec, hm]

theorem State.frameByte_mono {s : State} {ls ms : List Loc} (h : ∀ l ∈ ls, l ∈ ms) {l : Loc} :
    s.frameByte ls l → s.frameByte ms l := fun ⟨pa, p, i, ha, hb⟩ => ⟨pa, p, i, h _ ha, hb⟩

theorem BytesKept.mono {s u : State} {ls ms : List Loc} (h : ∀ l ∈ ls, l ∈ ms) (hk : BytesKept s u ls) : BytesKept s u ms :=
  fun l hl hf => hk l (fun hm => hl (h l hm)) fun hb => hf (State.frameByte_mono h hb)

theorem BytesKept.refl (s : State) (ls : List Loc) : BytesKept s s ls := fun _ _ _ => rfl

theorem BytesKept.trans {s u v : State} {ls : List Loc} (hm : u.mgmt = s.mgmt) (h : BytesKept s u ls) (h' : BytesKept u v ls) :
    BytesKept s v ls :=
  fun l hl hf => (h' l hl fun hb => hf ((State.frameByte_congr hm ls l).1 hb)).trans (h l hl hf)

/-! ## Cores -/

theorem find_replaced {c : Nat} {x : CoreSt} : ∀ {l : List (Nat × CoreSt)}, l.any (fun p => p.1 == c) = true →
    (l.map fun p => if p.1 == c then (c, x) else p).find? (fun p => p.1 == c) = some (c, x)
  | p :: ps, h => by
    by_cases hp : p.1 = c
    · simp [hp]
    · have hb : (p.1 == c) = false := by simpa using hp
      simp only [List.any_cons, hb, Bool.false_or] at h
      simp only [List.map_cons, hb, Bool.false_eq_true, if_false, List.find?_cons]
      exact find_replaced h

/-- The core that was replaced holds what replaced it. -/
@[simp] theorem State.core_setCore (s : State) (c : Nat) (x : CoreSt) : (s.setCore c x).core c = x := by
  unfold State.setCore State.core
  split
  · rename_i h
    simp only [find_replaced h, Option.map_some, Option.getD_some]
  · rename_i h
    have hn : s.cores.find? (fun p => p.1 == c) = none := by
      rw [List.find?_eq_none]
      intro p hp hc
      exact h (List.any_eq_true.2 ⟨p, hp, hc⟩)
    simp [List.find?_append, hn]

@[simp] theorem State.setCore_mgmt (s : State) (c : Nat) (x : CoreSt) : (s.setCore c x).mgmt = s.mgmt := by
  unfold State.setCore; split <;> rfl
@[simp] theorem State.setCore_tasks (s : State) (c : Nat) (x : CoreSt) : (s.setCore c x).tasks = s.tasks :=
  (State.setCore_only s c x).tasks
@[simp] theorem State.setCore_bytesOk (s : State) (c : Nat) (x : CoreSt) : (s.setCore c x).bytesOk = s.bytesOk := by
  obtain ⟨y, d, w, h⟩ := State.setCore_only s c x
  rw [h]; rfl

/-! ## One store at its home -/

theorem State.applyStore_mgmt (s : State) (c : Nat) (bs : List (Loc × Byte)) : (s.applyStore c bs).mgmt = s.mgmt := by
  obtain ⟨y, d, w, h⟩ := State.l1Store_only (s.applyBytes bs) c bs
  rw [State.applyStore, h]
  exact (State.applyBytes_only s bs).mgmt
theorem State.applyStore_tasks (s : State) (c : Nat) (bs : List (Loc × Byte)) : (s.applyStore c bs).tasks = s.tasks :=
  (State.l1Store_only _ c bs).tasks.trans (State.applyBytes_only s bs).tasks
theorem State.applyStore_ok {s : State} (h : s.bytesOk = true) (c : Nat) (bs : List (Loc × Byte)) :
    (s.applyStore c bs).bytesOk = true := by
  obtain ⟨y, d, w, e⟩ := State.l1Store_only (s.applyBytes bs) c bs
  rw [State.applyStore, e]
  exact State.applyBytes_ok h bs
/-- A store at its home changes only its own bytes. -/
theorem State.applyStore_kept {s : State} (h : s.bytesOk = true) (c : Nat) (bs : List (Loc × Byte)) :
    BytesKept s (s.applyStore c bs) (bs.map (·.1)) := fun l hl hf =>
  ((State.l1Store_only _ c bs).byteAt l).trans (State.applyBytes_kept h bs l hl hf)

/-- A store at its home leaves what is on the core's path. -/
theorem State.applyStore_out (s : State) (c : Nat) (bs : List (Loc × Byte)) : ((s.applyStore c bs).core c).out = (s.core c).out := by
  unfold State.applyStore State.l1Store
  dsimp only
  split
  · rw [(State.applyBytes_only s bs).core]
  · rw [State.core_setCore, (State.applyBytes_only s bs).core]

/-! ## What an operation of the path leaves as it was -/

/-- The state `u` differs from `s` in cores, poison and the bytes `ls`, and keeps the canonical form. -/
structure State.Carries (s u : State) (ls : List Loc) : Prop where
  mgmt : u.mgmt = s.mgmt
  tasks : u.tasks = s.tasks
  ok : s.bytesOk = true → u.bytesOk = true
  kept : s.bytesOk = true → BytesKept s u ls

theorem State.Carries.refl (s : State) (ls : List Loc) : s.Carries s ls := ⟨rfl, rfl, id, fun _ => .refl s ls⟩
theorem State.Carries.trans {s u v : State} {ls : List Loc} (h : s.Carries u ls) (h' : u.Carries v ls) : s.Carries v ls :=
  ⟨h'.mgmt.trans h.mgmt, h'.tasks.trans h.tasks, fun w => h'.ok (h.ok w),
   fun w => (h.kept w).trans h.mgmt (h'.kept (h.ok w))⟩
theorem State.Carries.mono {s u : State} {ls ms : List Loc} (h : s.Carries u ls) (hm : ∀ l ∈ ls, l ∈ ms) : s.Carries u ms :=
  ⟨h.mgmt, h.tasks, h.ok, fun w => (h.kept w).mono hm⟩

theorem State.setCore_carries (s : State) (c : Nat) (x : CoreSt) (ls : List Loc) : s.Carries (s.setCore c x) ls :=
  ⟨by simp, by simp, by simp, fun _ l _ _ => (State.setCore_only s c x).byteAt l⟩
theorem State.applyStore_carries (s : State) (c : Nat) (bs : List (Loc × Byte)) : s.Carries (s.applyStore c bs) (bs.map (·.1)) :=
  ⟨s.applyStore_mgmt c bs, s.applyStore_tasks c bs, fun w => State.applyStore_ok w c bs, fun w => State.applyStore_kept w c bs⟩

/-- A part of the path that reaches its home changes its own bytes, and keeps when it did. -/
theorem State.land_carries (s : State) (c : Nat) (bs : List (Loc × Byte)) : s.Carries (s.land c bs) (bs.map (·.1)) := by
  unfold State.land
  dsimp only
  split
  · exact (s.applyStore_carries c bs).trans ⟨rfl, rfl, id, fun _ _ _ _ => rfl⟩
  · exact s.applyStore_carries c bs

theorem State.land_out (s : State) (c : Nat) (bs : List (Loc × Byte)) : ((s.land c bs).core c).out = (s.core c).out := by
  unfold State.land
  dsimp only
  split
  · exact s.applyStore_out c bs
  · exact s.applyStore_out c bs

theorem State.landFold_carries (c : Nat) (ls : List Loc) : ∀ (us : List (List (Loc × Byte))), (∀ u ∈ us, ∀ p ∈ u, p.1 ∈ ls) →
    ∀ s : State, s.Carries (us.foldl (fun s u => s.land c u) s) ls
  | [], _, s => .refl s ls
  | u :: us, h, s =>
    ((s.land_carries c u).mono fun l hl => by
      obtain ⟨p, hp, rfl⟩ := List.mem_map.1 hl
      exact h u (List.mem_cons_self ..) p hp).trans
      (State.landFold_carries c ls us (fun v hv => h v (List.mem_cons_of_mem _ hv)) _)

theorem State.mem_pathLocs {s : State} {c : Nat} {u : List (Loc × Byte)} (hu : u ∈ (s.core c).out) {p : Loc × Byte}
    (hp : p ∈ u) : p.1 ∈ s.pathLocs c := List.mem_map.2 ⟨p, List.mem_flatten.2 ⟨u, hu, hp⟩, rfl⟩

/-- What reaches home from a core's path changes only the places that were on it. -/
theorem State.landIf_carries (s : State) (c : Nat) (p : List (Loc × Byte) → Bool) : s.Carries (s.landIf c p) (s.pathLocs c) := by
  unfold State.landIf
  dsimp only
  split
  · exact .refl s _
  · exact (s.setCore_carries c _ _).trans (State.landFold_carries c _ _
      (fun u hu q hq => State.mem_pathLocs (List.mem_of_mem_filter hu) hq) _)

theorem State.landFold_out (c : Nat) : ∀ (us : List (List (Loc × Byte))) (s : State),
    ((us.foldl (fun s u => s.land c u) s).core c).out = (s.core c).out
  | [], _ => rfl
  | u :: us, s => (State.landFold_out c us _).trans (s.land_out c u)

/-- What was not picked stays on the path, in its order. -/
theorem State.landIf_out (s : State) (c : Nat) (p : List (Loc × Byte) → Bool) :
    ((s.landIf c p).core c).out = (s.core c).out.filter fun u => !p u := by
  unfold State.landIf
  dsimp only
  split
  · rename_i h
    refine (List.filter_eq_self.2 fun u hu => ?_).symm
    have : ∀ u ∈ (s.core c).out, ¬ p u = true := by simpa using h
    simpa using this u hu
  · rw [State.landFold_out, State.core_setCore]

/-- Nothing stays on the path when all of it lands. -/
@[simp] theorem State.landAll_out (s : State) (c : Nat) : ((s.landAll c).core c).out = [] := by
  rw [State.landAll, State.landIf_out]; simp

/-- What lands in the place of a part is that part or one of the older ones. -/
theorem frontOf_mem : ∀ (us : List (List (Loc × Byte))) (v : List (Loc × Byte)), frontOf v us = v ∨ frontOf v us ∈ us
  | [], _ => .inl rfl
  | u :: us, v => by
    rw [frontOf]
    rcases frontOf_mem us (if partsMeet u v then u else v) with h | h
    · rw [h]; split
      · exact .inr (List.mem_cons_self ..)
      · exact .inl rfl
    · exact .inr (List.mem_cons_of_mem _ h)

/-- No part that is older than the one that lands shares a byte with it. -/
theorem frontOf_split : ∀ (us : List (List (Loc × Byte))) (v : List (Loc × Byte)),
    ∃ pre post, us.reverse ++ [v] = pre ++ frontOf v us :: post ∧ ∀ w ∈ pre, partsMeet w (frontOf v us) = false
  | [], v => ⟨[], [], rfl, by simp⟩
  | u :: us, v => by
    rw [frontOf, List.reverse_cons]
    obtain ⟨pre, post, he, hp⟩ := frontOf_split us (if partsMeet u v then u else v)
    by_cases hm : partsMeet u v = true
    · rw [if_pos hm] at he hp ⊢
      exact ⟨pre, post ++ [v], by rw [he]; simp, hp⟩
    · rw [if_neg hm] at he hp ⊢
      rcases List.eq_nil_or_concat post with rfl | ⟨post', w, rfl⟩
      · obtain ⟨h1, h2⟩ := List.append_inj' he rfl
        have h2 : v = frontOf v us := by simpa using h2
        refine ⟨pre ++ [u], [], by rw [h1]; exact congrArg (fun x => pre ++ [u] ++ [x]) h2, fun w hw => ?_⟩
        rcases List.mem_append.1 hw with hw | hw
        · exact hp w hw
        · rw [List.mem_singleton.1 hw, ← h2]; simpa using hm
      · have he' : us.reverse ++ [v] = (pre ++ frontOf v us :: post') ++ [w] := by rw [he]; simp
        obtain ⟨h1, h2⟩ := List.append_inj' he' rfl
        refine ⟨pre, post' ++ [u, v], ?_, hp⟩
        rw [h1]; simp

theorem nth_mem {α : Type} {l : List α} {i : Nat} {d : α} (h : d ∈ l) : nth l i d ∈ l := by
  unfold nth
  cases e : l[i]? with
  | none => simpa [List.getD, e] using h
  | some x => simpa [List.getD, e] using List.mem_of_getElem? e

theorem State.landOne_carries (s : State) (c : Nat) : s.Carries (s.landOne c) (s.pathLocs c) := by
  unfold State.landOne
  dsimp only
  split
  · exact .refl s _
  · rename_i u us hl
    refine (s.setCore_carries c _ _).trans ((State.land_carries _ c _).mono fun l hl' => ?_)
    obtain ⟨p, hp, rfl⟩ := List.mem_map.1 hl'
    have hm : ∀ i, frontOf (nth (u :: us) i u) ((u :: us).take i).reverse ∈ (s.core c).out := fun i => by
      rw [hl]
      rcases frontOf_mem ((u :: us).take i).reverse (nth (u :: us) i u) with h | h
      · rw [h]; exact nth_mem (List.mem_cons_self ..)
      · exact List.mem_of_mem_take (List.mem_reverse.1 h)
    exact State.mem_pathLocs (hm _) hp

/-- A store that leaves its queue changes only its own places and, where the core's path holds some of their slots, those on
the path. -/
theorem State.leaveQueue_carries (s : State) (c b : Nat) (us : List (List (Loc × Byte))) :
    s.Carries (s.leaveQueue c b us) (us.flatten.map (·.1) ++ s.pathLocs c) := by
  have joined : ∀ (u : State) (vs : List (List (Loc × Byte))) (ls : List Loc), u.Carries (u.join c vs) ls := fun u vs ls => by
    unfold State.join
    split
    · exact .refl _ _
    · exact State.setCore_carries _ _ _ _
  unfold State.leaveQueue
  dsimp only
  split
  · exact joined _ _ _
  · refine State.Carries.trans ?_ (joined _ _ _)
    refine ((s.landIf_carries c _).mono fun l hl => List.mem_append_right _ hl).trans
      ((State.applyStore_carries _ c _).mono fun l hl => List.mem_append_left _ ?_)
    obtain ⟨p, hp, rfl⟩ := List.mem_map.1 hl
    exact List.mem_map.2 ⟨p, List.mem_of_mem_filter hp, rfl⟩

end Sys2Proof.Machine
end

