-- ==== Sys2Proof/Laws/PerInstr.lean ====
section
/-! SUPPORT. The family RoundTrip: an encoded well-formed instruction decodes to itself, one lemma per constructor. -/
namespace Sys2Proof.Laws.RoundTrip
open Sys2Proof
set_option Elab.async false
set_option linter.unusedSimpArgs false

/-- Decoding the parcels that the encoder gives a well-formed instruction gives the instruction back. An instruction
whose operands lie in the word latch, and an event, has no parcels of its own here. -/
def Statement (i : Instr) : Prop :=
  i.wf = true → ∀ p0 ps, encode i = p0 :: ps → decode p0 (nth ps 0 0) (nth ps 1 0) = .ok i

theorem accept_wf {i : Instr} (h : i.wf = true) : accept i = .ok i := by
  simp only [Instr.wf, beq_iff_eq] at h
  simp [accept, h]

/-- The two limits of ATOM hold in a well-formed one (R117). -/
theorem atomic {i : Instr} {x y : Bool} (h : i.wf = true)
    (hi : i.illegal = if !x then some 2 else if !y then some 4 else .none) :
    resv x (need y (.ok i)) = .ok i := by
  cases x <;> cases y <;> simp_all [Instr.wf, resv, need]

theorem none {i : Instr} (he : encodeNat i = []) : Statement i := fun _ p0 ps h => by
  simp [encode, he] at h

theorem one {i : Instr} {n : Nat} (he : encodeNat i = [n]) (hn : n < 2 ^ 31) (hd : i.wf = true → dec32 n = .ok i) :
    Statement i := fun hw p0 ps h => by
  simp only [encode, he, List.map_cons, List.map_nil, List.cons.injEq] at h
  rw [← h.1, decode_32 hn, hd hw]

theorem two {i : Instr} {n q : Nat} (he : encodeNat i = [n, q]) (h1 : 2 ^ 31 ≤ n) (h2 : n < 2 ^ 31 + 2 ^ 30)
    (hq : q < 2 ^ 32)
    (hd : i.wf = true →
      (if fld n 26 4 = 0 then decMatrix n q else if fld n 26 4 = 1 then decCopy n q else .opcode) = .ok i) :
    Statement i := fun hw p0 ps h => by
  simp only [encode, he, List.map_cons, List.map_nil, List.cons.injEq] at h
  rw [← h.1, ← h.2]
  exact (decode_engine h1 h2 hq _).trans (hd hw)

theorem wideBit {i : Instr} (op : Nat) (w : VW) (b : Bool) (he : encodeNat i = encWide op w) (ho : op < 512)
    (hv : w.mod7.getLsbD 0 = b → vecInstr op w = some i)
    (hw : i.illegal = if w.mod7.getLsbD 0 != b then some 2 else wideIllegal op w) : Statement i := fun h p0 ps e => by
  simp only [Instr.wf, hw, beq_iff_eq] at h
  simp only [encode, he, encWide, List.map_cons, List.map_nil, List.cons.injEq] at e
  rw [← e.1, ← e.2]
  split at h
  · simp at h
  · rename_i hb
    exact decode_encWide op w ho (hv (by simpa using hb)) h _ _ _ rfl

theorem wide {i : Instr} (op : Nat) (w : VW) (he : encodeNat i = encWide op w) (hv : vecInstr op w = some i)
    (ho : op < 512) (hw : i.illegal = wideIllegal op w) : Statement i := fun h p0 ps e => by
  simp only [encode, he, encWide, List.map_cons, List.map_nil, List.cons.injEq] at e
  rw [← e.1, ← e.2]
  refine decode_encWide op w ho hv ?_ _ _ _ rfl
  rw [← hw]; simpa [Instr.wf] using h

theorem add (d : BitVec 5) (a : BitVec 5) (b : BitVec 5) : Statement (.add d a b) :=
  one rfl (fmtSR_lt (by omega) (by omega) (by omega) (by omega) (by omega) ) fun _ => by
    simp (disch := omega) [dec32, decIntR]
theorem sub (d : BitVec 5) (a : BitVec 5) (b : BitVec 5) : Statement (.sub d a b) :=
  one rfl (fmtSR_lt (by omega) (by omega) (by omega) (by omega) (by omega) ) fun _ => by
    simp (disch := omega) [dec32, decIntR]
theorem and (d : BitVec 5) (a : BitVec 5) (b : BitVec 5) : Statement (.and d a b) :=
  one rfl (fmtSR_lt (by omega) (by omega) (by omega) (by omega) (by omega) ) fun _ => by
    simp (disch := omega) [dec32, decIntR]
theorem or (d : BitVec 5) (a : BitVec 5) (b : BitVec 5) : Statement (.or d a b) :=
  one rfl (fmtSR_lt (by omega) (by omega) (by omega) (by omega) (by omega) ) fun _ => by
    simp (disch := omega) [dec32, decIntR]
theorem xor (d : BitVec 5) (a : BitVec 5) (b : BitVec 5) : Statement (.xor d a b) :=
  one rfl (fmtSR_lt (by omega) (by omega) (by omega) (by omega) (by omega) ) fun _ => by
    simp (disch := omega) [dec32, decIntR]
theorem shl (d : BitVec 5) (a : BitVec 5) (b : BitVec 5) : Statement (.shl d a b) :=
  one rfl (fmtSR_lt (by omega) (by omega) (by omega) (by omega) (by omega) ) fun _ => by
    simp (disch := omega) [dec32, decIntR]
theorem shr (d : BitVec 5) (a : BitVec 5) (b : BitVec 5) : Statement (.shr d a b) :=
  one rfl (fmtSR_lt (by omega) (by omega) (by omega) (by omega) (by omega) ) fun _ => by
    simp (disch := omega) [dec32, decIntR]
theorem sra (d : BitVec 5) (a : BitVec 5) (b : BitVec 5) : Statement (.sra d a b) :=
  one rfl (fmtSR_lt (by omega) (by omega) (by omega) (by omega) (by omega) ) fun _ => by
    simp (disch := omega) [dec32, decIntR]
theorem mul (d : BitVec 5) (a : BitVec 5) (b : BitVec 5) : Statement (.mul d a b) :=
  one rfl (fmtSR_lt (by omega) (by omega) (by omega) (by omega) (by omega) ) fun _ => by
    simp (disch := omega) [dec32, decIntR]
theorem mulhI32 (d : BitVec 5) (a : BitVec 5) (b : BitVec 5) : Statement (.mulhI32 d a b) :=
  one rfl (fmtSR_lt (by omega) (by omega) (by omega) (by omega) (by omega) ) fun _ => by
    simp (disch := omega) [dec32, decIntR]
theorem mulhB32 (d : BitVec 5) (a : BitVec 5) (b : BitVec 5) : Statement (.mulhB32 d a b) :=
  one rfl (fmtSR_lt (by omega) (by omega) (by omega) (by omega) (by omega) ) fun _ => by
    simp (disch := omega) [dec32, decIntR]
theorem divI32 (d : BitVec 5) (a : BitVec 5) (b : BitVec 5) : Statement (.divI32 d a b) :=
  one rfl (fmtSR_lt (by omega) (by omega) (by omega) (by omega) (by omega) ) fun _ => by
    simp (disch := omega) [dec32, decIntR]
theorem divB32 (d : BitVec 5) (a : BitVec 5) (b : BitVec 5) : Statement (.divB32 d a b) :=
  one rfl (fmtSR_lt (by omega) (by omega) (by omega) (by omega) (by omega) ) fun _ => by
    simp (disch := omega) [dec32, decIntR]
theorem remI32 (d : BitVec 5) (a : BitVec 5) (b : BitVec 5) : Statement (.remI32 d a b) :=
  one rfl (fmtSR_lt (by omega) (by omega) (by omega) (by omega) (by omega) ) fun _ => by
    simp (disch := omega) [dec32, decIntR]
theorem remB32 (d : BitVec 5) (a : BitVec 5) (b : BitVec 5) : Statement (.remB32 d a b) :=
  one rfl (fmtSR_lt (by omega) (by omega) (by omega) (by omega) (by omega) ) fun _ => by
    simp (disch := omega) [dec32, decIntR]
theorem minI32 (d : BitVec 5) (a : BitVec 5) (b : BitVec 5) : Statement (.minI32 d a b) :=
  one rfl (fmtSR_lt (by omega) (by omega) (by omega) (by omega) (by omega) ) fun _ => by
    simp (disch := omega) [dec32, decIntR]
theorem maxI32 (d : BitVec 5) (a : BitVec 5) (b : BitVec 5) : Statement (.maxI32 d a b) :=
  one rfl (fmtSR_lt (by omega) (by omega) (by omega) (by omega) (by omega) ) fun _ => by
    simp (disch := omega) [dec32, decIntR]
theorem minB32 (d : BitVec 5) (a : BitVec 5) (b : BitVec 5) : Statement (.minB32 d a b) :=
  one rfl (fmtSR_lt (by omega) (by omega) (by omega) (by omega) (by omega) ) fun _ => by
    simp (disch := omega) [dec32, decIntR]
theorem maxB32 (d : BitVec 5) (a : BitVec 5) (b : BitVec 5) : Statement (.maxB32 d a b) :=
  one rfl (fmtSR_lt (by omega) (by omega) (by omega) (by omega) (by omega) ) fun _ => by
    simp (disch := omega) [dec32, decIntR]
theorem slt (d : BitVec 5) (a : BitVec 5) (b : BitVec 5) : Statement (.slt d a b) :=
  one rfl (fmtSR_lt (by omega) (by omega) (by omega) (by omega) (by omega) ) fun _ => by
    simp (disch := omega) [dec32, decIntR]
theorem sltb (d : BitVec 5) (a : BitVec 5) (b : BitVec 5) : Statement (.sltb d a b) :=
  one rfl (fmtSR_lt (by omega) (by omega) (by omega) (by omega) (by omega) ) fun _ => by
    simp (disch := omega) [dec32, decIntR]
theorem seq (d : BitVec 5) (a : BitVec 5) (b : BitVec 5) : Statement (.seq d a b) :=
  one rfl (fmtSR_lt (by omega) (by omega) (by omega) (by omega) (by omega) ) fun _ => by
    simp (disch := omega) [dec32, decIntR]
theorem clz (d : BitVec 5) (a : BitVec 5) : Statement (.clz d a) :=
  one rfl (fmtSR_lt (by omega) (by omega) (by omega) (by omega) (by omega) ) fun _ => by
    simp (disch := omega) [dec32, decIntR]
theorem popc (d : BitVec 5) (a : BitVec 5) : Statement (.popc d a) :=
  one rfl (fmtSR_lt (by omega) (by omega) (by omega) (by omega) (by omega) ) fun _ => by
    simp (disch := omega) [dec32, decIntR]
theorem add64 (d : BitVec 4) (a : BitVec 4) (b : BitVec 4) : Statement (.add64 d a b) :=
  one rfl (fmtSR_lt (by omega) (by omega) (by omega) (by omega) (by omega) ) fun _ => by
    simp (disch := omega) [dec32, decIntR]
theorem sub64 (d : BitVec 4) (a : BitVec 4) (b : BitVec 4) : Statement (.sub64 d a b) :=
  one rfl (fmtSR_lt (by omega) (by omega) (by omega) (by omega) (by omega) ) fun _ => by
    simp (disch := omega) [dec32, decIntR]
theorem shl64 (d : BitVec 4) (a : BitVec 4) (b : BitVec 5) : Statement (.shl64 d a b) :=
  one rfl (fmtSR_lt (by omega) (by omega) (by omega) (by omega) (by omega) ) fun _ => by
    simp (disch := omega) [dec32, decIntR]
theorem shr64 (d : BitVec 4) (a : BitVec 4) (b : BitVec 5) : Statement (.shr64 d a b) :=
  one rfl (fmtSR_lt (by omega) (by omega) (by omega) (by omega) (by omega) ) fun _ => by
    simp (disch := omega) [dec32, decIntR]
theorem mul64 (d : BitVec 4) (a : BitVec 4) (b : BitVec 4) : Statement (.mul64 d a b) :=
  one rfl (fmtSR_lt (by omega) (by omega) (by omega) (by omega) (by omega) ) fun _ => by
    simp (disch := omega) [dec32, decIntR]
theorem sel (d : BitVec 5) (a : BitVec 5) (b : BitVec 5) : Statement (.sel d a b) :=
  one rfl (fmtSR_lt (by omega) (by omega) (by omega) (by omega) (by omega) ) fun _ => by
    simp (disch := omega) [dec32, decIntR]
theorem addi (d : BitVec 5) (a : BitVec 5) (i : BitVec 14) : Statement (.addi d a i) :=
  one rfl (fmtSI_lt (by omega) (by omega) (by omega) (by omega) ) fun _ => by
    simp (disch := omega) [dec32]
theorem andi (d : BitVec 5) (a : BitVec 5) (i : BitVec 14) : Statement (.andi d a i) :=
  one rfl (fmtSI_lt (by omega) (by omega) (by omega) (by omega) ) fun _ => by
    simp (disch := omega) [dec32]
theorem ori (d : BitVec 5) (a : BitVec 5) (i : BitVec 14) : Statement (.ori d a i) :=
  one rfl (fmtSI_lt (by omega) (by omega) (by omega) (by omega) ) fun _ => by
    simp (disch := omega) [dec32]
theorem xori (d : BitVec 5) (a : BitVec 5) (i : BitVec 14) : Statement (.xori d a i) :=
  one rfl (fmtSI_lt (by omega) (by omega) (by omega) (by omega) ) fun _ => by
    simp (disch := omega) [dec32]
theorem shli (d : BitVec 5) (a : BitVec 5) (i : BitVec 5) : Statement (.shli d a i) :=
  one rfl (fmtSI_lt (by omega) (by omega) (by omega) (by omega) ) fun _ => by
    simp (disch := omega) [dec32]
theorem shri (d : BitVec 5) (a : BitVec 5) (i : BitVec 5) : Statement (.shri d a i) :=
  one rfl (fmtSI_lt (by omega) (by omega) (by omega) (by omega) ) fun _ => by
    simp (disch := omega) [dec32]
theorem srai (d : BitVec 5) (a : BitVec 5) (i : BitVec 5) : Statement (.srai d a i) :=
  one rfl (fmtSI_lt (by omega) (by omega) (by omega) (by omega) ) fun _ => by
    simp (disch := omega) [dec32]
theorem slti (d : BitVec 5) (a : BitVec 5) (i : BitVec 14) : Statement (.slti d a i) :=
  one rfl (fmtSI_lt (by omega) (by omega) (by omega) (by omega) ) fun _ => by
    simp (disch := omega) [dec32]
theorem addi64 (d : BitVec 4) (a : BitVec 4) (i : BitVec 14) : Statement (.addi64 d a i) :=
  one rfl (fmtSI_lt (by omega) (by omega) (by omega) (by omega) ) fun _ => by
    simp (disch := omega) [dec32]
theorem lui (d : BitVec 5) (i : BitVec 19) : Statement (.lui d i) :=
  one rfl (fmtSJ_lt (by omega) (by omega) (by omega) ) fun _ => by
    simp (disch := omega) [dec32]
theorem addpc (d : BitVec 4) (i : BitVec 19) : Statement (.addpc d i) :=
  one rfl (fmtSJ_lt (by omega) (by omega) (by omega) ) fun _ => by
    simp (disch := omega) [dec32]
theorem beq (a : BitVec 5) (b : BitVec 5) (o : BitVec 14) : Statement (.beq a b o) :=
  one rfl (fmtSI_lt (by omega) (by omega) (by omega) (by omega) ) fun _ => by
    simp (disch := omega) [dec32]
theorem bne (a : BitVec 5) (b : BitVec 5) (o : BitVec 14) : Statement (.bne a b o) :=
  one rfl (fmtSI_lt (by omega) (by omega) (by omega) (by omega) ) fun _ => by
    simp (disch := omega) [dec32]
theorem blt (a : BitVec 5) (b : BitVec 5) (o : BitVec 14) : Statement (.blt a b o) :=
  one rfl (fmtSI_lt (by omega) (by omega) (by omega) (by omega) ) fun _ => by
    simp (disch := omega) [dec32]
theorem bge (a : BitVec 5) (b : BitVec 5) (o : BitVec 14) : Statement (.bge a b o) :=
  one rfl (fmtSI_lt (by omega) (by omega) (by omega) (by omega) ) fun _ => by
    simp (disch := omega) [dec32]
theorem bltb (a : BitVec 5) (b : BitVec 5) (o : BitVec 14) : Statement (.bltb a b o) :=
  one rfl (fmtSI_lt (by omega) (by omega) (by omega) (by omega) ) fun _ => by
    simp (disch := omega) [dec32]
theorem bgeb (a : BitVec 5) (b : BitVec 5) (o : BitVec 14) : Statement (.bgeb a b o) :=
  one rfl (fmtSI_lt (by omega) (by omega) (by omega) (by omega) ) fun _ => by
    simp (disch := omega) [dec32]
theorem jal (d : BitVec 4) (i : BitVec 19) : Statement (.jal d i) :=
  one rfl (fmtSJ_lt (by omega) (by omega) (by omega) ) fun _ => by
    simp (disch := omega) [dec32]
theorem jalr (d : BitVec 4) (a : BitVec 4) (i : BitVec 14) : Statement (.jalr d a i) :=
  one rfl (fmtSI_lt (by omega) (by omega) (by omega) (by omega) ) fun _ => by
    simp (disch := omega) [dec32]
theorem loopn (a : BitVec 5) (o : BitVec 14) : Statement (.loopn a o) :=
  one rfl (fmtSI_lt (by omega) (by omega) (by omega) (by omega) ) fun _ => by
    simp (disch := omega) [dec32]
theorem ldB8 (d : BitVec 5) (a : BitVec 4) (i : BitVec 14) : Statement (.ldB8 d a i) :=
  one rfl (fmtSI_lt (by omega) (by omega) (by omega) (by omega) ) fun _ => by
    simp (disch := omega) [dec32]
theorem ldI8 (d : BitVec 5) (a : BitVec 4) (i : BitVec 14) : Statement (.ldI8 d a i) :=
  one rfl (fmtSI_lt (by omega) (by omega) (by omega) (by omega) ) fun _ => by
    simp (disch := omega) [dec32]
theorem ldB16 (d : BitVec 5) (a : BitVec 4) (i : BitVec 14) : Statement (.ldB16 d a i) :=
  one rfl (fmtSI_lt (by omega) (by omega) (by omega) (by omega) ) fun _ => by
    simp (disch := omega) [dec32]
theorem ldI16 (d : BitVec 5) (a : BitVec 4) (i : BitVec 14) : Statement (.ldI16 d a i) :=
  one rfl (fmtSI_lt (by omega) (by omega) (by omega) (by omega) ) fun _ => by
    simp (disch := omega) [dec32]
theorem ldW (d : BitVec 5) (a : BitVec 4) (i : BitVec 14) : Statement (.ldW d a i) :=
  one rfl (fmtSI_lt (by omega) (by omega) (by omega) (by omega) ) fun _ => by
    simp (disch := omega) [dec32]
theorem ldD (d : BitVec 4) (a : BitVec 4) (i : BitVec 14) : Statement (.ldD d a i) :=
  one rfl (fmtSI_lt (by omega) (by omega) (by omega) (by omega) ) fun _ => by
    simp (disch := omega) [dec32]
theorem stB8 (d : BitVec 5) (a : BitVec 4) (i : BitVec 14) : Statement (.stB8 d a i) :=
  one rfl (fmtSI_lt (by omega) (by omega) (by omega) (by omega) ) fun _ => by
    simp (disch := omega) [dec32]
theorem stB16 (d : BitVec 5) (a : BitVec 4) (i : BitVec 14) : Statement (.stB16 d a i) :=
  one rfl (fmtSI_lt (by omega) (by omega) (by omega) (by omega) ) fun _ => by
    simp (disch := omega) [dec32]
theorem stW (d : BitVec 5) (a : BitVec 4) (i : BitVec 14) : Statement (.stW d a i) :=
  one rfl (fmtSI_lt (by omega) (by omega) (by omega) (by omega) ) fun _ => by
    simp (disch := omega) [dec32]
theorem stD (d : BitVec 4) (a : BitVec 4) (i : BitVec 14) : Statement (.stD d a i) :=
  one rfl (fmtSI_lt (by omega) (by omega) (by omega) (by omega) ) fun _ => by
    simp (disch := omega) [dec32]
theorem ldroW (d : BitVec 5) (a : BitVec 4) (i : BitVec 14) : Statement (.ldroW d a i) :=
  one rfl (fmtSI_lt (by omega) (by omega) (by omega) (by omega) ) fun _ => by
    simp (disch := omega) [dec32]
theorem ldroD (d : BitVec 4) (a : BitVec 4) (i : BitVec 14) : Statement (.ldroD d a i) :=
  one rfl (fmtSI_lt (by omega) (by omega) (by omega) (by omega) ) fun _ => by
    simp (disch := omega) [dec32]
theorem atomAdd (d : BitVec 5) (a : BitVec 4) (b : BitVec 5) (ret : Bool) (scope : Scope) (wide : Bool) : Statement (.atomAdd d a b ret scope wide) :=
  one rfl (fmtSR_lt (by omega) (by omega) (by omega) (by omega) (fmtAtom_lt wide ret scope (op := 0) (by decide))) fun h => by
    have hf := fmtAtom_lt wide ret scope (op := 0) (by decide)
    simp (disch := omega) [dec32, decAtom]
    exact atomic h rfl
theorem atomMinI (d : BitVec 5) (a : BitVec 4) (b : BitVec 5) (ret : Bool) (scope : Scope) (wide : Bool) : Statement (.atomMinI d a b ret scope wide) :=
  one rfl (fmtSR_lt (by omega) (by omega) (by omega) (by omega) (fmtAtom_lt wide ret scope (op := 1) (by decide))) fun h => by
    have hf := fmtAtom_lt wide ret scope (op := 1) (by decide)
    simp (disch := omega) [dec32, decAtom]
    exact atomic h rfl
theorem atomMaxI (d : BitVec 5) (a : BitVec 4) (b : BitVec 5) (ret : Bool) (scope : Scope) (wide : Bool) : Statement (.atomMaxI d a b ret scope wide) :=
  one rfl (fmtSR_lt (by omega) (by omega) (by omega) (by omega) (fmtAtom_lt wide ret scope (op := 2) (by decide))) fun h => by
    have hf := fmtAtom_lt wide ret scope (op := 2) (by decide)
    simp (disch := omega) [dec32, decAtom]
    exact atomic h rfl
theorem atomMinB (d : BitVec 5) (a : BitVec 4) (b : BitVec 5) (ret : Bool) (scope : Scope) (wide : Bool) : Statement (.atomMinB d a b ret scope wide) :=
  one rfl (fmtSR_lt (by omega) (by omega) (by omega) (by omega) (fmtAtom_lt wide ret scope (op := 3) (by decide))) fun h => by
    have hf := fmtAtom_lt wide ret scope (op := 3) (by decide)
    simp (disch := omega) [dec32, decAtom]
    exact atomic h rfl
theorem atomMaxB (d : BitVec 5) (a : BitVec 4) (b : BitVec 5) (ret : Bool) (scope : Scope) (wide : Bool) : Statement (.atomMaxB d a b ret scope wide) :=
  one rfl (fmtSR_lt (by omega) (by omega) (by omega) (by omega) (fmtAtom_lt wide ret scope (op := 4) (by decide))) fun h => by
    have hf := fmtAtom_lt wide ret scope (op := 4) (by decide)
    simp (disch := omega) [dec32, decAtom]
    exact atomic h rfl
theorem atomAnd (d : BitVec 5) (a : BitVec 4) (b : BitVec 5) (ret : Bool) (scope : Scope) (wide : Bool) : Statement (.atomAnd d a b ret scope wide) :=
  one rfl (fmtSR_lt (by omega) (by omega) (by omega) (by omega) (fmtAtom_lt wide ret scope (op := 5) (by decide))) fun h => by
    have hf := fmtAtom_lt wide ret scope (op := 5) (by decide)
    simp (disch := omega) [dec32, decAtom]
    exact atomic h rfl
theorem atomOr (d : BitVec 5) (a : BitVec 4) (b : BitVec 5) (ret : Bool) (scope : Scope) (wide : Bool) : Statement (.atomOr d a b ret scope wide) :=
  one rfl (fmtSR_lt (by omega) (by omega) (by omega) (by omega) (fmtAtom_lt wide ret scope (op := 6) (by decide))) fun h => by
    have hf := fmtAtom_lt wide ret scope (op := 6) (by decide)
    simp (disch := omega) [dec32, decAtom]
    exact atomic h rfl
theorem atomXor (d : BitVec 5) (a : BitVec 4) (b : BitVec 5) (ret : Bool) (scope : Scope) (wide : Bool) : Statement (.atomXor d a b ret scope wide) :=
  one rfl (fmtSR_lt (by omega) (by omega) (by omega) (by omega) (fmtAtom_lt wide ret scope (op := 7) (by decide))) fun h => by
    have hf := fmtAtom_lt wide ret scope (op := 7) (by decide)
    simp (disch := omega) [dec32, decAtom]
    exact atomic h rfl
theorem atomExch (d : BitVec 5) (a : BitVec 4) (b : BitVec 5) (ret : Bool) (scope : Scope) (wide : Bool) : Statement (.atomExch d a b ret scope wide) :=
  one rfl (fmtSR_lt (by omega) (by omega) (by omega) (by omega) (fmtAtom_lt wide ret scope (op := 8) (by decide))) fun h => by
    have hf := fmtAtom_lt wide ret scope (op := 8) (by decide)
    simp (disch := omega) [dec32, decAtom]
    exact atomic h rfl
theorem atomAddF32 (d : BitVec 5) (a : BitVec 4) (b : BitVec 5) (ret : Bool) (scope : Scope) : Statement (.atomAddF32 d a b ret scope) :=
  one rfl (fmtSR_lt (by omega) (by omega) (by omega) (by omega) (fmtAtom_lt false ret scope (op := 9) (by decide))) fun h => by
    have hf := fmtAtom_lt false ret scope (op := 9) (by decide)
    simp (disch := omega) [dec32, decAtom]
    exact atomic (y := true) h (by simp [Instr.illegal])
theorem atomcasB32 (d : BitVec 5) (a : BitVec 4) (b : BitVec 4) (scope : Scope) : Statement (.atomcasB32 d a b scope) :=
  one rfl (fmtSR_lt (by omega) (by omega) (by omega) (by omega) (fmtAtom_lt false false scope (op := 0) (by decide))) fun _ => by
    have hf := fmtAtom_lt false false scope (op := 0) (by decide)
    simp (disch := omega) [dec32]
theorem atomcasB64 (d : BitVec 4) (a : BitVec 4) (b : BitVec 3) (scope : Scope) : Statement (.atomcasB64 d a b scope) :=
  one rfl (fmtSR_lt (by omega) (by omega) (by omega) (by omega) (fmtAtom_lt true false scope (op := 0) (by decide))) fun _ => by
    have hf := fmtAtom_lt true false scope (op := 0) (by decide)
    simp (disch := omega) [dec32]
theorem sig (sem : BitVec 5) (k : BitVec 8) : Statement (.sig sem k) :=
  one rfl (fmtSI_lt (by omega) (by omega) (by omega) (by omega) ) fun h => by
    simp (disch := omega) [dec32, accept_wf h]
theorem wait (sem : BitVec 5) (k : BitVec 8) : Statement (.wait sem k) :=
  one rfl (fmtSI_lt (by omega) (by omega) (by omega) (by omega) ) fun h => by
    simp (disch := omega) [dec32, accept_wf h]
theorem bara (ba : BitVec 4) : Statement (.bara ba) :=
  one rfl (fmtSI_lt (by omega) (by omega) (by omega) (by omega) ) fun _ => by
    simp (disch := omega) [dec32]
theorem barw (ba : BitVec 4) (a : BitVec 5) (k : BitVec 1) : Statement (.barw ba a k) :=
  one rfl (fmtSI_lt (by omega) (by omega) (by omega) (by omega) ) fun _ => by
    simp (disch := omega) [dec32]
theorem bare (ba : BitVec 4) (a : BitVec 5) : Statement (.bare ba a) :=
  one rfl (fmtSI_lt (by omega) (by omega) (by omega) (by omega) ) fun _ => by
    simp (disch := omega) [dec32]
theorem sbara (sa : BitVec 2) : Statement (.sbara sa) :=
  one rfl (fmtSI_lt (by omega) (by omega) (by omega) (by omega) ) fun _ => by
    simp (disch := omega) [dec32]
theorem sbarw (sa : BitVec 2) (a : BitVec 5) (k : BitVec 1) : Statement (.sbarw sa a k) :=
  one rfl (fmtSI_lt (by omega) (by omega) (by omega) (by omega) ) fun _ => by
    simp (disch := omega) [dec32]
theorem fenceRel (scope : Scope) : Statement (.fenceRel scope) :=
  one rfl (by cases scope <;> decide) fun _ => by cases scope <;> rfl
theorem fenceAcq (scope : Scope) : Statement (.fenceAcq scope) :=
  one rfl (by cases scope <;> decide) fun _ => by cases scope <;> rfl
theorem fenceAr (scope : Scope) : Statement (.fenceAr scope) :=
  one rfl (by cases scope <;> decide) fun _ => by cases scope <;> rfl
theorem cwait (a : BitVec 5) (n : BitVec 13) : Statement (.cwait a n) :=
  one rfl (fmtSI_lt (by omega) (by omega) (by omega) (by omega) ) fun _ => by
    simp (disch := omega) [dec32]
theorem fres (a : BitVec 4) (b : BitVec 5) : Statement (.fres a b) :=
  one rfl (fmtSR_lt (by omega) (by omega) (by omega) (by omega) (by omega) ) fun _ => by
    simp (disch := omega) [dec32]
theorem fflt (a : BitVec 4) (b : BitVec 5) : Statement (.fflt a b) :=
  one rfl (fmtSR_lt (by omega) (by omega) (by omega) (by omega) (by omega) ) fun _ => by
    simp (disch := omega) [dec32]
theorem ftry (d : BitVec 5) (a : BitVec 4) (b : BitVec 5) : Statement (.ftry d a b) :=
  one rfl (fmtSR_lt (by omega) (by omega) (by omega) (by omega) (by omega) ) fun _ => by
    simp (disch := omega) [dec32]
theorem fstat (d : BitVec 4) (a : BitVec 4) : Statement (.fstat d a) :=
  one rfl (fmtSR_lt (by omega) (by omega) (by omega) (by omega) (by omega) ) fun _ => by
    simp (disch := omega) [dec32]
theorem tlaunch (d : BitVec 5) (a : BitVec 4) : Statement (.tlaunch d a) :=
  one rfl (fmtSR_lt (by omega) (by omega) (by omega) (by omega) (by omega) ) fun _ => by
    simp (disch := omega) [dec32]
theorem tjoin (d : BitVec 5) (a : BitVec 4) : Statement (.tjoin d a) :=
  one rfl (fmtSR_lt (by omega) (by omega) (by omega) (by omega) (by omega) ) fun _ => by
    simp (disch := omega) [dec32]
theorem grec (a : BitVec 4) (b : BitVec 5) : Statement (.grec a b) :=
  one rfl (fmtSR_lt (by omega) (by omega) (by omega) (by omega) (by omega) ) fun _ => by
    simp (disch := omega) [dec32]
theorem mif (j : BitVec 5) (p : BitVec 5) : Statement (.mif j p) :=
  one rfl (fmtSR_lt (by omega) (by omega) (by omega) (by omega) (by omega) ) fun h => by
    simp (disch := omega) [dec32, accept_wf h]
theorem melse (j : BitVec 5) : Statement (.melse j) :=
  one rfl (fmtSR_lt (by omega) (by omega) (by omega) (by omega) (by omega) ) fun h => by
    simp (disch := omega) [dec32, accept_wf h]
theorem mjoin (j : BitVec 5) : Statement (.mjoin j) :=
  one rfl (fmtSR_lt (by omega) (by omega) (by omega) (by omega) (by omega) ) fun h => by
    simp (disch := omega) [dec32, accept_wf h]
theorem msave (j : BitVec 5) : Statement (.msave j) :=
  one rfl (fmtSR_lt (by omega) (by omega) (by omega) (by omega) (by omega) ) fun h => by
    simp (disch := omega) [dec32, accept_wf h]
theorem mbreak (p : BitVec 5) : Statement (.mbreak p) :=
  one rfl (fmtSR_lt (by omega) (by omega) (by omega) (by omega) (by omega) ) fun _ => by
    simp (disch := omega) [dec32]
theorem bmany (o : BitVec 14) : Statement (.bmany o) :=
  one rfl (fmtSI_lt (by omega) (by omega) (by omega) (by omega) ) fun _ => by
    simp (disch := omega) [dec32]
theorem bmnone (o : BitVec 14) : Statement (.bmnone o) :=
  one rfl (fmtSI_lt (by omega) (by omega) (by omega) (by omega) ) fun _ => by
    simp (disch := omega) [dec32]
theorem pmovs (j : BitVec 5) (p : BitVec 5) : Statement (.pmovs j p) :=
  one rfl (fmtSR_lt (by omega) (by omega) (by omega) (by omega) (by omega) ) fun h => by
    simp (disch := omega) [dec32, accept_wf h]
theorem smovp (p : BitVec 5) (j : BitVec 5) : Statement (.smovp p j) :=
  one rfl (fmtSR_lt (by omega) (by omega) (by omega) (by omega) (by omega) ) fun h => by
    simp (disch := omega) [dec32, accept_wf h]
theorem sysrd (d : BitVec 5) (i : BitVec 12) : Statement (.sysrd d i) :=
  one rfl (fmtSI_lt (by omega) (by omega) (by omega) (by omega) ) fun h => by
    simp (disch := omega) [dec32, accept_wf h]
theorem syswr (a : BitVec 5) (i : BitVec 12) : Statement (.syswr a i) :=
  one rfl (fmtSI_lt (by omega) (by omega) (by omega) (by omega) ) fun h => by
    simp (disch := omega) [dec32, accept_wf h]
theorem trap (k : BitVec 8) : Statement (.trap k) :=
  one rfl (fmtSI_lt (by omega) (by omega) (by omega) (by omega) ) fun _ => by
    simp (disch := omega) [dec32]
theorem cycles (a : BitVec 5) (i : BitVec 14) : Statement (.cycles a i) :=
  one rfl (fmtSI_lt (by omega) (by omega) (by omega) (by omega) ) fun _ => by
    simp (disch := omega) [dec32]
theorem oclm (b : BitVec 6) (n : BitVec 7) : Statement (.oclm b n) :=
  two rfl fmtEng0_ge (fmtEng0_lt (by decide) (by decide)) (by omega) fun h => by
    simp (disch := omega) only [decMatrix, eng0_eng, eng0_op, eng0_low, fbv_eq, evAt_eq, fbit_eq, fld_low, fld_top, fld_first, fld_only, fld_under, fld_past, fld_zero, toNat_beq_one, Nat.succ_ne_self]
    simp [accept_wf h]
theorem mold (act : Act) (b : BitVec 6) (n : BitVec 7) (a : BitVec 5) (side : Bool) : Statement (.mold act b n a side) :=
  two rfl fmtEng_ge (fmtEng_lt (by decide) (by decide)) (by have := Bool.toNat_le side; omega) fun h => by
    have := Bool.toNat_le side
    have ha : act.ok = true := by cases hb : act.ok <;> simp_all [Instr.wf, Instr.illegal]
    simp (disch := omega) only [decMatrix, eng_eng, eng_op, eng_act, engine, fbv_eq, evAt_eq, fbit_eq, fld_low, fld_top, fld_first, fld_only, fld_under, fld_past, fld_zero, toNat_beq_one, Nat.succ_ne_self]
    simp [ha, accept_wf h]
theorem mma (act : Act) (sa : BitVec 6) (sb : BitVec 6) (c : BitVec 5) (mq : BitVec 3) (nq : BitVec 3) (fa : BitVec 4) (fb : BitVec 4) (z : Bool) : Statement (.mma act sa sb c mq nq fa fb z) :=
  two rfl fmtEng_ge (fmtEng_lt (by decide) (by decide)) (by have := Bool.toNat_le z; omega) fun h => by
    have := Bool.toNat_le z
    have ha : act.ok = true := by cases hb : act.ok <;> simp_all [Instr.wf, Instr.illegal]
    simp (disch := omega) only [decMatrix, eng_eng, eng_op, eng_act, engine, fbv_eq, evAt_eq, fbit_eq, fld_low, fld_top, fld_first, fld_only, fld_under, fld_past, fld_zero, toNat_beq_one, Nat.succ_ne_self]
    simp [ha, accept_wf h]
theorem mmap (act : Act) (sa : BitVec 6) (sb : BitVec 6) (c : BitVec 5) (mq : BitVec 3) (nq : BitVec 3) (fa : BitVec 4) (fb : BitVec 4) (z : Bool) : Statement (.mmap act sa sb c mq nq fa fb z) :=
  two rfl fmtEng_ge (fmtEng_lt (by decide) (by decide)) (by have := Bool.toNat_le z; omega) fun h => by
    have := Bool.toNat_le z
    have ha : act.ok = true := by cases hb : act.ok <;> simp_all [Instr.wf, Instr.illegal]
    simp (disch := omega) only [decMatrix, eng_eng, eng_op, eng_act, engine, fbv_eq, evAt_eq, fbit_eq, fld_low, fld_top, fld_first, fld_only, fld_under, fld_past, fld_zero, toNat_beq_one, Nat.succ_ne_self]
    simp [ha, accept_wf h]
theorem mmasFull (act : Act) (sa : BitVec 6) (sb : BitVec 6) (n : BitVec 4) (mq : BitVec 3) (nq : BitVec 3) : Statement (.mmasFull act sa sb n mq nq) :=
  two rfl fmtEng_ge (fmtEng_lt (by decide) (by decide)) (by omega) fun h => by
    have ha : act.ok = true := by cases hb : act.ok <;> simp_all [Instr.wf, Instr.illegal]
    simp (disch := omega) only [decMatrix, eng_eng, eng_op, eng_act, engine, fbv_eq, evAt_eq, fbit_eq, fld_low, fld_top, fld_first, fld_only, fld_under, fld_past, fld_zero, toNat_beq_one, Nat.succ_ne_self]
    simp [ha, accept_wf h]
theorem mmasTri (act : Act) (sa : BitVec 6) (sb : BitVec 6) (n : BitVec 4) (mq : BitVec 3) (nq : BitVec 3) : Statement (.mmasTri act sa sb n mq nq) :=
  two rfl fmtEng_ge (fmtEng_lt (by decide) (by decide)) (by omega) fun h => by
    have ha : act.ok = true := by cases hb : act.ok <;> simp_all [Instr.wf, Instr.illegal]
    simp (disch := omega) only [decMatrix, eng_eng, eng_op, eng_act, engine, fbv_eq, evAt_eq, fbit_eq, fld_low, fld_top, fld_first, fld_only, fld_under, fld_past, fld_zero, toNat_beq_one, Nat.succ_ne_self]
    simp [ha, accept_wf h]
theorem mwclr (act : Act) : Statement (.mwclr act) :=
  two rfl fmtEng_ge (fmtEng_lt (by decide) (by decide)) (by omega) fun h => by
    have ha : act.ok = true := by cases hb : act.ok <;> simp_all [Instr.wf, Instr.illegal]
    simp (disch := omega) only [decMatrix, eng_eng, eng_op, eng_act, engine, fbv_eq, evAt_eq, fbit_eq, fld_low, fld_top, fld_first, fld_only, fld_under, fld_past, fld_zero, toNat_beq_one, Nat.succ_ne_self]
    simp [ha, accept_wf h]
theorem mwst (act : Act) (d : BitVec 4) (p : BitVec 5) (mq : BitVec 3) (nq : BitVec 3) : Statement (.mwst act d p mq nq) :=
  two rfl fmtEng_ge (fmtEng_lt (by decide) (by decide)) (by omega) fun h => by
    have ha : act.ok = true := by cases hb : act.ok <;> simp_all [Instr.wf, Instr.illegal]
    simp (disch := omega) only [decMatrix, eng_eng, eng_op, eng_act, engine, fbv_eq, evAt_eq, fbit_eq, fld_low, fld_top, fld_first, fld_only, fld_under, fld_past, fld_zero, toNat_beq_one, Nat.succ_ne_self]
    simp [ha, accept_wf h]
theorem macz (act : Act) (c : BitVec 5) (k : BitVec 5) : Statement (.macz act c k) :=
  two rfl fmtEng_ge (fmtEng_lt (by decide) (by decide)) (by omega) fun h => by
    have ha : act.ok = true := by cases hb : act.ok <;> simp_all [Instr.wf, Instr.illegal]
    simp (disch := omega) only [decMatrix, eng_eng, eng_op, eng_act, engine, fbv_eq, evAt_eq, fbit_eq, fld_low, fld_top, fld_first, fld_only, fld_under, fld_past, fld_zero, toNat_beq_one, Nat.succ_ne_self]
    simp [ha, accept_wf h]
theorem macld (act : Act) (a : BitVec 4) (p : BitVec 5) (c : BitVec 5) (mq : BitVec 3) (nq : BitVec 3) : Statement (.macld act a p c mq nq) :=
  two rfl fmtEng_ge (fmtEng_lt (by decide) (by decide)) (by omega) fun h => by
    have ha : act.ok = true := by cases hb : act.ok <;> simp_all [Instr.wf, Instr.illegal]
    simp (disch := omega) only [decMatrix, eng_eng, eng_op, eng_act, engine, fbv_eq, evAt_eq, fbit_eq, fld_low, fld_top, fld_first, fld_only, fld_under, fld_past, fld_zero, toNat_beq_one, Nat.succ_ne_self]
    simp [ha, accept_wf h]
theorem macst (act : Act) (d : BitVec 4) (p : BitVec 5) (c : BitVec 5) (mq : BitVec 3) (nq : BitVec 3) (fmt : BitVec 4) (sr : Bool) (sc : BitVec 4) : Statement (.macst act d p c mq nq fmt sr sc) :=
  two rfl fmtEng_ge (fmtEng_lt (by decide) (by decide)) (by have := Bool.toNat_le sr; omega) fun h => by
    have := Bool.toNat_le sr
    have ha : act.ok = true := by cases hb : act.ok <;> simp_all [Instr.wf, Instr.illegal]
    simp (disch := omega) only [decMatrix, eng_eng, eng_op, eng_act, engine, fbv_eq, evAt_eq, fbit_eq, fld_low, fld_top, fld_first, fld_only, fld_under, fld_past, fld_zero, toNat_beq_one, Nat.succ_ne_self]
    simp [ha, accept_wf h]
theorem rboard (act : Act) (b : BitVec 6) (l : BitVec 5) (f : BitVec 5) (n : BitVec 5) (m : BitVec 5) : Statement (.rboard act b l f n m) :=
  two rfl fmtEng_ge (fmtEng_lt (by decide) (by decide)) (by omega) fun h => by
    have ha : act.ok = true := by cases hb : act.ok <;> simp_all [Instr.wf, Instr.illegal]
    simp (disch := omega) only [decMatrix, eng_eng, eng_op, eng_act, engine, fbv_eq, evAt_eq, fbit_eq, fld_low, fld_top, fld_first, fld_only, fld_under, fld_past, fld_zero, toNat_beq_one, Nat.succ_ne_self]
    simp [ha, accept_wf h]
theorem mseed (a : BitVec 5) : Statement (.mseed a) :=
  two rfl fmtEng0_ge (fmtEng0_lt (by decide) (by decide)) (by omega) fun _ => by
    simp (disch := omega) only [decMatrix, eng0_eng, eng0_op, eng0_low, fbv_eq, evAt_eq, fbit_eq, fld_low, fld_top, fld_first, fld_only, fld_under, fld_past, fld_zero, toNat_beq_one, Nat.succ_ne_self]
    simp
theorem cpy (act : Act) (d : BitVec 4) (a : BitVec 4) (n : BitVec 5) : Statement (.cpy act d a n) :=
  two rfl fmtEng_ge (fmtEng_lt (by decide) (by decide)) (by omega) fun h => by
    have ha : act.ok = true := by cases hb : act.ok <;> simp_all [Instr.wf, Instr.illegal]
    simp (disch := omega) only [decCopy, eng_eng, eng_op, eng_act, engine, fbv_eq, evAt_eq, fbit_eq, fld_low, fld_top, fld_first, fld_only, fld_under, fld_past, fld_zero, toNat_beq_one, Nat.succ_ne_self]
    simp [ha, accept_wf h]
theorem tcopy (act : Act) (r : BitVec 4) (a : BitVec 5) (c : BitVec 5) : Statement (.tcopy act r a c) :=
  two rfl fmtEng_ge (fmtEng_lt (by decide) (by decide)) (by omega) fun h => by
    have ha : act.ok = true := by cases hb : act.ok <;> simp_all [Instr.wf, Instr.illegal]
    simp (disch := omega) only [decCopy, eng_eng, eng_op, eng_act, engine, fbv_eq, evAt_eq, fbit_eq, fld_low, fld_top, fld_first, fld_only, fld_under, fld_past, fld_zero, toNat_beq_one, Nat.succ_ne_self]
    simp [ha, accept_wf h]
theorem tcopySt (act : Act) (r : BitVec 4) (a : BitVec 5) (c : BitVec 5) : Statement (.tcopySt act r a c) :=
  two rfl fmtEng_ge (fmtEng_lt (by decide) (by decide)) (by omega) fun h => by
    have ha : act.ok = true := by cases hb : act.ok <;> simp_all [Instr.wf, Instr.illegal]
    simp (disch := omega) only [decCopy, eng_eng, eng_op, eng_act, engine, fbv_eq, evAt_eq, fbit_eq, fld_low, fld_top, fld_first, fld_only, fld_under, fld_past, fld_zero, toNat_beq_one, Nat.succ_ne_self]
    simp [ha, accept_wf h]
theorem tcopyo (act : Act) (r : BitVec 4) (b : BitVec 6) (c : BitVec 5) : Statement (.tcopyo act r b c) :=
  two rfl fmtEng_ge (fmtEng_lt (by decide) (by decide)) (by omega) fun h => by
    have ha : act.ok = true := by cases hb : act.ok <;> simp_all [Instr.wf, Instr.illegal]
    simp (disch := omega) only [decCopy, eng_eng, eng_op, eng_act, engine, fbv_eq, evAt_eq, fbit_eq, fld_low, fld_top, fld_first, fld_only, fld_under, fld_past, fld_zero, toNat_beq_one, Nat.succ_ne_self]
    simp [ha, accept_wf h]
theorem osliceA (act : Act) (a : BitVec 5) (b : BitVec 6) (s : BitVec 4) (rq : BitVec 3) : Statement (.osliceA act a b s rq) :=
  two rfl fmtEng_ge (fmtEng_lt (by decide) (by decide)) (by omega) fun h => by
    have ha : act.ok = true := by cases hb : act.ok <;> simp_all [Instr.wf, Instr.illegal]
    simp (disch := omega) only [decCopy, eng_eng, eng_op, eng_act, engine, fbv_eq, evAt_eq, fbit_eq, fld_low, fld_top, fld_first, fld_only, fld_under, fld_past, fld_zero, toNat_beq_one, Nat.succ_ne_self]
    simp [ha, accept_wf h]
theorem osliceB (act : Act) (a : BitVec 5) (b : BitVec 6) (s : BitVec 4) (rq : BitVec 3) : Statement (.osliceB act a b s rq) :=
  two rfl fmtEng_ge (fmtEng_lt (by decide) (by decide)) (by omega) fun h => by
    have ha : act.ok = true := by cases hb : act.ok <;> simp_all [Instr.wf, Instr.illegal]
    simp (disch := omega) only [decCopy, eng_eng, eng_op, eng_act, engine, fbv_eq, evAt_eq, fbit_eq, fld_low, fld_top, fld_first, fld_only, fld_under, fld_past, fld_zero, toNat_beq_one, Nat.succ_ne_self]
    simp [ha, accept_wf h]
theorem gather (act : Act) (d : BitVec 5) (a : BitVec 4) (i : BitVec 4) (n : BitVec 5) (w : BitVec 5) (t : BitVec 5) : Statement (.gather act d a i n w t) :=
  two rfl fmtEng_ge (fmtEng_lt (by decide) (by decide)) (by omega) fun h => by
    have ha : act.ok = true := by cases hb : act.ok <;> simp_all [Instr.wf, Instr.illegal]
    simp (disch := omega) only [decCopy, eng_eng, eng_op, eng_act, engine, fbv_eq, evAt_eq, fbit_eq, fld_low, fld_top, fld_first, fld_only, fld_under, fld_past, fld_zero, toNat_beq_one, Nat.succ_ne_self]
    simp [ha, accept_wf h]
theorem scatter (act : Act) (d : BitVec 5) (a : BitVec 4) (i : BitVec 4) (n : BitVec 5) (w : BitVec 5) (t : BitVec 5) : Statement (.scatter act d a i n w t) :=
  two rfl fmtEng_ge (fmtEng_lt (by decide) (by decide)) (by omega) fun h => by
    have ha : act.ok = true := by cases hb : act.ok <;> simp_all [Instr.wf, Instr.illegal]
    simp (disch := omega) only [decCopy, eng_eng, eng_op, eng_act, engine, fbv_eq, evAt_eq, fbit_eq, fld_low, fld_top, fld_first, fld_only, fld_under, fld_past, fld_zero, toNat_beq_one, Nat.succ_ne_self]
    simp [ha, accept_wf h]
theorem cpyred (act : Act) (d : BitVec 4) (s : BitVec 5) (n : BitVec 5) (op : BitVec 3) (ty : BitVec 2) : Statement (.cpyred act d s n op ty) :=
  two rfl fmtEng_ge (fmtEng_lt (by decide) (by decide)) (by omega) fun h => by
    have ha : act.ok = true := by cases hb : act.ok <;> simp_all [Instr.wf, Instr.illegal]
    simp (disch := omega) only [decCopy, eng_eng, eng_op, eng_act, engine, fbv_eq, evAt_eq, fbit_eq, fld_low, fld_top, fld_first, fld_only, fld_under, fld_past, fld_zero, toNat_beq_one, Nat.succ_ne_self]
    simp [ha, accept_wf h]
theorem qfill (act : Act) (q : BitVec 2) (a : BitVec 4) (l : BitVec 5) (e : BitVec 5) (n : BitVec 5) : Statement (.qfill act q a l e n) :=
  two rfl fmtEng_ge (fmtEng_lt (by decide) (by decide)) (by omega) fun h => by
    have ha : act.ok = true := by cases hb : act.ok <;> simp_all [Instr.wf, Instr.illegal]
    simp (disch := omega) only [decCopy, eng_eng, eng_op, eng_act, engine, fbv_eq, evAt_eq, fbit_eq, fld_low, fld_top, fld_first, fld_only, fld_under, fld_past, fld_zero, toNat_beq_one, Nat.succ_ne_self]
    simp [ha, accept_wf h]
theorem qsink (act : Act) (q : BitVec 2) (a : BitVec 4) (l : BitVec 5) (e : BitVec 5) (n : BitVec 5) : Statement (.qsink act q a l e n) :=
  two rfl fmtEng_ge (fmtEng_lt (by decide) (by decide)) (by omega) fun h => by
    have ha : act.ok = true := by cases hb : act.ok <;> simp_all [Instr.wf, Instr.illegal]
    simp (disch := omega) only [decCopy, eng_eng, eng_op, eng_act, engine, fbv_eq, evAt_eq, fbit_eq, fld_low, fld_top, fld_first, fld_only, fld_under, fld_past, fld_zero, toNat_beq_one, Nat.succ_ne_self]
    simp [ha, accept_wf h]
theorem collred (act : Act) (g : BitVec 4) (d : BitVec 5) (s : BitVec 5) (n : BitVec 5) (op : BitVec 3) (ty : BitVec 2) (arr : Bool) : Statement (.collred act g d s n op ty arr) :=
  two rfl fmtEng_ge (fmtEng_lt (by decide) (by decide)) (by have := Bool.toNat_le arr; omega) fun h => by
    have := Bool.toNat_le arr
    have ha : act.ok = true := by cases hb : act.ok <;> simp_all [Instr.wf, Instr.illegal]
    simp (disch := omega) only [decCopy, eng_eng, eng_op, eng_act, engine, fbv_eq, evAt_eq, fbit_eq, fld_low, fld_top, fld_first, fld_only, fld_under, fld_past, fld_zero, toNat_beq_one, Nat.succ_ne_self]
    simp [ha, accept_wf h]
theorem collbc (act : Act) (g : BitVec 4) (d : BitVec 5) (n : BitVec 5) : Statement (.collbc act g d n) :=
  two rfl fmtEng_ge (fmtEng_lt (by decide) (by decide)) (by omega) fun h => by
    have ha : act.ok = true := by cases hb : act.ok <;> simp_all [Instr.wf, Instr.illegal]
    simp (disch := omega) only [decCopy, eng_eng, eng_op, eng_act, engine, fbv_eq, evAt_eq, fbit_eq, fld_low, fld_top, fld_first, fld_only, fld_under, fld_past, fld_zero, toNat_beq_one, Nat.succ_ne_self]
    simp [ha, accept_wf h]
theorem collsendSend (act : Act) (g : BitVec 4) (t : BitVec 5) (s : BitVec 5) (n : BitVec 5) : Statement (.collsendSend act g t s n) :=
  two rfl fmtEng_ge (fmtEng_lt (by decide) (by decide)) (by omega) fun h => by
    have ha : act.ok = true := by cases hb : act.ok <;> simp_all [Instr.wf, Instr.illegal]
    simp (disch := omega) only [decCopy, eng_eng, eng_op, eng_act, engine, fbv_eq, evAt_eq, fbit_eq, fld_low, fld_top, fld_first, fld_only, fld_under, fld_past, fld_zero, toNat_beq_one, Nat.succ_ne_self]
    simp [ha, accept_wf h]
theorem collsendRecv (act : Act) (g : BitVec 4) (t : BitVec 5) (s : BitVec 5) (n : BitVec 5) : Statement (.collsendRecv act g t s n) :=
  two rfl fmtEng_ge (fmtEng_lt (by decide) (by decide)) (by omega) fun h => by
    have ha : act.ok = true := by cases hb : act.ok <;> simp_all [Instr.wf, Instr.illegal]
    simp (disch := omega) only [decCopy, eng_eng, eng_op, eng_act, engine, fbv_eq, evAt_eq, fbit_eq, fld_low, fld_top, fld_first, fld_only, fld_under, fld_past, fld_zero, toNat_beq_one, Nat.succ_ne_self]
    simp [ha, accept_wf h]
theorem spref (act : Act) (a : BitVec 4) (n : BitVec 5) : Statement (.spref act a n) :=
  two rfl fmtEng_ge (fmtEng_lt (by decide) (by decide)) (by omega) fun h => by
    have ha : act.ok = true := by cases hb : act.ok <;> simp_all [Instr.wf, Instr.illegal]
    simp (disch := omega) only [decCopy, eng_eng, eng_op, eng_act, engine, fbv_eq, evAt_eq, fbit_eq, fld_low, fld_top, fld_first, fld_only, fld_under, fld_past, fld_zero, toNat_beq_one, Nat.succ_ne_self]
    simp [ha, accept_wf h]
theorem cstat (d : BitVec 5) : Statement (.cstat d) :=
  two rfl fmtEng0_ge (fmtEng0_lt (by decide) (by decide)) (by omega) fun _ => by
    simp (disch := omega) only [decCopy, eng0_eng, eng0_op, eng0_low, fbv_eq, evAt_eq, fbit_eq, fld_low, fld_top, fld_first, fld_only, fld_under, fld_past, fld_zero, toNat_beq_one, Nat.succ_ne_self]
    simp
theorem fadd (w : VW) : Statement (.fadd w) := wide 0x010 w rfl rfl (by decide) rfl
theorem fsub (w : VW) : Statement (.fsub w) := wide 0x011 w rfl rfl (by decide) rfl
theorem fmul (w : VW) : Statement (.fmul w) := wide 0x012 w rfl rfl (by decide) rfl
theorem ffma (w : VW) : Statement (.ffma w) := wide 0x013 w rfl rfl (by decide) rfl
theorem ffnma (w : VW) : Statement (.ffnma w) := wide 0x014 w rfl rfl (by decide) rfl
theorem fmin (w : VW) : Statement (.fmin w) := wide 0x015 w rfl rfl (by decide) rfl
theorem fmax (w : VW) : Statement (.fmax w) := wide 0x016 w rfl rfl (by decide) rfl
theorem fceq (w : VW) : Statement (.fceq w) := wide 0x017 w rfl rfl (by decide) rfl
theorem fcne (w : VW) : Statement (.fcne w) := wide 0x018 w rfl rfl (by decide) rfl
theorem fclt (w : VW) : Statement (.fclt w) := wide 0x019 w rfl rfl (by decide) rfl
theorem fcle (w : VW) : Statement (.fcle w) := wide 0x01A w rfl rfl (by decide) rfl
theorem fcun (w : VW) : Statement (.fcun w) := wide 0x01B w rfl rfl (by decide) rfl
theorem fclass (w : VW) : Statement (.fclass w) := wide 0x01C w rfl rfl (by decide) rfl
theorem frnd (w : VW) : Statement (.frnd w) := wide 0x01D w rfl rfl (by decide) rfl
theorem dadd (w : VW) : Statement (.dadd w) := wide 0x040 w rfl rfl (by decide) rfl
theorem dsub (w : VW) : Statement (.dsub w) := wide 0x041 w rfl rfl (by decide) rfl
theorem dmul (w : VW) : Statement (.dmul w) := wide 0x042 w rfl rfl (by decide) rfl
theorem dfma (w : VW) : Statement (.dfma w) := wide 0x043 w rfl rfl (by decide) rfl
theorem dfnma (w : VW) : Statement (.dfnma w) := wide 0x044 w rfl rfl (by decide) rfl
theorem dmin (w : VW) : Statement (.dmin w) := wide 0x045 w rfl rfl (by decide) rfl
theorem dmax (w : VW) : Statement (.dmax w) := wide 0x046 w rfl rfl (by decide) rfl
theorem dceq (w : VW) : Statement (.dceq w) := wide 0x047 w rfl rfl (by decide) rfl
theorem dcne (w : VW) : Statement (.dcne w) := wide 0x048 w rfl rfl (by decide) rfl
theorem dclt (w : VW) : Statement (.dclt w) := wide 0x049 w rfl rfl (by decide) rfl
theorem dcle (w : VW) : Statement (.dcle w) := wide 0x04A w rfl rfl (by decide) rfl
theorem dcun (w : VW) : Statement (.dcun w) := wide 0x04B w rfl rfl (by decide) rfl
theorem drnd (w : VW) : Statement (.drnd w) := wide 0x04C w rfl rfl (by decide) rfl
theorem hadd2 (w : VW) : Statement (.hadd2 w) := wide 0x070 w rfl rfl (by decide) rfl
theorem hsub2 (w : VW) : Statement (.hsub2 w) := wide 0x071 w rfl rfl (by decide) rfl
theorem hmul2 (w : VW) : Statement (.hmul2 w) := wide 0x072 w rfl rfl (by decide) rfl
theorem hfma2 (w : VW) : Statement (.hfma2 w) := wide 0x073 w rfl rfl (by decide) rfl
theorem hmin2 (w : VW) : Statement (.hmin2 w) := wide 0x074 w rfl rfl (by decide) rfl
theorem hmax2 (w : VW) : Statement (.hmax2 w) := wide 0x075 w rfl rfl (by decide) rfl
theorem dot2 (w : VW) : Statement (.dot2 w) := wide 0x076 w rfl rfl (by decide) rfl
theorem dot4 (w : VW) : Statement (.dot4 w) := wide 0x077 w rfl rfl (by decide) rfl
theorem idot4 (w : VW) : Statement (.idot4 w) := wide 0x078 w rfl rfl (by decide) rfl
theorem rcp (w : VW) : Statement (.rcp w) := wide 0x0A0 w rfl rfl (by decide) rfl
theorem rsq (w : VW) : Statement (.rsq w) := wide 0x0A1 w rfl rfl (by decide) rfl
theorem sqrt (w : VW) : Statement (.sqrt w) := wide 0x0A2 w rfl rfl (by decide) rfl
theorem exp2 (w : VW) : Statement (.exp2 w) := wide 0x0A3 w rfl rfl (by decide) rfl
theorem log2 (w : VW) : Statement (.log2 w) := wide 0x0A4 w rfl rfl (by decide) rfl
theorem sinpi (w : VW) : Statement (.sinpi w) := wide 0x0A5 w rfl rfl (by decide) rfl
theorem cospi (w : VW) : Statement (.cospi w) := wide 0x0A6 w rfl rfl (by decide) rfl
theorem tanh (w : VW) : Statement (.tanh w) := wide 0x0A7 w rfl rfl (by decide) rfl
theorem drcp (w : VW) : Statement (.drcp w) := wide 0x0A8 w rfl rfl (by decide) rfl
theorem dsqrt (w : VW) : Statement (.dsqrt w) := wide 0x0A9 w rfl rfl (by decide) rfl
theorem iadd (w : VW) : Statement (.iadd w) := wide 0x0C0 w rfl rfl (by decide) rfl
theorem isub (w : VW) : Statement (.isub w) := wide 0x0C1 w rfl rfl (by decide) rfl
theorem imul (w : VW) : Statement (.imul w) := wide 0x0C2 w rfl rfl (by decide) rfl
theorem imad (w : VW) : Statement (.imad w) := wide 0x0C3 w rfl rfl (by decide) rfl
theorem imulh (w : VW) : Statement (.imulh w) := wide 0x0C4 w rfl rfl (by decide) rfl
theorem imin (w : VW) : Statement (.imin w) := wide 0x0C5 w rfl rfl (by decide) rfl
theorem imax (w : VW) : Statement (.imax w) := wide 0x0C6 w rfl rfl (by decide) rfl
theorem iabs (w : VW) : Statement (.iabs w) := wide 0x0C7 w rfl rfl (by decide) rfl
theorem ishl (w : VW) : Statement (.ishl w) := wide 0x0C8 w rfl rfl (by decide) rfl
theorem ishr (w : VW) : Statement (.ishr w) := wide 0x0C9 w rfl rfl (by decide) rfl
theorem isra (w : VW) : Statement (.isra w) := wide 0x0CA w rfl rfl (by decide) rfl
theorem vlut (w : VW) : Statement (.vlut w) := wide 0x0CB w rfl rfl (by decide) rfl
theorem isum3 (w : VW) : Statement (.isum3 w) := wide 0x0CC w rfl rfl (by decide) rfl
theorem iceq (w : VW) : Statement (.iceq w) := wide 0x0CD w rfl rfl (by decide) rfl
theorem icne (w : VW) : Statement (.icne w) := wide 0x0CE w rfl rfl (by decide) rfl
theorem iclt (w : VW) : Statement (.iclt w) := wide 0x0CF w rfl rfl (by decide) rfl
theorem icle (w : VW) : Statement (.icle w) := wide 0x0D0 w rfl rfl (by decide) rfl
theorem icltb (w : VW) : Statement (.icltb w) := wide 0x0D1 w rfl rfl (by decide) rfl
theorem icleb (w : VW) : Statement (.icleb w) := wide 0x0D2 w rfl rfl (by decide) rfl
theorem vpopc (w : VW) : Statement (.vpopc w) := wide 0x0D3 w rfl rfl (by decide) rfl
theorem vclz (w : VW) : Statement (.vclz w) := wide 0x0D4 w rfl rfl (by decide) rfl
theorem brev (w : VW) : Statement (.brev w) := wide 0x0D5 w rfl rfl (by decide) rfl
theorem bfx (w : VW) : Statement (.bfx w) := wide 0x0D6 w rfl rfl (by decide) rfl
theorem bfi (w : VW) : Statement (.bfi w) := wide 0x0D7 w rfl rfl (by decide) rfl
theorem iadd64 (w : VW) : Statement (.iadd64 w) := wide 0x0D8 w rfl rfl (by decide) rfl
theorem imad64 (w : VW) : Statement (.imad64 w) := wide 0x0D9 w rfl rfl (by decide) rfl
theorem cvt (w : VW) : Statement (.cvt w) := wide 0x100 w rfl rfl (by decide) rfl
theorem cvti (w : VW) : Statement (.cvti w) := wide 0x101 w rfl rfl (by decide) rfl
theorem pk2 (w : VW) : Statement (.pk2 w) := wide 0x102 w rfl rfl (by decide) rfl
theorem pk4 (w : VW) : Statement (.pk4 w) := wide 0x103 w rfl rfl (by decide) rfl
theorem unpk2 (w : VW) : Statement (.unpk2 w) := wide 0x104 w rfl rfl (by decide) rfl
theorem unpk4 (w : VW) : Statement (.unpk4 w) := wide 0x105 w rfl rfl (by decide) rfl
theorem mxq (w : VW) : Statement (.mxq w) := wide 0x106 w rfl rfl (by decide) rfl
theorem mxdq (w : VW) : Statement (.mxdq w) := wide 0x107 w rfl rfl (by decide) rfl
theorem vmov (w : VW) : Statement (.vmov w) := wide 0x120 w rfl rfl (by decide) rfl
theorem vmovi (w : VW) : Statement (.vmovi w) := wide 0x121 w rfl rfl (by decide) rfl
theorem vsel (w : VW) : Statement (.vsel w) := wide 0x122 w rfl rfl (by decide) rfl
theorem viota (w : VW) : Statement (.viota w) := wide 0x123 w rfl rfl (by decide) rfl
theorem vperm (w : VW) : Statement (.vperm w) := wide 0x124 w rfl rfl (by decide) rfl
theorem bcast (w : VW) : Statement (.bcast w) := wide 0x125 w rfl rfl (by decide) rfl
theorem redux (w : VW) : Statement (.redux w) := wide 0x126 w rfl rfl (by decide) rfl
theorem scan (w : VW) : Statement (.scan w) := wide 0x127 w rfl rfl (by decide) rfl
theorem vtag (w : VW) : Statement (.vtag w) := wide 0x128 w rfl rfl (by decide) rfl
theorem vunif (w : VW) : Statement (.vunif w) := wide 0x129 w rfl rfl (by decide) rfl
theorem vdef (w : VW) : Statement (.vdef w) := wide 0x12A w rfl rfl (by decide) rfl
theorem vmovsToVector (w : VW) : Statement (.vmovsToVector w) :=
  wideBit 0x12B w false rfl (by decide) (fun h => by simp only [vecInstr]; rw [h]; rfl) rfl
theorem vmovsToScalar (w : VW) : Statement (.vmovsToScalar w) :=
  wideBit 0x12B w true rfl (by decide) (fun h => by simp only [vecInstr]; rw [h]; rfl) rfl
theorem vreadl (w : VW) : Statement (.vreadl w) := wide 0x12C w rfl rfl (by decide) rfl
theorem plut (w : VW) : Statement (.plut w) := wide 0x140 w rfl rfl (by decide) rfl
theorem pmov (w : VW) : Statement (.pmov w) := wide 0x141 w rfl rfl (by decide) rfl
theorem vld (w : VW) : Statement (.vld w) := wide 0x160 w rfl rfl (by decide) rfl
theorem vst (w : VW) : Statement (.vst w) := wide 0x161 w rfl rfl (by decide) rfl
theorem vldro (w : VW) : Statement (.vldro w) := wide 0x162 w rfl rfl (by decide) rfl
theorem vatom (w : VW) : Statement (.vatom w) := wide 0x163 w rfl rfl (by decide) rfl
theorem vatomcas (w : VW) : Statement (.vatomcas w) := wide 0x164 w rfl rfl (by decide) rfl
theorem vfadd (w : VW) : Statement (.vfadd w) := wide 0x165 w rfl rfl (by decide) rfl
theorem vquad (w : VW) : Statement (.vquad w) := wide 0x166 w rfl rfl (by decide) rfl
theorem vpref (w : VW) : Statement (.vpref w) := wide 0x167 w rfl rfl (by decide) rfl
theorem pxw (w : VW) : Statement (.pxw w) := wide 0x168 w rfl rfl (by decide) rfl
theorem vxm (w : VW) : Statement (.vxm w) := wide 0x180 w rfl rfl (by decide) rfl
theorem xbox (w : VW) : Statement (.xbox w) := wide 0x190 w rfl rfl (by decide) rfl
theorem xtri (w : VW) : Statement (.xtri w) := wide 0x191 w rfl rfl (by decide) rfl
theorem xstep (w : VW) : Statement (.xstep w) :=
  wideBit 0x192 w false rfl (by decide) (fun h => by simp only [vecInstr]; rw [h]; rfl) rfl
theorem fenceRo : Statement .fenceRo := one rfl (by decide) fun _ => rfl
theorem eret : Statement .eret := one rfl (by decide) fun _ => rfl
theorem yield : Statement .yield := one rfl (by decide) fun _ => rfl
theorem nop : Statement .nop := one rfl (by decide) fun _ => rfl
theorem bkpt : Statement .bkpt := one rfl (by decide) fun _ => rfl
theorem endStream : Statement .endStream := one rfl (by decide) fun _ => rfl
theorem kill : Statement .kill := one rfl (by decide) fun _ => rfl
theorem orls  : Statement (.orls) :=
  two rfl fmtEng0_ge (fmtEng0_lt (by decide) (by decide)) (by omega) fun _ => by
    simp (disch := omega) only [decMatrix, eng0_eng, eng0_op, eng0_low, fbv_eq, evAt_eq, fbit_eq, fld_low, fld_top, fld_first, fld_only, fld_under, fld_past, fld_zero, toNat_beq_one, Nat.succ_ne_self]
    simp
theorem xstepPop : Statement .xstepPop := none rfl
theorem xtile : Statement .xtile := none rfl
theorem pairedWord : Statement .pairedWord := none rfl
theorem cyclesExpiry (task : Nat) (k : StreamId) : Statement (.cyclesExpiry task k) := none rfl
theorem stallExpiry (task : Nat) : Statement (.stallExpiry task) := none rfl
theorem runGrant (core : Nat) (k : StreamId) : Statement (.runGrant core k) := none rfl
theorem matrixOpCompletion (task : Nat) (op : Nat) : Statement (.matrixOpCompletion task op) := none rfl
theorem copyCompletion (task : Nat) (op : Nat) : Statement (.copyCompletion task op) := none rfl
theorem tilePassage (core : Nat) (crcOk : Bool) : Statement (.tilePassage core crcOk) := none rfl
theorem layerStart : Statement .layerStart := none rfl
theorem pxwLanePerform (die : Nat) (lane : Nat) : Statement (.pxwLanePerform die lane) := none rfl
theorem trapEntry (task : Nat) : Statement (.trapEntry task) := none rfl
theorem taskRetire (task : Nat) : Statement (.taskRetire task) := none rfl
theorem placeBlock (cores : List Nat) (bases : List Nat) : Statement (.placeBlock cores bases) := none rfl
theorem blockEviction (block : Nat) : Statement (.blockEviction block) := none rfl
theorem blockResumption (block : Nat) (cores : List Nat) (bases : List Nat) : Statement (.blockResumption block cores bases) := none rfl
theorem commit (launch : Nat) : Statement (.commit launch) := none rfl
theorem dispatch (slot : Nat) : Statement (.dispatch slot) := none rfl
theorem join (slot : Nat) : Statement (.join slot) := none rfl
theorem joinRelease (slot : Nat) : Statement (.joinRelease slot) := none rfl
theorem graph (slot : Nat) : Statement (.graph slot) := none rfl
theorem marker (slot : Nat) : Statement (.marker slot) := none rfl
theorem markerResolve (slot : Nat) : Statement (.markerResolve slot) := none rfl
theorem batchFlushTimeout (node : Nat) : Statement (.batchFlushTimeout node) := none rfl
theorem notify (slot : Nat) (word : Dword) : Statement (.notify slot word) := none rfl
theorem mapQueue (cmd : Dword) : Statement (.mapQueue cmd) := none rfl
theorem unmapQueue (cmd : Dword) : Statement (.unmapQueue cmd) := none rfl
theorem send (qpn : Nat) (payload : List Byte) : Statement (.send qpn payload) := none rfl
theorem rdmaWrite (qpn : Nat) (rkey : Word) (va : Dword) (data : List Byte) : Statement (.rdmaWrite qpn rkey va data) := none rfl
theorem rdmaRead (qpn : Nat) (rkey : Word) (va : Dword) (len : Nat) : Statement (.rdmaRead qpn rkey va len) := none rfl
theorem refusedOperation (qpn : Nat) : Statement (.refusedOperation qpn) := none rfl
theorem cnp (qpn : Nat) : Statement (.cnp qpn) := none rfl
theorem connectionRequest (port : Nat) (desc : List Byte) : Statement (.connectionRequest port desc) := none rfl
theorem create (qpn : Nat) : Statement (.create qpn) := none rfl
theorem destroy : Statement .destroy := none rfl
theorem rgninv (index : BitVec 16) : Statement (.rgninv index) := none rfl
theorem flaoriRequest (msg : FlaoriMsg) : Statement (.flaoriRequest msg) := none rfl
theorem flaoriChunk (src : Nat) (tag : Word) (seq : Nat) (off : Nat) (data : List Byte) (good : Bool) : Statement (.flaoriChunk src tag seq off data good) := none rfl
theorem flaoriSilenceTimeout (peer : Nat) : Statement (.flaoriSilenceTimeout peer) := none rfl
theorem linkDown (port : Nat) : Statement (.linkDown port) := none rfl
theorem linkUp (port : Nat) : Statement (.linkUp port) := none rfl
theorem tlbicmdPartition (cmd : Dword) : Statement (.tlbicmdPartition cmd) := none rfl
theorem tlbicmdRange (cmd : Dword) : Statement (.tlbicmdRange cmd) := none rfl
theorem pageReadDone (id : Nat) (res : ReadResult) : Statement (.pageReadDone id res) := none rfl
theorem evict (part : BitVec 3) (frame : Dword) : Statement (.evict part frame) := none rfl
theorem writeBackDone (part : BitVec 3) (res : WriteResult) : Statement (.writeBackDone part res) := none rfl
theorem nvmeCommandTimeout (id : Nat) : Statement (.nvmeCommandTimeout id) := none rfl
theorem admaddr (ssd : BitVec 3) (addr : Dword) : Statement (.admaddr ssd addr) := none rfl
theorem ssdReset (ssd : BitVec 3) : Statement (.ssdReset ssd) := none rfl
theorem healthPoll (ssd : BitVec 3) (log : Option Dword) : Statement (.healthPoll ssd log) := none rfl
theorem selfRefreshEntry (ch : Channel) : Statement (.selfRefreshEntry ch) := none rfl
theorem scrubRead (sector : Nat) (found : ScrubFound) (raced : Bool) : Statement (.scrubRead sector found raced) := none rfl
theorem softError (site : ErrSite) (double : Bool) : Statement (.softError site double) := none rfl
theorem retire (die : Nat) (slice : BitVec 4) : Statement (.retire die slice) := none rfl
theorem sliceAutoRetire (die : Nat) (slice : BitVec 4) : Statement (.sliceAutoRetire die slice) := none rfl
theorem clr (die : Nat) : Statement (.clr die) := none rfl
theorem apply (part : BitVec 3) : Statement (.apply part) := none rfl
theorem swap (part : BitVec 3) : Statement (.swap part) := none rfl
theorem boot (env : BootEnv) : Statement (.boot env) := none rfl
theorem stageTimeout (stage : BitVec 8) : Statement (.stageTimeout stage) := none rfl
theorem recover (flashOk : Bool) : Statement (.recover flashOk) := none rfl
theorem update (flashOk : Bool) : Statement (.update flashOk) := none rfl
theorem getMeasurements (qpn : Nat) (index : BitVec 8) : Statement (.getMeasurements qpn index) := none rfl
theorem load : Statement .load := none rfl
theorem speedWrite (cmd : Dword) : Statement (.speedWrite cmd) := none rfl
theorem pwrcmdNap : Statement .pwrcmdNap := none rfl
theorem pwrcmdSleep : Statement .pwrcmdSleep := none rfl
theorem pwrcmdWake : Statement .pwrcmdWake := none rfl
theorem pwrcmdOff : Statement .pwrcmdOff := none rfl
theorem idleEntry : Statement .idleEntry := none rfl
theorem idleWake : Statement .idleWake := none rfl
theorem napWake : Statement .napWake := none rfl
theorem powerLoss : Statement .powerLoss := none rfl
theorem debugHaltRequest (task : Nat) : Statement (.debugHaltRequest task) := none rfl
theorem debugResume (task : Nat) : Statement (.debugResume task) := none rfl
theorem registerWrite (off : Nat) (val : Dword) : Statement (.registerWrite off val) := none rfl
theorem storeQueueDrain (task : Nat) (k : StreamId) : Statement (.storeQueueDrain task k) := none rfl
theorem scoreboardedWordCompletion (task : Nat) : Statement (.scoreboardedWordCompletion task) := none rfl
theorem badpacket (slot : Nat) : Statement (.badpacket slot) := none rfl
theorem ringfault (slot : Nat) : Statement (.ringfault slot) := none rfl
theorem droppedFrame (port : Nat) (why : DropWhy) : Statement (.droppedFrame port why) := none rfl
theorem selfRefreshExit (ch : Channel) : Statement (.selfRefreshExit ch) := none rfl
theorem adminCompletion (ssd : BitVec 3) (entry : List Byte) : Statement (.adminCompletion ssd entry) := none rfl
theorem ssdReady (ssd : BitVec 3) : Statement (.ssdReady ssd) := none rfl
theorem ssdLinkDown (ssd : BitVec 3) : Statement (.ssdLinkDown ssd) := none rfl
theorem localAckTimeout (qpn : Nat) : Statement (.localAckTimeout qpn) := none rfl
theorem flaoriKeepalive (peer : Nat) : Statement (.flaoriKeepalive peer) := none rfl
theorem flaoriLostChunk (src : Nat) (tag : Word) (seq : Nat) (off : Nat) : Statement (.flaoriLostChunk src tag seq off) := none rfl
theorem debugRequest (state : DebugState) (part : BitVec 3) (signed : Bool) : Statement (.debugRequest state part signed) := none rfl
theorem fuseCommand (target : SecState) (signed : Bool) : Statement (.fuseCommand target signed) := none rfl

end Sys2Proof.Laws.RoundTrip
end

