-- ==== Sys2Proof/Laws/Vector.lean ====
section
/-! SUPPORT. What a vector word does: the stops of its issue, ROWS, ARITH, and its completion. -/
namespace Sys2Proof.Machine

theorem orAll_one (x : FFlags) : orAll [x] = x := by
  simp [orAll]

theorem wordFlags_eq (m : Mask) (o : VOut) :
    ((upto 96).map fun l => orAll ([activeFlags m o.flags].map fun x => nth x l 0)) = wordFlags m o := by
  simp only [List.map_cons, List.map_nil, orAll_one]; rfl

/-- What stops the issue of a wide word stops the word. -/
theorem wideRun_stop {s : State} {t : Task} (h : Issues s t .v) {op : Nat} {w : VW} {e : Stop} (f : VFn)
    (hb : s.vecBegin t [(op, w)] = .error e) : wideRun op w f s = .next (s.stopped t .v e) := by
  unfold wideRun vecRun
  refine issue_stop h rfl ?_
  simp only [List.map_cons, List.map_nil, hb]; rfl

/-- A bank without a row raises ROWS (R38). -/
theorem wideRun_rows {s : State} {t : Task} (h : Issues s t .v) {op : Nat} {w : VW} {f : VFn} {at_ : Nat} {x : VIn} {b : Nat}
    (hb : s.vecBegin t [(op, w)] = .ok (at_, [x])) (hw : s.vecWrite t at_ x (f x) = .error b) :
    wideRun op w f s = .next (s.takeTrap t .v (t.st .v).pc false 0 { cls := 3, sub := b }) := by
  unfold wideRun vecRun
  refine (issue_stop h rfl (e := .trap { cls := 3, sub := b }) ?_).trans
    (by rw [State.stopped_trap _ _ _ _ (by simp [clsStorage])])
  simp only [List.map_cons, List.map_nil, hb, bind, Except.bind, List.zip_cons_cons, List.zip_nil_right, List.foldl_cons,
    List.foldl_nil, hw, Option.getD_none, Nat.min_self]
  rfl

/-- An enabled flag raises ARITH at the word (R175). -/
theorem wideRun_arith {s : State} {t : Task} (h : Issues s t .v) {op : Nat} {w : VW} {f : VFn} {at_ : Nat} {x : VIn} {u : Task}
    (hb : s.vecBegin t [(op, w)] = .ok (at_, [x])) (hw : s.vecWrite t at_ x (f x) = .ok u) {q : TrapReq}
    (ha : arithTrap (t.st .v).fpmode (wordFlags x.mask (f x)) = some q) :
    wideRun op w f s = .next (s.takeTrap (t.setSt .v ((t.st .v).orFlags (orAll (wordFlags x.mask (f x))))) .v (t.st .v).pc
      false 0 q) := by
  unfold wideRun vecRun
  refine issue_next h rfl ?_
  simp only [List.map_cons, List.map_nil, hb, bind, Except.bind, List.zip_cons_cons, List.zip_nil_right, List.foldl_cons,
    List.foldl_nil, hw]
  rw [show t.str.v = t.st .v from rfl]
  have hfl : ((upto 96).map fun l => orAll [nth (activeFlags x.mask (f x).flags) l 0]) = wordFlags x.mask (f x) := by
    simp only [orAll_one]; rfl
  simp only [hfl, ha]; rfl

/-- A wide word completes. -/
theorem wideRun_next {s : State} {t : Task} (h : Issues s t .v) {op : Nat} {w : VW} {f : VFn} {at_ : Nat} {x : VIn} {u : Task}
    (hb : s.vecBegin t [(op, w)] = .ok (at_, [x])) (hw : s.vecWrite t at_ x (f x) = .ok u)
    (ha : arithTrap (t.st .v).fpmode (wordFlags x.mask (f x)) = none) :
    wideRun op w f s = .next (s.afterWide t u at_ op w (wordFlags x.mask (f x))) := by
  unfold wideRun vecRun
  refine issue_next h rfl ?_
  simp only [List.map_cons, List.map_nil, hb, bind, Except.bind, List.zip_cons_cons, List.zip_nil_right, List.foldl_cons,
    List.foldl_nil, hw]
  rw [show t.str.v = t.st .v from rfl]
  have hfl : ((upto 96).map fun l => orAll [nth (activeFlags x.mask (f x).flags) l 0]) = wordFlags x.mask (f x) := by
    simp only [orAll_one]; rfl
  simp only [hfl, ha, List.any_cons, List.any_nil, Bool.or_false]
  rfl

/-- What stops the issue of a scoreboarded word stops the word. -/
theorem memWord_stop {s : State} {t : Task} (h : Issues s t .v) {op : Nat} {w : VW} {e : Stop}
    (body : State → Task → VIn → Except Stop (State × Task × VOut)) (hb : s.vecBegin t [(op, w)] = .error e) :
    memWord op w body s = .next (s.stopped t .v e) := by
  unfold memWord
  refine issue_stop h rfl ?_
  simp only [hb]; rfl

/-- What the checks of a scoreboarded word stop is stopped. -/
theorem memWord_check {s : State} {t : Task} (h : Issues s t .v) {op : Nat} {w : VW} {e : Stop} {at_ : Nat} {x : VIn}
    {body : State → Task → VIn → Except Stop (State × Task × VOut)} (hb : s.vecBegin t [(op, w)] = .ok (at_, [x]))
    (hc : body s t x = .error e) : memWord op w body s = .next (s.stopped t .v e) := by
  unfold memWord
  refine issue_stop h rfl ?_
  simp only [hb, bind, Except.bind, hc]

/-- A bank without a row for a result raises ROWS. -/
theorem memWord_rows {s : State} {t : Task} (h : Issues s t .v) {op : Nat} {w : VW} {at_ : Nat} {x : VIn} {s' : State}
    {t' : Task} {o : VOut} {b : Nat} {body : State → Task → VIn → Except Stop (State × Task × VOut)}
    (hb : s.vecBegin t [(op, w)] = .ok (at_, [x])) (hc : body s t x = .ok (s', t', o))
    (hw : s'.vecWrite t' at_ x o = .error b) :
    memWord op w body s = .next (s.takeTrap t .v (t.st .v).pc false 0 { cls := 3, sub := b }) := by
  unfold memWord
  refine (issue_stop h rfl (e := .trap { cls := 3, sub := b }) ?_).trans
    (by rw [State.stopped_trap _ _ _ _ (by simp [clsStorage])])
  simp only [hb, bind, Except.bind, hc, hw]; rfl

/-- A scoreboarded word completes. -/
theorem memWord_next {s : State} {t : Task} (h : Issues s t .v) {op : Nat} {w : VW} {at_ : Nat} {x : VIn} {s' : State}
    {t' u : Task} {o : VOut} {body : State → Task → VIn → Except Stop (State × Task × VOut)}
    (hb : s.vecBegin t [(op, w)] = .ok (at_, [x])) (hc : body s t x = .ok (s', t', o))
    (hw : s'.vecWrite t' at_ x o = .ok u) : memWord op w body s = .next (s.afterMem s' t u at_ op w x o) := by
  unfold memWord
  refine issue_next h rfl ?_
  simp only [hb, bind, Except.bind, hc, hw]; rfl

end Sys2Proof.Machine
end

