-- ==== Sys2Proof/Tests/Slice0.lean ====
section
/-! SUPPORT. Tests of this package: words written out from the spec's encodings and what they decode to, words the decoder
refuses, ill-formed terms, single steps against the spec's worked examples, and for every obligation with hypotheses a state
and operands that meet them. Every expected value comes from the spec's text or from a hand calculation over it. -/

set_option maxRecDepth 20000
set_option Elab.async false

namespace Sys2Proof.Tests
open Sys2Proof.Machine

/-- R115, R116: the INT-R, immediate, branch and jump groups. -/
theorem test_decode_scalar : ∀ r ∈ (
  [(1#8 ++ 21#5 ++ 10#5 ++ 7#5 ++ 0#9, .add 21 10 7),
   (1#8 ++ 21#5 ++ 10#5 ++ 7#5 ++ 1#9, .sub 21 10 7),
   (1#8 ++ 21#5 ++ 10#5 ++ 7#5 ++ 2#9, .and 21 10 7),
   (1#8 ++ 21#5 ++ 10#5 ++ 7#5 ++ 3#9, .or 21 10 7),
   (1#8 ++ 21#5 ++ 10#5 ++ 7#5 ++ 4#9, .xor 21 10 7),
   (1#8 ++ 21#5 ++ 10#5 ++ 7#5 ++ 5#9, .shl 21 10 7),
   (1#8 ++ 21#5 ++ 10#5 ++ 7#5 ++ 6#9, .shr 21 10 7),
   (1#8 ++ 21#5 ++ 10#5 ++ 7#5 ++ 7#9, .sra 21 10 7),
   (1#8 ++ 21#5 ++ 10#5 ++ 7#5 ++ 8#9, .mul 21 10 7),
   (1#8 ++ 21#5 ++ 10#5 ++ 7#5 ++ 9#9, .mulhI32 21 10 7),
   (1#8 ++ 21#5 ++ 10#5 ++ 7#5 ++ 10#9, .mulhB32 21 10 7),
   (1#8 ++ 21#5 ++ 10#5 ++ 7#5 ++ 11#9, .divI32 21 10 7),
   (1#8 ++ 21#5 ++ 10#5 ++ 7#5 ++ 12#9, .divB32 21 10 7),
   (1#8 ++ 21#5 ++ 10#5 ++ 7#5 ++ 13#9, .remI32 21 10 7),
   (1#8 ++ 21#5 ++ 10#5 ++ 7#5 ++ 14#9, .remB32 21 10 7),
   (1#8 ++ 21#5 ++ 10#5 ++ 7#5 ++ 15#9, .minI32 21 10 7),
   (1#8 ++ 21#5 ++ 10#5 ++ 7#5 ++ 16#9, .maxI32 21 10 7),
   (1#8 ++ 21#5 ++ 10#5 ++ 7#5 ++ 17#9, .minB32 21 10 7),
   (1#8 ++ 21#5 ++ 10#5 ++ 7#5 ++ 18#9, .maxB32 21 10 7),
   (1#8 ++ 21#5 ++ 10#5 ++ 7#5 ++ 19#9, .slt 21 10 7),
   (1#8 ++ 21#5 ++ 10#5 ++ 7#5 ++ 20#9, .sltb 21 10 7),
   (1#8 ++ 21#5 ++ 10#5 ++ 7#5 ++ 21#9, .seq 21 10 7),
   (1#8 ++ 21#5 ++ 10#5 ++ 0#5 ++ 22#9, .clz 21 10),
   (1#8 ++ 21#5 ++ 10#5 ++ 0#5 ++ 23#9, .popc 21 10)]
  ++ [(1#8 ++ 10#5 ++ 30#5 ++ 4#5 ++ 24#9, .add64 5 15 2),
   (1#8 ++ 10#5 ++ 30#5 ++ 4#5 ++ 25#9, .sub64 5 15 2),
   (1#8 ++ 10#5 ++ 30#5 ++ 4#5 ++ 28#9, .mul64 5 15 2),
   (1#8 ++ 10#5 ++ 30#5 ++ 5#5 ++ 26#9, .shl64 5 15 5),
   (1#8 ++ 10#5 ++ 30#5 ++ 5#5 ++ 27#9, .shr64 5 15 5),
   (1#8 ++ 21#5 ++ 10#5 ++ 7#5 ++ 29#9, .sel 21 10 7),
   (2#8 ++ 21#5 ++ 10#5 ++ 0x3FFB#14, .addi 21 10 (-5)),
   (3#8 ++ 21#5 ++ 10#5 ++ 0x3FFB#14, .andi 21 10 (-5)),
   (4#8 ++ 21#5 ++ 10#5 ++ 0x3FFB#14, .ori 21 10 (-5)),
   (5#8 ++ 21#5 ++ 10#5 ++ 0x3FFB#14, .xori 21 10 (-5)),
   (6#8 ++ 21#5 ++ 10#5 ++ 31#14, .shli 21 10 31),
   (7#8 ++ 21#5 ++ 10#5 ++ 31#14, .shri 21 10 31),
   (8#8 ++ 21#5 ++ 10#5 ++ 31#14, .srai 21 10 31),
   (9#8 ++ 21#5 ++ 10#5 ++ 0x3FFB#14, .slti 21 10 (-5)),
   (0x0A#8 ++ 4#5 ++ 10#5 ++ 0x2000#14, .addi64 2 5 (-8192)),
   (0x0B#8 ++ 21#5 ++ 0x40001#19, .lui 21 0x40001),
   (0x0C#8 ++ 4#5 ++ 0x40001#19, .addpc 2 0x40001),
   (16#8 ++ 8#5 ++ 31#5 ++ 0x3FFB#14, .beq 8 31 (-5)),
   (17#8 ++ 8#5 ++ 31#5 ++ 0x3FFB#14, .bne 8 31 (-5)),
   (18#8 ++ 8#5 ++ 31#5 ++ 0x3FFB#14, .blt 8 31 (-5)),
   (19#8 ++ 8#5 ++ 31#5 ++ 0x3FFB#14, .bge 8 31 (-5)),
   (20#8 ++ 8#5 ++ 31#5 ++ 0x3FFB#14, .bltb 8 31 (-5)),
   (21#8 ++ 8#5 ++ 31#5 ++ 0x3FFB#14, .bgeb 8 31 (-5)),
   (0x16#8 ++ 30#5 ++ 3#19, .jal 15 3)]
  ++ [(0x17#8 ++ 30#5 ++ 6#5 ++ 0x3FFC#14, .jalr 15 3 (-4)),
   (0x18#8 ++ 9#5 ++ 0#5 ++ 0x3FFA#14, .loopn 9 (-6))]
  : List (Word × Instr)), decode r.1 0 0 = .ok r.2 := by decide +kernel

/-- R115, R117, R118: loads, stores, atomics, synchronization and futures. -/
theorem test_decode_memory_and_sync : ∀ r ∈ (
  [(32#8 ++ 8#5 ++ 4#5 ++ 64#14, .ldB8 8 2 64),
   (33#8 ++ 8#5 ++ 4#5 ++ 64#14, .ldI8 8 2 64),
   (34#8 ++ 8#5 ++ 4#5 ++ 64#14, .ldB16 8 2 64),
   (35#8 ++ 8#5 ++ 4#5 ++ 64#14, .ldI16 8 2 64),
   (36#8 ++ 8#5 ++ 4#5 ++ 64#14, .ldW 8 2 64),
   (0x25#8 ++ 8#5 ++ 4#5 ++ 64#14, .ldD 4 2 64),
   (38#8 ++ 9#5 ++ 4#5 ++ 0x3FFF#14, .stB8 9 2 (-1)),
   (39#8 ++ 9#5 ++ 4#5 ++ 0x3FFF#14, .stB16 9 2 (-1)),
   (40#8 ++ 9#5 ++ 4#5 ++ 0x3FFF#14, .stW 9 2 (-1)),
   (0x29#8 ++ 8#5 ++ 4#5 ++ 64#14, .stD 4 2 64),
   (0x2A#8 ++ 9#5 ++ 4#5 ++ 64#14, .ldroW 9 2 64),
   (0x2B#8 ++ 8#5 ++ 4#5 ++ 64#14, .ldroD 4 2 64),
   (0x2C#8 ++ 6#5 ++ 4#5 ++ 8#5 ++ 1#1 ++ 3#3 ++ 1#1 ++ 0#4, .atomAdd 6 2 8 true .pkg true),
   (0x2C#8 ++ 6#5 ++ 4#5 ++ 8#5 ++ 1#1 ++ 3#3 ++ 1#1 ++ 1#4, .atomMinI 6 2 8 true .pkg true),
   (0x2C#8 ++ 6#5 ++ 4#5 ++ 8#5 ++ 1#1 ++ 3#3 ++ 1#1 ++ 2#4, .atomMaxI 6 2 8 true .pkg true),
   (0x2C#8 ++ 6#5 ++ 4#5 ++ 8#5 ++ 1#1 ++ 3#3 ++ 1#1 ++ 3#4, .atomMinB 6 2 8 true .pkg true),
   (0x2C#8 ++ 6#5 ++ 4#5 ++ 8#5 ++ 1#1 ++ 3#3 ++ 1#1 ++ 4#4, .atomMaxB 6 2 8 true .pkg true),
   (0x2C#8 ++ 6#5 ++ 4#5 ++ 8#5 ++ 1#1 ++ 3#3 ++ 1#1 ++ 5#4, .atomAnd 6 2 8 true .pkg true),
   (0x2C#8 ++ 6#5 ++ 4#5 ++ 8#5 ++ 1#1 ++ 3#3 ++ 1#1 ++ 6#4, .atomOr 6 2 8 true .pkg true),
   (0x2C#8 ++ 6#5 ++ 4#5 ++ 8#5 ++ 1#1 ++ 3#3 ++ 1#1 ++ 7#4, .atomXor 6 2 8 true .pkg true),
   (0x2C#8 ++ 6#5 ++ 4#5 ++ 8#5 ++ 1#1 ++ 3#3 ++ 1#1 ++ 8#4, .atomExch 6 2 8 true .pkg true),
   (0x2C#8 ++ 0#5 ++ 4#5 ++ 7#5 ++ 0#1 ++ 0#3 ++ 0#1 ++ 0#4, .atomAdd 0 2 7 false .task false),
   (0x2C#8 ++ 7#5 ++ 4#5 ++ 9#5 ++ 1#1 ++ 4#3 ++ 0#1 ++ 9#4, .atomAddF32 7 2 9 true .fab),
   (0x2D#8 ++ 7#5 ++ 4#5 ++ 10#5 ++ 0#1 ++ 1#3 ++ 0#1 ++ 0#4, .atomcasB32 7 2 5 .block)]
  ++ [(0x2D#8 ++ 6#5 ++ 4#5 ++ 12#5 ++ 0#1 ++ 2#3 ++ 1#1 ++ 0#4, .atomcasB64 3 2 3 .span),
   (0x30#8 ++ 3#5 ++ 0#5 ++ 255#14, .sig 3 255),
   (0x31#8 ++ 15#5 ++ 0#5 ++ 1#14, .wait 15 1),
   (0x32#8 ++ 12#5 ++ 0#5 ++ 0#14, .bara 12),
   (0x33#8 ++ 12#5 ++ 21#5 ++ 1#14, .barw 12 21 1),
   (0x34#8 ++ 12#5 ++ 21#5 ++ 0#14, .bare 12 21),
   (0x35#8 ++ 3#5 ++ 0#5 ++ 0#14, .sbara 3),
   (0x36#8 ++ 3#5 ++ 21#5 ++ 0#14, .sbarw 3 21 0),
   (0x37#8 ++ 0#5 ++ 0#5 ++ 0#9 ++ 3#3 ++ 0#2, .fenceRel .pkg),
   (0x37#8 ++ 0#5 ++ 0#5 ++ 0#9 ++ 2#3 ++ 1#2, .fenceAcq .span),
   (0x37#8 ++ 0#5 ++ 0#5 ++ 0#9 ++ 4#3 ++ 2#2, .fenceAr .fab),
   (0x37#8 ++ 0#5 ++ 0#5 ++ 0#9 ++ 0#3 ++ 3#2, .fenceRo),
   (0x38#8 ++ 0#5 ++ 21#5 ++ 0#1 ++ 0x1FFF#13, .cwait 21 0x1FFF),
   (0x40#8 ++ 0#5 ++ 8#5 ++ 5#5 ++ 0#9, .fres 4 5),
   (0x41#8 ++ 0#5 ++ 8#5 ++ 5#5 ++ 0#9, .fflt 4 5),
   (0x42#8 ++ 7#5 ++ 8#5 ++ 5#5 ++ 0#9, .ftry 7 4 5),
   (0x43#8 ++ 6#5 ++ 8#5 ++ 0#5 ++ 0#9, .fstat 3 4),
   (0x44#8 ++ 7#5 ++ 8#5 ++ 0#5 ++ 0#9, .tlaunch 7 4),
   (0x45#8 ++ 7#5 ++ 8#5 ++ 0#5 ++ 0#9, .tjoin 7 4),
   (0x46#8 ++ 0#5 ++ 8#5 ++ 5#5 ++ 0#9, .grec 4 5)]
  : List (Word × Instr)), decode r.1 0 0 = .ok r.2 := by decide +kernel

/-- R115: masks, system registers and the end of a stream. -/
theorem test_decode_masks_and_system : ∀ r ∈ (
  [(0x50#8 ++ 25#5 ++ 3#5 ++ 0#14, .mif 25 3),
   (0x51#8 ++ 25#5 ++ 0#19, .melse 25),
   (0x52#8 ++ 25#5 ++ 0#19, .mjoin 25),
   (0x53#8 ++ 25#5 ++ 0#19, .msave 25),
   (0x54#8 ++ 0#5 ++ 3#5 ++ 0#14, .mbreak 3),
   (0x55#8 ++ 0#10 ++ 0x3FFF#14, .bmany (-1)),
   (0x56#8 ++ 0#10 ++ 0x3FFF#14, .bmnone (-1)),
   (0x57#8 ++ 25#5 ++ 3#5 ++ 0#14, .pmovs 25 3),
   (0x58#8 ++ 3#5 ++ 25#5 ++ 0#14, .smovp 3 25),
   (0x60#8 ++ 7#5 ++ 0#5 ++ 0#2 ++ 0x041#12, .sysrd 7 0x041),
   (0x61#8 ++ 0#5 ++ 7#5 ++ 0#2 ++ 0x100#12, .syswr 7 0x100),
   (0x62#8 ++ 0#10 ++ 255#14, .trap 255),
   (0x63#8 ++ 0#24, .eret),
   (0x64#8 ++ 0#24, .yield),
   (0x65#8 ++ 0#24, .nop),
   (0x66#8 ++ 0#24, .bkpt),
   (0x67#8 ++ 0#24, .endStream),
   (0x68#8 ++ 0#24, .kill),
   (0x69#8 ++ 0#5 ++ 7#5 ++ 100#14, .cycles 7 100)]
  : List (Word × Instr)), decode r.1 0 0 = .ok r.2 := by decide +kernel

/-- P0 of an engine instruction with every completion action (R119, R120): STAT 3, SIG of semaphore 9, BYTE of barrier 6,
FUT 5. -/
def engP0 (eng : BitVec 4) (op8 : BitVec 8) : Word :=
  0b10#2 ++ eng ++ op8 ++ 3#5 ++ 1#1 ++ 9#4 ++ 1#1 ++ 6#4 ++ 5#3
/-- The action field of `engP0`. -/
def act : Act := { stat := 3, sige := 1, sem := 9, byte := 1, bar := 6, fut := 5 }

/-- R122, R241 to R266: the P1 fields of the matrix and copy instructions. -/
theorem test_decode_engines : ∀ r ∈ (
  [(0b10#2 ++ 0#4 ++ 1#8 ++ 0#18, 0#19 ++ 64#7 ++ 0#6, .oclm 0 64),
   (0b10#2 ++ 0#4 ++ 2#8 ++ 0#18, 0#32, .orls),
   (engP0 0 3, 0#13 ++ 1#1 ++ 21#5 ++ 3#7 ++ 61#6, .mold act 61 3 21 true),
   (engP0 0 4, 1#1 ++ 3#4 ++ 2#4 ++ 6#3 ++ 5#3 ++ 28#5 ++ 34#6 ++ 17#6, .mma act 17 34 28 5 6 2 3 true),
   (engP0 0 5, 0#1 ++ 9#4 ++ 9#4 ++ 7#3 ++ 1#3 ++ 4#5 ++ 60#6 ++ 0#6, .mmap act 0 60 4 1 7 9 9 false),
   (engP0 0 6, 0#9 ++ 6#3 ++ 5#3 ++ 0#1 ++ 9#4 ++ 46#6 ++ 2#6, .mmasFull act 2 46 9 5 6),
   (engP0 0 6, 0#9 ++ 6#3 ++ 5#3 ++ 1#1 ++ 2#4 ++ 46#6 ++ 2#6, .mmasTri act 2 46 2 5 6),
   (engP0 0 7, 0#32, .mwclr act),
   (engP0 0 8, 0#16 ++ 6#3 ++ 5#3 ++ 21#5 ++ 12#5, .mwst act 6 21 5 6),
   (engP0 0 9, 0#22 ++ 27#5 ++ 4#5, .macz act 4 27),
   (engP0 0 10, 0#11 ++ 6#3 ++ 5#3 ++ 28#5 ++ 21#5 ++ 12#5, .macld act 6 21 28 5 6),
   (engP0 0 11, 0#1 ++ 10#5 ++ 1#1 ++ 8#4 ++ 3#3 ++ 5#3 ++ 28#5 ++ 21#5 ++ 12#5, .macst act 6 21 28 5 3 8 true 5),
   (engP0 0 12, 0#6 ++ 5#5 ++ 4#5 ++ 3#5 ++ 2#5 ++ 1#6, .rboard act 1 2 3 4 5),
   (0b10#2 ++ 0#4 ++ 13#8 ++ 0#18, 0#27 ++ 21#5, .mseed 21),
   (engP0 1 1, 0#17 ++ 7#5 ++ 4#5 ++ 12#5, .cpy act 6 2 7),
   (engP0 1 2, 0#16 ++ 0#1 ++ 7#5 ++ 21#5 ++ 12#5, .tcopy act 6 21 7),
   (engP0 1 2, 0#16 ++ 1#1 ++ 7#5 ++ 21#5 ++ 12#5, .tcopySt act 6 21 7),
   (engP0 1 3, 0#16 ++ 7#5 ++ 34#6 ++ 12#5, .tcopyo act 6 34 7),
   (engP0 1 4, 0#13 ++ 5#3 ++ 0#1 ++ 9#4 ++ 34#6 ++ 21#5, .osliceA act 21 34 9 5),
   (engP0 1 4, 0#13 ++ 5#3 ++ 1#1 ++ 9#4 ++ 34#6 ++ 21#5, .osliceB act 21 34 9 5),
   (engP0 1 5, 0#2 ++ 5#5 ++ 4#5 ++ 3#5 ++ 12#5 ++ 10#5 ++ 1#5, .gather act 1 5 6 3 4 5),
   (engP0 1 6, 0#2 ++ 5#5 ++ 4#5 ++ 3#5 ++ 12#5 ++ 10#5 ++ 1#5, .scatter act 1 5 6 3 4 5),
   (engP0 1 7, 0#12 ++ 1#2 ++ 4#3 ++ 7#5 ++ 21#5 ++ 12#5, .cpyred act 6 21 7 4 1),
   (engP0 1 8, 0#10 ++ 5#5 ++ 4#5 ++ 3#5 ++ 10#5 ++ 2#2, .qfill act 2 5 3 4 5)]
  ++ [(engP0 1 9, 0#10 ++ 5#5 ++ 4#5 ++ 3#5 ++ 10#5 ++ 2#2, .qsink act 2 5 3 4 5),
   (engP0 1 10, 0#6 ++ 1#1 ++ 3#2 ++ 2#3 ++ 7#5 ++ 5#5 ++ 4#5 ++ 12#5, .collred act 6 4 5 7 2 3 true),
   (engP0 1 11, 0#12 ++ 7#5 ++ 0#5 ++ 4#5 ++ 12#5, .collbc act 6 4 7),
   (engP0 1 12, 0#11 ++ 0#1 ++ 7#5 ++ 5#5 ++ 4#5 ++ 12#5, .collsendSend act 6 4 5 7),
   (engP0 1 12, 0#11 ++ 1#1 ++ 7#5 ++ 5#5 ++ 4#5 ++ 12#5, .collsendRecv act 6 4 5 7),
   (engP0 1 13, 0#22 ++ 7#5 ++ 12#5, .spref act 6 7),
   (0b10#2 ++ 1#4 ++ 14#8 ++ 0#18, 0#27 ++ 21#5, .cstat 21)]
  : List (Word × Word × Instr)), decode r.1 r.2.1 0 = .ok r.2.2 := by decide +kernel

/-- A wide word without a guard: STALL 2, E 1 (R123, R124). -/
structure Wide where
  op : BitVec 9
  d : BitVec 7
  a : BitVec 7
  b : BitVec 7
  c : BitVec 7
  mod7 : BitVec 7 := 0
  mod4 : BitVec 4 := 0
  imm : BitVec 32 := 0
/-- The fields of the word. -/
def Wide.fields (w : Wide) : VW :=
  { stall := 2, e := 1, pred := 31, neg := 0, mod7 := w.mod7, d := w.d, a := w.a, b := w.b, c := w.c, mod4 := w.mod4, imm := w.imm }
/-- What its three parcels decode to (R123, R124). -/
def Wide.decodes (w : Wide) : Dec :=
  decode (0b11#2 ++ 2#4 ++ 1#1 ++ 0#1 ++ 0#2 ++ w.op ++ 31#5 ++ 0#1 ++ w.mod7) (w.d ++ w.a ++ w.b ++ w.c ++ w.mod4) w.imm

/-- R127 and the operand tables of 08 and 09: every wide word. -/
theorem test_decode_wide0 : ∀ r ∈ ([({ op := 0x10, d := 5, a := 6, b := 0, c := 0, mod7 := 0x0A, imm := 0x3F800000 }, .fadd),
   ({ op := 0x11, d := 9, a := 1, b := 2, c := 0 }, .fsub),
   ({ op := 0x12, d := 9, a := 1, b := 2, c := 0 }, .fmul),
   ({ op := 0x13, d := 9, a := 1, b := 2, c := 3, mod7 := 4 }, .ffma),
   ({ op := 0x14, d := 9, a := 1, b := 2, c := 3, mod7 := 4 }, .ffnma),
   ({ op := 0x15, d := 9, a := 1, b := 124, c := 0 }, .fmin),
   ({ op := 0x16, d := 9, a := 1, b := 2, c := 0 }, .fmax),
   ({ op := 0x17, d := 9, a := 1, b := 2, c := 0 }, .fceq),
   ({ op := 0x18, d := 9, a := 1, b := 2, c := 0 }, .fcne),
   ({ op := 0x19, d := 9, a := 1, b := 2, c := 0 }, .fclt),
   ({ op := 0x1a, d := 9, a := 1, b := 2, c := 0 }, .fcle),
   ({ op := 0x1b, d := 9, a := 1, b := 2, c := 0 }, .fcun),
   ({ op := 0x1c, d := 9, a := 1, b := 0, c := 0 }, .fclass),
   ({ op := 0x1d, d := 9, a := 1, b := 0, c := 0, mod7 := 3 }, .frnd),
   ({ op := 0x40, d := 8, a := 2, b := 4, c := 0 }, .dadd),
   ({ op := 0x41, d := 8, a := 2, b := 4, c := 0 }, .dsub),
   ({ op := 0x42, d := 8, a := 2, b := 4, c := 0 }, .dmul),
   ({ op := 0x43, d := 8, a := 2, b := 4, c := 6, mod7 := 1 }, .dfma),
   ({ op := 0x44, d := 8, a := 2, b := 4, c := 6, mod7 := 1 }, .dfnma),
   ({ op := 0x45, d := 8, a := 2, b := 4, c := 0 }, .dmin),
   ({ op := 0x46, d := 8, a := 2, b := 4, c := 0 }, .dmax),
   ({ op := 0x47, d := 31, a := 2, b := 4, c := 0 }, .dceq),
   ({ op := 0x48, d := 31, a := 2, b := 4, c := 0 }, .dcne),
   ({ op := 0x49, d := 31, a := 2, b := 4, c := 0 }, .dclt)]
  : List (Wide × (VW → Instr))), r.1.decodes = .ok (r.2 r.1.fields) := by decide +kernel

theorem test_decode_wide1 : ∀ r ∈ ([({ op := 0x4a, d := 31, a := 2, b := 4, c := 0 }, .dcle),
   ({ op := 0x4b, d := 31, a := 2, b := 4, c := 0 }, .dcun),
   ({ op := 0x4c, d := 8, a := 2, b := 0, c := 0, mod7 := 3 }, .drnd),
   ({ op := 0x70, d := 9, a := 1, b := 2, c := 0, mod4 := 1 }, .hadd2),
   ({ op := 0x71, d := 9, a := 1, b := 2, c := 0, mod4 := 1 }, .hsub2),
   ({ op := 0x72, d := 9, a := 1, b := 2, c := 0, mod4 := 1 }, .hmul2),
   ({ op := 0x73, d := 9, a := 1, b := 2, c := 3, mod4 := 1 }, .hfma2),
   ({ op := 0x74, d := 9, a := 1, b := 2, c := 0, mod4 := 1 }, .hmin2),
   ({ op := 0x75, d := 9, a := 1, b := 2, c := 0, mod4 := 1 }, .hmax2),
   ({ op := 0x76, d := 9, a := 1, b := 2, c := 3, mod4 := 1 }, .dot2),
   ({ op := 0x77, d := 9, a := 1, b := 2, c := 3, mod4 := 3 }, .dot4),
   ({ op := 0x78, d := 9, a := 1, b := 2, c := 3, mod4 := 3 }, .idot4),
   ({ op := 0xa0, d := 8, a := 2, b := 0, c := 0 }, .rcp),
   ({ op := 0xa1, d := 8, a := 2, b := 0, c := 0 }, .rsq),
   ({ op := 0xa2, d := 8, a := 2, b := 0, c := 0 }, .sqrt),
   ({ op := 0xa3, d := 8, a := 2, b := 0, c := 0 }, .exp2),
   ({ op := 0xa4, d := 8, a := 2, b := 0, c := 0 }, .log2),
   ({ op := 0xa5, d := 8, a := 2, b := 0, c := 0 }, .sinpi),
   ({ op := 0xa6, d := 8, a := 2, b := 0, c := 0 }, .cospi),
   ({ op := 0xa7, d := 8, a := 2, b := 0, c := 0 }, .tanh),
   ({ op := 0xa8, d := 8, a := 2, b := 0, c := 0 }, .drcp),
   ({ op := 0xa9, d := 8, a := 2, b := 0, c := 0 }, .dsqrt),
   ({ op := 0xc0, d := 9, a := 1, b := 2, c := 0 }, .iadd),
   ({ op := 0xc1, d := 9, a := 1, b := 0, c := 0, mod7 := 8, imm := 0xFFFFFFFF }, .isub)]
  : List (Wide × (VW → Instr))), r.1.decodes = .ok (r.2 r.1.fields) := by decide +kernel

theorem test_decode_wide2 : ∀ r ∈ ([({ op := 0xc2, d := 9, a := 1, b := 2, c := 0 }, .imul),
   ({ op := 0xc3, d := 9, a := 1, b := 2, c := 3 }, .imad),
   ({ op := 0xc4, d := 9, a := 1, b := 2, c := 0, mod7 := 16 }, .imulh),
   ({ op := 0xc5, d := 9, a := 1, b := 2, c := 0, mod7 := 16 }, .imin),
   ({ op := 0xc6, d := 9, a := 1, b := 2, c := 0, mod7 := 16 }, .imax),
   ({ op := 0xc7, d := 9, a := 1, b := 0, c := 0 }, .iabs),
   ({ op := 0xc8, d := 9, a := 1, b := 2, c := 0 }, .ishl),
   ({ op := 0xc9, d := 9, a := 1, b := 2, c := 0 }, .ishr),
   ({ op := 0xca, d := 9, a := 1, b := 2, c := 0 }, .isra),
   ({ op := 0xcb, d := 9, a := 1, b := 2, c := 3, mod7 := 16, imm := 0xE8 }, .vlut),
   ({ op := 0xcc, d := 9, a := 1, b := 2, c := 3, mod7 := 48 }, .isum3),
   ({ op := 0xcd, d := 9, a := 1, b := 2, c := 0 }, .iceq),
   ({ op := 0xce, d := 9, a := 1, b := 2, c := 0 }, .icne),
   ({ op := 0xcf, d := 9, a := 1, b := 2, c := 0 }, .iclt),
   ({ op := 0xd0, d := 9, a := 1, b := 2, c := 0 }, .icle),
   ({ op := 0xd1, d := 9, a := 1, b := 2, c := 0 }, .icltb),
   ({ op := 0xd2, d := 9, a := 1, b := 2, c := 0 }, .icleb),
   ({ op := 0xd3, d := 9, a := 1, b := 0, c := 0 }, .vpopc),
   ({ op := 0xd4, d := 9, a := 1, b := 0, c := 0 }, .vclz),
   ({ op := 0xd5, d := 9, a := 1, b := 0, c := 0 }, .brev),
   ({ op := 0xd6, d := 9, a := 1, b := 0, c := 0, mod7 := 16, imm := 0x2004 }, .bfx),
   ({ op := 0xd7, d := 9, a := 1, b := 2, c := 0, imm := 0x0804 }, .bfi),
   ({ op := 0xd8, d := 8, a := 2, b := 4, c := 0 }, .iadd64),
   ({ op := 0xd9, d := 8, a := 1, b := 3, c := 6, mod7 := 16 }, .imad64)]
  : List (Wide × (VW → Instr))), r.1.decodes = .ok (r.2 r.1.fields) := by decide +kernel

theorem test_decode_wide3 : ∀ r ∈ ([({ op := 0x100, d := 9, a := 2, b := 0, c := 0, mod7 := 0x20, mod4 := 1 }, .cvt),
   ({ op := 0x101, d := 8, a := 1, b := 0, c := 0, mod7 := 0x60, mod4 := 0 }, .cvti),
   ({ op := 0x102, d := 9, a := 1, b := 2, c := 0, mod7 := 0x15 }, .pk2),
   ({ op := 0x103, d := 6, a := 2, b := 4, c := 0, mod7 := 0x45 }, .pk4),
   ({ op := 0x104, d := 8, a := 1, b := 0, c := 0, mod4 := 3 }, .unpk2),
   ({ op := 0x105, d := 8, a := 1, b := 0, c := 0, mod4 := 8, imm := 1 }, .unpk4),
   ({ op := 0x106, d := 9, a := 1, b := 2, c := 0, mod7 := 0x75 }, .mxq),
   ({ op := 0x107, d := 9, a := 1, b := 2, c := 0, mod4 := 14 }, .mxdq),
   ({ op := 0x120, d := 9, a := 1, b := 0, c := 0 }, .vmov),
   ({ op := 0x121, d := 9, a := 0, b := 0, c := 0, imm := 0x80000001 }, .vmovi),
   ({ op := 0x122, d := 9, a := 1, b := 2, c := 30 }, .vsel),
   ({ op := 0x123, d := 9, a := 0, b := 0, c := 0, mod7 := 24, imm := 4 }, .viota),
   ({ op := 0x124, d := 9, a := 1, b := 2, c := 0, mod7 := 48 }, .vperm),
   ({ op := 0x125, d := 9, a := 1, b := 0, c := 0, imm := 95 }, .bcast),
   ({ op := 0x126, d := 9, a := 2, b := 0, c := 0, mod7 := 0x40 }, .redux),
   ({ op := 0x127, d := 9, a := 2, b := 0, c := 0, mod7 := 0x50, mod4 := 1 }, .scan),
   ({ op := 0x128, d := 31, a := 16, b := 0, c := 0 }, .vtag),
   ({ op := 0x129, d := 9, a := 0, b := 0, c := 0 }, .vunif),
   ({ op := 0x12a, d := 9, a := 0, b := 0, c := 0 }, .vdef),
   ({ op := 0x12b, d := 9, a := 31, b := 0, c := 0 }, .vmovsToVector),
   ({ op := 0x12b, d := 5, a := 9, b := 0, c := 0, mod7 := 1, imm := 95 }, .vmovsToScalar),
   ({ op := 0x12c, d := 9, a := 1, b := 31, c := 0 }, .vreadl),
   ({ op := 0x140, d := 1, a := 2, b := 3, c := 4, mod7 := 1, imm := 0x96 }, .plut),
   ({ op := 0x141, d := 3, a := 9, b := 0, c := 0, mod7 := 2, imm := 31 }, .pmov)]
  : List (Wide × (VW → Instr))), r.1.decodes = .ok (r.2 r.1.fields) := by decide +kernel

theorem test_decode_wide4 : ∀ r ∈ ([({ op := 0x160, d := 8, a := 6, b := 4, c := 0, mod7 := 0x44, imm := 0x40 }, .vld),
   ({ op := 0x161, d := 0, a := 6, b := 4, c := 9, mod7 := 0x0C }, .vst),
   ({ op := 0x162, d := 8, a := 6, b := 0, c := 0, mod7 := 0x15 }, .vldro),
   ({ op := 0x163, d := 8, a := 6, b := 4, c := 10, mod7 := 0x30, mod4 := 11 }, .vatom),
   ({ op := 0x164, d := 12, a := 6, b := 4, c := 24, mod7 := 0x02, mod4 := 3 }, .vatomcas),
   ({ op := 0x165, d := 0, a := 6, b := 0, c := 9, mod7 := 0x40, mod4 := 2 }, .vfadd),
   ({ op := 0x166, d := 12, a := 6, b := 4, c := 0, mod7 := 2 }, .vquad),
   ({ op := 0x167, d := 0, a := 6, b := 4, c := 0, mod7 := 4, mod4 := 1 }, .vpref),
   ({ op := 0x168, d := 9, a := 6, b := 4, c := 8, mod7 := 3 }, .pxw),
   ({ op := 0x180, d := 16, a := 1, b := 4, c := 0, mod7 := 0x0D }, .vxm),
   ({ op := 0x190, d := 40, a := 8, b := 16, c := 4 }, .xbox),
   ({ op := 0x191, d := 40, a := 8, b := 16, c := 4 }, .xtri),
   ({ op := 0x192, d := 40, a := 8, b := 4, c := 6 }, .xstep)]
  : List (Wide × (VW → Instr))), r.1.decodes = .ok (r.2 r.1.fields) := by decide +kernel

/-- R127, R129, R228, R231: an XSTEP.POP, an XTILE and the paired word of 02 (`ffma v8, v1, v2, v3` and `iadd v17, v1, v4`,
STALL 2, E 1; its parcels are in 06) decode, and the latch gives back their fields. -/
theorem test_decode_latched :
    ({ op := 0x192, d := 40, a := 8, b := 4, c := 6, mod7 := 1 } : Wide).decodes = .ok .xstepPop ∧
    ({ op := 0x193, d := 40, a := 8, b := 16, c := 4, mod7 := 2 } : Wide).decodes = .ok .xtile ∧
    decode 0xCB060427 0xF1004103 0xF2204200 = .ok .pairedWord ∧
    pairHead 0xCB060427 = { stall := 2, e := 1 } ∧
    decSlot (fld 0xCB060427 0 10) 0xF1004103 = { op9 := 0x013, pred := 31, d := 8, a := 1, b := 2, c := 3 } ∧
    decSlot (fld 0xCB060427 10 10) 0xF2204200 = { op9 := 0x0C0, pred := 31, d := 17, a := 1, b := 4, c := 0 } := by decide +kernel

/-- The worked encodings of 06 to 10, parcel for parcel. -/
theorem test_decode_worked :
    decode 0x01298E00 0 0 = .ok (.add 5 6 7) ∧ decode 0x24410040 0 0 = .ok (.ldW 8 2 64) ∧
    decode 0x1147FFFB 0 0 = .ok (.bne 8 31 (-5)) ∧
    decode 0x8407F000 0x00001C8C 0 = .ok (.cpy { stat := 31, sige := 1, sem := 0, byte := 0, bar := 0, fut := 0 } 6 2 7) ∧
    decode 0xC2021F0A 0x0A180000 0x3F800000 = .ok (.fadd ⟨0, 1, 31, 0, 0x0A, 5, 6, 0, 0, 0, 0x3F800000⟩) ∧
    decode 0xC2207F45 0x0C082000 0 = .ok (.pk4 ⟨0, 1, 31, 0, 0x45, 6, 2, 4, 0, 0, 0⟩) ∧
    decode 0xC22C1F44 0x10182000 0x40 = .ok (.vld ⟨0, 1, 31, 0, 0x44, 8, 6, 4, 0, 0, 0x40⟩) ∧
    decode 0xC2325F00 0x50202060 0 = .ok (.xstep ⟨0, 1, 31, 0, 0, 40, 8, 4, 6, 0, 0⟩) := by decide +kernel

/-- R114 to R130, R134: each kind of encoding that is refused, with its sub-code. -/
theorem test_decode_refuses :
    decode 0 0 0 = .error 1 ∧ decode (0x0D#8 ++ 0#24) 0 0 = .error 1 ∧ decode (1#8 ++ 0#15 ++ 30#9) 0 0 = .error 1 ∧
    decode (0b10#2 ++ 2#4 ++ 0#26) 0 0 = .error 1 ∧ decode (0b10#2 ++ 0#4 ++ 14#8 ++ 0#18) 0 0 = .error 1 ∧
    decode (0b11#2 ++ 0#8 ++ 0x00F#9 ++ 31#5 ++ 0#8) 0 0 = .error 1 ∧
    decode (0x18#8 ++ 9#5 ++ 1#5 ++ 0#14) 0 0 = .error 2 ∧ decode (0x63#8 ++ 1#24) 0 0 = .error 2 ∧
    decode (0x37#8 ++ 0#19 ++ 1#3 ++ 3#2) 0 0 = .error 2 ∧ decode (0x37#8 ++ 0#19 ++ 5#3 ++ 0#2) 0 0 = .error 4 ∧
    decode (0x06#8 ++ 1#5 ++ 1#5 ++ 32#14) 0 0 = .error 4 ∧ decode (0x30#8 ++ 0#5 ++ 0#5 ++ 256#14) 0 0 = .error 4 ∧
    decode (0x32#8 ++ 16#5 ++ 0#19) 0 0 = .error 4 ∧ decode (0x2C#8 ++ 0#5 ++ 4#5 ++ 7#5 ++ 0#1 ++ 0#3 ++ 1#1 ++ 9#4) 0 0 = .error 4 ∧
    decode (0x0A#8 ++ 5#5 ++ 4#5 ++ 0#14) 0 0 = .error 4 ∧
    decode (0b11#2 ++ 0#5 ++ 1#1 ++ 0#4 ++ 0x0C0#9 ++ 1#1 ++ 0x00F#9 ++ 1#1) 0xF1004103 0xF2204200 = .error 1 ∧
    decode (0b11#2 ++ 0#5 ++ 1#1 ++ 0#4 ++ 0x0C0#9 ++ 1#1 ++ 0x01D#9 ++ 1#1) 0xF1004100 0xF2204200 = .error 5 := by decide +kernel

/-! ## Ill-formed terms -/

/-- A well-formed term, and for each check of `Instr.illegal` a term that only it refuses, with its sub-code. -/
theorem test_wf_scalar_checks :
    (Instr.atomAdd 6 2 8 true .pkg true).wf = true ∧
    (Instr.atomAdd 1 2 8 false .pkg false).illegal = some 2 ∧ (Instr.atomMinI 6 2 9 true .pkg true).illegal = some 4 ∧
    (Instr.atomMaxI 1 2 8 false .pkg false).illegal = some 2 ∧ (Instr.atomMinB 7 2 8 true .pkg true).illegal = some 4 ∧
    (Instr.atomMaxB 1 2 8 false .pkg false).illegal = some 2 ∧ (Instr.atomAnd 6 2 9 true .pkg true).illegal = some 4 ∧
    (Instr.atomOr 1 2 8 false .pkg false).illegal = some 2 ∧ (Instr.atomXor 7 2 8 true .pkg true).illegal = some 4 ∧
    (Instr.atomExch 1 2 8 false .pkg false).illegal = some 2 ∧ (Instr.atomAddF32 1 2 8 false .pkg).illegal = some 2 ∧
    (Instr.sig 0 0).illegal = some 4 ∧ (Instr.wait 0 0).illegal = some 4 ∧
    (Instr.mif 25 0).wf = true ∧ (Instr.mif 26 0).illegal = some 4 ∧ (Instr.melse 26).illegal = some 4 ∧
    (Instr.mjoin 26).illegal = some 4 ∧ (Instr.msave 31).illegal = some 4 ∧ (Instr.pmovs 26 0).illegal = some 4 ∧
    (Instr.smovp 0 26).illegal = some 4 ∧ (Instr.sysrd 1 0x008).illegal = some 4 ∧ (Instr.syswr 1 0x0FF).illegal = some 4 ∧
    (Instr.sysrd 1 0x051).wf = true ∧ (Instr.syswr 1 0x100).wf = true := by decide +kernel

/-- The same for the engines. -/
theorem test_wf_engine_checks :
    let bad : Act := { Act.none with sem := 1 }
    (∀ i ∈ [Instr.mold bad 0 1 0 false, .mma bad 0 2 0 0 0 9 9 false, .mmap bad 0 2 0 0 0 9 9 false,
      .mmasFull bad 0 18 9 0 0, .mmasTri bad 0 18 9 0 0, .mwclr bad, .mwst bad 0 0 0 0, .macz bad 0 0, .macld bad 0 0 0 0 0,
      .macst bad 0 0 0 0 0 0 false 0, .rboard bad 0 0 0 0 0, .cpy bad 0 0 0, .tcopy bad 0 0 0, .tcopySt bad 0 0 0,
      .tcopyo bad 0 0 0, .osliceA bad 0 0 2 0, .osliceB bad 0 0 2 0, .gather bad 0 0 0 0 0 0, .scatter bad 0 0 0 0 0 0,
      .cpyred bad 0 0 0 0 0, .qfill bad 0 0 0 0 0, .qsink bad 0 0 0 0 0, .collred bad 0 0 0 0 0 0 false, .collbc bad 0 0 0,
      .collsendSend bad 0 0 0 0, .collsendRecv bad 0 0 0 0, .spref bad 0 0], i.illegal = some 2) ∧
    (Instr.cpy { Act.none with bar := 1 } 0 0 0).illegal = some 2 ∧
    (∀ i ∈ [Instr.oclm 0 0, .oclm 1 64, .mold Act.none 1 64 0 false, .mma Act.none 0 2 1 0 0 9 9 false, .mma Act.none 63 0 0 0 0 9 9 false,
      .mma Act.none 0 0 0 0 0 11 11 false, .mma Act.none 0 0 0 0 0 2 4 false, .mma Act.none 62 0 0 0 0 6 6 false,
      .mmap Act.none 0 61 0 0 0 9 9 false, .mmasFull Act.none 0 0 1 0 0, .mmasFull Act.none 0 47 9 0 0, .mmasTri Act.none 0 0 10 0 0,
      .mmasTri Act.none 63 0 2 0 0, .macz Act.none 1 31, .macld Act.none 0 0 2 0 0, .macst Act.none 0 0 0 0 0 9 false 0,
      .macst Act.none 0 0 2 0 0 0 false 0, .macst Act.none 0 0 0 0 0 0 true 0, .macst Act.none 0 0 0 0 0 0 false 1,
      .macst Act.none 0 0 0 0 0 4 false 1, .osliceA Act.none 0 0 1 0, .osliceB Act.none 0 47 9 0, .cpyred Act.none 0 0 0 5 0,
      .cpyred Act.none 0 0 0 3 2, .collred Act.none 0 0 0 0 5 0 false, .collred Act.none 0 0 0 0 4 3 false], i.illegal = some 4) ∧
    (∀ i ∈ [Instr.oclm 0 64, .mold Act.none 63 1 0 false, .mma Act.none 62 0 28 7 7 2 3 true, .mmap Act.none 0 60 0 0 0 9 9 false,
      .mmasFull Act.none 46 0 9 0 0, .macz Act.none 0 31, .macst Act.none 0 0 0 0 1 8 true 1, .cpyred Act.none 0 0 0 4 1],
      i.wf = true) := by decide +kernel

/-- The same for the wide words (R124, R126): a modifier, an unused field, an immediate, an odd pair, a predicate, a queue
register where none may stand, one named twice, a guard where none may stand;. -/
theorem test_wf_vector_checks :
    let w : VW := { stall := 0, e := 0, pred := 31, neg := 0, mod7 := 0, d := 8, a := 2, b := 4, c := 0, mod4 := 0, imm := 0 }
    (Instr.fadd w).wf = true ∧ (Instr.fadd { w with mod7 := 5 }).illegal = some 2 ∧ (Instr.fadd { w with c := 1 }).illegal = some 2 ∧
    (Instr.fadd { w with imm := 1 }).illegal = some 2 ∧ (Instr.dadd w).wf = true ∧ (Instr.dadd { w with a := 3 }).illegal = some 4 ∧
    (Instr.dadd { w with d := 124 }).illegal = some 4 ∧ (Instr.fceq { w with d := 32 }).illegal = some 4 ∧
    (Instr.fadd { w with a := 124, b := 124 }).illegal = some 4 ∧ (Instr.fadd { w with a := 124, b := 125 }).wf = true ∧
    (Instr.vmovsToVector { w with b := 0, mod7 := 1 }).illegal = some 2 ∧ (Instr.vmovsToScalar { w with b := 0 }).illegal = some 2 ∧
    (Instr.vmovsToScalar { w with b := 0, mod7 := 1, imm := 96 }).illegal = some 4 ∧
    (Instr.vmovsToScalar { w with b := 0, mod7 := 1, pred := 0 }).illegal = some 2 ∧
    (Instr.xstep { w with mod7 := 1 }).illegal = some 2 ∧ (Instr.bfi { w with imm := 0x2100 }).illegal = some 2 ∧
    (Instr.cvt { w with b := 0 }).illegal = some 2 ∧ (Instr.vst { w with d := 0, mod7 := 1 }).illegal = some 2 := by decide +kernel


/-! ## States for the witnesses -/

/-- The state after a program's load, whose next instruction is the table word `w` (log 16): one task on core 0, in the
stream that executes it. -/
def base (w : Nat) : State := State.reset.withFetchWord 96 w
/-- The task in focus. -/
def T (s : State) : Task := (s.focus.bind fun f => s.task? f.task).getD .init
/-- A bare engine word of the matrix and of the copy stream, and a mask word, so that the load picks stream M, C or V. -/
def mBase : State := base 0x80000000
def cBase : State := base 0x84000000
def vBase : State := base 0x50000000
/-- A state whose tasks `f` has changed. -/
def onTask (s : State) (f : Task → Task) : State := { s with tasks := s.tasks.map f }
/-- A state whose tasks hold `v` in a pair of stream `k`. -/
def withPair (s : State) (k : StreamId) (p : BitVec 4) (v : Dword) : State := onTask s fun t => t.setSt k ((t.st k).setPair p v)
/-- The same for a register. -/
def withReg (s : State) (k : StreamId) (r : BitVec 5) (v : Word) : State := onTask s fun t => t.setSt k ((t.st k).setReg r v)
/-- The tasks of a deterministic launch. -/
def det (s : State) : State := onTask s fun t => { t with det := true }
/-- A package whose start has reached host ready. -/
def up : State := { State.reset with byder := { Byder.init with mode := .normal, power := .active, stage := 8 } }

/-- `Issues`, as a check. -/
def okIssue (s : State) (k : StreamId) : Bool :=
  s.focus == some ⟨(T s).uid, k⟩ && s.task? (T s).uid == some (T s) && s.canIssue (T s) k
theorem issues_of {s : State} {k : StreamId} (h : okIssue s k = true) : Issues s (T s) k := by
  simp only [okIssue, Bool.and_eq_true, beq_iff_eq] at h
  exact ⟨h.1.1, h.1.2, h.2⟩
theorem inRun_of {s : State} {k : StreamId} (h : okIssue s k = true)
    (r : (s.agenda = [] ∧ (∀ x ∈ s.tasks, s.mayEnter x = false) ∧ ((T s).st k).granted = true ∧ (T s).sb = [])) :
    s.inRun (T s) k := ⟨r.1, r.2.1, issues_of h, r.2.2⟩
theorem ok_of {α ε : Type} {e : Except ε α} (h : e.isOk = true) : ∃ x, e = .ok x := by
  cases e with
  | ok x => exact ⟨x, rfl⟩
  | error _ => cases h
theorem some_of {α : Type} {o : Option α} (h : o.isSome = true) : ∃ x, o = some x := Option.isSome_iff_exists.mp h
/-- A step that goes on. -/
def goes (o : Host.Outcome State Fault Refusal) : Bool := match o with | .next _ => true | _ => false
theorem next_of {o : Host.Outcome State Fault Refusal} (h : goes o = true) : ∃ s, o = .next s := by
  cases o with
  | next s => exact ⟨s, rfl⟩
  | _ => cases h


/-! ## Witnesses

Each theorem shows a state and operands that meet the hypotheses of the statement that it is named after, clause by clause
where the clauses differ, at a boundary where there is one. -/

theorem witness_DecodeInvertsEncode : (Instr.mmap act 0 60 4 1 7 9 9 false).wf = true ∧
    ∃ p0 ps, encode (.mmap act 0 60 4 1 7 9 9 false) = p0 :: ps := ⟨by decide +kernel, _, _, rfl⟩

theorem witness_DecodedInstructionsWellFormed : ∃ i, decode 0x50C84000 0 0 = .ok i := ⟨.mif 25 1, by decide +kernel⟩

theorem witness_RejoinTripleAbove25Illegal :
    (∃ w ps, encode (.mif 26 1) = w :: ps ∧ 25 < (26 : BitVec 5).toNat ∧ (base 0x50D04000).inRun (T (base 0x50D04000)) .v ∧
      ∃ p1 p2, (base 0x50D04000).bump.fetch (T (base 0x50D04000)) .v ((T (base 0x50D04000)).st .v).pc = .ok (w, p1, p2)) ∧
    (∃ w ps, encode (.smovp 1 25) = w :: ps ∧ (25 : BitVec 5).toNat ≤ 25) :=
  ⟨⟨0x50D04000, [], by decide +kernel, by decide, inRun_of (by decide +kernel) (by decide +kernel), 0, 0, by decide +kernel⟩,
   ⟨_, _, rfl, by decide⟩⟩

theorem witness_LatchedWordsDecode :
    (let sa : PSlot := { op9 := 0x013, pred := 31, d := 8, a := 1, b := 2, c := 3 };
      let sb : PSlot := { op9 := 0x0C0, pred := 31, d := 17, a := 1, b := 4, c := 0 };
      pairIllegal { stall := 2, e := 1 } sa sb = none ∧ ∃ a b c, encPaired { stall := 2, e := 1 } sa sb = [a, b, c]) ∧
    (let w : VW := ⟨0, 1, 31, 0, 2, 40, 8, 16, 4, 0, 0⟩;
      wideIllegal 0x193 w = none ∧ ∃ a b c, encWide 0x193 w = [a, b, c]) ∧
    (let w : VW := ⟨0, 1, 31, 0, 1, 40, 8, 4, 6, 0, 0⟩;
      w.mod7.getLsbD 0 = true ∧ wideIllegal 0x192 w = none ∧ ∃ a b c, encWide 0x192 w = [a, b, c]) :=
  ⟨⟨by decide +kernel, _, _, _, rfl⟩, ⟨by decide +kernel, _, _, _, rfl⟩, ⟨by decide +kernel, by decide +kernel, _, _, _, rfl⟩⟩

/-- A NOP in the scalar stream; a paired word whose ops are not pairable in the vector stream; an event on the agenda. -/
theorem witness_StepRunsDecodedInstruction :
    (let s := base 0x65000000;
      s.inRun (T s) .s ∧ s.bump.fetch (T s) .s ((T s).st .s).pc = .ok (0x65000000, 0, 0) ∧ classOf 0x65000000 = some .scalar ∧
      InstrClass.scalar.runsOn .s = true ∧ decode 0x65000000 0 0 = .ok .nop ∧
      runEndsBefore (T s) ((T s).st .s) .scalar = false ∧ (T s).statWaits .s .nop = []) ∧
    (let s := base 0xF2204200F1004100C106043B;
      s.inRun (T s) .v ∧ s.bump.fetch (T s) .v ((T s).st .v).pc = .ok (0xC106043B, 0xF1004100, 0xF2204200) ∧
      classOf 0xC106043B = some .vector ∧ InstrClass.vector.runsOn .v = true ∧
      decode 0xC106043B 0xF1004100 0xF2204200 = .error 5) ∧
    (let s := { State.reset with agenda := [.layerStart] };
      s.agenda = Instr.layerStart :: [] ∧ isEvent .layerStart = true) :=
  ⟨⟨inRun_of (by decide +kernel) (by decide +kernel), by decide +kernel⟩,
   ⟨inRun_of (by decide +kernel) (by decide +kernel), by decide +kernel⟩, by decide +kernel⟩

/-- The all-zero parcel, and in the matrix stream a paired word whose ops are not pairable. -/
theorem witness_UndecodableParcelsTrapIllegal :
    (let s := base 0;
      s.inRun (T s) .s ∧ s.bump.fetch (T s) .s ((T s).st .s).pc = .ok (0, 0, 0) ∧ decode 0 0 0 = .error 1) ∧
    (let s := onTask (base 0xF2204200F1004100C106043B) fun t => t.setSt .m (t.st .v);
      let u := { s with focus := some ⟨0, .m⟩ };
      u.inRun (T u) .m ∧ u.bump.fetch (T u) .m ((T u).st .m).pc = .ok (0xC106043B, 0xF1004100, 0xF2204200) ∧
      decode 0xC106043B 0xF1004100 0xF2204200 = .error 5 ∧
      ((classOf 0xC106043B).map fun c => c.runsOn .m).getD true = false) :=
  ⟨⟨inRun_of (by decide +kernel) (by decide +kernel), by decide +kernel⟩,
   ⟨inRun_of (by decide +kernel) (by decide +kernel), by decide +kernel⟩⟩

theorem witness_StepKeepsMemoryCanonical :
    (base 0x65000000).bytesOk = true ∧ ∃ s', step (base 0x65000000) = .next s' := ⟨by decide +kernel, next_of (by decide +kernel)⟩

theorem witness_MemoryReadsBackWrites :
    let m : Memory := Memory.write [] 7 1;
    m.wf = true ∧ 255 < 256 ^ 1 ∧ 0 < 1 := by decide +kernel

theorem witness_ScalarRegisterFile : (30 : BitVec 5) ≠ 31 ∧ (14 : BitVec 4) ≠ 15 ∧ (0 : BitVec 5) ∉ halves 14 := by decide

theorem witness_RetiringMovesTheStreamOn : (base 0).task? (T (base 0)).uid = some (T (base 0)) := by decide +kernel

/-- The statements about INT-R, immediates, LUI and ADDPC, divisions: a stream that issues. -/
theorem witness_IntegerRegisterResults : Issues (base 0) (T (base 0)) .s := issues_of (by decide +kernel)
theorem witness_DivisionResults : Issues (base 0) (T (base 0)) .s := issues_of (by decide +kernel)
theorem witness_ImmediateResults : Issues cBase (T cBase) .c := issues_of (by decide +kernel)
theorem witness_ControlFlowResults : Issues mBase (T mBase) .m ∧
    (let s := withPair (base 0) .s 1 0x4000;
      Issues s (T s) .s ∧
      (BitVec.ofInt 64 ((((T s).st .s).pair 1).toNat + (4 : BitVec 14).toInt)).toNat % 4 = 0 ∧
      (BitVec.ofInt 64 ((((T s).st .s).pair 1).toNat + (2 : BitVec 14).toInt)).toNat % 4 ≠ 0) :=
  ⟨issues_of (by decide +kernel), issues_of (by decide +kernel), by decide +kernel⟩
theorem witness_CountedLoop :
    (let s := withReg (base 0) .s 5 2;
      Issues s (T s) .s ∧ 1 < (((T s).st .s).reg 5).toNat) ∧
    (let s := withReg (base 0) .s 5 1;
      Issues s (T s) .s ∧ (((T s).st .s).reg 5).toNat ≤ 1) :=
  ⟨⟨issues_of (by decide +kernel), by decide +kernel⟩, issues_of (by decide +kernel), by decide +kernel⟩
theorem witness_RegisterInstructionsFrame : Issues (base 0) (T (base 0)) .s ∧ Issues vBase (T vBase) .v :=
  ⟨issues_of (by decide +kernel), issues_of (by decide +kernel)⟩

/-- An address in identity-mapped memory, and one in the scratch window. -/
theorem witness_LoadResults :
    (let s := withPair (base 0) .s 1 0x20000;
      Issues s (T s) .s ∧ (∀ n ∈ [1, 2, 4, 8], s.check (T s) .s (addressOf ((T s).st .s) 1 0) n n true false = .ok ()) ∧
      inWindow (addressOf ((T s).st .s) 1 0) = false) ∧
    (let s := withPair (base 0) .s 1 0x01FFF00000000000;
      Issues s (T s) .s ∧ s.check (T s) .s (addressOf ((T s).st .s) 1 0) 8 8 true false = .ok () ∧
      inWindow (addressOf ((T s).st .s) 1 0) = true) :=
  ⟨⟨issues_of (by decide +kernel), by decide +kernel⟩, issues_of (by decide +kernel), by decide +kernel⟩

theorem witness_StoresEnterQueueAndForward :
    (let s := withPair (base 0) .s 1 0x20000;
      Issues s (T s) .s ∧ ∀ n ∈ [1, 2, 4, 8], s.check (T s) .s (addressOf ((T s).st .s) 1 0) n n false true = .ok ()) ∧
    (let s := base 0;
      [Loc.mem 0x20000].Nodup ∧ [Loc.mem 0x20000].length = [(7 : Byte)].length ∧ ∀ e ∈ (T s).allQueued, e.seq < s.seq) :=
  ⟨⟨issues_of (by decide +kernel), by decide +kernel⟩, by decide +kernel⟩

/-- The first stream with one store queued to 0x20000. -/
def stored : State := onTask (base 0) fun t =>
  t.setSt .s { t.st .s with queue := [{ seq := 0, pc := 0x10000, eff := .store [[(.mem 0x20000, 7)]] }] }

/-- The first stream's core with two stores to one slot and one to another on its path. -/
def pathed : State :=
  let s := base 0;
  s.setCore (s.coreOf (T s)) { s.core (s.coreOf (T s)) with
    out := [[(.mem 0x20000, 7)], [(.mem 0x20000, 8)], [(.mem 0x20008, 9)]] }

theorem witness_StoresDrainToTheirHomes :
    (pathed.bytesOk = true ∧ pathed.task? (T pathed).uid = some (T pathed) ∧ (T pathed).det = false ∧
      ((T pathed).st .s).queue = [] ∧ (pathed.core (pathed.coreOf (T pathed))).out ≠ [] ∧
      (∀ u ∈ (pathed.core (pathed.coreOf (T pathed))).out, u ≠ [] ∧ (u.map (·.1)).Nodup)) ∧
    let e : QEntry := { seq := 0, pc := 0x10000, eff := .store [[(.mem 0x20000, 7)]] };
    stored.bytesOk = true ∧ stored.task? (T stored).uid = some (T stored) ∧ (T stored).det = false ∧
    ((T stored).st .s).queue = e :: [] ∧ (e.eff.bytes.map (·.1)).Nodup ∧
    (∀ l ∈ e.eff.bytes.map (·.1), stored.locPoison l = false) ∧
    ∀ l ∈ e.eff.bytes.map (·.1), ¬ stored.frameByte (e.eff.bytes.map (·.1)) l := by
  refine ⟨by decide +kernel, by decide +kernel, by decide +kernel, by decide +kernel, by decide +kernel, by decide +kernel,
    by decide +kernel, ?_⟩
  rintro l - ⟨pa, p, i, h, hf, -⟩
  have hp : pa = 0x20000 := by simpa [Eff.bytes, Eff.parts] using h
  subst hp
  exact absurd hf (by rw [show stored.frameOf 0x20000 = none by decide +kernel]; simp)

/-- An address that is not aligned, an unmapped one, and a poisoned sector. -/
theorem witness_FaultingAccessTraps :
    (let s := withPair (base 0) .s 1 0x20001;
      let e : TrapReq := { cls := 1, sub := 5, info := BitVec.ofNat 64 0x20001 };
      Issues s (T s) .s ∧ (e.cls = 1 ∨ e.cls = 2) ∧
      ∀ wr, s.check (T s) .s (addressOf ((T s).st .s) 1 0) 2 2 (!wr) wr = .error (.trap e)) ∧
    (let s := withPair (base 0) .s 1 0x40000000;
      let e : TrapReq := { cls := 1, sub := 6, info := BitVec.ofNat 64 0x40000000 };
      Issues s (T s) .s ∧ s.check (T s) .s (addressOf ((T s).st .s) 1 0) 8 8 true false = .error (.trap e)) ∧
    (let s := { withPair (base 0) .s 1 0x20000 with poison := [0x1000] };
      let e : TrapReq := { cls := 2, sub := 1, info := BitVec.ofNat 64 0x20000 };
      Issues s (T s) .s ∧ s.check (T s) .s (addressOf ((T s).st .s) 1 0) 4 4 true false = .error (.trap e)) :=
  ⟨⟨issues_of (by decide +kernel), by decide +kernel⟩, ⟨issues_of (by decide +kernel), by decide +kernel⟩,
   issues_of (by decide +kernel), by decide +kernel⟩

theorem witness_AtomicResults :
    (let s := withPair (base 0) .s 1 0x20000;
      Issues s (T s) .s ∧ s.lanesPending (T s) .s = false ∧ (T s).det = false ∧ ∀ n ∈ [4, 8],
        s.check (T s) .s (((T s).st .s).pair 1).toNat n n true true = .ok () ∧
        (s.locs ((T s).accessor s) (((T s).st .s).pair 1).toNat n true).length = n) ∧
    (let s := det (withPair (base 0) .s 1 0x20000);
      Issues s (T s) .s ∧ s.lanesPending (T s) .s = false ∧ (T s).det = true ∧ ∀ n ∈ [4, 8],
        s.check (T s) .s (((T s).st .s).pair 1).toNat n n true true = .ok ()) :=
  ⟨⟨issues_of (by decide +kernel), by decide +kernel⟩, issues_of (by decide +kernel), by decide +kernel⟩

theorem witness_LoadAndAtomicFrame :
    (let s := withPair (base 0) .s 1 0x20000;
      Issues s (T s) .s ∧ s.bytesOk = true ∧ s.check (T s) .s (addressOf ((T s).st .s) 1 0) 4 4 true false = .ok () ∧
      ((T s).st .s).queue = [] ∧ (T s).det = false ∧ (s.core (s.coreOf (T s))).l1 = [] ∧ (s.core (s.coreOf (T s))).out = [] ∧ (30 : BitVec 5) ≠ 31) ∧
    (stored.bytesOk = true ∧ stored.task? (T stored).uid = some (T stored) ∧ (T stored).det = false) :=
  ⟨⟨issues_of (by decide +kernel), by decide +kernel⟩, by decide +kernel⟩

/-- Task semaphores: the last index and the first that is none, the sum 255 and 256, a count that is there, one that is
not, and a waiter. -/
theorem witness_SemaphoreResults :
    (let s := onTask (base 0) fun t => { t with nsems := 15, sems := t.sems.set 14 5 };
      Issues s (T s) .s ∧ (T s).nsems ≤ (15 : BitVec 5).toNat ∧ (14 : BitVec 5).toNat < (T s).nsems ∧ (T s).det = false ∧
      255 < (T s).sem 14 + (251 : BitVec 8).toNat ∧ (T s).sem 14 + (250 : BitVec 8).toNat ≤ 255 ∧
      (T s).nsems ≤ (T s).sems.length ∧ (∀ w ∈ (T s).semQ, w.sem ≠ 14) ∧ (5 : BitVec 8).toNat ≤ (T s).sem 14 ∧
      (T s).sem 14 < (6 : BitVec 8).toNat) ∧
    (let s := det (base 0);
      Issues s (T s) .s ∧ (15 : BitVec 5).toNat < (T s).nsems ∧ (T s).det = true) ∧
    (let t : Task := { Task.init with nsems := 1, semQ := [{ sem := 0, stream := .m, k := 1 }] };
      t.semQ.find? (fun x => x.sem == 0) = some { sem := 0, stream := .m, k := 1 } ∧ 0 < t.sems.length ∧ t.sem 0 < 1) ∧
    (let t : Task := { Task.init with nsems := 1, sems := [1], semQ := [{ sem := 0, stream := .m, k := 1 }] };
      t.semQ.find? (fun x => x.sem == 0) = some { sem := 0, stream := .m, k := 1 } ∧ 0 < t.sems.length ∧ 1 ≤ t.sem 0) :=
  ⟨⟨issues_of (by decide +kernel), by decide +kernel⟩, ⟨issues_of (by decide +kernel), by decide +kernel⟩, by decide +kernel⟩

/-- A state whose blocks and spans have arrived at barrier 15 and span barrier 3. -/
def arrivedAt : State :=
  let s := base 0;
  { s with blocks := s.blocks.map fun b => { b with bars := b.bars.set 15 { abits := 1, bal := 4, phase := 1 } },
           spans := s.spans.map fun p => { p with sbars := p.sbars.set 3 { abits := 1, phase := 1 } } }

theorem witness_BarrierResults :
    (let s := base 0;
      Issues s (T s) .s ∧ s.arrived (T s) 15 = false ∧ s.spanArrived (T s) 3 = false ∧ (T s).det = false) ∧
    (let s := det (base 0);
      Issues s (T s) .s ∧ s.arrived (T s) 15 = false ∧ s.spanArrived (T s) 3 = false ∧ (T s).det = true) ∧
    (let s := arrivedAt;
      Issues s (T s) .s ∧ s.arrived (T s) 15 = true ∧ s.spanArrived (T s) 3 = true ∧ ∃ x y, s.blockOf (T s) = some x ∧
        s.spanOf (T s) = some y ∧ (x.bar 15).phase.getLsbD 0 ≠ ((((T s).st .s).reg 0).toNat % 2 != (0 : BitVec 1).toNat) ∧
        (x.bar 15).phase.getLsbD 0 = ((((T s).st .s).reg 0).toNat % 2 != (1 : BitVec 1).toNat) ∧
        (y.bar 3).phase.getLsbD 0 ≠ ((((T s).st .s).reg 0).toNat % 2 != (0 : BitVec 1).toNat) ∧
        (y.bar 3).phase.getLsbD 0 = ((((T s).st .s).reg 0).toNat % 2 != (1 : BitVec 1).toNat)) ∧
    (∃ b, arrivedAt.block? b.uid = some b ∧ 15 < b.bars.length ∧ arrivedAt.blockOf (T arrivedAt) = some b ∧
      arrivedAt.liveTasks b ≠ [] ∧ (∀ n ∈ arrivedAt.liveTasks b, (b.bar 15).abits.getLsbD n = true) ∧
      (b.bar 15).bal - BitVec.ofNat 32 4 = 0 ∧ (b.bar 15).bal - BitVec.ofNat 32 3 ≠ 0 ∧
      let s := onTask arrivedAt fun t => t.setSt .v { t.st .v with status := .waiting (.phase 15 true) };
      s.block? b.uid = some b ∧ (∀ n ∈ s.liveTasks b, (b.bar 15).abits.getLsbD n = true) ∧ s.task? (T s).uid = some (T s) ∧
      (T s).block = b.uid ∧ ((T s).st .v).status = .waiting (.phase 15 true)) :=
  ⟨⟨issues_of (by decide +kernel), by decide +kernel⟩, ⟨issues_of (by decide +kernel), by decide +kernel⟩,
   ⟨issues_of (by decide +kernel), by decide +kernel, by decide +kernel, (arrivedAt.blockOf (T arrivedAt)).getD .init,
    (arrivedAt.spanOf (T arrivedAt)).getD .init, by decide +kernel⟩,
   (arrivedAt.blockOf (T arrivedAt)).getD .init, by decide +kernel⟩

/-- Streams that may arrive again, and two tasks of a block of which one has arrived: the other's retirement completes the
phase, and its arrival the phase of the span. -/
def again (w : Wait) : State := onTask arrivedAt fun t => t.setSt .s { t.st .s with status := .waiting w }
def twoTasks (w : Wait) : State :=
  let s := base 0;
  let t := T s;
  { s with tasks := [t, ({ t with uid := 1, taskId := 1 } : Task).setSt .v { t.st .v with status := .waiting w }],
           blocks := s.blocks.map fun b => { b with bars := b.bars.set 15 { abits := 2, bal := 0, phase := 1 } },
           spans := s.spans.map fun p => { p with sbars := p.sbars.set 3 { abits := 2, phase := 1 } } }

theorem witness_BarrierPhases :
    (∀ w ∈ [Wait.arrive 15 true, .spanArrive 3 true], okIssue (again w) .s = true ∧ ((T (again w)).st .s).status = .waiting w) ∧
    (∀ w ∈ [Wait.phase 15 true, .arrive 15 false], let s := twoTasks w;
      let b := s.blocks.headD .init;
      let t := T s;
      s.block? b.uid = some b ∧ 15 < b.bars.length ∧ s.task? t.uid = some t ∧ t.block = b.uid ∧
      (∀ u ∈ s.tasks, u.block = b.uid → u.uid ≠ t.uid → (b.bar 15).abits.getLsbD u.taskId = true) ∧
      (∃ u ∈ s.tasks, u.block = b.uid ∧ u.uid ≠ t.uid ∧ s.task? u.uid = some u ∧ (u.st .v).status = .waiting w ∧
        ∀ e ∈ (s.core (s.coreOf t)).oclmQ, e.1 ≠ u.uid) ∧
      (b.bar 15).bal = 0 ∧ ∀ j ∈ [StreamId.s, .v, .m, .c], (t.st j).queue = []) ∧
    (∀ w ∈ [Wait.spanPhase 3 true, .spanArrive 3 true], let s := twoTasks w;
      let p := s.spans.headD .init;
      let b := s.blocks.headD .init;
      s.spanOf (T s) = some p ∧ 3 < p.sbars.length ∧ b.span = p.uid ∧ s.spanBit (T s) = 0 ∧
      ((s.spanBlocks p.uid).flatMap fun b => (s.liveTasks b).map fun n => b.pos * 32 + n) = [0, 1] ∧
      ∃ u ∈ s.tasks, s.blockOf u = some b ∧ (u.st .v).status = .waiting w) := by decide +kernel

/-- A lane of the stream that waits for its order word. -/
def lane : PxwLane :=
  { die := 0, core := 0, task := 0, stream := 1, seq := 0, order := (List.range 4).map fun i => .mem (0x20000 + i), need := 1,
    pixel := [(.mem 0x30000, 5)], nowrite := false, last := false, group := 0, lane := 0 }

/-- A copy operation of a CPY without actions. -/
def cop (id num : Nat) : AsyncOp :=
  { id := id, seq := 0, instr := .cpy Act.none 1 2 3, vals := [0x20000, 0x30000, 4], record := [], xl := [],
    act := { stat := none, sem := none, bar := none, bytes := 0, fut := none }, pc := 0x10000, foot := [], fpmode := 0,
    srseed := 0, srcnt := 0, board := none, follower := none, pages := [], prog := 0, fault := none, hurt := none, num := num,
    readAt := 0, path := [], seen := [0, 0, 0, 0], key := 0, out := none }

theorem no_cwait {st : StreamSt} (h : st.status = .ready) (ops : List Nat) : st.status ≠ .waiting (.cwait ops) := by
  rw [h]; nofun

theorem witness_FenceAndCopyWaitResults :
    (let s := base 0;
      Issues s (T s) .s ∧ s.lanesPending (T s) .s = false ∧ (T s).det = false ∧
      (∀ ops, ((T s).st .s).status ≠ .waiting (.cwait ops))) ∧
    (let s := { vBase with pxw := [lane] };
      Issues s (T s) .v ∧ s.lanesPending (T s) .v = true) ∧
    (let s := onTask (base 0) fun t => { t with cops := [cop 4 1], copies := 2 };
      Issues s (T s) .s ∧ (∀ ops, ((T s).st .s).status ≠ .waiting (.cwait ops)) ∧
      (∀ o ∈ (T s).cops, (T s).copies ≤ o.num + ((((T s).st .s).reg 31).toNat + (1 : BitVec 13).toNat) % 2 ^ 32) ∧
      ∃ o ∈ (T s).cops, o.num + ((((T s).st .s).reg 31).toNat + (0 : BitVec 13).toNat) % 2 ^ 32 < (T s).copies) :=
  ⟨⟨issues_of (by decide +kernel), by decide +kernel, by decide +kernel, no_cwait (by decide +kernel)⟩,
   ⟨issues_of (by decide +kernel), by decide +kernel⟩,
   issues_of (by decide +kernel), no_cwait (by decide +kernel), by decide +kernel⟩

/-- A future at 0x20000 in a state, with one record in its chain; the address in s2:3 of the scalar stream. -/
def future (st : Nat) : State :=
  let s := withPair (base 0) .s 1 0x20000;
  { s with mem := ((s.mem.setField 0x20000 2 st).setField 0x20002 2 1).setField 0x20008 8 0x21000 }

theorem witness_FutureResolvesOnce :
    (2 ≤ (future 2).futState 0x20000) ∧ ((future 1).futState 0x20000 < 2 ∧ (future 1).mem.wf = true ∧
      let places := (List.range 16).map fun i => Loc.mem (0x20000 + i);
      ∀ l ∈ places, ¬ (future 1).frameByte places l) := by
  refine ⟨by decide +kernel, by decide +kernel, by decide +kernel, ?_⟩
  rintro places l - ⟨pa, p, i, h, hf, -⟩
  obtain ⟨j, hj, rfl⟩ : ∃ j < 16, 0x20000 + j = pa := by simpa [places] using h
  have : ∀ j < 16, (future 1).frameOf (0x20000 + j) = none := by decide +kernel
  rw [this j hj] at hf
  cases hf

theorem witness_FutureInstructions :
    (∀ f ∈ [1, 2, 3], okIssue (future f) .s = true ∧
      (∀ wr, (future f).futCheck (T (future f)) .s (((T (future f)).st .s).pair 1).toNat 16 16 wr = .ok 0x20000) ∧
      (T (future f)).det = false ∧ (future f).lanesPending (T (future f)) .s = false ∧
      ((future f).perform (T (future f)) .s .pkg).1.futState 0x20000 = f) ∧
    (let s := det (future 0);
      Issues s (T s) .s ∧ (∀ wr, s.futCheck (T s) .s (((T s).st .s).pair 1).toNat 16 16 wr = .ok 0x20000) ∧ (T s).det = true) :=
  ⟨by decide +kernel, issues_of (by decide +kernel), by decide +kernel⟩

/-- A package with core 0 enabled, in partition 0. -/
def oneCore : State := { up with coreMap := [{ core := 0, router := 0, pos := 0 }] }
/-- A packet that R25 does not refuse. -/
def packet : Packet := { Packet.zero with type := 1, tasks := 1, grid := 1, vregs := 1, entryS := 4 }

theorem witness_SubmittedGridsAreChecked :
    (packet.variant = 0 ∧ oneCore.gridCode 0 packet = none) ∧
    (let p := { packet with tasks := 33, future := 0x20000 };
      let s := { oneCore with mem := (base 0).mem, mgmt := (base 0).mgmt };
      p.variant = 0 ∧ s.gridCode 0 p = some 2 ∧ p.future ≠ 0 ∧ s.devPa 0 p.future.toNat true = some 0x20000) := by decide +kernel

/-- A continuation record at 0x20000 that names the future at 0x20100. -/
def record : State :=
  let s := withPair (base 0) .s 1 0x20000;
  { s with mem := s.mem.setField 0x20008 8 0x20100 }

/-- A node at 0x20000 with capacity 128, its packet at 0x21000, its graph at 0x22000; and `n` records that wait. -/
def node (n : Nat) : State :=
  let s := withPair (base 0) .s 1 0x20000;
  { s with
    mem := ((((s.mem.setField 0x20000 8 0x21000).setField 0x20008 8 0x22000).setField 0x20010 8 0x23000).setField 0x20018 4 128
      |>.setField 0x21000 1 1),
    graphs := [{ id := 7, part := 0, va := 0x22000, image := 0, det := false, fut := 0, rootDone := false, failed := none,
                 shown := 1, work := 1, spoiled := false, resolved := false }],
    nodes := [{ id := 8, part := 0, va := 0x20000, graph := 7, pkt := 0x21000, held := 0,
                recs := List.replicate n ⟨0, 1, 0, 0, 0⟩, appended := n, cut := [] }] }

theorem witness_LaunchInstructions :
    (let s := record;
      Issues s (T s) .s ∧ (∀ wr, s.futCheck (T s) .s (((T s).st .s).pair 1).toNat 64 64 wr = .ok 0x20000) ∧
      (T s).det = false ∧ s.lanesPending (T s) .s = false ∧
      (∃ x, (s.perform (T s) .s .pkg).1.joinRec (s.perform (T s) .s .pkg).2 .s (((T s).st .s).pair 1).toNat = .ok x) ∧
      (s.perform (T s) .s .pkg).1.nodeOk (T s).part ((s.perform (T s) .s .pkg).1.mem.bytes 0x20000 64) = none) ∧
    (∀ n ∈ [127, 128], okIssue (node n) .s = true ∧
      (node n).futCheck (T (node n)) .s (((T (node n)).st .s).pair 1).toNat 64 64 true = .ok 0x20000 ∧
      (let u := ((node n).perform (T (node n)) .s .pkg).1;
       u.nodeOk (T (node n)).part (u.mem.bytes 0x20000 64) = some (7, 128)) ∧
      (((node n).nodeAt 0x20000).map (·.recs.length)).getD 0 = n ∧ (T (node n)).det = false ∧
      (node n).lanesPending (T (node n)) .s = false ∧
      (((node n).perform (T (node n)) .s .pkg).1.blockOf ((node n).perform (T (node n)) .s .pkg).2).isSome = true) ∧
    (let s := det (node 127);
      Issues s (T s) .s ∧ s.futCheck (T s) .s (((T s).st .s).pair 1).toNat 64 64 true = .ok 0x20000 ∧ (T s).det = true) :=
  ⟨⟨issues_of (by decide +kernel), by decide +kernel, by decide +kernel, by decide +kernel, ok_of (by decide +kernel),
    by decide +kernel⟩, by decide +kernel, issues_of (by decide +kernel), by decide +kernel⟩

theorem witness_MaskResults : Issues vBase (T vBase) .v ∧ (25 : BitVec 5).toNat ≤ 25 := ⟨issues_of (by decide +kernel), by decide⟩

theorem witness_MaskBranchesAndMoves :
    (let st := (T vBase).st .v;
      Issues vBase (T vBase) .v ∧ ¬ (st.reg 28 = 0 ∧ st.reg 29 = 0 ∧ st.reg 30 = 0) ∧ 32 ≤ (T vBase).preds.length) ∧
    (let s := withReg (withReg (withReg vBase .v 28 0) .v 29 0) .v 30 0;
      Issues s (T s) .v ∧ ((T s).st .v).reg 28 = 0 ∧ ((T s).st .v).reg 29 = 0 ∧ ((T s).st .v).reg 30 = 0) :=
  ⟨⟨issues_of (by decide +kernel), by decide +kernel⟩, issues_of (by decide +kernel), by decide +kernel⟩

/-- A task in trap mode, its scalar stream in the handler. -/
def handler : State := onTask (base 0) fun t => { t.setSt .s { t.st .s with status := .trap } with tmode := true, tended := 0b1110 }
/-- The vector stream with a word on the scoreboard. -/
def scored : State := onTask vBase fun t => { t with sb := [[.vreg 3]] }

theorem witness_SystemRegisterReads :
    (let s := base 0;
      Issues s (T s) .s ∧ (∃ b, s.blockOf (T s) = some b) ∧ (T s).tmode = false ∧ 0x100 ≤ (0x100 : BitVec 12).toNat ∧
      sysMapped 0x0FF = false ∧ (0x0FF : BitVec 12).toNat < 0x100) ∧
    (Issues handler (T handler) .s ∧ (∃ b, handler.blockOf (T handler) = some b) ∧ (T handler).tmode = true ∧
      sysMapped 0x124 = false ∧ sysMapped 0x280 = false) ∧
    (Issues scored (T scored) .v ∧ (∃ b, scored.blockOf (T scored) = some b) ∧ (T scored).sb ≠ []) :=
  ⟨⟨issues_of (by decide +kernel), some_of (by decide +kernel), by decide +kernel⟩,
   ⟨issues_of (by decide +kernel), some_of (by decide +kernel), by decide +kernel⟩,
   issues_of (by decide +kernel), some_of (by decide +kernel), by decide +kernel⟩

/-- The handler of a block without scratch. -/
def noScratch : State := { handler with blocks := handler.blocks.map fun b => { b with size := 0 } }

/-- The handler while a copy writes the first scratch bytes of its block. -/
def busy : State := onTask handler fun t => { t with cops := [{ cop 4 0 with foot := [{ sp := .scr 0, lo := 0, hi := 4, wr := true }] }] }

theorem witness_SystemRegisterWrites :
    (let s := base 0;
      Issues s (T s) .s ∧ (∃ b, s.blockOf (T s) = some b) ∧ (T s).tmode = false ∧ sysMapped 0x0FF = false ∧
      sysMapped 0x0FE = false ∧ sysMapped 0x051 = true) ∧
    (let s := busy;
      Issues s (T s) .s ∧ ∃ b, s.blockOf (T s) = some b ∧ (T s).tmode = true ∧ sysMapped 0x100 = true ∧
      (0x27F : BitVec 12) ≠ 0x122 ∧ s.waysBusy b.core (0x00FF &&& 0xFFFF) = false ∧ s.waysBusy b.core 0 = true) ∧
    (let s := noScratch;
      Issues s (T s) .s ∧ ∃ b, s.blockOf (T s) = some b ∧ (T s).tmode = true ∧ s.waysBusy b.core 0xFFFF = false ∧
      ∀ x ∈ s.blocks, x.core = b.core → x.size = 0) ∧
    (let s := scored;
      Issues s (T s) .v ∧ (∃ b, s.blockOf (T s) = some b) ∧ (T s).sb ≠ [] ∧ ∀ i ∈ sysReadOnly, sysMapped i = true) :=
  ⟨⟨issues_of (by decide +kernel), some_of (by decide +kernel), by decide +kernel⟩,
   ⟨issues_of (by decide +kernel), (busy.blockOf (T busy)).getD .init, by decide +kernel⟩,
   ⟨issues_of (by decide +kernel), (noScratch.blockOf (T handler)).getD .init, by decide +kernel⟩,
   issues_of (by decide +kernel), some_of (by decide +kernel), by decide +kernel⟩

/-- A task with a handler, one without, one in trap mode, and one under the debug agent. -/
theorem witness_TrapsAreTaken :
    let r : TrapReq := { cls := 14, sub := 255 };
    (let s := onTask (base 0) fun t => { t with tvec := 0x1000 };
      s.task? (T s).uid = some (T s) ∧ (T s).tvec ≠ 0 ∧ ¬ ((T s).tmode = true ∧ StreamId.s = .s) ∧
      (r.cls = 10 → s.agentStops (T s) = false) ∧ r.lanes = none ∧ r.cls < 15 ∧ r.sub < 256) ∧
    (¬ (r.cls = 10 ∧ (base 0).agentStops (T (base 0)) = true) ∧ (T (base 0)).tvec = 0) ∧
    ((T handler).tmode = true) ∧
    (let s := { base 0 with byder := { Byder.init with debug := .full } };
      ({ cls := 10, sub := 1 } : TrapReq).cls = 10 ∧ s.agentStops (T s) = true) := by decide +kernel

theorem witness_EretResumesStreams : (Issues (base 0) (T (base 0)) .s ∧ (T (base 0)).tmode = false) ∧
    (Issues handler (T handler) .s ∧ (T handler).tmode = true) :=
  ⟨⟨issues_of (by decide +kernel), by decide +kernel⟩, issues_of (by decide +kernel), by decide +kernel⟩

theorem witness_StreamControlResults :
    (let s := base 0;
      Issues s (T s) .s ∧ (T s).tmode = false ∧ (T s).semQ = [] ∧
      ((((T s).st .s).reg 31).toNat + (0 : BitVec 14).toNat) % 2 ^ 32 = 0 ∧
      0 < ((((T s).st .s).reg 31).toNat + (1 : BitVec 14).toNat) % 2 ^ 32) ∧
    (Issues handler (T handler) .s ∧ (T handler).tmode = true) :=
  ⟨⟨issues_of (by decide +kernel), by decide +kernel⟩, issues_of (by decide +kernel), by decide +kernel⟩

/-- A mask instruction, a copy and an XTILE in the scalar stream. -/
theorem witness_WrongClassTraps :
    Issues (base 0) (T (base 0)) .s ∧ (∃ w ps c, encode (.mif 3 1) = w :: ps ∧ classOf w = some c ∧
      ¬ (c = .scalar ∨ ((c = .mask ∨ c = .vector) ∧ StreamId.s = .v) ∨ (c = .matrix ∧ StreamId.s = .m) ∨ (c = .copy ∧ StreamId.s = .c))) ∧
    (∃ w ps c, encode (.cstat 3) = w :: ps ∧ classOf w = some c ∧
      ¬ (c = .scalar ∨ ((c = .mask ∨ c = .vector) ∧ StreamId.s = .v) ∨ (c = .matrix ∧ StreamId.s = .m) ∨ (c = .copy ∧ StreamId.s = .c))) ∧
    (Instr.xtile ∈ [Instr.xtile, .xstepPop, .pairedWord] ∧ StreamId.s ≠ .v) :=
  ⟨issues_of (by decide +kernel), ⟨_, _, .mask, rfl, by decide +kernel⟩, ⟨_, _, .copy, rfl, by decide +kernel⟩, by decide +kernel⟩

/-- The matrix stream with every slot claimed, addresses in s2:3 and s4:5, a pitch in s9 and the count 1 in s10; the block is
the first of a pair span whose second block runs a task of the same number; a manifest of one layer is loaded. -/
def claimed : State :=
  let s := onTask (withReg (withReg (withPair (withPair mBase .m 1 0x20000) .m 2 0x30000) .m 9 512) .m 10 1) fun t =>
    { t with claim := some (0, 64) }
  let l := { (s.launch? 1).getD .init with pkt := { Packet.zero with type := 1, flags := 1, shape := 8, tasks := 1, grid := 2 } };
  { s with
    tasks := s.tasks ++ [{ (T s) with uid := 7, block := 7, slot := 0 }],
    blocks := s.blocks ++ [{ (s.blocks.headD .init) with uid := 7, pos := 1, bid := 1, core := 1 }], launches := [l],
    ring := { Ring.init with layers := [{ src := 0, tiles := 32, fmt := 0, dwell := 1 }], loaded := true } }

/-- The hypotheses of `matrixStarts` under which the operation starts. -/
def mStarts (s : State) (act : Act) (foot : List Fp) (codes : List Nat) (chk : IssueChk) : Bool :=
  let t := T s;
  decide (t.mops.length < 8) && (s.blockers t foot == []) && (act.sige != 1 || decide (act.sem.toNat < t.nsems)) && codes.isEmpty &&
  (s.issueChecks t [] (futOf (t.st .m) act) chk).isOk

/-- Each matrix operation can start in `claimed`, at the last slots and tiles that it may take. -/
theorem witness_MatrixOperationsStart :
    let s := claimed;
    let t := T s;
    let st := t.st .m;
    let rows := (List.range 16).map fun i => (0x20000 + i * 512) % 2 ^ 64;
    let W := [t.fpAcc 0 26 true];
    Issues s t .m ∧ s.followerOf t = some 7 ∧
    mStarts s Act.none [t.fpScr 0 4352 false, fpSlot 63 1 true] (codeIf 1 (t.owns 63 1 = false)) { bad := s.scrBad t 0 4352 64 } = true ∧
    mStarts s Act.none [fpSlot 60 2 false, fpSlot 62 2 false, t.fpAcc 28 4 true]
      (codeIf 1 (t.owns 60 2 = false) ++ codeIf 1 (t.owns 62 2 = false) ++ codeIf 2 (t.nacc < 28 + 4))
      { slots := idxFrom 60 2 ++ idxFrom 62 2 } = true ∧
    mStarts s Act.none [fpSlot 58 2 false, fpSlot 60 4 false, t.fpAcc 28 4 true, { sp := .acc 7, lo := 28, hi := 32, wr := true }]
      (codeIf 1 (t.owns 58 2 = false) ++ codeIf 1 (t.owns 60 4 = false) ++ codeIf 2 (t.nacc < 28 + 4) ++ codeIf 6 (s.followerOf t = none))
      { slots := idxFrom 58 2 ++ idxFrom 60 4 } = true ∧
    mStarts s Act.none ([fpSlot 28 18 false, fpSlot 46 18 false] ++ W)
      (codeIf 1 (t.owns 28 18 = false) ++ codeIf 1 (t.owns 46 18 = false) ++ codeIf 2 (t.nacc < 0 + 26))
      { slots := idxFrom 28 18 ++ idxFrom 46 18 } = true ∧
    mStarts s Act.none W (codeIf 2 (t.nacc < 0 + 26)) {} = true ∧
    mStarts s Act.none (t.fpAcc 0 26 false :: rows.flatMap fun v => s.fpVa (t.accessor s) v 128 true)
      (codeIf 2 (t.nacc < 0 + 26) ++ codeIf 8 ((st.reg 9).toNat % 8 ≠ 0))
      { bad := alignBad 0x20000 8, ranges := rows.map fun v => (v, 128, true) } = true ∧
    mStarts s act [t.fpAcc 0 32 true] (codeIf 2 (t.nacc < 0 + (31 + 1))) {} = false ∧
    mStarts s { Act.none with sige := 1, sem := 15 } [t.fpAcc 0 32 true] (codeIf 2 (t.nacc < 0 + (31 + 1))) {} = true ∧
    mStarts s Act.none ((rows.flatMap fun v => s.fpVa (t.accessor s) v 64 false) ++ [t.fpAcc 28 4 true])
      (codeIf 2 (t.nacc < 28 + 4) ++ codeIf 8 ((st.reg 9).toNat % 16 ≠ 0))
      { bad := alignBad 0x20000 16, ranges := rows.map fun v => (v, 64, false) } = true ∧
    mStarts s Act.none (t.fpAcc 28 4 false :: (rows.flatMap fun v => s.fpVa (t.accessor s) v 16 true) ++ s.fpVa (t.accessor s) 0x30000 16 true)
      (codeIf 2 (t.nacc < 28 + 4) ++ codeIf 8 ((st.reg 9).toNat % 16 ≠ 0))
      { bad := alignBad 0x20000 16, ranges := rows.map (fun v => (v, 16, true)) ++ [(0x30000, 16, true)] } = true ∧
    mStarts s Act.none [fpSlot 62 2 true] (s.boardBad t 62 0 0 1) {} = true :=
  ⟨issues_of (by decide +kernel), by decide +kernel⟩

/-- What stops a matrix operation: a full engine, a hazard, a semaphore that is none, and a condition: of slots, tiles, a
missing follower, a pitch and a board. -/
theorem witness_MatrixOperationsStop :
    (let s := onTask mBase fun t => { t with mops := List.replicate 8 (cop 4 0) };
      Issues s (T s) .m ∧ 8 ≤ (T s).mops.length) ∧
    (let s := onTask mBase fun t => { t with mops := [{ cop 4 0 with foot := [t.fpAcc 0 1 true] }] };
      Issues s (T s) .m ∧ (T s).mops.length < 8 ∧ s.blockers (T s) [(T s).fpAcc 0 26 true] ≠ []) ∧
    (let s := onTask mBase fun t => { t with nsems := 9, nacc := 25 };
      Issues s (T s) .m ∧ act.sige = 1 ∧ (T s).nsems ≤ act.sem.toNat ∧
      (codeIf 1 ((T s).owns 0 2 = false) ++ codeIf 2 ((T s).nacc < 0 + 26) ++ codeIf 6 (s.followerOf (T s) = none) ++
        codeIf 8 (1 % 16 ≠ 0) = [1, 2, 6, 8] ∧ ∀ x ∈ [1, 2, 6, 8], 1 ≤ x) ∧
      s.boardBad (T s) 0 0 0 33 = [8]) :=
  ⟨⟨issues_of (by decide +kernel), by decide +kernel⟩, ⟨issues_of (by decide +kernel), by decide +kernel⟩,
   issues_of (by decide +kernel), by decide +kernel⟩

theorem witness_SlotInstructions :
    (Issues claimed (T claimed) .m ∧ (T claimed).claim ≠ none ∧ (T claimed).det = false ∧
      Issues (det claimed) (T (det claimed)) .m ∧ (T (det claimed)).det = true) ∧
    (let s := mBase;
      Issues s (T s) .m ∧ (T s).claim = none ∧ (s.core (s.coreOf (T s))).owners = [] ∧
      ((s.core (s.coreOf (T s))).oclmQ.filter fun f => f.1 != (T s).uid) = []) ∧
    (let s := { mBase with cores := [(0, { CoreSt.init with owners := [(63, 9)] })] };
      Issues s (T s) .m ∧ (T s).claim = none ∧
      ¬ ∀ p ∈ (s.core (s.coreOf (T s))).owners, ¬ ((0 : BitVec 6).toNat ≤ p.1 ∧ p.1 < (0 : BitVec 6).toNat + (64 : BitVec 7).toNat)) ∧
    (let s := det mBase;
      Issues s (T s) .m ∧ (T s).claim = none ∧ (T s).det = true ∧ s.oclmWait (T s) 0 64 = none) ∧
    (let s := det (onTask mBase fun t => { t with slotsAt := [63] });
      Issues s (T s) .m ∧ (T s).claim = none ∧ s.oclmWait (T s) 0 64 = some .slots) ∧
    (let s := det { mBase with cores := [(0, { CoreSt.init with owners := [(63, 9)] })] };
      Issues s (T s) .m ∧ (T s).claim = none ∧ s.oclmWait (T s) 0 64 = some (.outside 0 64)) :=
  ⟨⟨issues_of (by decide +kernel), by decide +kernel, by decide +kernel, issues_of (by decide +kernel), by decide +kernel⟩,
   ⟨issues_of (by decide +kernel), by decide +kernel⟩, ⟨issues_of (by decide +kernel), by decide +kernel⟩,
   ⟨issues_of (by decide +kernel), by decide +kernel⟩, ⟨issues_of (by decide +kernel), by decide +kernel⟩,
   issues_of (by decide +kernel), by decide +kernel⟩

/-- The hypotheses of `copyStarts` under which the operation starts; `u` is the state in which the checks are made. -/
def cStarts (s u : State) (act : Act) (codes : List Nat) (chk : IssueChk) : Bool :=
  let t := T s;
  decide (t.cops.length < 64) && (act.sige != 1 || decide (act.sem.toNat < t.nsems)) && codes.isEmpty &&
  (u.issueChecks t [] (futOf (t.st .c) act) chk).isOk

/-- The copy stream with every slot claimed, addresses in s2:3 and s4:5, 64 in s6, 4 in s7, 1 in s8. -/
def copying : State :=
  onTask (withReg (withReg (withReg (withPair (withPair cBase .c 1 0x20000) .c 2 0x30000) .c 6 64) .c 7 4) .c 8 1) fun t =>
    { t with claim := some (0, 64) }

/-- Each copy on ranges can start in `copying`; the lanes and entries of a queue, rows and planes lie where R259 to R262 put
them. -/
theorem witness_RangeCopiesStart :
    let s := copying;
    let t := T s;
    Issues s t .c ∧
    cStarts s s Act.none [] { bad := s.copyBad (t.accessor s) 0x20000 64 ++ s.copyBad (t.accessor s) 0x30000 64 } = true ∧
    cStarts s s Act.none [] { bad := s.copyBad (t.accessor s) 0x20000 0 } = true ∧
    cStarts s s { Act.none with sige := 1, sem := 15 } [] ⟨s.copyBad (t.accessor s) 0x20000 64 ++ s.scrBad t 64 64 4 ++
      alignBad 0x20000 4 ++ (if 64 % 4 = 0 then [] else [(5, 0x20000)]), [], []⟩ = true ∧
    (t.det = false ∨ (3 : BitVec 2).toNat < 2) ∧
    cStarts s s Act.none [] ⟨alignBad 0x20000 4 ++ (if 4 % 4 = 0 ∧ 64 % 4 = 0 then [] else [(5, 0x20000)]) ++
      s.copyBad (t.accessor s) 0x20000 ((1 - 1) * 64 + 95 * 4 + 4), [], []⟩ = true ∧
    cStarts s s Act.none (codeIf 8 (4 = 0 ∨ 65536 < 4)) ⟨s.scrBad t 64 (1 * 4) 1 ++ alignBad 0x30000 4 ++
      s.copyBad (t.accessor s) 0x30000 (4 * 1) ++ s.copyBad (t.accessor s) 0x20000 (64 * 4), [], []⟩ = true ∧
    cStarts s s Act.none (codeIf 1 (t.owns 46 18 = false)) { bad := s.scrBad t 0 65536 8 } = true ∧
    cStarts s s Act.none (codeIf 1 (t.owns 46 18 = false)) { bad := s.scrBad t 64 (512 * 16) 8 } = true :=
  ⟨issues_of (by decide +kernel), by decide +kernel⟩

/-- A full engine, a semaphore that is none, the rows that SHAPE refuses, slots that are not claimed, a deterministic
task. -/
theorem witness_CopiesStop :
    (let s := onTask cBase fun t => { t with cops := List.replicate 64 (cop 4 0), nsems := 9 };
      Issues s (T s) .c ∧ 64 ≤ (T s).cops.length) ∧
    (let s := onTask cBase fun t => { t with nsems := 9 };
      Issues s (T s) .c ∧ (T s).cops.length < 64 ∧ act.sige = 1 ∧ (T s).nsems ≤ act.sem.toNat ∧
      codeIf 8 ((0 : Nat) = 0 ∨ 65536 < 0) = [8] ∧ codeIf 8 ((65537 : Nat) = 0 ∨ 65536 < 65537) = [8] ∧
      codeIf 1 ((T s).owns 0 4 = false) = [1]) ∧
    (let s := det cBase;
      Issues s (T s) .c ∧ (T s).cops.length < 64 ∧ (T s).det = true ∧ 2 ≤ (2 : BitVec 2).toNat) :=
  ⟨⟨issues_of (by decide +kernel), by decide +kernel⟩, ⟨issues_of (by decide +kernel), by decide +kernel⟩,
   issues_of (by decide +kernel), by decide +kernel⟩

/-- `copying` with a tensor record at 0x20000: base 0x30000, 16 × 4 elements of f32, box 16 × 4; and with a broken one. -/
def tensor : State :=
  let record := natLe 8 0x30000 ++ natLe 8 0 ++ natLe 3 16 ++ natLe 3 4 ++ natLe 12 0 ++ natLe 4 1 ++ natLe 16 0 ++
    natLe 2 0x030F ++ natLe 4 0 ++ natLe 1 0x20
  { copying with mem := copying.mem.writeBytes 0x20000 record }
/-- `copying` with a group record at 0x20000 of one member, this package. -/
def group : State :=
  { copying with mem := copying.mem.writeBytes 0x20000 (natLe 8 0x21000 ++ natLe 4 1 ++ natLe 4 0 ++ natLe 4 5 ++ natLe 4 0) }

/-- The bytes of the records that the copy stream reads at 0x20000. -/
def recBytes (s : State) : List Byte := match s.readRecord (T s) 0x20000 with | .ok bs => bs | _ => []
def grpBytes (s : State) (bc : Bool) : List Byte := match s.readGroup (T s) 0x20000 bc with | .ok bs => bs | _ => []

theorem witness_RecordCopiesStart :
    (let s := tensor;
      let t := T s;
      Issues s t .c ∧ ∃ bs, s.readRecord t 0x20000 = .ok bs ∧ (
        let r := tensorOf bs;
        let org := coordsOf (t.st .c) 9 r;
        let bad := (r.bounds org).flatMap fun g => s.copyBad (t.accessor s) g.1 g.2;
        r.ok = true ∧ r.flatBox = true ∧ 63 + r.slotCount ≤ 64 ∧
        cStarts s s Act.none (shapeBad r 9 org) { bad := s.scrBad t 64 r.span 16 ++ bad } = true ∧
        cStarts s s Act.none (codeIf 1 (t.owns 63 r.slotCount = false) ++ shapeBad r 9 org) { bad := bad } = true)) ∧
    (let s := copying;
      Issues s (T s) .c ∧ ∃ bs, s.readRecord (T s) 0x20000 = .ok bs ∧ (tensorOf bs).ok = false) ∧
    (let s := group;
      let t := T s;
      Issues s t .c ∧ (∃ bs, s.readGroup t 0x20000 false = .ok bs ∧ (
        let g := groupOf bs;
        codeIf 8 (g.p ≤ 0) = [] ∧ codeIf 8 (g.p ≤ 1) = [8] ∧
        cStarts s (s.takePlaces g.tag g.me 0 g.p (.red 0 3 false)).1 Act.none []
          ⟨s.scrBad t 64 64 1 ++ s.scrBad t 4 64 1 ++ (if 64 % 2 = 0 then [] else [(5, winBase + 4)]) ++
              alignBad (winBase + 4) 2 ++ alignBad (winBase + 64) 2, [], []⟩ = true ∧
        cStarts s (s.takePlaces g.tag g.me 0 g.p .send).1 Act.none (codeIf 8 (g.p ≤ 0)) { bad := s.scrBad t 64 64 1 } = true ∧
        cStarts s (s.takePlaces g.tag g.me 0 g.p .recv).1 Act.none (codeIf 8 (g.p ≤ 0)) { bad := s.scrBad t 64 64 1 } = true)) ∧
      ∃ bs, s.readGroup t 0x20000 true = .ok bs ∧
        cStarts s (s.takePlaces (groupOf bs).tag (groupOf bs).me 0 (groupOf bs).p .bc).1 Act.none [] { bad := s.scrBad t 4 64 1 } = true) ∧
    (let s := det group;
      Issues s (T s) .c ∧ (∃ bs, s.readGroup (T s) 0x20000 false = .ok bs) ∧ (T s).det = true ∧ (T s).cops.length < 64) :=
  ⟨⟨issues_of (by decide +kernel), recBytes tensor, by decide +kernel⟩, ⟨issues_of (by decide +kernel), recBytes copying, by decide +kernel⟩,
   ⟨issues_of (by decide +kernel), ⟨grpBytes group false, by decide +kernel⟩, grpBytes group true, by decide +kernel⟩,
   issues_of (by decide +kernel), ok_of (by decide +kernel), by decide +kernel⟩

/-- A test on what a word reads once it begins. -/
def begins (e : Except Stop (Nat × List VIn)) (p : Nat → VIn → Bool) : Bool :=
  match e with
  | .ok (n, [x]) => p n x
  | _ => false
theorem begins_of {e : Except Stop (Nat × List VIn)} {p : Nat → VIn → Bool} (h : begins e p = true) :
    ∃ n x, e = .ok (n, [x]) ∧ p n x = true := by
  unfold begins at h; split at h
  · exact ⟨_, _, rfl, h⟩
  · cases h
theorem err_of {α ε : Type} {e : Except ε α} (h : e.isOk = false) : ∃ x, e = .error x := by
  cases e with
  | error x => exact ⟨x, rfl⟩
  | ok _ => cases h

/-- A wide word with d = v9, a = v1, b = v2. -/
def word3 : VW := { stall := 0, e := 1, pred := 31, neg := 0, mod7 := 0, d := 9, a := 1, b := 2, c := 0, mod4 := 0, imm := 0 }
/-- Infinities of opposite signs in v1 and v2, and every flag enabled. -/
def infs : State := onTask vBase fun t =>
  { (t.setSt .v { t.st .v with fpmode := 0xFF00 }) with
    vregs := (t.vregs.set 1 (.uniform 0x7F800000)).set 2 (.uniform 0xFF800000) }
/-- One lane active and no row. -/
def noRows : State := onTask (withReg (withReg (withReg vBase .v 28 1) .v 29 0) .v 30 0) fun t => { t with nrows := 0 }

theorem witness_VectorWordsComplete :
    (∃ r ∈ wideRows, r.1 word3 = .fadd word3 ∧ r.2.1 = 0x010 ∧ r.2.2 = fpFn 0x010 (laneAdd .f32)) ∧
    (let s := scored;
      Issues s (T s) .v ∧ ∃ e, s.vecBegin (T s) [(0x010, { word3 with a := 3 })] = .error e) ∧
    (let s := vBase;
      Issues s (T s) .v ∧ ∃ n x, s.vecBegin (T s) [(0x010, word3)] = .ok (n, [x]) ∧
        ((s.vecWrite (T s) n x (fpFn 0x010 (laneAdd .f32) x)).isOk &&
          (arithTrap ((T s).st .v).fpmode (wordFlags x.mask (fpFn 0x010 (laneAdd .f32) x))).isNone) = true) ∧
    (let s := infs;
      Issues s (T s) .v ∧ ∃ n x, s.vecBegin (T s) [(0x010, word3)] = .ok (n, [x]) ∧
        ((s.vecWrite (T s) n x (fpFn 0x010 (laneAdd .f32) x)).isOk &&
          (arithTrap ((T s).st .v).fpmode (wordFlags x.mask (fpFn 0x010 (laneAdd .f32) x))).isSome) = true) ∧
    (let s := noRows;
      Issues s (T s) .v ∧ ∃ n x, s.vecBegin (T s) [(0x010, word3)] = .ok (n, [x]) ∧
        (!(s.vecWrite (T s) n x (fpFn 0x010 (laneAdd .f32) x)).isOk) = true) :=
  ⟨⟨_, List.mem_append_left _ (List.mem_append_left _ (.head _)), rfl, rfl, rfl⟩,
   ⟨issues_of (by decide +kernel), err_of (by decide +kernel)⟩,
   ⟨issues_of (by decide +kernel), begins_of (by decide +kernel)⟩, ⟨issues_of (by decide +kernel), begins_of (by decide +kernel)⟩,
   issues_of (by decide +kernel), begins_of (by decide +kernel)⟩

theorem witness_VectorWriteFrame :
    let s := vBase;
    let f := fpFn 0x010 (laneAdd .f32);
    (T s).flights = [] ∧ ∃ n x, s.vecBegin (T s) [(0x010, word3)] = .ok (n, [x]) ∧
      ((s.vecWrite (T s) n x (f x)).isOk && decide (((f x).regs.map (·.1)).Nodup ∧ (f x).tags = [] ∧ (f x).preds = [] ∧
        ∀ r ∈ (f x).regs, r.1 < 124 ∧ r.1 < (T s).vregs.length)) = true :=
  ⟨by decide +kernel, begins_of (by decide +kernel)⟩

theorem witness_IntegerLanesAndTags :
    (∃ q ∈ wideRows, ∃ r ∈ intLanes, r.1 = q.2.1 ∧ q.1 word3 = .iadd word3) ∧
    (∃ q ∈ wideRows, ∃ r ∈ cmpLanes, r.1 = q.2.1 ∧ q.1 word3 = .iceq word3) ∧
    (∃ q ∈ wideRows, ∃ r ∈ bitLanes 0, r.1 = q.2.1 ∧ q.1 word3 = .vlut word3) ∧
    ∃ q ∈ wideRows, ∃ r ∈ pairLanes, r.1 = q.2.1 ∧ q.1 word3 = .iadd64 word3 := by
  refine ⟨?_, ?_, ?_, ?_⟩
  · refine ⟨(.iadd, 0x0C0, stdFn 0x0C0 laneIadd (lineSum false)), ?_, _, .head _, rfl, rfl⟩
    simp [wideRows]
  · refine ⟨(.iceq, 0x0CD, fpFn 0x0CD (laneIcmp (· == ·) true)), ?_, _, .head _, rfl, rfl⟩
    simp [wideRows]
  · refine ⟨(.vlut, 0x0CB, fpFn 0x0CB laneVlut), ?_, _, .head _, rfl, rfl⟩
    simp [wideRows]
  · refine ⟨(.iadd64, 0x0D8, fpFn 0x0D8 laneIadd64), ?_, _, .head _, rfl, rfl⟩
    simp [wideRows]

/-- R186, R188, R189: an exclusive or by table, leading zeros, a field cut at bit 31 and its sign, a field inserted
there, and a signed product that fills both halves. -/
theorem test_bit_fields :
    (bitLanes 0x66).map (fun r => r.2.1 false false 0x0F 0x35 0) = [0x3A, 28, 0, 0x35] ∧
    (bitLanes 0x201E).map (fun r => r.2.1 false false 0x80000001 0x11 0) = [0x80000011, 0, 0xFFFFFFFE, 0x40000011] ∧
    (pairLanes.map fun r => r.2 false 0xFFFFFFFF 2 1) = [0x100000001, 0xFFFFFFFFFFFFFFFF] := by decide +kernel

/-- A vector stream whose pair s4:5 holds 0x20000 and whose v6 is AFFINE with base 0 and stride 4. -/
def lanes : State := onTask (withPair vBase .v 2 0x20000) fun t => { t with vregs := t.vregs.set 6 (.affine 0 4) }
/-- The load of 09's example without its displacement, and its store counterpart. -/
def loadWord32 : VW := { word3 with mod7 := 4, d := 8, a := 6, b := 4 }
def storeWord32 : VW := { word3 with mod7 := 4, d := 0, a := 6, b := 4, c := 6 }

/-- A body that its checks let through and whose results find their rows. -/
def bodyOk (_ : State) (n : Nat) (x : VIn) (e : Except Stop (State × Task × VOut)) : Bool :=
  match e with
  | .ok (s', t', o) => (s'.vecWrite t' n x o).isOk
  | .error _ => false

theorem witness_VectorMemoryWordsComplete :
    (∃ r ∈ memRows loadWord32 lanes.latched, r.1 = .vld loadWord32 ∧ r.2.1 = 0x160) ∧ Issues lanes (T lanes) .v ∧
    (∃ n x, lanes.vecBegin (T lanes) [(0x160, loadWord32)] = .ok (n, [x]) ∧
      (bodyOk lanes n x (loadBody 0x160 false lanes (T lanes) x) && decide (x.w.sz < 5)) = true) ∧
    (∃ n x, lanes.vecBegin (T lanes) [(0x161, storeWord32)] = .ok (n, [x]) ∧
      (bodyOk lanes n x (storeBody lanes (T lanes) x) && decide (x.mask ≠ 0)) = true) ∧
    (∃ n x, lanes.vecBegin (T lanes) [(0x160, { loadWord32 with imm := 1 })] = .ok (n, [x]) ∧
      (!(loadBody 0x160 false lanes (T lanes) x).isOk) = true) ∧
    (∃ e, scored.vecBegin (T scored) [(0x160, { loadWord32 with a := 3 })] = .error e) :=
  ⟨⟨_, .head _, rfl, rfl⟩, issues_of (by decide +kernel), begins_of (by decide +kernel), begins_of (by decide +kernel),
   begins_of (by decide +kernel), err_of (by decide +kernel)⟩

/-- The paired word of 02 in the latch. -/
def paired : State := onTask vBase fun t => { t with word := (0xCB060427, 0xF1004103, 0xF2204200) }

theorem witness_PairedWordCompletes :
    let t := T paired;
    let h := pairHead t.word.1.toNat;
    let sa := decSlot (fld t.word.1.toNat 0 10) t.word.2.1.toNat;
    let sb := decSlot (fld t.word.1.toNat 10 10) t.word.2.2.toNat;
    let ps := [sa, sb].map fun p => { op := p.op9.toNat, w := p.toVW h, fn := pairFn p.op9.toNat : Piece };
    Issues paired t .v ∧ pairIllegal h sa sb = none ∧
    (match paired.vecBegin t (ps.map fun p => (p.op, p.w)) with
    | .ok (n, [x, y]) =>
      let a := pairFn sa.op9.toNat x;
      let b := pairFn sb.op9.toNat y;
      (match paired.vecWrite t n x a with
      | .ok u => (paired.vecWrite u n y b).isOk
      | .error _ => false) &&
      (arithTrap (t.st .v).fpmode
        ((upto 96).map fun l => nth (activeFlags x.mask a.flags) l 0 ||| nth (activeFlags y.mask b.flags) l 0)).isNone
    | _ => false) = true :=
  ⟨issues_of (by decide +kernel), by decide +kernel⟩

/-- A launch of one block that waits for a place. -/
def pendingOne : State :=
  { oneCore with launches := [{ Launch.init with num := 1, pkt := packet, left := 1, units := [[0]], unitNext := [0] }] }
/-- The same launch with its block evicted. -/
def evictedOne : State :=
  { oneCore with
    launches := [{ Launch.init with num := 1, pkt := packet, left := 1, next := 1, units := [[0]], unitNext := [0] }],
    blocks := [{ Block.init with uid := 5, launch := 1, span := 3, st := .evicted, evictedAt := 1 }],
    spans := [{ Span.init with uid := 3, launch := 1 }], tasks := [{ Task.init with uid := 6, block := 5, launch := 1 }] }

/-- Cores and bases at which a waiting block may, and may not, be placed. -/
def placeHyps (s : State) (w : Waiting) (cores bases : List Nat) (ok fit : Bool) : Bool :=
  ((cores.head?).bind s.partOfCore == some 0) && s.dispatching && (cores.length == bases.length) && (s.pendingHead 0 == some w) &&
  match s.waitingNeeds w with
  | some (l, ns) =>
    let places := (ns.map fun n => n.1).zip (cores.zip bases);
    ((s.coresAllowed l w ((ns.map fun n => n.1).zip cores) && s.placesFit w [] ns places) == fit) && (!ok || (s.findPlace w).isSome)
  | none => false

theorem witness_GrantsAndPlacements :
    (let s := base 0;
      let ready := s.tasks.filter fun t => s.coreOf t == 0 && s.ready t .s;
      (ready.find? fun t => (t.st .s).granted) = some (T s)) ∧
    (let s := onTask (base 0) fun t => t.setSt .s { t.st .s with granted := false };
      let ready := s.tasks.filter fun t => s.coreOf t == 0 && s.ready t .s;
      ready ≠ [] ∧ ∀ t ∈ ready, (t.st .s).granted = false) ∧
    placeHyps pendingOne (.fresh 1 0) [0] [0] false true = true ∧ placeHyps pendingOne (.fresh 1 0) [0] [1] true false = true ∧
    placeHyps evictedOne (.back 3) [0] [0] false true = true := by decide +kernel

/-- A task of a deterministic launch at its quantum end. -/
def atEnd : State :=
  let s := det (onTask (base 0) fun t =>
    { t with str := ⟨{ t.str.s with qend := true, queue := [] }, t.str.v, t.str.m, t.str.c⟩ })
  { s with launches := s.launches.map fun l => { l with pkt := { l.pkt with flags := 2 } } }

/-- A block that waits for a page. -/
def heldBlock : State := { base 0 with blocks := (base 0).blocks.map fun b => { b with held := true } }

theorem witness_TaskEventsComplete :
    (let s := onTask (base 0) fun t => t.setSt .s { t.st .s with status := .waiting (.cycles 9) };
      s.task? 0 = some (T s) ∧ ((T s).st .s).status = .waiting (.cycles 9)) ∧
    (let s := onTask (base 0) fun t => { t with pend := [{ cls := 11, sub := 8, stream := .c, also := 0, info := 0 }] };
      s.task? 0 = some (T s) ∧ s.resident (T s) = true ∧ (T s).tmode = false ∧ (T s).dbgHalt = false ∧
      (T s).pend = { cls := 11, sub := 8, stream := .c, also := 0, info := 0 } :: []) ∧
    (let s := onTask (base 0) fun t => t.setSt .s { t.st .s with status := .ended };
      s.task? 0 = some (T s) ∧ (T s).det = false ∧ s.resident (T s) = true ∧
      (∀ k ∈ [StreamId.s, .v, .m, .c], ((T s).st k).status = .ended) ∧
      (T s).mops = [] ∧ (T s).cops = [] ∧ (T s).pend = [] ∧ (T s).dbgHalt = false) ∧
    (((T (base 0)).st .s).status ≠ .ended) ∧
    (let s := heldBlock;
      let b := s.blocks.headD .init;
      s.block? 0 = some b ∧ b.held = true ∧ (∀ x ∈ s.blocksOf b.span, x.st = .resident) ∧ s.poolRoom (s.blocksOf b.span) = true) ∧
    (let l := (atEnd.launch? 1).getD .init;
      atEnd.launch? 1 = some l ∧ atEnd.mayCommit l = true) ∧
    (∀ x ∈ [Option.none, some 0x3000], 
      let full := { Block.init with uid := 9, span := 9, st := .evicted, ctxDie := 0, ctxBytes := 384 * 2 ^ 20 };
      let bs := heldBlock.blocks.map fun (b : Block) => { b with page := x };
      let s := { heldBlock with blocks := bs ++ [full] };
      let b := s.blocks.headD .init;
      s.block? 0 = some b ∧ b.held = true ∧ (∀ x ∈ s.blocksOf b.span, x.st = .resident) ∧
        s.poolRoom (s.blocksOf b.span) = false ∧ ∀ y ∈ s.blocksOf b.span, y.page = x) ∧
    (∀ k ∈ [0, 1], ∃ n ∈ (node k).nodes, ∃ g ∈ (node k).graphs, (node k).node? 8 = some n ∧ (node k).graph? n.graph = some g ∧
      (n.recs = [] ↔ k = 0) ∧ g.det = false) ∧
    (let s := { base 0 with byder := { up.byder with debug := .full } };
      s.task? 0 = some (T s) ∧ s.byder.power = .active ∧ s.mgmtOpen = true ∧ s.agentStops (T s) = true ∧
      s.resident (T s) = true ∧ (T s).dbgHalt = false) ∧
    (let s := { onTask (base 0) (fun t => { t.setSt .s { t.st .s with status := .halted } with dbgHalt := true }) with byder := up.byder };
      s.mgmtOpen = true ∧ s.task? 0 = some (T s) ∧ (T s).dbgHalt = true ∧ ((T s).st .s).status = .halted ∧ (T s).tmode = false) := by decide +kernel

/-- A task whose engines hold a MACZ of tile 31 and a CPY of 4 bytes. -/
def atWork : State := onTask (base 0) fun t =>
  { t with mops := [{ cop 3 0 with instr := .macz Act.none 31 0, vals := [] }], cops := [cop 4 0] }

/-- An operation that follows none may run where its block is resident. -/
theorem mayRun_of {s : State} {t : Task} {o : AsyncOp} (b : ∃ b, s.blockOf t = some b ∧ b.st = .resident)
    (h : o.seen = [0, 0, 0, 0]) (f : o.follower = none) : mayRun s t o :=
  ⟨b, by simp [h], by simp [f]⟩
/-- A MACZ has its turn behind none. -/
theorem arrayGives_of {s : State} {t : Task} {o : AsyncOp} (h : o.board = none ∧ ∀ e ∈ t.mops, o.seq ≤ e.seq)
    (m : ∃ c n, o.instr = .macz Act.none c n) : arrayGives s t o := by
  obtain ⟨c, n, m⟩ := m
  refine ⟨h.1, fun e he l => absurd (h.2 e he) (Nat.not_le.mpr l), ?_⟩
  simp [m]

theorem witness_EngineOperationsComplete :
    (let s := atWork;
      let t := T s;
      let m := t.mops.headD (cop 0 0);
      let o := t.cops.headD (cop 0 0);
      (mayRun s t m ∧ arrayGives s t m ∧ mayRun s t o) ∧
      s.task? t.uid = some t ∧ (t.mops.find? fun x => x.id == m.id) = some m ∧
      m.instr = .macz Act.none 31 0 ∧ m.out = none ∧ o.out = none ∧ t.det = false ∧ m.act.sem = none ∧ m.act.bar = none ∧ m.act.fut = none ∧
      (t.cops.find? fun x => x.id == o.id) = some o ∧ o.instr = .cpy Act.none 1 2 3 ∧
      o.vals = [0x20000, 0x30000, 4] ∧ o.act.sem = none ∧ o.act.bar = none ∧ o.act.fut = none ∧
      (let h := s.landAll (s.coreOf t);
       (∀ i, i < 4 → h.place (o.accessor t h) (0x30000 + i) false = .here (.mem (0x30000 + i)) ∧
        h.place (o.accessor t h) (0x20000 + i) true = .here (.mem (0x20000 + i)) ∧ h.locPoison (.mem (0x30000 + i)) = false) ∧
       (∀ c ∈ h.cpyBytes t 0x20000 0x30000 4, c.free = false) ∧
       ∀ i, i < 4 → ∀ p ∈ h.past, p.slot = slotAt (.mem (0x30000 + i)) → p.seq ≤ o.readAt)) ∧
    (let s := { vBase with pxw := [lane] };
      ((s.pxw.filter fun p => p.die == 0)[0]?) = some lane ∧ leNat (s.readLocs lane.order) < lane.need.toNat) ∧
    (∀ last ∈ [false, true], let p := { lane with last := last };
      let s := { vBase with pxw := [p], mem := vBase.mem.setField 0x20000 4 1 };
      ((s.pxw.filter fun p => p.die == 0)[0]?) = some p ∧ p.need.toNat ≤ leNat (s.readLocs p.order) ∧
      (∀ q ∈ s.pxw, q.group = p.group → q.lane < p.lane → q.need = p.need → q.pixel.map (·.1) ≠ p.pixel.map (·.1)) ∧
      ∀ q ∈ s.pxw.filter (fun q => !(q.group == p.group && q.lane == p.lane)),
        q.group = p.group → q.order = p.order → q.need ≠ p.need) :=
  ⟨⟨⟨mayRun_of ⟨(atWork.blockOf (T atWork)).getD .init, by decide +kernel⟩ (by decide +kernel) (by decide +kernel),
     arrayGives_of (by decide +kernel) ⟨31, 0, by decide +kernel⟩,
     mayRun_of ⟨(atWork.blockOf (T atWork)).getD .init, by decide +kernel⟩ (by decide +kernel) (by decide +kernel)⟩,
    by decide +kernel⟩, by decide +kernel⟩

/-- A package whose slot 5 maps queue 6, with a ring of 16 packets at 0x30000, of which one is pending; the packet's
first bytes. -/
def queueOf (pkt : List Byte) : State :=
  let s := { base 0 with byder := up.byder, coreMap := oneCore.coreMap };
  { s with
    mem := s.mem.writeBytes 0x30000 pkt,
    slots := [{ slot := 5, qid := 6, part := 0, ring := 0x30000, log2 := 4, wr := 1, rd := 0, holding := false, pkt := [], err := false, image := 0 }] }
def slot5 (s : State) : HwSlot := (s.hwSlot 5).getD ⟨0, 0, 0, 0, 0, 0, 0, false, [], false, 0⟩
def headOf (s : State) : List Byte := match s.head (slot5 s) with | .packet _ b => b | _ => []
/-- A queue held by its head. -/
def heldAt (s : State) : State := { s with slots := s.slots.map fun x => { x with holding := true, pkt := headOf s } }
/-- A state whose second GiB of virtual addresses begins with a storage page. -/
def awayAt (s : State) : State :=
  { s with mem := ((s.mem.setField 0x3008 8 0x4000).setField 0x4000 8 0x5000).setField 0x5000 8 0xE }
/-- The address of a ring entry that cannot be read. -/
def faultAt (h : Head) : Option Nat := match h with | .fault va => some va | _ => none
/-- `atHead` for the packet of `queueOf`. -/
def atHeadOk (s : State) : Bool :=
  (s.hwSlot 5).isSome && (match s.head (slot5 s) with | .packet va _ => va == 0x30000 | _ => false) && s.dispatching && s.nextSlot == some 5
/-- QCOUNT 7, the partition's slots 0 to 0x3FFF, and the descriptor of queue 6 at 0x20180. -/
def mappable : State :=
  let s := (((base 0).setMfield 0x0000 0 64 0x20000).setMfield 0x0008 0 21 7).setMfield 0x13010 16 15 0x4000;
  { s with byder := up.byder, mem := (s.mem.setField 0x20180 8 0x30000).setField 0x20188 1 4 }

theorem witness_UserQueuesWork :
    (let s := queueOf (natLe 1 9);
      atHeadOk s = true ∧ packetGood (headOf s) = false) ∧
    (let s := queueOf (natLe 1 1);
      atHeadOk s = true ∧ packetGood (headOf s) = true ∧ fieldOf (headOf s) 0 1 = 1) ∧
    (let s := queueOf (natLe 1 3);
      atHeadOk s = true ∧ packetGood (headOf s) = true ∧ fieldOf (headOf s) 0 1 = 3) ∧
    (let s := queueOf (natLe 1 2);
      atHeadOk s = true ∧ packetGood (headOf s) = true ∧ fieldOf (headOf s) 0 1 = 2) ∧
    (let s := queueOf (natLe 1 4);
      atHeadOk s = true ∧ packetGood (headOf s) = true ∧ fieldOf (headOf s) 0 1 = 4) ∧
    (let s := heldAt (queueOf (natLe 1 2));
      (slot5 s).holding = true ∧ s.hwSlot 5 = some (slot5 s) ∧ (slot5 s).image = s.activeImage 0 ∧ fieldOf (slot5 s).pkt 0 1 = 2) ∧
    (let s := heldAt (queueOf (natLe 1 4));
      (slot5 s).holding = true ∧ s.hwSlot 5 = some (slot5 s) ∧ (slot5 s).image = s.activeImage 0 ∧ fieldOf (slot5 s).pkt 0 1 = 4 ∧
      (∀ l ∈ s.launches, l.queue ≠ some 6) ∧ fieldOf (slot5 s).pkt 40 8 = 0) ∧
    (let s := { heldAt (queueOf (natLe 1 4)) with launches := [{ Launch.init with queue := some 6 }] };
      fieldOf (slot5 s).pkt 0 1 = 4 ∧ ∃ l ∈ s.launches, l.queue = some 6) ∧
    (let s := heldAt (queueOf (natLe 1 4 ++ natLe 39 0 ++ natLe 8 0x20000));
      fieldOf (slot5 s).pkt 40 8 = 0x20000 ∧
      (s.setHwSlot { slot5 s with rd := 1, holding := false }).devPa 0 0x20000 true = some 0x20000) ∧
    (let s := { queueOf [] with poison := [0x1800] };
      s.hwSlot 5 = some (slot5 s) ∧ faultAt (s.head (slot5 s)) = some 0x30000 ∧ s.dispatching = true) := by decide +kernel

/-- The same for the notifies and commands of UserQueuesWork. -/
theorem witness_NotifiesAndCommands :
    (let s := { mappable with slots := (queueOf []).slots };
      let x := slot5 s;
      s.mgmtOpen = true ∧ s.hwSlot 5 = some x ∧ (0x0000001100000006 : Dword).toNat % 2 ^ 20 = x.qid ∧ x.qid < s.qcount ∧
      2 ^ x.log2 < x.dist ((0x0000001100000006 : Dword).toNat / 2 ^ 32) ∧
      x.dist ((0x0000001000000006 : Dword).toNat / 2 ^ 32) ≤ 2 ^ x.log2 ∧ x.dist x.wr.toNat < x.dist 16) ∧
    (mappable.qcount ≤ 7 ∧ (0x0000000100100006 : Dword).toNat / 2 ^ 20 % 2 ^ 12 ≠ 0) ∧
    (let s := { mappable with slots := (queueOf []).slots };
      let x := slot5 s;
      s.hwSlot 5 = some x ∧ x.qid ≠ 5 ∧ s.devAway 0 (s.descVa 5) 64 true = none) ∧
    (let s := awayAt (mappable.setMfield 0x0000 0 64 0x40000000);
      (s.devAway 0 (s.descVa 6) 64 true).isSome = true ∧
      (s.wakeIdle.setMreg 0x0010 0x64005).commandAway 0x64005 = (s.devAway 0 (s.descVa 6) 64 true).map (0, ·)) ∧
    ((mappable.setMfield 0x18 0 1 1).mfield 0x18 0 1 = 1 ∧ mappable.mfield 0x18 0 1 = 0 ∧
      (mappable.wakeIdle.setMreg 0x0010 0x64005).commandAway 0x64005 = none ∧
      (mappable.wakeIdle.setMreg 0x0010 0x68005).commandAway 0x68005 = none) ∧
    (let s := mappable;
      s.mgmtOpen = true ∧ s.hwSlot 5 = none ∧ s.devAway 0 (s.descVa 6) 64 true = none ∧ s.partOfSlot 5 = some 0 ∧ (0x0000000100000006 : Dword).toNat % 2 ^ 20 < s.qcount ∧
      (0x0000000100000006 : Dword).toNat / 2 ^ 20 % 2 ^ 12 = 0 ∧
      (let c := (s.wakeIdle.setMreg 0x0010 (BitVec.ofNat 64 (0x64005 % 2 ^ 36))).setMfield 0x18 0 1 0;
        0x64005 / 2 ^ 14 % 4 = 1 ∧ 0x64005 % 2 ^ 14 = 5 ∧ 0x64005 / 2 ^ 16 % 2 ^ 20 = 6 ∧ (c.mapCheck 5 6).isOk = true ∧
        (c.mapCheck 5 7).isOk = false) ∧
      0x68005 / 2 ^ 14 % 4 = 2) := by decide +kernel

/-- A package with the identity tables of partition 0 and two queue pairs, 2 privileged on port 0 and 3 not; the table's
entry 1 is partition 0's memory from 0x20000 to 0x30FFF, entry 2 the notify window, entry 3 the staging window, entry 4 the
management window, entry 5 the first page of the second GiB. -/
def served : State :=
  let region := fun (base len kind : Nat) => natLe 8 base ++ natLe 8 len ++ natLe 2 0 ++ natLe 1 7 ++ natLe 1 0 ++ natLe 12 kind;
  let desc := natLe 40 0 ++ natLe 8 0x21000 ++ natLe 4 0x10000 ++ natLe 2 1 ++ natLe 74 7;
  let s := { base 0 with byder := up.byder, rgnTable := true };
  { s with
    regions := [⟨1, region 0x20000 0x11000 0⟩, ⟨2, region 0 0x20000 1⟩, ⟨3, region 0 0x4000000 3⟩, ⟨4, region 0 0x10000 2⟩,
      ⟨5, region 0x40000000 0x10000 0⟩],
    qps := [{ qpn := 2, port := 0, priv := true, desc := desc, spsn := 0, rpsn := 0, ringPut := 0, retries := 6, rateCuts := 0, err := false, held := [], due := none },
            { qpn := 3, port := 0, priv := false, desc := desc, spsn := 0, rpsn := 0, ringPut := 0, retries := 7, rateCuts := 0, err := false, held := [], due := none }],
    nextQpn := 4, connected := [0] }
def qp2 : Qp := (served.qp? 2).getD ⟨0, 0, false, [], 0, 0, 0, 0, 0, false, [], none⟩
def qp3 : Qp := (served.qp? 3).getD ⟨0, 0, false, [], 0, 0, 0, 0, 0, false, [], none⟩

/-- The last byte of the region and the first one past it, a range that is not mapped, the last notify, the last byte of the
staging window, a SEND of 4032 bytes and one of 4033. Which way the free choice of log 33 falls is not to be shown: one
of the two cases holds. -/
theorem witness_HostRequestsAreServed :
    let s := served;
    let c := fun (q : Qp) (n i : Nat) => (s.ecn q n).holdRegion i;
    (s.qp? 2 = some qp2 ∧ s.qpOpen qp2 = true ∧ s.qp? 3 = some qp3 ∧ s.qpOpen qp3 = true ∧ s.memOpen = true ∧ qp3.held = [] ∧
      { qp3 with held := [{ req := .send [], entry := none }] }.held ≠ [] ∧ qp3.reads < 16 ∧
      16 ≤ ({ qp3 with held := List.replicate 16 { req := .read 0 0 0, entry := none } } : Qp).reads) ∧
    (s.target qp3 0x10000 0x30FFF 1 true = some (.memory 0) ∧ s.target qp3 0x10000 0x31000 1 true = none ∧
      ((c qp3 1 1).rdmaLocs 0 0x30FFF 1 true).isOk = true ∧ s.target qp3 0x10000 0x30FFF 1 false = some (.memory 0) ∧
      ((c qp3 0 1).rdmaLocs 0 0x30FFF 1 false).isOk = true) ∧
    ((c qp3 1 1).rdmaLocs 0 0x40000000 1 true = .error (.nak 2)) ∧
    (let s := awayAt served;
      s.target qp3 0x50000 0x4000FFFF 1 true = some (.memory 0) ∧
      ((s.ecn qp3 1).holdRegion 5).rdmaLocs 0 0x4000FFFF 1 true = .error (.away 0x4000FFFF 0x5000 0xE)) ∧
    (let s := { served with poison := [0x1000] };
      ((s.ecn qp3 0).holdRegion 1).rdmaLocs 0 0x20000 1 false = .error (.nak 3)) ∧
    (let s := awayAt served;
      s.target qp3 0x50000 0x4000FFFF 1 false = some (.memory 0) ∧
      ((s.ecn qp3 0).holdRegion 5).rdmaLocs 0 0x4000FFFF 1 false = .error (.away 0x4000FFFF 0x5000 0xE)) ∧
    (s.target qp3 0x10000 0x31000 1 false = none ∧ s.target qp2 0x40000 0x8000000100002010 8 false = some (.management 0x2010) ∧
      (c qp2 0 4).regServed 0x2010 = true ∧ ({ served with byder := { served.byder with mode := .dawn } } : State).memOpen = false) ∧
    (s.target qp3 0x20000 (2 ^ 63 + 8 * 16383) 8 true = some (.notify 16383)) ∧
    (s.target qp2 0x30000 0x8000000203FFFFFF 1 true = some (.staging 0x3FFFFFF)) ∧
    (s.target qp2 0x40000 0x8000000100002010 8 true = some (.management 0x2010) ∧ 0x2010 % 8 = 0 ∧
      (c qp2 8 4).regServed 0x2010 = true ∧ goes ((c qp2 8 4).regWrite 2 0x2010 0x20) = true) ∧
    ((List.replicate 4033 (0 : Byte)).length > 4032 ∧ (List.replicate 4032 (0 : Byte)).length ≤ 4032 ∧
      ¬ fieldOf qp3.desc 52 2 ≤ qp3.ringPut ∧
      (let va := (fieldOf qp3.desc 40 8 + 4096 * (qp3.ringPut % Nat.max 1 (fieldOf qp3.desc 52 2))) % 2 ^ 64;
        let key := BitVec.ofNat 32 (fieldOf qp3.desc 48 4);
        va = 0x21000 ∧ s.target qp3 key va 4096 true = some (.memory 0) ∧
          ((c qp3 4032 (key.toNat / 2 ^ 16)).rdmaLocs 0 va 4096 true).isOk = true)) ∧
    (let q := { qp3 with ringPut := 1 };
      fieldOf q.desc 52 2 ≤ q.ringPut) ∧
    (qp2.retries < fieldOf qp2.desc 54 1 ∧ ¬ qp3.retries < fieldOf qp3.desc 54 1) := by decide +kernel
theorem witness_sendChoice : Config.choice served.fresh 8000002 = true ∨ Config.choice served.fresh 8000002 = false := by
  cases Config.choice served.fresh 8000002 <;> simp

/-- A package whose CREATE descriptor stands at 0x80 with the port, flags and queue pair number of the arguments. -/
def withDesc (port flags qpn : Nat) : State :=
  { served with
    mem := served.mem.writeBytes 0x80 (natLe 1 port ++ natLe 1 flags ++ natLe 50 0 ++ natLe 2 1 ++ natLe 10 7 ++ natLe 4 qpn),
    mgmt := (0x4000, 0x80) :: served.mgmt }
def descOf (s : State) : List Byte := (s.wakeIdle.qpDesc 0 128).getD []
/-- Port 0 with `n` queue pairs. -/
def crowded (n : Nat) : State := { withDesc 0 0 9 with qps := List.replicate n { qp3 with qpn := 100 } }

theorem witness_QueuePairsAreMade :
    (served.mgmtOpen = true ∧ served.hostRole 0 = true ∧ 0 ∈ served.connected ∧ served.hostRole 12 = true ∧ 12 ∉ served.connected) ∧
    (let d := natLe 1 12 ++ natLe 51 0 ++ natLe 2 1 ++ natLe 74 7;
      served.qpDescOk d = true ∧ fieldOf d 0 1 = 12 ∧ (served.qps.filter fun q => q.port == 12).length < 4096 ∧
      served.qpDescOk [] = false) ∧
    (let s := { withDesc 0 0 9 with poison := [6] };
      s.wakeIdle.qpDesc 0 128 = none ∧ s.wakeIdle.qpDesc 64 4 = none) ∧
    (let s := withDesc 1 0 9;
      s.mgmtOpen = true ∧ s.wakeIdle.qpDesc 0 128 = some (descOf s) ∧ s.wakeIdle.qpDescOk (descOf s) = false) ∧
    (let s := withDesc 0 1 9;
      s.wakeIdle.qpDesc 0 128 = some (descOf s) ∧ s.wakeIdle.qpDescOk (descOf s) = true ∧ fieldOf (descOf s) 0 1 = 0 ∧
      (s.qps.filter fun q => q.port == 0).length < 4096 ∧ fieldOf (descOf s) 1 1 % 2 = 1 ∧
      (∀ q ∈ s.qps, q.qpn = 3 → q.priv = false) ∧ ∃ q ∈ s.qps, q.qpn = 2 ∧ q.priv = true) ∧
    (let s := crowded 4096;
      s.wakeIdle.qpDesc 0 128 = some (descOf s) ∧ s.wakeIdle.qpDescOk (descOf s) = true ∧ fieldOf (descOf s) 1 1 % 2 = 0 ∧
      4096 ≤ (s.qps.filter fun q => q.port == 0).length) ∧
    (let s := crowded 4095;
      (s.qps.filter fun q => q.port == 0).length < 4096) ∧
    (let s := withDesc 0 0 3;
      s.wakeIdle.qpDesc 64 4 = some (natLe 4 3) ∧ (s.qps.find? fun q => q.qpn == 3) = some qp3) ∧
    (let s := withDesc 0 0 9;
      s.wakeIdle.qpDesc 64 4 = some (natLe 4 9) ∧ ∀ q ∈ s.qps, q.qpn ≠ 9) ∧
    (served.mgmtOpen = true ∧ served.rgnTable = true) := by decide +kernel

/-- An announcement of 4097 bytes from rank 1, a peer; and the package that has heard it, its pulls having failed `n`
times. -/
def msg : FlaoriMsg := { src := 1, tag := 5, seq := 0, member := 0, peer := 0, kind := .bc, len := 4097, crc := 0, poison := [], bad := none }
def peered : State :=
  let s := { base 0 with byder := up.byder };
  { (s.setMfield 0x4028 0 13 2).setMfield 0x4020 5 43 0x2000 with mem := (s.mem.write (0x40000 + 32 + 23) 1).write (0x40000 + 32 + 22) 1 }
def heard (n : Nat) : State :=
  { peered with flaori := [{ msg := msg, ord := 0, pos := 0, data := [], got := [0], fails := n, fault := none }] }

theorem witness_MessagesAndLinks :
    (peered.flaoriOn = true ∧ msg.src ≠ peered.rank ∧ peered.peerUp msg.src = true ∧ msg.seq = peered.flaoriNext msg.src msg.tag.toNat ∧
      { msg with seq := 1 }.seq ≠ peered.flaoriNext msg.src msg.tag.toNat ∧ peered.tasks.all (fun t => t.cops.isEmpty) = true ∧
      (heard 0).peerWaits 1 = true ∧ peered.peerWaits 1 = false) ∧
    (∀ n ∈ [7, 6], ∃ x ∈ (heard n).flaori, (heard n).chunkOf 1 5 0 4096 = some x ∧ (n = 6 → x.fails < 7) ∧ (n = 7 → 7 ≤ x.fails) ∧
      (List.replicate 1 (0 : Byte)).length = Nat.min 4096 (x.msg.len - 4096)) ∧
    (let s := peered.setMfield (0x3600 + 0x20 * 15 + 0x18) 0 1 1;
      s.mfield (0x3600 + 0x20 * 15 + 0x18) 0 1 = 1) ∧
    (peered.byder.mode ≠ .off ∧ peered.byder.power ≠ .off ∧ peered.byder.mode ≠ .dawn ∧ peered.byder.power ≠ .sleep ∧ (peered.mreg 0x4038).getLsbD (16 + 15) = false) := by decide +kernel

/-- A package with a frame at 0x50000, whose record at 0x60000 says `st`; a page read into it, a reclaim of it. -/
def framed (st : Nat) : State :=
  let s := { base 0 with byder := up.byder };
  let s := ((s.setMfield 0x400 16 32 5).setMfield 0x408 0 24 1).setMfield 0x410 5 43 0x3000;
  { s with mem := s.mem.setField 0x60000 1 st }
def readIn : SsdRead := { id := 3, part := 0, pte := 0x3000, entry := 0x7, frame := some 0, va := 0x20000, launch := 1, core := 0 }
def reclaimed : Reclaim := { seq := 0, id := 4, part := 0, frame := 0, pte := 0x3000, entry := 7, writing := true }

/-- The read of a page whose first logical block does not hold its own address. -/
def misplaced : State := { framed 1 with reads := [readIn], ssdPi := [((framed 1).ssdBase 7, Config.guard64 [], 1)] }
theorem guard_fails : ({ misplaced with reads := [] } : State).guardOk 7 = false := by
  unfold State.guardOk
  rw [List.all_eq_false]
  refine ⟨((framed 1).ssdBase 7, 0), by decide +kernel, ?_⟩
  rw [show ({ misplaced with reads := [] } : State).ssdPi.find? (fun x => x.1 == (framed 1).ssdBase 7) =
    some ((framed 1).ssdBase 7, Config.guard64 [], 1) from List.find?_cons_of_pos (by simp)]
  have h : (({ misplaced with reads := [] } : State).pt3 7 ||
    (1 : Nat) == (({ misplaced with reads := [] } : State).entryLba 7 + 0) % 2 ^ 48) = false := by decide +kernel
  simp only [State.protection, h, Bool.and_false]
  simp

theorem witness_StorageEventsComplete :
    (let s := { framed 1 with reads := [readIn] };
      s.mgmtOpen = true ∧ (s.reads.find? fun x => x.id == 3) = some readIn ∧ readIn.frame = some 0 ∧ s.mem.wf = true ∧ s.ssd.wf = true ∧
      (let c := { s with reads := [] };
        c.guardOk 7 = true ∧ (((c.fillFrame 0x50000 7).setFrame 0 0 2 0 0x3000 7).mem.field 0x3000 8 ≠ 7 + 32))) ∧
    (let s := { framed 1 with mem := (framed 1).mem.setField 0x3000 8 39, reads := [] };
      s.mem.field 0x3000 8 = 7 + 32 ∧ ((s.fillFrame 0x50000 7).setFrame 0 0 2 0 0x3000 7).mem.field 0x3000 8 = 7 + 32) ∧
    ({ misplaced with reads := [] } : State).guardOk 7 = false ∧
    (let s := { framed 1 with reclaims := [reclaimed], admins := [(7, 5)] };
      (∀ r ∈ s.reads, r.id ≠ 4) ∧ (s.reclaims.find? fun x => x.id == 4) = some reclaimed ∧ (∀ r ∈ s.reclaims, r.id ≠ 5) ∧
      (7, 5) ∈ s.admins ∧ ∀ x ∈ s.admins, x.2 = 5 → x.1 = 7) ∧
    (let s := { framed 2 with reclaims := [reclaimed] };
      s.mgmtOpen = true ∧ (∃ r ∈ s.reclaims, r.part = (0 : BitVec 3).toNat) ∧
      (s.reclaims.find? fun r => r.part == (0 : BitVec 3).toNat) = some reclaimed ∧ reclaimed.writing = true) ∧
    (∀ flags ∈ [0, 1, 2], let s := { framed 2 with mem := (framed 2).mem.setField 0x60001 1 flags };
      let r := { reclaimed with writing := false };
      s.storesInto (s.frameAddr r.part r.frame) = false ∧ s.opsOver r = false ∧
      (s.mem.read (s.frameRec r.part r.frame + 1)).toNat = flags ∧ s.bound 0 7 = false ∧ s.ssdUp (entrySsd 7) = false ∧
      ((s.setMfield 0x1008 32 1 1).setMfield 0x1000 8 3 0).bound 0 7 = true) ∧
    (let c := fun (n : Nat) (a : Dword) => (framed n).wakeIdle.setMreg 0x428 (BitVec.ofNat 64 (a.toNat / 65536 % 2 ^ 32 * 65536));
      (∀ r ∈ (framed 1).reclaims, r.part ≠ 0) ∧ (c 1 0x60000).frameOf 0x60000 = none ∧
      (c 1 0x5FFFF).frameOf 0x50000 = some (0, 0) ∧ (c 1 0x50000).frameState 0 0 ≠ 2 ∧
      (c 2 0x50000).frameOf 0x50000 = some (0, 0) ∧ (c 2 0x50000).frameState 0 0 = 2 ∧
      (c 2 0x50000).mem.field ((c 2 0x50000).mem.field ((c 2 0x50000).frameRec 0 0 + 8) 8) 8 ≠
        (c 2 0x50000).mem.field ((c 2 0x50000).frameRec 0 0 + 16) 8 % 16 + 16 + 0x50000) ∧
    (let s := { framed 2 with mem := ((framed 2).mem.setField 0x60008 8 0x3008).setField 0x3008 8 0x50010 };
      s.mem.field (s.mem.field (s.frameRec 0 0 + 8) 8) 8 = s.mem.field (s.frameRec 0 0 + 16) 8 % 16 + 16 + 0x50000) ∧
    (up.mgmtOpen = true ∧ (up.setMfield 0x118 0 1 1).mfield 0x118 0 1 = 1 ∧ up.mfield 0x118 0 1 = 0) ∧
    (let s := { up with mem := up.mem.setField 0x1FBFFFFFC0 1 2 };
      (s.setMfield 0x1790 0 1 1).mfield 0x1790 0 1 = 1 ∧ s.mfield 0x1790 0 1 = 0 ∧
      fieldOf (s.physBytes 0x1FBFFFFFC0 64) 0 1 ∉ [0, 1, 4, 5] ∧ fieldOf (s.physBytes 0x1FBFFFFF80 64) 0 1 ∈ [0, 1, 4, 5]) ∧
    ((up.setMfield 0x1700 0 2 3).ssdUp (7 : BitVec 3).toNat = true ∧ up.ssdUp 7 = false ∧ State.reset.mgmtOpen = false) :=
  ⟨by decide +kernel, by decide +kernel, guard_fails, by decide +kernel⟩

/-- Die 3's slice register with `n` slices retired. -/
def retiredSlices (mask : Nat) : State := up.setMfield (0x3400 + 0x40 * 3) 16 16 mask

theorem witness_MemoryMaintenance :
    (let s := up.setMfield 0x188 0 16 1;
      s.mfield 0x188 0 16 ≠ 0 ∧ Channel.dieNo (.hbm 3 63) < 4 ∧ Channel.hbm 3 63 ∉ s.selfRefresh) ∧
    (up.byder.power ≠ .sleep) ∧
    (physDie false (32 * 0xFDFFFFFF) = some (0, 0x1FBFFFFFE0, true) ∧ inShadow (32 * 0xFDFFFFFF) = false ∧
      up.scrubAt 0xFDFFFFFF = some (0, true, some 0xFDFFFFFF) ∧ up.mgmtOpen = true ∧
      (channelOf false (32 * 0xFDFFFFFF)).isSome = true ∧ up.mfield 0x3230 0 16 ≠ 0) ∧
    (let s := { up with byder := { up.byder with cacheMode := true } };
      (s.scrubAt 0).map (fun x => (x.1, x.2.1)) = some (0, true)) ∧
    (up.siteDie (.dram 0) = some 0 ∧ up.siteDie (.l2 0) = some 0 ∧ (up.homeSlice 0).isSome = true ∧
      (let s := { base 0 with blocks := (base 0).blocks.map fun b => { b with st := .evicted } };
        s.task? 0 = some (T s) ∧ s.siteDie (.taskState 0) = some 0 ∧ (s.blockOf (T s)).any (fun b => b.st == .resident) = false)) ∧
    ((base 0).siteDie (.scratch 0 8191) = some 0 ∧ (base 0).siteDie (.scratch 0 8192) = none ∧ oneCore.siteDie (.l1 0 5) = some 0 ∧
      oneCore.siteDie (.slot 0 63) = some 0 ∧ oneCore.siteDie (.slot 0 64) = none ∧ (base 0).siteDie (.taskState 0) = some 0 ∧
      (base 0).task? 0 = some (T (base 0)) ∧ ((base 0).blockOf (T (base 0))).any (fun b => b.st == .resident) = true) ∧
    (let c := fun (m : Nat) => (retiredSlices m).wakeIdle.setMfield (0x3400 + 0x40 * 3) 0 4 15;
      ((c 0x8000).retiredMask 3).getLsbD 15 = true ∧
      ((c 0x000F).retiredMask 3).getLsbD 15 = false ∧ 4 ≤ (c 0x000F).retiredCount 3 ∧
      ((c 0x0007).retiredMask 3).getLsbD 15 = false ∧ (c 0x0007).retiredCount 3 < 4 ∧
      (retiredSlices 0x0007).buckets.length = 4 ∧ (nth (retiredSlices 0x0007).buckets 3 []).length = 64) ∧
    (up.mgmtOpen = true ∧ up.byder.mode = .normal ∧ (up.setMfield (0x3408 + 0x40 * 3) 0 16 9).mfield (0x3408 + 0x40 * 3) 0 16 ≠ 0) := by
  decide +kernel

/-- A slice below its threshold, and at it. -/
theorem witness_AutoRetire :
    let s := up.setMfield 0x3408 0 16 1;
    s.mfield (sliceCe 0 0).1 (sliceCe 0 0).2 16 < s.mfield 0x3408 0 16 ∧ (s.retiredMask 0).getLsbD 0 = false ∧
    (s.countSlice 0 0 1).mfield (sliceCe 0 0).1 (sliceCe 0 0).2 16 = 1 ∧ s.retiredCount 0 < 4 ∧
    physDie false 0 = some (0, 0, true) ∧ physDie true 0 = none := by decide +kernel

/-- A running ring of one layer of two tiles, passed twice, with the tap of core 0 at the last passage or past it. -/
def ringAt (seq tile : Nat) : State :=
  { oneCore.setMfield 0x2000 0 2 0 with
    ring := { Ring.init with layers := [{ src := 0x30000, tiles := 2, fmt := 4, dwell := 2 }], loaded := true },
    cores := [(0, { CoreSt.init with tap := some { start := 0, seq := seq, tile := tile } })] }
/-- A manifest of one entry at 0x20000 with DWELL `d`, and its registers. -/
def manifest (d : Nat) : State :=
  let s := (up.setMfield 0x2010 5 43 0x1000).setMfield 0x2018 0 17 1;
  { s with mem := s.mem.writeBytes 0x20000 (natLe 8 0x30000 ++ natLe 4 2 ++ natLe 1 4 ++ natLe 19 d) }

theorem witness_RingAndPartitionCommands :
    (let s := ringAt 1 1;
      s.mgmtOpen = true ∧ s.ring.layers[s.ring.layer]? = some { src := 0x30000, tiles := 2, fmt := 4, dwell := 2 } ∧ s.ring.loaded = true ∧ s.ringSpeed ≠ 3 ∧
      (s.tapOf 0).seq < 2 ∧ (∀ t ∈ s.tasks, ∀ o ∈ t.mops, o.board = none) ∧ s.ringOwes = false) ∧
    (let b : Board := { layer := 0, first := 30, count := 2, minLap := 0, base := 0, bitmap := [true, false], fails := [0, 0] };
      let o := { cop 3 0 with board := some b };
      o.board = some b ∧ b.first ≤ 31 ∧ 31 - b.first < b.count ∧ nth b.bitmap (31 - b.first) true = false ∧ b.minLap ≤ 0) ∧
    (let c := (manifest 1).wakeIdle;
      (manifest 1).mgmtOpen = true ∧ c.mfield 0x2018 0 17 = 1 ∧ (c.loadCheck 0x20000 1).isOk = true) ∧
    ((manifest 0).wakeIdle.loadCheck 0x20000 1).isOk = false ∧
    ({ up with blocks := [{ Block.init with launch := 1 }], launches := [{ Launch.init with num := 1 }] }.wakeIdle.applyError 0).isSome = true ∧
    oneCore.wakeIdle.applyError 0 = none ∧ oneCore.wakeIdle.applyError 7 = none ∧
    (up.byderOpen = true ∧ (up.setMfield 0x8E0 1 1 1).mfield 0x8E0 1 1 = 1 ∧ up.mfield 0x8E0 1 1 = 0) := by decide +kernel

/-- An environment of a start that meets nothing, and an image without code whose header names its length and digest. -/
def calm : BootEnv := { cores := soundCores, cacheMode := false, ssds := 0, links := 0, fail := none }
def image : List Byte :=
  natLe 4 0x4D495848 ++ natLe 4 7 ++ natLe 8 0 ++ sha256 [] ++ natLe 464 0
/-- An image is accepted exactly as the two free values say (log 13): its key is a root key and its signature checks. -/
theorem witness_imageAccepted (h : Config.keyHash 0 = Config.rootKey (rootKind .dev)) (p : Config.pssOk 0 (image.take 48) (image.drop 48 |>.take 384) = true) :
    imageError .dev 7 image = none := by
  have key : leNat (image.drop 432 |>.take 80) = 0 := by decide +kernel
  have whole : imageWhole image = true := by decide +kernel
  have sum : (sha256 (image.drop 512) != (image.drop 16 |>.take 32)) = false := by decide +kernel
  have ver : ¬ imageVersion image < 7 := by decide +kernel
  simp only [imageError, key, whole, h, p, sum, ver]
  simp

theorem witness_ByderCommands :
    (State.reset.byder.mode = .off ∧ calm.failure (· == 1) = none ∧ calm.fail = none ∧ anyCore calm.cores = true ∧
      anyCore [] = false ∧ { calm with fail := some (2, 4) }.failure (· == 2) = some (2, 4) ∧ calm.failure (fun n => decide (2 ≤ n) && decide (n ≤ 4)) = none ∧
      3 ≤ ({ State.reset.byder with starts := 3 }).starts ∧ State.reset.byder.starts < 3 ∧
      imageError (State.reset.byder.nextSec.getD State.reset.byder.sec) State.reset.byder.floor State.reset.byder.flash = some 1) ∧
    (1 ≤ (1 : BitVec 8).toNat ∧ (1 : BitVec 8).toNat = 1) ∧
    (let s := { State.reset with byder := { Byder.init with mode := .dawn } };
      s.byder.mode = .dawn ∧ imageError s.byder.sec s.byder.floor s.byder.staged ≠ none) ∧
    (up.mgmtOpen = true ∧ imageError up.byder.sec up.byder.floor up.byder.staged ≠ none ∧ up.byder.nextSec = none) ∧
    (let s := { served with byder := { served.byder with sec := .dev } };
      s.byder.mode ≠ .off ∧ s.byder.power ≠ .off ∧ s.privQp 2 = true ∧ (s.measurement (5 : BitVec 8).toNat).isSome = true ∧
      s.byder.sec ≠ .blank ∧ s.measurement (6 : BitVec 8).toNat = none) := by decide +kernel

/-- A package in another power state. -/
def powered (p : Power) : State := { up with byder := { up.byder with power := p } }

theorem witness_PowerAndRegisterWrites :
    ((powered .idle).byderOpen = true ∧ (powered .idle).byder.power = .idle ∧ (powered .idle).packetReady = false) ∧
    (up.byderOpen = true ∧ up.byder.power ≠ .idle ∧ up.byder.power ≠ .nap ∧ up.byder.power ≠ .sleep) ∧
    ((powered .nap).byderOpen = true ∧ (powered .nap).byder.power = .nap) ∧
    ((powered .sleep).byderOpen = true ∧ (powered .sleep).byder.power = .sleep) ∧
    (up.byder.power = .active ∧ up.byder.mode = .normal ∧ (∀ b ∈ up.blocks, b.st ≠ .resident) ∧ up.nextSlot = none) ∧
    (let s := queueOf (natLe 1 1);
      ∀ p ∈ [Power.idle, .nap], { s with byder := { s.byder with power := p } }.packetReady = true) ∧
    (∀ off ∈ [0x0000, 0x0008, 0x0108, 0x0110, 0x0140, 0x0188, 0x0418, 0x2008, 0x2010, 0x2018, 0x4000, 0x4020], up.fieldsLocked off = false) ∧
    (∀ off ∈ [0x0400, 0x0408, 0x0410], up.fieldsLocked off = false) ∧
    ((queueOf []).fieldsLocked 0 = true ∧ (queueOf []).fieldsLocked 8 = true ∧
      ∀ off ∈ [0x0400, 0x0408, 0x0410, 0x0418], ({ framed 2 with
        mem := ((framed 2).mem.setField 0x60008 8 0x3008).setField 0x3008 8 0x50010 } : State).fieldsLocked off = true) ∧
    (let s := queueOf (natLe 1 1);
      ({ s with byder := { s.byder with power := .idle } } : State).packetReady = true) ∧
    ((1 : Dword).toNat % 8 = 1 ∧ (4 : Dword).toNat % 8 = 4) := by decide +kernel

/-! ## Single steps -/

/-- The task in focus after an instruction. -/
def after (i : Instr) (s : State) : Task :=
  match exec i s with
  | .next t => T t
  | _ => Task.init
/-- A scalar stream that holds `x` in s1 and `y` in s2, and s3 after the instruction. -/
def s3 (i : Instr) (x y : Word) : Word := ((after i (withReg (withReg (base 0) .s 1 x) .s 2 y)).st .s).reg 3

/-- R137: sums and products wrap, and a count is taken modulo 32. -/
theorem test_scalar_wraps :
    s3 (.add 3 1 2) 0xFFFFFFFF 2 = 1 ∧ s3 (.sub 3 1 2) 0 1 = 0xFFFFFFFF ∧ s3 (.mul 3 1 2) 0x10001 0x10001 = 0x20001 ∧
    s3 (.shl 3 1 2) 1 33 = 2 ∧ s3 (.shr 3 1 2) 0x80000000 31 = 1 ∧ s3 (.sra 3 1 2) 0x80000000 31 = 0xFFFFFFFF ∧
    s3 (.mulhI32 3 1 2) 0xFFFFFFFF 2 = 0xFFFFFFFF ∧ s3 (.mulhB32 3 1 2) 0xFFFFFFFF 2 = 1 := by decide +kernel
/-- R137, R138: quotients go to zero, remainders take the dividend's sign; the corners. -/
theorem test_scalar_divides :
    s3 (.divI32 3 1 2) (-7) 2 = -3 ∧ s3 (.remI32 3 1 2) (-7) 2 = -1 ∧ s3 (.divI32 3 1 2) 0x80000000 (-1) = 0x80000000 ∧
    s3 (.remI32 3 1 2) 0x80000000 (-1) = 0 ∧ s3 (.divI32 3 1 2) 5 0 = 0xFFFFFFFF ∧ s3 (.remB32 3 1 2) 5 0 = 5 ∧
    s3 (.divB32 3 1 2) (-7) 2 = 0x7FFFFFFC := by decide +kernel
/-- R137: signed and unsigned orders differ at the sign; leading zeros and ones. -/
theorem test_scalar_orders :
    s3 (.slt 3 1 2) (-1) 0 = 1 ∧ s3 (.sltb 3 1 2) (-1) 0 = 0 ∧ s3 (.minI32 3 1 2) (-1) 0 = -1 ∧ s3 (.minB32 3 1 2) (-1) 0 = 0 ∧
    s3 (.maxI32 3 1 2) (-1) 0 = 0 ∧ s3 (.maxB32 3 1 2) (-1) 0 = -1 ∧ s3 (.clz 3 1) 0 0 = 32 ∧ s3 (.popc 3 1) 0xF0F 0 = 8 := by
  decide +kernel
/-- The two instructions of 18's example build the address 0x2_0600; an ADDI adds the sign-extended immediate. -/
theorem test_scalar_immediates :
    s3 (.lui 3 0x10) 0 0 = 0x20000 ∧ s3 (.ori 3 1 0x600) 0x20000 0 = 0x20600 ∧ s3 (.addi 3 1 (-1)) 0 0 = 0xFFFFFFFF ∧
    s3 (.lui 3 0x91A2) 0 0 = 0x12344000 := by decide +kernel
/-- R143: LOOPN with the count 1 decrements it and goes on; with 2 it branches. -/
theorem test_loopn :
    (let r := fun (n : Word) => (after (.loopn 1 (-6)) (withReg (base 0) .s 1 n)).st .s;
      (r 1).reg 1 = 0 ∧ (r 1).pc = ((T (base 0)).st .s).pc + 4 ∧ (r 2).reg 1 = 1 ∧ (r 2).pc = ((T (base 0)).st .s).pc - 24) := by
  decide +kernel

/-- R97, R99: a drained global store is seen on its own core and not yet at its home; a release at .block leaves it there,
one at .pkg or the path's own work brings it home. -/
theorem test_outbound_path :
    (let v := fun (s : State) => ((s.loadBytes (T s) .s [.mem 0x20000]).map (·.toNat), (s.mem.read 0x20000).toNat);
      let go := fun (i : Instr) (s : State) => match exec i s with | .next t => t | _ => s;
      let drain := go (.storeQueueDrain (T stored).uid .s);
      v stored = ([7], 0) ∧ v (drain stored) = ([7], 0) ∧ v (go (.fenceRel .block) stored) = ([7], 0) ∧
      v (go (.fenceRel .pkg) stored) = ([7], 7) ∧ v ((drain stored).landAll 0) = ([7], 7) ∧
      ((drain stored).seenByte 1 (.mem 0x20000)).toNat = 0) := by decide +kernel

/-- R144: a byte 0x80, sign-extended and zero-extended. -/
theorem test_load_extends :
    (let s := withPair { base 0 with mem := (base 0).mem.setField 0x20003 1 0x80 } .s 2 0x20000;
      ((after (.ldI8 3 2 3) s).st .s).reg 3 = 0xFFFFFF80 ∧ ((after (.ldB8 3 2 3) s).st .s).reg 3 = 0x80) := by decide +kernel

/-- 07's example: an if and else in 96 lanes, p1 true in lanes 0 to 39. -/
theorem test_mask_example :
    (let s := onTask (withReg (withReg (withReg vBase .v 28 (-1)) .v 29 (-1)) .v 30 (-1)) fun t => t.setPred 1 (2 ^ 40 - 1);
      let a := (after (.mif 20 1) s).st .v;
      let e := fun (st : StreamSt) => onTask vBase fun t => t.setSt .v st;
      let b := (after (.melse 20) (e a)).st .v;
      let c := (after (.mjoin 20) (e b)).st .v;
      [a.reg 28, a.reg 29, a.reg 30, a.reg 20, a.reg 21, a.reg 22] = [-1, 0xFF, 0, -1, -1, -1] ∧
      [b.reg 28, b.reg 29, b.reg 30, b.reg 20] = [0, 0xFFFFFF00, 0xFFFFFFFF, -1] ∧
      [c.reg 28, c.reg 29, c.reg 30, c.reg 20] = [-1, -1, -1, -1]) := by decide +kernel

/-- All 96 lanes active, and the given vector registers. -/
def vecs (l : List (Nat × VReg)) : State :=
  onTask (withReg (withReg (withReg vBase .v 28 (-1)) .v 29 (-1)) .v 30 (-1)) fun t =>
    { t with nv := 48, nrows := 48, vregs := l.foldl (fun r x => r.set x.1 x.2) t.vregs }
/-- The vector register that a word leaves. -/
def vAfter (i : Instr) (n : Nat) (s : State) : VReg := (after i s).vreg n

/-- 02's example of tags, steps 1 to 5 and 8. -/
theorem test_tags_example :
    vAfter (.vmovi { word3 with d := 0, a := 0, b := 0, imm := 0x3F800000 }) 0 (vecs []) = .uniform 0x3F800000 ∧
    vAfter (.viota { word3 with d := 1, a := 0, b := 0, mod7 := 0x18, imm := 4 }) 1 (vecs []) = .affine 0 4 ∧
    vAfter (.iadd { word3 with d := 2, a := 1, b := 0 }) 2 (vecs [(0, .uniform 0x3F800000), (1, .affine 0 4)]) = .affine 0x3F800000 4 ∧
    (vAfter (.imul { word3 with d := 3, a := 1, b := 1 }) 3 (vecs [(1, .affine 0 4)])).tag = 3 ∧
    (vAfter (.imul { word3 with d := 3, a := 1, b := 1 }) 3 (vecs [(1, .affine 0 4)])).lane 3 = 144 ∧
    vAfter (.fadd { word3 with d := 17, a := 0, b := 0 }) 17 (vecs [(0, .uniform 0x3F800000)]) = .uniform 0x40000000 ∧
    vAfter (.fadd { word3 with d := 19, a := 3, b := 0 }) 19 (vecs [(0, .uniform 0x3F800000)]) = .uniform 0x3F800000 := by
  decide +kernel

/-- 08's example: a tree and a sequence of the same lanes under a mask of four. -/
theorem test_redux_scan_example :
    (let ls := 0x3F800000 :: List.replicate 3 0x33800000 ++ List.replicate 92 0;
      let s := withReg (withReg (withReg (vecs [(2, .general 0 ls)]) .v 28 15) .v 29 0) .v 30 0;
      let r := after (.redux { word3 with d := 9, a := 2, b := 0, mod7 := 0x40 }) s;
      let c := after (.scan { word3 with d := 10, a := 2, b := 0, mod7 := 0x40 }) s;
      (r.vreg 9).tag = 3 ∧ (upto 5).map (r.vreg 9).lane = [0x3F800001, 0x3F800001, 0x3F800001, 0x3F800001, 0] ∧
      (upto 5).map (c.vreg 10).lane = [0x3F800000, 0x3F800000, 0x3F800000, 0x3F800000, 0] ∧
      (r.st .v).fpflags = 16 ∧ (c.st .v).fpflags = 16) := by decide +kernel

/-- 03's example of stochastic rounding: 1.0625 to e4m3 in lanes 0 and 1. -/
theorem test_stochastic_example :
    (let t := after (.cvt { word3 with d := 9, a := 1, b := 0, mod7 := 0x25 }) (vecs [(1, .uniform 0x3F880000)]);
      (t.vreg 9).lane 0 = 0x38 ∧ (t.vreg 9).lane 1 = 0x39 ∧ (t.st .v).srcnt = 1) := by decide +kernel

/-- 03's example of one MXFP4 block: its scale and its first three elements. -/
theorem test_mx_example :
    (let ls := [0x40E00000, 0xBE99999A, 0x3E800000] ++ List.replicate 93 (0 : Word);
      let t := after (.mxq { word3 with d := 8, a := 1, b := 9, mod7 := 0x40 }) (vecs [(1, .general 0 ls)]);
      (t.vreg 9).lane 0 = 127 ∧ (upto 4).map (t.vreg 8).lane = [7, 9, 0, 0]) := by decide +kernel

/-- 09's example: a load in an affine and in a uniform register. -/
theorem test_vld_example :
    (let m := fun (s : State) => { s with mem := (s.mem.setField 0x20040 4 0xAB).setField 0x201BC 4 0xCD };
      let w := { word3 with d := 8, a := 6, b := 4, mod7 := 0x44, imm := 0x40 };
      let a := vAfter (.vld w) 8 (m (withPair (vecs [(6, .affine 0 1)]) .v 2 0x20000));
      let b := vAfter (.vld w) 8 (m (withPair (vecs [(6, .uniform 0)]) .v 2 0x20000));
      a.tag = 3 ∧ a.lane 0 = 0xAB ∧ a.lane 1 = 0 ∧ a.lane 95 = 0xCD ∧ b = .uniform 0xAB) := by decide +kernel

/-- 23's example: die 2 retires slice 5. -/
theorem test_retire_example :
    (match exec (.retire 2 5) up with
      | .next t => [5, 21, 37, 53].map fun b => nth (nth t.buckets 2 []) b 99
      | _ => []) = [0, 1, 2, 3] := by decide +kernel

/-- R400 rests on SHA-256: the digest of "abc" that FIPS 180-4 publishes. -/
theorem test_sha256_abc : sha256 [0x61, 0x62, 0x63] = natBe 32 0xba7816bf8f01cfea414140de5dae2223b00361a396177a9cb410ff61f20015ad := by
  decide +kernel

/-- 03's example of R67 and R68: a group of two bf16 products of 2^-24 beside 1.0. -/
theorem test_mma_example :
    (let v := Fmt.bf16.decode;
      let xs := [v 0x3980, v 0x3980] ++ List.replicate 30 (v 0);
      (dotInto 16 xs xs 0x3F800000).bits) = 0x3F800001 := by decide +kernel

/-- 04's example at s = 4: the digits of 1/3, the pair sums of TRI, and the value 1 - 2^-28 as MWST rounds it. -/
theorem test_sliced_example :
    (let v := Fmt.f64.decode;
      let a := sliceGroup 4 (v 0x3FD5555555555555 :: List.replicate 31 (v 0));
      let b := sliceGroup 4 (v 0x4008000000000000 :: List.replicate 31 (v 0));
      let sum := pairSum true 4 [[43], [-43], [43], [-43]] [[48], [0], [0], [0]];
      let w := wfaGroup 4 0 (-32768) sum 3;
      a.1 = 0 ∧ b.1 = 3 ∧ nth a.2.1 0 [] = [43, -43, 43, -43] ∧ nth b.2.1 0 [] = [48, 0, 0, 0] ∧
      (roundDy .f64 .rne false false ⟨w.w, w.ew - 168⟩).bits = 0x3FEFFFFFFE000000) := by decide +kernel

/-- 15's worked check: a ray on the edge of triangle 31. -/
theorem test_triangle_example :
    triOut [0x42780000, 0x41C00000, 0, 0, 0, 0, 0x3F800000, 0x7F800000]
      [0x42700000, 0x41200000, 0x41B80000, 0x42980000, 0x41200000, 0x41B80000, 0x42700000, 0x41D00000, 0x41B80000, 31, 0] =
    [0x41B80000, 0x3E000000, 0x3F600000, 31] := by decide +kernel

end Sys2Proof.Tests
end

namespace Sys2Proof.Machine
set_option Elab.async false

/-! ### Little-endian values in memory (R4) -/

theorem natLe_length : ∀ n v, (natLe n v).length = n
  | 0, _ => rfl
  | n + 1, v => congrArg (· + 1) (natLe_length n (v / 256))

/-- Byte `i` of a value holds its bits [8i + 7 : 8i]. -/
theorem natLe_getElem? : ∀ {n i : Nat} (v : Nat), i < n → (natLe n v)[i]? = some (BitVec.ofNat 8 (v / 256 ^ i))
  | _ + 1, 0, v, _ => by simp [natLe]
  | _ + 1, i + 1, v, h => by
    rw [natLe, List.getElem?_cons_succ, natLe_getElem? (v / 256) (by omega), Nat.div_div_eq_div_mul, Nat.pow_succ']

theorem nth_natLe {n i : Nat} (v : Nat) (h : i < n) : nth (natLe n v) i 0 = BitVec.ofNat 8 (v / 256 ^ i) := by
  rw [nth, natLe_getElem? v h, Option.getD_some]

theorem leNat_natLe : ∀ {n v : Nat}, v < 256 ^ n → leNat (natLe n v) = v
  | 0, v, h => by simp at h; simp [natLe, leNat, h]
  | n + 1, v, h => by
    have hv : v / 256 < 256 ^ n := Nat.div_lt_of_lt_mul (by rwa [Nat.pow_succ'] at h)
    rw [natLe, leNat, leNat_natLe hv, BitVec.toNat_ofNat]
    omega

/-- A read after a write of bytes: the byte written there, or what was there. -/
theorem Memory.read_writeBytes : ∀ (bs : List Byte) (a : Nat) {m : Memory}, m.wf = true → ∀ x,
    (m.writeBytes a bs).read x = if a ≤ x ∧ x < a + bs.length then nth bs (x - a) 0 else m.read x
  | [], a, m, _, x => by rw [Memory.writeBytes, if_neg (by simp)]
  | b :: bs, a, m, h, x => by
    rw [Memory.writeBytes, Memory.read_writeBytes bs (a + 1) (Memory.wf_write h a b), Memory.read_write h]
    by_cases hx : x = a
    · subst hx; simp [nth]
    · by_cases hl : a ≤ x
      · obtain ⟨k, rfl⟩ : ∃ k, x = a + 1 + k := ⟨x - (a + 1), by omega⟩
        simp [nth, show a + 1 + k - a = k + 1 by omega, show a ≤ a + 1 + k by omega, show a + 1 + k ≠ a by omega,
          show a + 1 + k < a + (bs.length + 1) ↔ a + 1 + k < a + 1 + bs.length by omega]
      · simp [hx, hl, show ¬ a + 1 ≤ x by omega]

/-- The bytes just written read back as a list. -/
theorem Memory.bytes_writeBytes {m : Memory} (h : m.wf = true) (a : Nat) (bs : List Byte) :
    (m.writeBytes a bs).bytes a bs.length = bs := by
  refine List.ext_getElem (by simp [Memory.bytes, idxFrom_eq_range']) fun i hi hb => ?_
  simp [Memory.bytes, idxFrom_eq_range', Memory.read_writeBytes _ _ h, nth, hb]

theorem Memory.field_setField {m : Memory} (h : m.wf = true) (a : Nat) {n v : Nat} (hv : v < 256 ^ n) :
    (m.setField a n v).field a n = v := by
  have e := Memory.bytes_writeBytes h a (natLe n v)
  rw [natLe_length] at e
  rw [Memory.field, Memory.setField, e, leNat_natLe hv]

theorem Memory.read_setField {m : Memory} (h : m.wf = true) (a v : Nat) {n i : Nat} (hi : i < n) :
    ((m.setField a n v).read (a + i)).toNat = v / 256 ^ i % 256 := by
  rw [Memory.setField, Memory.read_writeBytes _ _ h, natLe_length, if_pos (by omega), Nat.add_sub_cancel_left,
    nth_natLe v hi, BitVec.toNat_ofNat]

/-- Settles O11, from what one written byte reads as, by induction on the bytes written. -/
theorem memoryReadsBackWrites : Obligations.MemoryReadsBackWrites := fun _ h =>
  ⟨Memory.read_write h, fun a bs => Memory.read_writeBytes bs a h, fun a _ _ => Memory.field_setField h a,
    fun a _ v _ => Memory.read_setField h a v⟩

end Sys2Proof.Machine

/-! ## Canonical bytes as a property that operations keep -/

namespace Sys2Proof.Machine
set_option Elab.async false

/-- Package memory and every block's scratch are in canonical form: `bytesOk` as a proposition of its own, so that what
keeps it is stated operation by operation and composed in the order of the operations. -/
def State.Ok (s : State) : Prop := s.bytesOk = true

/-- A block whose scratch is in canonical form. -/
def Block.Ok (b : Block) : Prop := b.scratch.wf = true

section
variable {α β : Type} {s u : State}

theorem State.ok_iff : s.Ok ↔ s.mem.wf = true ∧ ∀ b ∈ s.blocks, b.Ok := by
  simp [State.Ok, State.bytesOk, Block.Ok]

theorem State.Ok.mem (h : s.Ok) : s.mem.wf = true := State.bytesOk_mem h
theorem State.Ok.block (h : s.Ok) {b : Block} (hb : b ∈ s.blocks) : b.Ok := (State.ok_iff.1 h).2 b hb
theorem State.Ok.block? (h : s.Ok) {n : Nat} {b : Block} (hb : s.block? n = some b) : b.Ok := State.bytesOk_block h hb

/-- Anything beside memory and blocks may change. -/
theorem State.Ok.frame (h : s.Ok) (hm : u.mem = s.mem := by rfl) (hb : u.blocks = s.blocks := by rfl) : u.Ok := by
  rw [State.ok_iff] at h ⊢
  rwa [hm, hb]

/-- Memory may be replaced by any other in canonical form. -/
theorem State.Ok.setMem (h : s.Ok) {m : Memory} (hm : m.wf = true) : State.Ok { s with mem := m } :=
  State.bytesOk_setMem h s.poison hm

/-- Blocks may be replaced by any others with canonical scratch. -/
theorem State.Ok.setBlocks (h : s.Ok) {bs : List Block} (hb : ∀ b ∈ bs, b.Ok) : State.Ok { s with blocks := bs } :=
  State.ok_iff.2 ⟨h.mem, hb⟩

/-- Leaving blocks out keeps the form. -/
theorem State.Ok.filterBlocks (h : s.Ok) {p : Block → Bool} : State.Ok { s with blocks := s.blocks.filter p } :=
  h.setBlocks fun _ hb => h.block (List.mem_of_mem_filter hb)

/-- Changing each block in anything but its scratch keeps the form. -/
theorem State.Ok.mapBlocks (h : s.Ok) {f : Block → Block} (hf : ∀ b, (f b).scratch = b.scratch) :
    State.Ok { s with blocks := s.blocks.map f } :=
  h.setBlocks fun b hb => by
    obtain ⟨x, hx, rfl⟩ := List.mem_map.1 hb
    exact (congrArg Memory.wf (hf x)).trans (h.block hx)

theorem State.Ok.setBlock (h : s.Ok) {b : Block} (hb : b.Ok) : (s.setBlock b).Ok := State.bytesOk_setBlock h hb

/-- A fold keeps the form when each of its steps does. -/
theorem State.Ok.foldl (h : s.Ok) {f : State → α → State} {l : List α} (hf : ∀ {u}, u.Ok → ∀ x, (f u x).Ok) :
    (l.foldl f s).Ok :=
  State.foldl_ok f (fun _ x hu => hf hu x) l s h

/-- A fold that carries something beside the state keeps the form when each of its steps does. -/
theorem State.Ok.foldl_fst {f : State × β → α → State × β} {l : List α} {p : State × β} (h : p.1.Ok)
    (hf : ∀ {p}, p.1.Ok → ∀ x, (f p x).1.Ok) : (l.foldl f p).1.Ok :=
  l.foldlRecOn (motive := fun p => p.1.Ok) f h fun _ hp x _ => hf hp x

/-- Either of two states. -/
theorem State.Ok.ite {c : Prop} [Decidable c] (hs : s.Ok) (hu : u.Ok) : (if c then s else u).Ok := by
  split
  · exact hs
  · exact hu

theorem State.Ok.ite_fst {c : Prop} [Decidable c] {p q : State × β} (hp : p.1.Ok) (hq : q.1.Ok) :
    (if c then p else q).1.Ok := by
  split
  · exact hp
  · exact hq

theorem State.Ok.onlyCores (h : s.Ok) (hc : s.OnlyCores u) : u.Ok := by
  obtain ⟨_, _, _, rfl⟩ := hc
  exact h

/-- What an operation of a core's path leaves is in canonical form. -/
theorem State.Ok.carries (h : s.Ok) {ls : List Loc} (hc : s.Carries u ls) : u.Ok := hc.ok h

end

/-! ### Results of an instruction's meaning -/

section
variable {α β : Type} {P : α → Prop} {Q : β → Prop} {x : Except Stop α}

/-- Where an instruction's meaning answers, the answer satisfies `P`. -/
def Yields (P : α → Prop) (x : Except Stop α) : Prop := ∀ a, x = .ok a → P a

theorem Yields.ok {a : α} (h : P a) : Yields P (.ok a) := fun _ e => by cases e; exact h
theorem Yields.error {e : Stop} : Yields P (.error e) := fun _ h => nomatch h
theorem Yields.bind (hx : Yields P x) {f : α → Except Stop β} (hf : ∀ a, P a → Yields Q (f a)) : Yields Q (x >>= f) := by
  cases x with
  | ok a => exact hf a (hx a rfl)
  | error e => exact Yields.error
/-- A check yields nothing that matters. -/
theorem Yields.after {f : α → Except Stop β} (hf : ∀ a, Yields Q (f a)) : Yields Q (x >>= f) :=
  Yields.bind (P := fun _ => True) (fun _ _ => trivial) fun a _ => hf a
theorem Yields.ite {c : Prop} [Decidable c] {y : Except Stop α} (hx : Yields P x) (hy : Yields P y) :
    Yields P (if c then x else y) := by
  split
  · exact hx
  · exact hy

end
end Sys2Proof.Machine

namespace Sys2Proof.Machine
set_option Elab.async false

/-! ### Bytes at their home, the path of a core, translations and traps -/

section
variable {s : State} {t : Task} {k : StreamId}

theorem State.Ok.setTask (h : s.Ok) : (s.setTask t).Ok := h
theorem State.Ok.setSpan (h : s.Ok) {p : Span} : (s.setSpan p).Ok := h
theorem State.Ok.setLaunch (h : s.Ok) {l : Launch} : (s.setLaunch l).Ok := h
theorem State.Ok.setMreg (h : s.Ok) {o : Nat} {v : Dword} : (s.setMreg o v).Ok := h
theorem State.Ok.setMfield (h : s.Ok) {o lo n v : Nat} : (s.setMfield o lo n v).Ok := h
theorem State.Ok.countMreg (h : s.Ok) {o lo : Nat} : (s.countMreg o lo).Ok := h
theorem State.Ok.retire (h : s.Ok) {st : StreamSt} {n : Nat} : (s.retire t k st n).Ok := h
theorem State.Ok.branch (h : s.Ok) {st : StreamSt} {pc : Dword} : (s.branch t k st pc).Ok := h
theorem State.Ok.stall (h : s.Ok) {w : Wait} : (s.stall t k w).Ok := h
theorem State.Ok.push (h : s.Ok) {pc : Dword} {e : Eff} : (s.push t k pc e).1.Ok := h

theorem State.Ok.setCore (h : s.Ok) {c : Nat} {x : CoreSt} : (s.setCore c x).Ok := h.onlyCores (s.setCore_only c x)
theorem State.Ok.l1Drop (h : s.Ok) {c : Nat} {ls : List Loc} : (s.l1Drop c ls).Ok := h.onlyCores (s.l1Drop_only c ls)
theorem State.Ok.l1Clear (h : s.Ok) {c : Nat} : (s.l1Clear c).Ok := h.onlyCores (s.l1Clear_only c)
theorem State.Ok.l1Fill (h : s.Ok) {c : Nat} {ls : List Loc} : (s.l1Fill c ls).Ok := h.onlyCores (s.l1Fill_only c ls)
theorem State.Ok.tlbFillRange (h : s.Ok) {a : Accessor} {va n : Nat} : (s.tlbFillRange a va n).Ok :=
  h.onlyCores (s.tlbFillRange_only a va n)
theorem State.Ok.acquire (h : s.Ok) {sc : Scope} : (s.acquire t sc).Ok := h.onlyCores (s.acquire_only t sc)
theorem State.Ok.joinArray (h : s.Ok) {c : Nat} {e : Nat × Option Nat} : (s.joinArray c e).Ok :=
  h.onlyCores (s.joinArray_only c e)
theorem State.Ok.noteArray (h : s.Ok) {c : Nat} : (s.noteArray c).Ok := h.onlyCores (s.noteArray_only c)

theorem State.Ok.setPoison (h : s.Ok) {g : Loc} : (s.setPoison g).Ok := State.setPoison_ok h g
theorem State.Ok.applyBytes (h : s.Ok) {bs : List (Loc × Byte)} : (s.applyBytes bs).Ok := State.applyBytes_ok h bs
theorem State.Ok.applyStore (h : s.Ok) {c : Nat} {bs : List (Loc × Byte)} : (s.applyStore c bs).Ok :=
  State.applyStore_ok h c bs
theorem State.Ok.keepPast (h : s.Ok) {bs : List (Loc × Byte)} : (s.keepPast bs).Ok := State.keepPast_ok h bs

theorem State.Ok.landIf (h : s.Ok) {c : Nat} {p : List (Loc × Byte) → Bool} : (s.landIf c p).Ok :=
  h.carries (s.landIf_carries c p)
theorem State.Ok.landAll (h : s.Ok) {c : Nat} : (s.landAll c).Ok := h.landIf
theorem State.Ok.landAt (h : s.Ok) {c : Nat} {ls : List Loc} : (s.landAt c ls).Ok := h.landIf
theorem State.Ok.landOne (h : s.Ok) {c : Nat} : (s.landOne c).Ok := h.carries (s.landOne_carries c)
theorem State.Ok.landEvery (h : s.Ok) : s.landEvery.Ok := h.foldl fun h _ => h.landAll
theorem State.Ok.leaveQueue (h : s.Ok) {c b : Nat} {us : List (List (Loc × Byte))} : (s.leaveQueue c b us).Ok :=
  h.carries (s.leaveQueue_carries c b us)
theorem State.Ok.leaveAll (h : s.Ok) {c b : Nat} {q : List QEntry} : (s.leaveAll c b q).Ok := h.foldl fun h _ => h.leaveQueue

theorem State.Ok.mapTask (h : s.Ok) {u : Nat} {f : Task → Task} : (s.mapTask u f).Ok := by
  unfold State.mapTask
  split <;> exact h

theorem State.Ok.drainOne (h : s.Ok) : (s.drainOne t k).1.Ok := by
  unfold State.drainOne
  dsimp only
  split
  · exact h
  · exact h.leaveQueue

theorem State.Ok.drain (h : s.Ok) : (s.drain t k).1.Ok := by
  unfold State.drain
  split
  · exact h
  · exact h.leaveAll

theorem State.Ok.perform (h : s.Ok) {sc : Scope} : (s.perform t k sc).1.Ok := by
  unfold State.perform
  dsimp only
  split
  · exact h.drain
  · exact h.drain.landAll

theorem State.Ok.release (h : s.Ok) {sc : Scope} : Yields (·.1.Ok) (s.release t k sc) := .ite .error (.ok h.perform)

theorem State.Ok.writeLanes (h : s.Ok) {c : Nat} {rs : List (Option LaneRec)} : (s.writeLanes t c rs).Ok :=
  .ite h.landAt.applyBytes.l1Drop h

theorem State.Ok.takeTrap (h : s.Ok) {pc : Dword} {d : Bool} {also : BitVec 4} {r : TrapReq} :
    (s.takeTrap t k pc d also r).Ok := by
  unfold State.takeTrap
  split
  · exact h
  · split
    · exact h
    · dsimp only
      split
      · exact h.writeLanes
      · exact h

theorem State.Ok.enterPending (h : s.Ok) : (s.enterPending t).Ok := by
  unfold State.enterPending
  split
  · exact h
  · exact h.takeTrap

theorem State.Ok.afterLoad (h : s.Ok) {va n : Nat} {ls : List Loc} : (s.afterLoad t k va n ls).1.Ok := by
  unfold State.afterLoad
  dsimp only
  refine .ite_fst h.tlbFillRange ?_
  have hd {c : Prop} [Decidable c] :
      (if c then (s.tlbFillRange (t.accessor s) va n, t) else (s.tlbFillRange (t.accessor s) va n).drain t k).1.Ok :=
    .ite_fst h.tlbFillRange h.tlbFillRange.drain
  exact .ite_fst hd hd.l1Fill

theorem State.Ok.buffer (h : s.Ok) {e : Eff} {r : Bool} {n : Nat} : (s.buffer t k e r n).Ok := h

theorem State.Ok.applyRmw (h : s.Ok) {c : Nat} {r : Rmw} : (s.applyRmw c r).1.Ok := h.landAt.applyBytes.l1Drop
theorem State.Ok.applyCas (h : s.Ok) {c : Nat} {r : Cas} : (s.applyCas c r).1.Ok :=
  .ite h.landAt.applyBytes.l1Drop h.landAt.l1Drop

/-! ### Storage pages -/

theorem State.Ok.engineWrite (h : s.Ok) {pa n v : Nat} : (s.engineWrite pa n v).Ok := .ite h.applyBytes h
theorem State.Ok.swapEntry (h : s.Ok) {pte old new : Nat} : (s.swapEntry pte old new).1.Ok := by
  unfold State.swapEntry
  split
  · exact h.engineWrite
  · exact h
theorem State.Ok.faultRecord (h : s.Ok) {a b c d e f g i : Nat} : (s.faultRecord a b c d e f g i).Ok :=
  .ite h h.engineWrite
theorem State.Ok.setFrame (h : s.Ok) {a b c d e f : Nat} : (s.setFrame a b c d e f).Ok := h.engineWrite
theorem State.Ok.takeFrame (h : s.Ok) {a b c d : Nat} : (s.takeFrame a b c d).Ok := by
  unfold State.takeFrame
  dsimp only
  have h1 : (s.ssdIo d false).Ok := h
  split
  · exact h1.setFrame.setMfield.faultRecord
  · exact h1.setFrame.setMfield
theorem State.Ok.giveFrames (h : s.Ok) {p : Nat} : (s.giveFrames p).Ok := h.foldl fun h r => by
  dsimp only
  split
  · split
    · exact h.takeFrame
    · exact h
  · exact h
theorem State.Ok.dropFrame (h : s.Ok) {p i : Nat} : (s.dropFrame p i).Ok := h.setFrame.setMfield.giveFrames
theorem State.Ok.wakeBlocks (h : s.Ok) {pte : Nat} {e : Option Nat} : (s.wakeBlocks pte e).Ok :=
  h.mapBlocks fun b => by
    split <;> rfl
theorem State.Ok.wakePage (h : s.Ok) {pte : Nat} {e : Option Nat} : (s.wakePage pte e).Ok := h.wakeBlocks
theorem State.Ok.failRead (h : s.Ok) {a b c d e f g : Nat} : (s.failRead a b c d e f g).Ok := h.faultRecord.wakePage
theorem State.Ok.startRead (h : s.Ok) {a b c d e f : Nat} : (s.startRead a b c d e f).Ok := by
  unfold State.startRead
  split
  · exact h
  · split
    · exact h.failRead
    · split
      · exact h.failRead
      · have h1 := h.swapEntry (pte := b) (old := c) (new := c + 32)
        split
        · rename_i e
          rw [e] at h1
          exact h1
        · rename_i u e
          rw [e] at h1
          have h2 : State.Ok { u with uid := u.uid + 1 } := h1
          dsimp only
          split
          · exact h2.takeFrame
          · exact .ite h2.faultRecord h2
theorem State.Ok.pageFault (h : s.Ok) {va pte e : Nat} {op : Option Nat} : (s.pageFault t va pte e op).Ok := by
  unfold State.pageFault
  dsimp only
  split
  · exact h
  · split
    · exact h
    · exact State.Ok.startRead (h.mapBlocks fun x => by split <;> [rfl; split <;> rfl])
theorem State.Ok.blockOf (h : s.Ok) {b : Block} (hb : s.blockOf t = some b) : b.Ok := h.block? hb
theorem State.Ok.stopped (h : s.Ok) {e : Stop} : (s.stopped t k e).Ok := by
  unfold State.stopped
  split
  · refine State.Ok.takeTrap ?_
    split
    · split
      · rename_i b hb
        exact h.setBlock (h.blockOf hb : b.Ok)
      · exact h
    · exact h
  · dsimp only
    split
    · exact h.stall.joinArray
    · exact h
  · exact h.pageFault

end
end Sys2Proof.Machine

namespace Sys2Proof.Machine
set_option Elab.async false

/-! ### What an instruction or event answers -/

section
variable {s u : State}

/-- An answer that goes on, to a state with canonical bytes where `s` has them. -/
def Keeps (s : State) (o : Out State Fault Refusal) : Prop := ∃ s', o = .next s' ∧ (s.Ok → s'.Ok)

theorem Keeps.goesOn {o : Out State Fault Refusal} (h : Keeps s o) : goesOn o := h.imp fun _ h => h.1
theorem Keeps.ok_of_next {o : Out State Fault Refusal} (h : Keeps s o) (hs : s.Ok) (e : o = .next u) : u.Ok := by
  obtain ⟨v, hv, hk⟩ := h
  cases hv.symm.trans e
  exact hk hs

theorem Keeps.next (h : s.Ok → u.Ok) : Keeps s (.next u) := ⟨u, rfl, h⟩
/-- An answer from a state that the first one leads to. -/
theorem Keeps.via {o : Out State Fault Refusal} (hu : s.Ok → u.Ok) (h : Keeps u o) : Keeps s o :=
  h.imp fun _ h => ⟨h.1, h.2 ∘ hu⟩
theorem Keeps.ite {c : Prop} [Decidable c] {o p : Out State Fault Refusal} (ho : Keeps s o) (hp : Keeps s p) :
    Keeps s (if c then o else p) := by
  split
  · exact ho
  · exact hp

/-- An instruction goes on whatever its meaning, and keeps the form where its meaning does. -/
theorem issue_keeps {cls : InstrClass} {f : Task → StreamId → Except Stop State}
    (hf : ∀ t k, s.Ok → Yields State.Ok (f t k)) : Keeps s (issue cls s f) := by
  unfold issue
  split
  · exact .next id
  · split
    · exact .next id
    · split
      · exact .next id
      · split
        · exact .next fun h => h.stopped
        · split
          · exact .next fun h => hf _ _ h _ ‹_›
          · exact .next fun h => h.stopped

theorem State.Ok.wakeIdle (h : s.Ok) : s.wakeIdle.Ok := .ite h h
theorem command_keeps {f : State → Out State Fault Refusal} (hf : ∀ u, Keeps u (f u)) : Keeps s (s.command f) :=
  .ite (.via State.Ok.wakeIdle (hf _)) (.next id)

end

/-! ### Scalar instructions -/

section
variable {s : State}

theorem streamOp_keeps {cls : InstrClass} {f : StreamSt → StreamSt} : Keeps s (streamOp cls f s) :=
  issue_keeps fun _ _ h => .ok h
theorem opR_keeps {d a b : BitVec 5} {f : Word → Word → Word} : Keeps s (opR d a b f s) := streamOp_keeps
theorem opP_keeps {d a b : BitVec 4} {f : Dword → Dword → Dword} : Keeps s (opP d a b f s) := streamOp_keeps
theorem opPR_keeps {d a : BitVec 4} {b : BitVec 5} {f : Dword → Word → Dword} : Keeps s (opPR d a b f s) := streamOp_keeps
theorem opI_keeps {d a : BitVec 5} {i : BitVec 14} {f : Word → Word → Word} : Keeps s (opI d a i f s) := streamOp_keeps
theorem opC_keeps {d a i : BitVec 5} {f : Word → Nat → Word} : Keeps s (opC d a i f s) := streamOp_keeps
theorem opB_keeps {a b : BitVec 5} {o : BitVec 14} {c : Word → Word → Bool} : Keeps s (opB a b o c s) :=
  issue_keeps fun _ _ h => .ok (.ite h.branch h.retire)
theorem loadOp_keeps {a : BitVec 4} {i : BitVec 14} {n : Nat} {ro : Bool} {put : StreamSt → Nat → StreamSt} :
    Keeps s (loadOp a i n ro put s) :=
  issue_keeps fun _ _ h => .after fun _ => .ite (.ok h.tlbFillRange.retire) (.ok h.afterLoad.retire)
theorem storeOp_keeps {a : BitVec 4} {i : BitVec 14} {n : Nat} {val : StreamSt → Nat} : Keeps s (storeOp a i n val s) :=
  issue_keeps fun _ _ h => .after fun _ => .ok h.tlbFillRange
theorem atomOp_keeps {op : AtomOp} {d : BitVec 5} {a : BitVec 4} {b : BitVec 5} {ret : Bool} {scope : Scope} {wide : Bool} :
    Keeps s (atomOp op d a b ret scope wide s) :=
  issue_keeps fun _ _ h => .after fun _ => .ite (.ok h.tlbFillRange.buffer)
    (.bind h.tlbFillRange.release fun _ h => .ok h.applyRmw.acquire.retire)
theorem casOp_keeps {ret : RetTo} {a : BitVec 4} {n : Nat} {cmp new : StreamSt → Nat} {scope : Scope} :
    Keeps s (casOp ret a n cmp new scope s) :=
  issue_keeps fun _ _ h => .after fun _ => .ite (.ok h.tlbFillRange.buffer)
    (.bind h.tlbFillRange.release fun _ h => .ok h.applyCas.acquire.retire)

end

/-! ### Semaphores, barriers and slots -/

section
variable {s : State} {t : Task} {k : StreamId}

theorem State.Ok.raiseDeadlock (h : s.Ok) : (s.raiseDeadlock t).Ok := by
  unfold State.raiseDeadlock
  split
  · exact h.takeTrap
  · exact h
theorem State.Ok.testDeadlock (h : s.Ok) {u : Nat} : (s.testDeadlock u).Ok := by
  unfold State.testDeadlock
  split
  · exact .ite h.raiseDeadlock h
  · exact h
theorem State.Ok.testBar (h : s.Ok) {u i : Nat} : (s.testBar u i).Ok := by
  unfold State.testBar
  split
  · exact h
  · rename_i b hb
    dsimp only
    split
    · exact h.setBlock (b := b.setBar i _) (h.block? hb : b.Ok)
    · exact h
theorem State.Ok.arrive (h : s.Ok) {i : Nat} {n : Word} : (s.arrive t i n).Ok := by
  unfold State.arrive
  split
  · exact h
  · rename_i b hb
    exact (h.setBlock (b := b.setBar i _) (h.blockOf hb : b.Ok)).testBar
theorem State.Ok.deliverBytes (h : s.Ok) {u i n : Nat} : (s.deliverBytes u i n).Ok := by
  unfold State.deliverBytes
  split
  · exact h
  · rename_i b hb
    exact (h.setBlock (b := b.setBar i _) (h.block? hb : b.Ok)).testBar
theorem State.Ok.testSbar (h : s.Ok) {u i : Nat} : (s.testSbar u i).Ok := by
  unfold State.testSbar
  split
  · exact h
  · dsimp only
    split
    · exact h.setSpan.foldl fun h _ => State.Ok.mapTask (.ite h.acquire h)
    · exact h
theorem State.Ok.spanArrive (h : s.Ok) {i : Nat} : (s.spanArrive t i).Ok := by
  unfold State.spanArrive
  split
  · exact h
  · exact h.setSpan.testSbar
theorem arriveOp_keeps {ba : BitVec 4} {n : StreamSt → Word} {e : Word → Eff} : Keeps s (arriveOp ba n e s) :=
  issue_keeps fun _ _ h => .ite .error (.ite (.ok h.buffer) (.ok h.drain.retire.arrive))

theorem State.Ok.takeSlots (h : s.Ok) {b n : Nat} : (s.takeSlots t b n).1.Ok := h.setCore
theorem State.Ok.grantOclm (h : s.Ok) {b n : Nat} : (s.grantOclm t b n).Ok := h.takeSlots.setTask
theorem State.Ok.serveOclm (h : s.Ok) {c : Nat} {ok : Task → Bool} : (s.serveOclm c ok).Ok := by
  refine State.Ok.setCore (State.Ok.foldl_fst h fun {p} h e => ?_)
  split
  · exact .ite_fst h (.ite_fst h.grantOclm h)
  · exact h
theorem State.Ok.passSlots (h : s.Ok) {c : Nat} : (s.passSlots c).Ok := h.setCore.serveOclm
theorem State.Ok.noteSlots (h : s.Ok) {u : Nat} : (s.noteSlots u).Ok := h.mapTask
theorem State.Ok.grantRun (h : s.Ok) {c : Nat} : (s.grantRun c k).Ok := by
  unfold State.grantRun
  dsimp only
  split
  · exact h
  · split
    · exact h
    · exact h.setCore

end

/-! ### Futures, grids, work graphs and records -/

section
variable {s : State} {t : Task}

theorem State.Ok.writePa (h : s.Ok) {pa n v : Nat} : (s.writePa pa n v).Ok := h.applyBytes
theorem State.Ok.devAwait (h : s.Ok) {a b c d : Nat} {w : DevWork} : (s.devAwait a b c d w).Ok := h.startRead
theorem State.Ok.devStore (h : s.Ok) {p va n v : Nat} : (s.devStore p va n v).Ok := by
  unfold State.devStore
  split
  · exact h.devAwait
  · split
    · exact h.applyBytes
    · exact h
theorem State.Ok.resolve (h : s.Ok) {pa : Nat} {res : Word} {f : Bool} : (s.resolve pa res f).1.Ok := by
  unfold State.resolve
  dsimp only
  split
  · exact h
  · exact h.frame.writePa
theorem State.Ok.resolveVa (h : s.Ok) {p va : Nat} {res : Word} {f : Bool} : (s.resolveVa p va res f).1.Ok := by
  unfold State.resolveVa
  split
  · exact h
  · split
    · exact h.resolve
    · exact h.devAwait
    · exact h
theorem State.Ok.setGraph (h : s.Ok) {g : Graph} : (s.setGraph g).Ok := h
theorem State.Ok.dropGraph (h : s.Ok) {g : Nat} : (s.dropGraph g).Ok := h
theorem State.Ok.setNode (h : s.Ok) {n : Node} : (s.setNode n).Ok := h
theorem State.Ok.resolveGraph (h : s.Ok) {g : Graph} : (s.resolveGraph g).1.Ok := by
  unfold State.resolveGraph
  split <;> exact h.resolveVa
theorem State.Ok.graphTest (h : s.Ok) {g : Graph} : (s.graphTest g).1.Ok :=
  .ite_fst h (.ite_fst (.ite h h) (.ite_fst h.setGraph.dropGraph.resolveGraph h))
theorem State.Ok.graphShow (h : s.Ok) {g a b : Nat} : (s.graphShow g a b).1.Ok := by
  unfold State.graphShow
  split
  · exact h
  · split
    · exact h.devAwait
    · exact h.graphTest
    · exact h.writePa.graphTest
theorem State.Ok.graphCountBy (h : s.Ok) {g a b : Nat} : (s.graphCountBy g a b).1.Ok := by
  unfold State.graphCountBy
  split
  · exact h
  · exact h.setGraph.graphShow
theorem State.Ok.graphAdd (h : s.Ok) {g n : Nat} : (s.graphAdd g n).Ok := h.graphCountBy
theorem State.Ok.graphSub (h : s.Ok) {g n : Nat} : (s.graphSub g n).1.Ok := h.graphCountBy
theorem State.Ok.nodeFree (h : s.Ok) {id n : Nat} : (s.nodeFree id n).Ok := by
  unfold State.nodeFree
  split <;> exact h
theorem State.Ok.newLaunch (h : s.Ok) {p i a : Nat} {pkt : Packet} : (s.newLaunch p i pkt a).1.Ok := h
theorem State.Ok.enrol (h : s.Ok) {l : Launch} : (s.enrol l).1.Ok := by
  unfold State.enrol
  dsimp only
  split <;> exact h
theorem State.Ok.refuse (h : s.Ok) {l : Launch} {c : Nat} : (s.refuse l c).1.Ok := by
  unfold State.refuse
  dsimp only
  split
  · exact h.resolveVa.nodeFree.graphSub
  · dsimp only
    split
    · exact h.resolveVa.dropGraph.devStore
    · exact h.resolveVa
  · exact h.resolveVa
theorem State.Ok.admitGrid (h : s.Ok) {l : Launch} : (s.admitGrid l).1.Ok := by
  unfold State.admitGrid
  split
  · exact h.setLaunch.devAwait
  · have he := h.enrol (l := l)
    split
    · rename_i e; rw [e] at he; exact he
    · rename_i e; rw [e] at he; exact he.refuse
theorem State.Ok.popBatch (h : s.Ok) {n : Node} : (s.popBatch n).Ok := h
theorem State.Ok.loseBatch (h : s.Ok) {n : Node} : (s.loseBatch n).1.Ok := h.popBatch.nodeFree.graphSub
theorem State.Ok.launchBatch (h : s.Ok) {n : Node} : (s.launchBatch n).1.Ok := by
  unfold State.launchBatch
  split
  · exact h.devAwait
  · split
    · exact h.loseBatch
    · exact h.popBatch.newLaunch.setLaunch.admitGrid
theorem State.Ok.cutBatch (h : s.Ok) {n : Node} {k : Nat} : (s.cutBatch n k).1.Ok := h.setNode.graphAdd
theorem State.Ok.completeLaunch (h : s.Ok) {l : Launch} : (s.completeLaunch l).1.Ok := by
  have h1 : State.Ok { s with launches := s.launches.filter fun x => x.num != l.num } := h
  unfold State.completeLaunch
  dsimp only
  split
  · refine State.Ok.graphSub ?_
    split
    · exact h1.setGraph
    · exact h1
  · exact h1.resolveVa
theorem State.Ok.register (h : s.Ok) {r : RecRef} {va pa : Nat} : (s.register r va pa).Ok := h.frame.writePa.devStore
theorem State.Ok.nextFuture (h : s.Ok) {r : RecRef} {b : List Byte} : ∀ {f i : Nat} {flt : Bool}, (s.nextFuture r b flt f i).1.Ok
  | 0, _, _ => h
  | f + 1, i, flt => by
    unfold State.nextFuture
    refine .ite_fst h ?_
    dsimp only
    refine .ite_fst h.nextFuture ?_
    split
    · exact h.nextFuture
    · exact h
    · exact .ite_fst h.nextFuture h.register
theorem State.Ok.moveOn (h : s.Ok) {r : RecRef} : (s.moveOn r).1.Ok := by
  unfold State.moveOn
  split
  · exact h
  · exact h.devAwait
  · dsimp only
    split
    · exact h.nextFuture.writePa
    · exact h.nextFuture.writePa.devAwait
    · split
      · exact h.nextFuture.writePa.devAwait
      · split
        · exact h.nextFuture.writePa.writePa
        · exact h.nextFuture.writePa.newLaunch.writePa.admitGrid
theorem State.Ok.runRecs : ∀ {f : Nat} {rs : List RecRef} {s : State}, s.Ok → (s.runRecs f rs).Ok
  | 0, _, _, h => h
  | _ + 1, [], _, h => h
  | _ + 1, _ :: _, _, h => h.moveOn.runRecs
theorem State.Ok.heldStep (h : s.Ok) : ∀ r ∈ s.heldStep, r.1.Ok := by
  unfold State.heldStep
  simp only [Option.mem_map]
  rintro _ ⟨l, -, rfl⟩
  exact h.admitGrid
theorem State.Ok.nodeStep (h : s.Ok) : ∀ r ∈ s.nodeStep, r.1.Ok := by
  unfold State.nodeStep
  split
  · rintro _ ⟨⟩
    exact h.launchBatch
  · split
    · rintro _ ⟨⟩
      exact h.cutBatch
    · simp only [Option.mem_map]
      rintro _ ⟨n, -, rfl⟩
      exact h.cutBatch

end
end Sys2Proof.Machine

namespace Sys2Proof.Machine
set_option Elab.async false

section
variable {s : State} {t : Task} {k : StreamId}

theorem State.Ok.submitNext : ∀ {f : Nat} {s : State}, s.Ok → (s.submitNext f).Ok
  | 0, _, h => h
  | f + 1, s, h => by
    unfold State.submitNext
    split
    · rename_i u rs e
      have hu : u.Ok := by
        rcases Option.or_eq_some_iff.1 e with e | ⟨-, e⟩
        · exact h.heldStep _ e
        · exact h.nodeStep _ e
      exact hu.runRecs.submitNext
    · exact h
theorem State.Ok.settle {r : State × List RecRef} (h : r.1.Ok) : (State.settle r).Ok := h.runRecs
theorem State.Ok.settleAll {r : State × List RecRef} (h : r.1.Ok) : (State.settleAll r).Ok := h.settle.submitNext
theorem State.Ok.submit (h : s.Ok) {p i : Nat} {pkt : Packet} {a : Nat} {q g : Option Nat} {o : List Nat} :
    (s.submit p i pkt a q g o).1.Ok :=
  .ite_fst h h.newLaunch.setLaunch.admitGrid
theorem State.Ok.homeOp (h : s.Ok) {pa : Nat} : (s.homeOp t pa).Ok := h.l1Drop
theorem State.Ok.launchPkt (h : s.Ok) {b : List Byte} {va : Nat} : (s.launchPkt t b va).1.Ok := .ite_fst h.submit h
theorem State.Ok.joinRec (h : s.Ok) {va : Nat} : Yields (·.1.Ok) (s.joinRec t k va) := by
  unfold State.joinRec
  dsimp only
  split
  · exact .error
  · refine .after fun pas => ?_
    split
    · exact .ok h.writePa.homeOp.moveOn
    · exact .error
theorem State.Ok.acceptRec (h : s.Ok) {p g va pa : Nat} {r : Rec} : (s.acceptRec p g va pa r).1.Ok := by
  unfold State.acceptRec
  refine .ite_fst h ?_
  cases s.nodeAt pa with
  | some n => exact h.devStore.setNode.graphCountBy
  | none => exact h.frame.devStore.setNode.graphCountBy
theorem State.Ok.flushNode (h : s.Ok) {n : Nat} : (s.flushNode n).Ok := by
  unfold State.flushNode
  split
  · exact .ite h (State.Ok.settleAll h.cutBatch)
  · exact h

theorem resolveOp_keeps {a : BitVec 4} {b : BitVec 5} {f : Bool} : Keeps s (resolveOp a b f s) :=
  issue_keeps fun _ _ h => .after fun pa => .ite (.ok h.buffer) (.bind h.release fun p hp => by
    obtain ⟨u, v⟩ := p
    dsimp only at hp ⊢
    split
    · exact .ok hp.homeOp.acquire.takeTrap
    · exact .ok hp.takeTrap
    · rename_i e
      exact .ok (State.Ok.settle (State.Ok.retire (State.Ok.homeOp (e ▸ hp.resolve : State.Ok (_, none, _).1)))))

/-! ### Operations of the engines -/

theorem State.Ok.startOp (h : s.Ok) {o : AsyncOp} : (s.startOp t k o).Ok := h.frame.noteArray
theorem State.Ok.matrixIssue (h : s.Ok) {i : Instr} {act : Act} {foot : List Fp} {b : Nat} {m : List Nat} {c : IssueChk}
    {vals : List Nat} {fill : AsyncOp → AsyncOp} : Yields State.Ok (s.matrixIssue t k i act foot b m c vals fill) := by
  unfold State.matrixIssue
  split
  · exact .error
  · dsimp only
    split
    · exact .error
    · exact .after fun _ => .after fun _ => .ok (h.foldl fun h _ => h.tlbFillRange).startOp
theorem State.Ok.copyIssue (h : s.Ok) {i : Instr} {act : Act} {foot : List Fp} {b : Nat} {m : List Nat} {c : IssueChk}
    {vals : List Nat} {r : List Byte} : Yields State.Ok (s.copyIssue t k i act foot b m c vals r) :=
  .after fun _ => .ok h.startOp

theorem State.Ok.applyCopied (h : s.Ok) {c : Nat} {bs : List (Loc × Byte)} {p : List Loc} : (s.applyCopied c bs p).Ok :=
  (h.applyBytes.foldl fun h _ => h.setPoison).l1Drop
theorem State.Ok.putSlots (h : s.Ok) {c : Nat} {o : OpOut} : (s.putSlots c o).Ok := .ite h h.setCore

end
end Sys2Proof.Machine

namespace Sys2Proof.Machine
set_option Elab.async false

section
variable {s : State} {t : Task} {k : StreamId}

theorem State.Ok.fst_of {β : Type} {p : State × β} {b : β} (h : p.1.Ok) (e : p = (s, b)) : s.Ok := by
  subst e
  exact h

theorem State.Ok.runActs (h : s.Ok) {u : Nat} {pc : Dword} {act : ActCap} {w : Word} {cs : List Cond} {f : Option Nat}
    {seen : List Nat} : (s.runActs u k pc act w cs f seen).1.Ok := by
  unfold State.runActs
  split
  · exact h
  split
  extract_lets s1
  split
  rename_i v ovf e
  have hv : v.Ok := by split at e <;> cases e <;> exact h
  extract_lets s2
  have h2 : s2.Ok := by
    subst s2
    split
    · exact hv.deliverBytes
    · exact hv
  split
  rename_i y fc recs e
  have hy : y.Ok := by
    split at e
    · cases e
      exact h2
    split at e
    · cases e
      exact h2
    split at e <;> cases e
    · exact (h2.resolve.fst_of ‹_›).homeOp
    · exact h2.resolve.fst_of ‹_›
  exact hy.mapTask

end
end Sys2Proof.Machine

namespace Sys2Proof.Machine
set_option Elab.async false

section
variable {s : State} {t : Task} {k : StreamId}

theorem State.Ok.finishOp (h : s.Ok) {u : Nat} {o : AsyncOp} {x : OpOut} : (s.finishOp u k o x).Ok := by
  unfold State.finishOp
  split
  · exact h
  extract_lets _ _ _ _ _ _ _ _ s1 _ _ core _ s2 s3
  have h1 : s1.Ok := h.putSlots
  have h3 : s3.Ok := h1.setTask.applyCopied.foldl fun h _ => h.applyRmw
  exact .ite h1.setTask.passSlots.noteArray
    (h3.frame.runActs.passSlots.foldl fun h _ => h.testDeadlock).noteArray.settle

theorem State.Ok.landSome (h : s.Ok) {u : Nat} {o : AsyncOp} {x : OpOut} : (s.landSome u k o x).Ok := by
  unfold State.landSome
  split
  · exact h
  extract_lets _ _ _ _ _ _ _ _ _ s1 s2 s3
  have h3 : s3.Ok := h.setTask.putSlots.applyCopied.foldl fun h _ => h.applyRmw
  exact h3

/-- What becomes of an operation's outcome keeps canonical bytes: whether it completes or lands in part. -/
def FinishOk (fin : Finish) : Prop := ∀ {s u k o x}, State.Ok s → (fin s u k o x).Ok

theorem finishOk_finishOp : FinishOk State.finishOp := fun h => h.finishOp
theorem finishOk_landSome : FinishOk State.landSome := fun h => h.landSome

/-! ### Copies -/

variable {o : AsyncOp} {fin : Finish}

theorem State.Ok.clearReadErr (h : s.Ok) : (s.clearReadErr t o).Ok := by
  unfold State.clearReadErr
  split
  · exact h.setBlock (h.block? (b := ‹Block›) ‹_›)
  · exact h
theorem State.Ok.copyPage (h : s.Ok) {va p e : Nat} : (s.copyPage t o va p e).Ok := by
  unfold State.copyPage
  split
  · exact .ite h h.pageFault
  · exact h
theorem State.Ok.doneBytes (h : s.Ok) (hf : FinishOk fin) {cs : List CopyByte} : (s.doneBytes t o cs fin).Ok := by
  unfold State.doneBytes
  split
  · exact h.copyPage
  · exact hf (.ite h.clearReadErr h)
theorem State.Ok.doneOslice (h : s.Ok) (hf : FinishOk fin) {b n c : Nat} {opb : Bool} : (s.doneOslice t o b n c opb fin).Ok :=
  hf h
theorem State.Ok.doneCpyred (h : s.Ok) (hf : FinishOk fin) {op ty : Nat} : (s.doneCpyred t o op ty fin).Ok := by
  unfold State.doneCpyred
  split
  · extract_lets
    split
    · exact h.copyPage
    · exact hf (.ite h.clearReadErr h)
  · exact h
theorem State.Ok.setCop (h : s.Ok) {u : Nat} : (s.setCop u o).Ok := h.mapTask
theorem State.Ok.doneQueue (h : s.Ok) (hf : FinishOk fin) {u : Nat} : (s.doneQueue u o fin).Ok := hf h
theorem State.Ok.stepQfill (h : s.Ok) (hf : FinishOk fin) {q : Nat} : (s.stepQfill t o q fin).Ok := by
  unfold State.stepQfill
  split
  · refine .ite (h.doneQueue hf) (.ite h ?_)
    extract_lets _ _ _ _ _ _ _ _ s1 _ s2 s3
    split
    · exact h.copyPage
    · have h1 : s1.Ok := .ite h.clearReadErr h
      have h3 : s3.Ok := h1.mapTask.setCop
      exact .ite (h3.doneQueue hf) h3
  · exact h
theorem State.Ok.stepQsink (h : s.Ok) (hf : FinishOk fin) {q : Nat} : (s.stepQsink t o q fin).Ok := by
  unfold State.stepQsink
  split
  · refine .ite (h.doneQueue hf) ?_
    split
    · exact h
    extract_lets
    split
    · exact h.copyPage
    · extract_lets s1 _ _ s2 s3 s4
      have h1 : s1.Ok := .ite h.clearReadErr h
      have h4 : s4.Ok := (State.Ok.ite h1.mapTask.mapTask h1.mapTask.applyCopied).setCop
      exact .ite (h4.doneQueue hf) h4
  · exact h
theorem State.Ok.stepSpref (h : s.Ok) : (s.stepSpref t o).Ok := by
  unfold State.stepSpref
  split
  · extract_lets _ _ s1
    have h1 : s1.Ok := .ite (h.setCop.foldl fun h _ => h.startRead) h
    split
    · exact .ite h1.finishOp h1
    · exact h1
  · exact h

/-! ### Collectives -/

theorem State.Ok.takeOrd (h : s.Ok) {key : List Nat} : (s.takeOrd key).1.Ok := h
theorem State.Ok.takePlaces (h : s.Ok) {a b c d : Nat} {kind : CollKind} : (s.takePlaces a b c d kind).1.Ok :=
  State.Ok.foldl_fst h fun h _ => h.takeOrd
theorem State.Ok.collIssue (h : s.Ok) {i : Instr} {act : Act} {rec_ : List Byte} {kind : CollKind} {d a n p : Nat}
    {foot : List Fp} {m : List Nat} {bad : List (Nat × Nat)} :
    Yields State.Ok (s.collIssue t k i act rec_ kind d a n p foot m bad) := h.takePlaces.copyIssue
theorem State.Ok.takeSeq (h : s.Ok) {a b : Nat} : (s.takeSeq a b).1.Ok := h.takeOrd
theorem State.Ok.noteBad (h : s.Ok) {a b c : Nat} : (s.noteBad a b c).Ok := .ite h h
theorem State.Ok.tellMismatch (h : s.Ok) {kind : CollKind} : (s.tellMismatch o kind).Ok :=
  .ite h (h.foldl fun h _ => .ite h.noteBad (.ite h.frame h))
theorem State.Ok.spoilOp (h : s.Ok) {kind : CollKind} : (s.spoilOp t o kind).Ok := h.setCop.tellMismatch
theorem State.Ok.arriveMsg (h : s.Ok) {f : FlaoriIn} : (s.arriveMsg f).Ok := h.frame.foldl fun h _ => h.spoilOp
theorem State.Ok.announce (h : s.Ok) {kind : CollKind} : (s.announce t o kind).Ok :=
  h.foldl fun h _ => .ite h.takeSeq.arriveMsg (.ite h.frame h.frame)
theorem State.Ok.startColl (h : s.Ok) {kind : CollKind} : (s.startColl t o kind).Ok :=
  .ite h.frame.announce.setCop.spoilOp h.frame.announce.setCop
theorem State.Ok.useMsg (h : s.Ok) {f : FlaoriIn} : (s.useMsg f).Ok := h
theorem State.Ok.collFail (h : s.Ok) (hf : FinishOk fin) {sub n : Nat} {d : Option Nat} : (s.collFail t o sub d n fin).Ok :=
  hf (.ite h h)
theorem State.Ok.stepColl (h : s.Ok) (hf : FinishOk fin) {kind : CollKind} : (s.stepColl t o kind fin).Ok := by
  unfold State.stepColl
  have used {l : List (Nat × FlaoriIn)} : (l.foldl (fun s p => s.useMsg p.2) s).Ok := h.foldl fun h _ => h.useMsg
  split
  · refine .ite (.ite h h.startColl) ?_
    extract_lets
    split
    · exact used.collFail hf
    · refine .ite (used.collFail hf) ?_
      split
      · exact h
      · exact .ite h (.ite h (hf used))
  · exact h

/-! ### Tiles and the matrix unit -/

theorem State.Ok.setMop (h : s.Ok) {u : Nat} : (s.setMop u o).Ok := h.mapTask
theorem State.Ok.endBoard (h : s.Ok) {i : Nat} : (s.endBoard t o i).Ok := h.finishOp
theorem State.Ok.endRange (h : s.Ok) : (s.endRange t o).Ok := h.finishOp.mapTask
theorem State.Ok.boardPass (h : s.Ok) {lap layer i : Nat} {g : Bool} {bs : List Byte} :
    (s.boardPass t o lap layer i g bs).Ok := by
  unfold State.boardPass
  split
  · exact h
  · exact .ite h (.ite (.ite h.setCore.finishOp h.setCore.setMop) (.ite h.endBoard h.setMop))
theorem State.Ok.passTile (h : s.Ok) {c : Nat} {crc : Bool} : (s.passTile c crc).Ok := by
  unfold State.passTile
  split
  · exact h
  · refine .ite h ?_
    extract_lets _ _ _ s1 _ _ _ s2
    have h1 : s1.Ok := .ite h.frame h
    have h2 : s2.Ok := h1.setCore
    refine h2.foldl fun h _ => ?_
    split
    · refine h.foldl fun h _ => ?_
      split
      · exact h.boardPass
      · exact h
    · exact h
theorem State.Ok.ringRecord (h : s.Ok) : s.ringRecord.Ok := .ite h h.engineWrite
theorem State.Ok.startLayer (h : s.Ok) {n : Nat} : (s.startLayer n).Ok := h.frame.ringRecord
theorem State.Ok.nextLayer (h : s.Ok) : s.nextLayer.Ok := .ite h h.startLayer
theorem State.Ok.loadManifest (h : s.Ok) : s.loadManifest.Ok := by
  unfold State.loadManifest
  extract_lets
  split
  · exact h.setMfield
  · exact h.frame.startLayer.setMfield

theorem State.Ok.doneMmap (h : s.Ok) {sa sb c m n fa fb : Nat} {z : Bool} : (s.doneMmap t o sa sb c m n fa fb z).1.Ok := by
  unfold State.doneMmap
  extract_lets
  split <;> exact h
theorem State.Ok.matrixEffect (h : s.Ok) : (s.matrixEffect t o).1.Ok := by
  unfold State.matrixEffect
  split
  case h_5 => exact h.doneMmap
  all_goals exact h
theorem State.Ok.startArray (h : s.Ok) : (s.startArray t o).1.Ok :=
  .ite_fst (h.frame.foldl fun h _ => h.setCore) h
theorem State.Ok.completeMop (h : s.Ok) (hf : FinishOk fin) : (s.completeMop t o fin).Ok := by
  unfold State.completeMop
  extract_lets s1
  have h1 : s1.Ok := h.landAll
  split
  · exact hf h1
  · exact hf h1.startArray.matrixEffect.setTask
theorem State.Ok.runCop (h : s.Ok) (hf : FinishOk fin) : (s.runCop t o fin).Ok := by
  unfold State.runCop
  extract_lets s1
  have h1 : s1.Ok := h.landAll
  split
  · exact hf h1
  split
  · exact h1.doneBytes hf
  split
  · exact h1.doneOslice hf
  · exact h1.doneOslice hf
  · exact h1.doneCpyred hf
  · exact h1.stepQfill hf
  · exact h1.stepQsink hf
  · exact h1.stepSpref
  · split
    · exact h1.stepColl hf
    · exact h1

/-! ### Tasks and blocks that end, leave and return -/

variable {b : Block} {us : List Nat}

theorem State.Ok.noteFate (h : s.Ok) : (s.noteFate t).Ok := by
  unfold State.noteFate
  split
  · extract_lets s1
    have h1 : s1.Ok := .ite h.setLaunch h
    split
    · exact .ite h1.setGraph h1
    · exact h1
  · exact h
theorem State.Ok.retireBlock (h : s.Ok) : (s.retireBlock b).1.Ok := by
  unfold State.retireBlock
  extract_lets s1 s2
  have h1 : s1.Ok := h.filterBlocks
  have h2 : s2.Ok := .ite h1 h1.frame
  split
  · exact h2
  · exact .ite_fst h2.setLaunch.completeLaunch h2.setLaunch
theorem State.Ok.graphLeave (h : s.Ok) : (s.graphLeave t).1.Ok := by
  unfold State.graphLeave
  split
  · split
    · exact h.graphSub
    · exact h
  · exact h
theorem State.Ok.retireTask (h : s.Ok) : (s.retireTask t).Ok := by
  unfold State.retireTask
  extract_lets _ s1 s2 _ s3 _ s4
  have h1 : s1.Ok := (h.foldl fun h _ => h.leaveAll).landAll
  have h2 : s2.Ok := h1.noteFate
  have h3 : s3.Ok := h2
  have h4 : s4.Ok := h3.setCore.passSlots
  split
  rename_i s5 _ e
  have h5 : s5.Ok := h4.graphLeave.fst_of e
  split
  · exact h5.settleAll
  · exact .ite (h5.retireBlock.foldl fun h _ => h.testSbar).settleAll
      ((h5.foldl fun h _ => h.testBar).foldl fun h _ => h.testSbar).settleAll

end
end Sys2Proof.Machine

namespace Sys2Proof.Machine
set_option Elab.async false

section
variable {s : State} {t : Task} {k : StreamId} {b : Block} {us : List Nat}

theorem State.Ok.serveArray {c : Nat} : ∀ {f : Nat} {s : State}, s.Ok → (s.serveArray c f).Ok
  | 0, _, h => h
  | _ + 1, _, h => by
    unfold State.serveArray
    split
    · split
      · exact .ite (h.completeMop finishOk_finishOp).serveArray h
      · exact h
    · exact h
theorem State.Ok.runOps (h : s.Ok) {u : Nat} : (s.runOps u).Ok := by
  unfold State.runOps
  split
  · exact h
  extract_lets s1 s2
  have h1 : s1.Ok := h.foldl fun h _ => h.serveArray
  have h2 : s2.Ok := h1.foldl fun h _ => by
    split
    · exact .ite (h.completeMop finishOk_finishOp) h
    · exact h
  refine h2.foldl fun h _ => ?_
  split
  · exact .ite (h.runCop finishOk_finishOp) h
  · exact h
theorem State.Ok.quiesce : ∀ {f : Nat} {s : State}, s.Ok → (s.quiesce us f).Ok
  | 0, _, h => h
  | _ + 1, _, h => by
    unfold State.quiesce
    extract_lets _ s'
    have h' : s'.Ok := h.foldl fun h _ => h.runOps
    exact .ite h' h'.quiesce

/-- Blocks may be saved into any state that keeps their scratch. -/
theorem State.Ok.saveBlocks (h : s.Ok) {st : Block → Block} (hs : ∀ b, (st b).scratch = b.scratch) :
    (s.saveBlocks us st).Ok := by
  unfold State.saveBlocks
  extract_lets s1 s2 s3 _ _ s4
  have h1 : s1.Ok := h.quiesce
  have h2 : s2.Ok := h1.foldl fun h _ => by
    split
    rename_i u v _ _ _ e
    have h' : (allStreams.foldl (fun (p : State × Task) k => p.1.drain p.2 k) (u, v)).1.Ok :=
      State.Ok.foldl_fst h fun h _ => h.drain
    exact (h'.fst_of e).setTask
  have h3 : s3.Ok := h2.landEvery
  have h4 : s4.Ok := h3.mapBlocks fun b => by
    split
    · exact hs b
    · rfl
  exact h4.foldl fun h _ => h.setCore.serveOclm
/-- A block may be replaced by one with its scratch. -/
theorem State.Ok.changeBlock (h : s.Ok) {b c : Block} (hb : b.Ok) (hc : c.scratch = b.scratch := by rfl) :
    (s.setBlock c).Ok := h.setBlock ((congrArg Memory.wf hc).trans hb)
theorem State.Ok.putContext (h : s.Ok) {p : Bool} {u : Nat} : (s.putContext p u).Ok := by
  unfold State.putContext
  split
  · exact h
  · exact h.changeBlock (h.block? ‹_›)
theorem State.Ok.evict (h : s.Ok) {p : Bool} : (s.evict us p).Ok := by
  unfold State.evict
  extract_lets s1
  have h1 : s1.Ok := by
    refine State.Ok.foldl ?_ fun h _ => h.putContext
    exact h.saveBlocks fun _ => rfl
  exact h1
theorem State.Ok.leaveHeld (h : s.Ok) : ∀ r ∈ s.leaveHeld b, r.Ok := by
  unfold State.leaveHeld
  extract_lets
  split
  · simp
  split
  · exact fun _ e => Option.some.inj e ▸ h.evict
  split
  · exact fun _ e => Option.some.inj e ▸ h.mapBlocks fun b => by split <;> rfl
  · simp

theorem State.Ok.restoreClaim (h : s.Ok) {c : Nat} : (s.restoreClaim t c).Ok := .ite h h.setCore
theorem State.Ok.checkBoards (h : s.Ok) : (s.checkBoards t).Ok := h.foldl fun h _ => by
  split
  · exact .ite h h.endRange
  · exact h
theorem State.Ok.killByError (h : s.Ok) : (s.killByError t).Ok := h.mapTask.countMreg
theorem State.Ok.checkDoom (h : s.Ok) : (s.checkDoom t).Ok := .ite h.killByError h
theorem State.Ok.restoreBlock (h : s.Ok) (hb : b.Ok) {c n : Nat} : (s.restoreBlock b c n).Ok :=
  (h.changeBlock hb).l1Clear.foldl fun h _ => h.setTask.restoreClaim.noteSlots
theorem State.Ok.checkRestored (h : s.Ok) : (s.checkRestored us).Ok := h.foldl fun h _ => h.checkBoards.checkDoom

/-! ### Memory errors -/

theorem State.Ok.wakeChannel (h : s.Ok) {c : Channel} : (s.wakeChannel c).Ok := h
theorem State.Ok.hardError (h : s.Ok) {e : ErrSite} : (s.hardError e).Ok := by
  unfold State.hardError
  split
  case h_1 g =>
    cases (s.dramAt g).bind (·.2.2) with
    | none => exact h
    | some x => exact h.setPoison
  case h_2 | h_3 => exact h.setPoison
  case h_4 | h_5 => exact h.setCore
  case h_6 =>
    split
    · exact .ite h.killByError h.setTask
    · exact h
theorem State.Ok.retireSlice (h : s.Ok) {d : Nat} {x : BitVec 4} : (s.retireSlice d x).Ok := h
theorem State.Ok.countSlice (h : s.Ok) {d n : Nat} {x : BitVec 4} : (s.countSlice d x n).Ok := h
theorem State.Ok.autoRetire (h : s.Ok) {d : Nat} {x : BitVec 4} : (s.autoRetire d x).Ok := .ite h h.retireSlice

/-! ### Pages, frames and the SSDs -/

variable {r : Reclaim}

theorem State.Ok.tlbDrop (h : s.Ok) {p : Nat} {f : TlbEnt → Bool} {g : WalkEnt → Bool} : (s.tlbDrop p f g).Ok := h
theorem State.Ok.l1Forget (h : s.Ok) {a n : Nat} : (s.l1Forget a n).Ok := h
theorem State.Ok.forgetPast (h : s.Ok) {a n : Nat} : (s.forgetPast a n).Ok := h
theorem State.Ok.ssdIo (h : s.Ok) {e : Nat} {w : Bool} : (s.ssdIo e w).Ok := h
theorem State.Ok.ssdWrite (h : s.Ok) {e a : Nat} : (s.ssdWrite e a).Ok := h
theorem State.Ok.fillFrame (h : s.Ok) {a e : Nat} : (s.fillFrame a e).Ok :=
  (h.setMem (wf_moveBytes h.mem _ _ _)).frame
theorem State.Ok.endRead (h : s.Ok) {r : SsdRead} {i : Nat} {res : ReadResult} : (s.endRead r i res).Ok := by
  unfold State.endRead
  extract_lets s1 res1 _ s2 s3
  have h1 : s1.Ok := h
  have h2 : s2.Ok := h1.fillFrame.setFrame
  have h3 : s3.Ok := by
    subst s3
    split
    · exact (h1.swapEntry.fst_of ‹_›).dropFrame
    · exact h1.swapEntry.fst_of ‹_›
  clear_value res1
  cases res1 with
  | ok =>
    dsimp only
    exact h2.swapEntry.wakePage
  | _ =>
    dsimp only
    exact h3.failRead
theorem State.Ok.readDone (h : s.Ok) {id : Nat} {res : ReadResult} : (s.readDone id res).Ok := by
  unfold State.readDone
  split
  · split
    · exact h.endRead
    · exact h
  · exact h
theorem State.Ok.evictResult (h : s.Ok) {p n : Nat} : (s.evictResult p n).Ok := h
theorem State.Ok.reclaimFailed (h : s.Ok) {n : Nat} : (s.reclaimFailed r n).Ok :=
  h.frame.setFrame.swapEntry.faultRecord.evictResult.wakePage
theorem State.Ok.prefetchAgain (h : s.Ok) : (s.prefetchAgain r).Ok := by
  unfold State.prefetchAgain
  extract_lets o
  cases o with
  | some p => exact .ite h.startRead h.startRead.wakePage
  | none => exact h
theorem State.Ok.reclaimDone (h : s.Ok) : (s.reclaimDone r).Ok := by
  unfold State.reclaimDone
  extract_lets a s1 s2
  have h1 : s1.Ok := h
  have h2 : s2.Ok := by
    subst s2
    have h' := h1.swapEntry (pte := r.pte) (old := residentEntry r.entry a + 32) (new := r.entry)
    split
    · exact (h'.fst_of ‹_›).dropFrame
    · exact h'.fst_of ‹_›
  exact h2.faultRecord.evictResult.wakeBlocks.prefetchAgain
theorem State.Ok.advanceReclaim (h : s.Ok) : (s.advanceReclaim r).Ok :=
  .ite h (.ite h.reclaimFailed (.ite (.ite h.reclaimFailed (.ite h.reclaimFailed h.setFrame.frame.ssdIo)) h.reclaimDone))
theorem State.Ok.startReclaim (h : s.Ok) {p f : Nat} : (s.startReclaim p f).Ok := by
  unfold State.startReclaim
  extract_lets s1 a
  have h1 : s1.Ok := h
  refine .ite h1.setMfield ?_
  split
  · refine .ite h1.evictResult (.ite h1.evictResult ?_)
    extract_lets
    split
    · exact (h1.swapEntry.fst_of ‹_›).evictResult
    · extract_lets s2 s3
      have h3 : s3.Ok := (h1.swapEntry.fst_of ‹_›).setFrame.tlbDrop.setMfield
      exact h3.frame.advanceReclaim
  · exact h1.evictResult
theorem State.Ok.admin (h : s.Ok) {d : BitVec 3} {a : Dword} : (s.admin d a).Ok :=
  .ite h (.ite h.setMreg.engineWrite h.frame)
theorem State.Ok.adminLost (h : s.Ok) {d : Nat} : (s.adminLost d).Ok := h
theorem State.Ok.ssdLost (h : s.Ok) {d : Nat} : (s.ssdLost d).Ok :=
  ((h.foldl fun h _ => .ite h.readDone h).foldl fun h _ => .ite h.reclaimFailed h).adminLost
theorem State.Ok.ssdStart (h : s.Ok) {d : Nat} : (s.ssdStart d).Ok := h
theorem State.Ok.tlbiSettle (h : s.Ok) : s.tlbiSettle.Ok := by
  unfold State.tlbiSettle
  split
  · exact h
  · exact .ite h h.landEvery.frame
theorem State.Ok.tlbi (h : s.Ok) {p lo hi : Nat} : (s.tlbi p lo hi).Ok := .ite h h.frame.tlbiSettle
theorem State.Ok.tlbiCmd (h : s.Ok) {c : Dword} {f : State → Nat → State} (hf : ∀ {u}, State.Ok u → ∀ n, (f u n).Ok) :
    (s.tlbiCmd c f).Ok := .ite h (hf h.setMfield _)

end
end Sys2Proof.Machine

namespace Sys2Proof.Machine
set_option Elab.async false

section
variable {s : State} {t : Task} {k : StreamId}

/-! ### Start-up and power -/

variable {b : Byder}

theorem State.Ok.restart : (s.restart b).Ok := rfl
theorem State.Ok.signPart (h : s.Ok) {p : Nat} : (s.signPart p).Ok := h
theorem State.Ok.hostReady {env : BootEnv} : (s.hostReady env b).Ok := by
  unfold State.hostReady
  extract_lets s1 s2 s3 s4 s5 s6
  have h1 : s1.Ok := .restart
  have h2 : s2.Ok := h1
  have h3 : s3.Ok := h2.foldl fun h _ => h.foldl fun h _ => .ite h.retireSlice h
  have h4 : s4.Ok := h3.foldl fun h _ => h.signPart
  have h6 : s6.Ok := h4.setMfield.foldl fun h _ => .ite h.ssdStart.setMfield h
  exact h6.foldl fun h _ => h.setMfield.setMfield
theorem State.Ok.startFailed {x : BitVec 8} {e : BitVec 16} : (s.startFailed b x e).Ok := .restart
theorem State.Ok.dawn {env : BootEnv} : (s.dawn env b).Ok := by
  unfold State.dawn
  extract_lets s1 s2
  have h1 : s1.Ok := .restart
  have h' : State.Ok { s1 with coreMap := (upto 4).flatMap (dieCores env.cores) } := h1
  have h2 : s2.Ok := h'.foldl fun h _ => h.signPart
  clear_value s2
  exact State.Ok.setMfield (s := { s2 with coreMap := [] }) h2
theorem State.Ok.startUp {env : BootEnv} : (s.startUp env).Ok := by
  unfold State.startUp
  extract_lets
  split
  · exact .startFailed
  · refine .ite .dawn ?_
    split
    · exact .startFailed
    · split
      · exact .startFailed
      · refine .ite .startFailed ?_
        split
        · exact .startFailed
        · exact .hostReady
theorem State.Ok.writeFlash (h : s.Ok) {f : Bool} : (s.writeFlash f).1.Ok := by
  unfold State.writeFlash
  extract_lets
  split <;> exact h
theorem State.Ok.wakeNap (h : s.Ok) : s.wakeNap.Ok := .ite h.frame h

/-! ### Ordered pixel writes -/

theorem State.Ok.performPxw (h : s.Ok) {p : PxwLane} : (s.performPxw p).Ok := by
  unfold State.performPxw
  extract_lets _ _ s1 s2 s3 _ s4
  have h1 : s1.Ok := h.foldl fun h _ => h.landAt
  have h2 : s2.Ok := .ite h1 h1.applyBytes
  have h3 : s3.Ok := h2
  have h4 : s4.Ok := .ite h3.applyBytes h3
  exact h4.foldl fun h _ => h.l1Drop

/-! ### Placement -/

theorem State.Ok.addBlock (h : s.Ok) {x : Block} (hx : x.Ok) : State.Ok { s with blocks := s.blocks ++ [x] } :=
  h.setBlocks fun b hb => by
    rcases List.mem_append.1 hb with hb | hb
    · exact h.block hb
    · rwa [List.mem_singleton.1 hb]
theorem State.Ok.startBlock (h : s.Ok) {l : Launch} {a b c d e : Nat} : (s.startBlock l a b c d e).Ok := by
  unfold State.startBlock
  extract_lets _ x _ s1 _
  have h1 : s1.Ok := h.l1Clear
  have hx : x.Ok := rfl
  exact (h1.addBlock hx).frame
theorem State.Ok.startSpan (h : s.Ok) {l : Launch} {i : Nat} {ps : List (Nat × Nat × Nat)} : (s.startSpan l i ps).Ok := by
  unfold State.startSpan
  extract_lets _ _ s1 s2 _ s3
  have h1 : s1.Ok := h
  have h2 : s2.Ok := by
    subst s2
    split
    · exact h1.nodeFree
    · exact h1
  have h3 : s3.Ok := .ite h2.setLaunch h2.setLaunch
  exact h3.foldl fun h _ => h.startBlock
theorem State.Ok.resumeSpan (h : s.Ok) {u : Nat} {ps : List (Nat × Nat × Nat)} : (s.resumeSpan u ps).Ok := by
  unfold State.resumeSpan
  extract_lets s1 s2
  have h1 : s1.Ok := h
  have h2 : s2.Ok := h1.foldl fun h _ => by
    split
    case h_1 e => exact h.restoreBlock (h.block (List.mem_of_mem_filter (List.mem_of_find?_eq_some e)))
    case h_2 => exact h
  exact h2.checkRestored
theorem State.Ok.takePlace (h : s.Ok) {w : Waiting} {ps : List (Nat × Nat × Nat)} : (s.takePlace w ps).Ok := by
  unfold State.takePlace
  extract_lets s1
  have h1 : s1.Ok := h.wakeIdle
  split
  · split
    · exact h1.startSpan
    · exact h1
  · exact h1.resumeSpan
theorem State.Ok.placeAt (h : s.Ok) {w : Waiting} {cs bs : List Nat} : (s.placeAt w cs bs).Ok := by
  unfold State.placeAt
  split
  · exact h
  · refine .ite h.takePlace (.ite h ?_)
    split
    · exact h
    · exact .ite h.evict.takePlace h

/-! ### Vector words -/

theorem State.Ok.takePipes (h : s.Ok) {a : Nat} {ops : List Nat} : (s.takePipes t a ops).Ok := h.setCore
theorem maskOp_keeps {p : Option (BitVec 5)} {f : Task → StreamSt → StreamSt} : Keeps s (maskOp p f s) :=
  issue_keeps fun _ _ h => by
    split
    · exact .ok h.retire
    · exact .ite .error (.ok h.frame.retire)
theorem maskBranch_keeps {o : BitVec 14} {c : Mask → Bool} : Keeps s (maskBranch o c s) :=
  issue_keeps fun _ _ h => .ok (.ite h.branch h.retire)
theorem vecRun_keeps {ps : List Piece} {st : BitVec 4} {e : BitVec 1} : Keeps s (vecRun ps st e s) :=
  issue_keeps fun _ _ h => .after fun _ => by
    split
    extract_lets
    split
    · exact .error
    · split
      · exact .ok h.takeTrap
      · exact .ok h.takePipes.frame.setTask
theorem wideRun_keeps {op : Nat} {w : VW} {f : VFn} : Keeps s (wideRun op w f s) := vecRun_keeps

end
end Sys2Proof.Machine

namespace Sys2Proof.Machine
set_option Elab.async false

/-! ### The commit of a deterministic launch -/

section
variable {s : State} {t : Task} {k : StreamId} {u : Nat}

theorem State.Ok.putRets (h : s.Ok) {rs : List (RetTo × Nat)} : (s.putRets u k rs).Ok := h.mapTask
theorem State.Ok.settlePixels : ∀ {n : Nat} {s : State}, s.Ok → (s.settlePixels n).Ok
  | 0, _, h => h
  | _ + 1, _, h => by
    unfold State.settlePixels
    split
    · exact h.performPxw.settlePixels
    · exact h
theorem State.Ok.commitRecs (h : s.Ok) {gs : List (Nat × Nat × Nat × Rec)} : (s.commitRecs gs).1.Ok :=
  State.Ok.foldl_fst h fun h _ => by
    dsimp only
    split
    · exact h.acceptRec
    · exact h
theorem State.Ok.serveBlocked (h : s.Ok) : (s.serveBlocked u).Ok := by
  unfold State.serveBlocked
  split
  · exact h
  · split
    · exact .ite h.setCore.grantOclm h
    · exact h
theorem State.Ok.testCommitted (h : s.Ok) : (s.testCommitted u).Ok := by
  unfold State.testCommitted
  split
  · exact .ite h.raiseDeadlock h
  · exact h

/-- What a commit carries along holds a state with canonical bytes. -/
def CommitAcc.Ok (a : CommitAcc) : Prop := a.s.Ok

variable {a : CommitAcc} {pc : Dword}

theorem CommitAcc.Ok.foldl {α : Type} (h : a.Ok) {f : CommitAcc → α → CommitAcc} {l : List α}
    (hf : ∀ {c : CommitAcc}, c.Ok → ∀ x, (f c x).Ok) : (l.foldl f a).Ok :=
  l.foldlRecOn (motive := CommitAcc.Ok) f h fun _ hc x _ => hf hc x
theorem CommitAcc.Ok.fres (h : a.Ok) {pa : Nat} {res : Word} {f : Bool} : (a.fres t k pc pa res f).Ok := by
  unfold CommitAcc.fres
  split
  · exact ((State.Ok.resolve h).fst_of ‹_›).homeOp
  · exact State.Ok.setTask h
theorem CommitAcc.Ok.sig (h : a.Ok) {i n : Nat} {seen : List Nat} : (a.sig t k pc i n seen).Ok := by
  unfold CommitAcc.sig
  split
  · exact State.Ok.setTask h
  · exact State.Ok.setTask h
theorem CommitAcc.Ok.tjoin (h : a.Ok) {va : Nat} {d : BitVec 5} : (a.tjoin t k pc va d).Ok := by
  unfold CommitAcc.tjoin
  split
  · exact State.Ok.setTask h
  split
  case h_1 e => exact (State.Ok.joinRec h _ e).putRets
  case h_2 => exact State.Ok.takeTrap h
  case h_3 => exact (State.Ok.setTask h).pageFault
  case h_4 => exact h
theorem CommitAcc.Ok.grec (h : a.Ok) {va i g : Nat} {v : Word} : (a.grec t va v i g).Ok := h
theorem CommitAcc.Ok.entry (h : a.Ok) {e : QEntry} : (a.entry u k e).Ok := by
  have hs : a.s.Ok := h
  unfold CommitAcc.entry
  split
  · exact h
  extract_lets
  split
  case h_1 => exact hs.applyStore
  case h_2 =>
    split
    refine State.Ok.putRets (State.Ok.fst_of ?_ ‹_›)
    exact State.Ok.foldl_fst (p := (_, _)) hs fun h _ => h.applyRmw
  case h_3 =>
    split
    refine State.Ok.putRets (State.Ok.fst_of ?_ ‹_›)
    exact State.Ok.foldl_fst (p := (_, _)) hs fun h _ => h.applyCas
  case h_4 => exact h.sig
  case h_5 => exact hs.arrive
  case h_6 => exact hs.arrive
  case h_7 => exact hs.spanArrive
  case h_8 => exact h.fres
  case h_9 =>
    split
    · exact (hs.resolve.fst_of ‹_›).homeOp.putRets
    · exact hs.homeOp.putRets
  case h_11 => exact hs.launchPkt.setTask.putRets
  case h_12 => exact h.tjoin
  case h_13 => exact h.grec
  case h_15 => exact hs.passSlots
  case h_17 => exact hs.applyCopied
  case h_18 => exact hs.runActs
  all_goals exact h
theorem CommitAcc.Ok.pop (h : a.Ok) : (a.pop u k).Ok := by
  unfold CommitAcc.pop
  split
  · exact h
  · split
    · exact h
    · extract_lets _ c v
      have hc : c.Ok := CommitAcc.Ok.entry (a := { a with s := _ }) (State.Ok.setTask h)
      have hv : v.Ok := State.Ok.settle (r := (_, _)) hc
      exact hv.settlePixels
theorem CommitAcc.Ok.stream (h : a.Ok) : (a.stream u k).Ok := by
  have h' : CommitAcc.Ok { a with first := none } := h
  exact h'.foldl fun h _ => h.pop

theorem State.Ok.commitNow (h : s.Ok) {l : Launch} : (s.commitNow l).Ok := by
  unfold State.commitNow
  extract_lets _ us _ s1 a
  have h1 : s1.Ok := h.foldl fun h _ => h.mapTask
  have ha : a.Ok := CommitAcc.Ok.foldl (a := { s := s1 }) h1 fun h _ => h.foldl fun h _ => h.stream
  split
  rename_i s2 more e
  have h2 : s2.Ok := (State.Ok.commitRecs ha).fst_of e
  extract_lets s3 s4 s5 s6 s7 s8
  have h3 : s3.Ok := h2.settleAll
  have h4 : s4.Ok := h3.foldl fun h _ => h.putRets
  have h5 : s5.Ok := h4.foldl fun h _ => h.mapTask
  have h6 : s6.Ok := h5.foldl fun h _ => by
    split
    · exact .ite h.retireTask h
    · exact h
  have h7 : s7.Ok := h6.foldl fun h _ => h.serveBlocked
  have h8 : s8.Ok := h7.foldl fun h _ => h.testCommitted
  exact h8.foldl fun h _ => h.noteSlots
theorem State.Ok.completeWord (h : s.Ok) : (s.completeWord u).Ok := by
  unfold State.completeWord
  split <;> exact h

/-! ### Messages between packages -/

variable {x : FlaoriIn}

theorem State.Ok.mapMsg (h : s.Ok) {f : FlaoriIn → FlaoriIn} : (s.mapMsg x f).Ok := h
theorem State.Ok.abandon (h : s.Ok) : (s.abandon x).Ok := h
theorem State.Ok.pullFailed (h : s.Ok) {os : List Nat} : (s.pullFailed x os).Ok := .ite h.abandon h.frame
theorem State.Ok.chunkIn (h : s.Ok) {off : Nat} {data : List Byte} : (s.chunkIn x off data).Ok :=
  .ite h.countMreg.pullFailed h.mapMsg

end
end Sys2Proof.Machine

namespace Sys2Proof.Machine
set_option Elab.async false

/-! ### Vector memory words -/

section
variable {s : State} {t : Task} {k : StreamId} {x : VIn}

/-- The meaning of a vector memory word: where it answers, its state has canonical bytes where `s` has them. -/
def BodyOk (body : State → Task → VIn → Except Stop (State × Task × VOut)) : Prop :=
  ∀ {s t x}, State.Ok s → Yields (·.1.Ok) (body s t x)

theorem memWord_keeps {op : Nat} {w : VW} {body : State → Task → VIn → Except Stop (State × Task × VOut)}
    (hb : BodyOk body) : Keeps s (memWord op w body s) :=
  issue_keeps fun _ _ h => .after fun _ => by
    split
    split
    · refine .bind (hb h) fun r hr => ?_
      split
      split
      · exact .error
      · exact .ok (State.Ok.takePipes hr).frame.setTask
    · exact .ok h

theorem State.Ok.afterLoads (h : s.Ok) {rs : List (Nat × Nat)} : (s.afterLoads t rs).1.Ok := by
  unfold State.afterLoads
  extract_lets _ s1
  have h1 : s1.Ok := h.foldl fun h _ => h.tlbFillRange
  refine .ite_fst h1 ?_
  extract_lets
  split
  rename_i e
  have h2 : State.Ok _ := (State.Ok.ite_fst h1.drain h1).fst_of e
  exact h2.l1Fill
theorem State.Ok.afterAccs (h : s.Ok) {accs : List (List LaneAcc)} : (s.afterAccs t accs).1.Ok :=
  State.Ok.afterLoads (h.foldl fun h _ => h.tlbFillRange)

theorem loadBody_ok {op : Nat} {ro : Bool} : BodyOk (loadBody op ro) := fun h =>
  .after fun _ => .ok (State.Ok.afterLoads (h.foldl fun h _ => h.tlbFillRange))
theorem storeBody_ok : BodyOk storeBody := fun h =>
  .after fun _ => .ite (.ok h) (by
  extract_lets _ _ s1
  have h1 : s1.Ok := h.foldl fun h _ => h.tlbFillRange
  split
  exact .ok (h1.push.fst_of ‹_›))
theorem prefBody_ok : BodyOk prefBody := fun h => .ok (.ite h h.l1Fill)
theorem vatomBody_ok {op n : Nat} {ret : Bool} {eff : List (Nat × List Loc) → Eff}
    {apply : State → Nat → List Loc → Nat → State × Nat} (ha : ∀ {s : State} {c ls l}, s.Ok → (apply s c ls l).1.Ok) :
    BodyOk (vatomBody op n ret eff apply) := fun h => .after fun _ => .ite (.ok h) (by
  extract_lets _ s1 _
  have h1 : s1.Ok := h.foldl fun h _ => h.tlbFillRange
  refine .ite (.ok h1) (.bind h1.release fun r hr => .ok ?_)
  refine State.Ok.acquire ?_
  exact State.Ok.foldl_fst (p := (_, _)) hr fun h _ => ha h)
theorem rmwBody_ok {op n : Nat} {f : VIn → AtomOp} : BodyOk (rmwBody op n f) := fun h => by
  unfold rmwBody
  exact vatomBody_ok (fun h => h.applyRmw) h
theorem quadBody_ok : BodyOk quadBody := fun h => by
  unfold quadBody
  dsimp only
  split
  · exact .ok h
  split
  · refine .after fun _ => .after fun _ => .ite ?_ ?_ <;> exact .ok h.afterLoads
  · refine .after fun _ => .ite ?_ ?_ <;> exact .ok h.afterLoads
theorem pxwBody_ok : BodyOk pxwBody := fun h => .ite (.ok h) (.after fun _ => .ite .error (.after fun _ => by
  extract_lets _ _ _ _ s1 full
  have h1 : s1.Ok := h
  split
  rename_i e
  have h2 : State.Ok _ := h1.afterLoads.fst_of e
  split
  · split
    exact .ok (h2.push.fst_of ‹_›)
  · cases full with
    | some _ => exact .error
    | none => exact .ok h2))
theorem vxmBody_ok : BodyOk vxmBody := fun h => by
  unfold vxmBody
  extract_lets
  split
  · exact .ite .error (.after fun _ => .ite (.ok h) (.ok h.afterLoads))
  · exact .error
theorem xboxBody_ok : BodyOk xboxBody := fun h => .after fun _ => .ok h.afterAccs
theorem xtriBody_ok : BodyOk xtriBody := fun h => .after fun _ => .ok h.afterAccs
theorem xstepBody_ok {p : Bool} : BodyOk (xstepBody p) := fun h => .after fun _ => .ok (.ite_fst h.afterAccs h.afterAccs.push)
theorem xtileBody_ok : BodyOk xtileBody := fun h => .after fun _ => .ok h.afterAccs

end
end Sys2Proof.Machine

namespace Sys2Proof.Machine
set_option Elab.async false

/-! ### Queues of the host -/

section
variable {s : State} {t : Task} {k : StreamId} {x : HwSlot} {b : List Byte} {va : Nat}

theorem State.Ok.setHwSlot (h : s.Ok) : (s.setHwSlot x).Ok := h
theorem State.Ok.writeDesc (h : s.Ok) {a b c d e : Nat} : (s.writeDesc a b c d e).Ok := h.devStore
theorem State.Ok.queueError (h : s.Ok) {c : Nat} {p : Option Nat} : (s.queueError x c p).Ok := by
  unfold State.queueError
  extract_lets s1 s2
  have h2 : s2.Ok := State.Ok.writeDesc (State.Ok.writeDesc h.setHwSlot)
  split
  · exact h2
  · exact h2.writeDesc
theorem State.Ok.notifyMapped (h : s.Ok) {n : Nat} : (s.notifyMapped x n).Ok := .ite h.queueError (.ite h.setHwSlot h)
theorem State.Ok.badNotify (h : s.Ok) : s.badNotify.Ok := h
theorem State.Ok.notifyPending (h : s.Ok) {p q n : Nat} : (s.notifyPending p q n).Ok := by
  unfold State.notifyPending
  split
  · exact h.badNotify
  · exact h.writeDesc
theorem State.Ok.notify (h : s.Ok) {i : Nat} {w : Dword} : (s.notify i w).Ok := by
  unfold State.notify
  extract_lets qid new pending
  have hp {p : Nat} : (pending p).Ok := by
    subst pending
    dsimp only
    split
    · exact h.devAwait
    · exact h.notifyPending
  refine .ite h.badNotify ?_
  split
  · exact .ite h.notifyMapped hp
  · exact hp
theorem State.Ok.queueResult (h : s.Ok) {r : Nat} : (s.queueResult r).Ok := h
theorem State.Ok.mapSlot (h : s.Ok) {i q : Nat} : (s.mapSlot i q).Ok := by
  unfold State.mapSlot
  split
  · exact h.queueResult
  · extract_lets _ s1 s2 s3
    have h1 : s1.Ok := h
    have h2 : s2.Ok := h1.writeDesc.writeDesc
    have h3 : s3.Ok := .ite h2.notifyMapped.writeDesc h2
    exact h3.queueResult
theorem State.Ok.unmapSlot (h : s.Ok) {i : Nat} : (s.unmapSlot i).Ok := by
  unfold State.unmapSlot
  split
  · exact h.queueResult
  · extract_lets s1 s2
    have h1 : s1.Ok := h
    have h2 : s2.Ok := h1.writeDesc.writeDesc.writeDesc
    exact h2.queueResult
theorem State.Ok.runCommand (h : s.Ok) {c : Dword} : (s.runCommand c).Ok := by
  unfold State.runCommand
  extract_lets s1
  have h1 : s1.Ok := h.setMfield
  split
  · exact h1.mapSlot
  · exact h1.unmapSlot
  · exact h1
theorem State.Ok.tryCommand (h : s.Ok) {c : Dword} : (s.tryCommand c).Ok := by
  unfold State.tryCommand
  split
  · exact h.setMfield.devAwait
  · exact h.runCommand
theorem State.Ok.queueCmd (h : s.Ok) {c : Dword} : (s.queueCmd c).Ok := .ite h.setMfield (.ite h.setMreg h.setMreg.tryCommand)
theorem State.Ok.served (h : s.Ok) : (s.served x).Ok := by
  unfold State.served
  extract_lets s1
  have h1 : s1.Ok := h.wakeIdle
  split <;> exact h1
theorem State.Ok.turn (h : s.Ok) {i : Nat} {ok : List Byte → Bool} {f : State → HwSlot → Nat → List Byte → State}
    (hf : ∀ {u : State} {x va b}, u.Ok → (f u x va b).Ok) : (s.turn i ok f).Ok := by
  unfold State.turn
  split
  · exact h
  · split
    · exact .ite (hf h.served) h
    · exact h.startRead
    · exact h
theorem State.Ok.takePacket (h : s.Ok) : (s.takePacket x).Ok := h
theorem State.Ok.takeDispatch (h : s.Ok) : (s.takeDispatch x va b).Ok := by
  unfold State.takeDispatch
  split
  exact State.Ok.settle (r := (_, _)) (h.takePacket.submit.fst_of ‹_›)
theorem State.Ok.takeGraph (h : s.Ok) : (s.takeGraph x va b).Ok := by
  unfold State.takeGraph
  extract_lets _ s1 _ _ s2
  have h1 : s1.Ok := h.takePacket
  have h2 : s2.Ok := h1.frame.devStore
  split
  exact State.Ok.settle (r := (_, _)) (h2.submit.fst_of ‹_›)
theorem State.Ok.hold (h : s.Ok) : (s.hold x b).Ok := h
theorem State.Ok.joinReads (h : s.Ok) : (s.joinReads x b).Ok := h.foldl fun h _ => by
  split
  · exact h.startRead
  · exact h
theorem State.Ok.releaseJoin (h : s.Ok) {i : Nat} : (s.releaseJoin i).Ok := by
  unfold State.releaseJoin
  split
  · exact .ite h (.ite h.takePacket h.joinReads)
  · exact h
theorem State.Ok.resolveMarker (h : s.Ok) {i : Nat} : (s.resolveMarker i).Ok := by
  unfold State.resolveMarker
  split
  · exact .ite h.takePacket.resolveVa.settle h
  · exact h

/-! ### Power, partitions and images -/

theorem State.Ok.powerResult (h : s.Ok) {c r : Nat} : (s.powerResult c r).Ok := h
theorem State.Ok.powerCmd (h : s.Ok) {c : Nat} {ok : Power → Bool} {f : State → State} (hf : ∀ {u : State}, u.Ok → (f u).Ok) :
    (s.powerCmd c ok f).Ok := .ite h (.ite (hf h.powerResult) h.powerResult)
theorem State.Ok.setPower (h : s.Ok) {p : Power} : (s.setPower p).Ok := h
theorem State.Ok.keepImage (h : s.Ok) {p i : Nat} : (s.keepImage p i).Ok := h
theorem State.Ok.linksOff (h : s.Ok) : s.linksOff.Ok :=
  State.Ok.foldl (h.foldl fun h _ => h.setMfield) fun h _ => h.setMfield
theorem State.Ok.powerOff : s.powerOff.Ok := .restart
theorem State.Ok.clearImages (h : s.Ok) {m : BitVec 8} : (s.clearImages m).Ok := h.filterBlocks.frame
theorem State.Ok.applyPart (h : s.Ok) {p : Nat} : (s.applyPart p).Ok := by
  unfold State.applyPart
  extract_lets _ s1
  have h1 : s1.Ok := h.foldl fun h _ => h.setMreg
  exact h1.clearImages.signPart.setMfield
theorem State.Ok.loadImage (h : s.Ok) {p i : Nat} : (s.loadImage p i).Ok := h.foldl fun h _ => h.setCore
/-- A fold over a list may use what holds of the list's members. -/
theorem State.Ok.foldl_mem {α : Type} (h : s.Ok) {f : State → α → State} {l : List α}
    (hf : ∀ {u : State}, u.Ok → ∀ x ∈ l, (f u x).Ok) : (l.foldl f s).Ok :=
  l.foldlRecOn (motive := State.Ok) f h fun _ hu x hx => hf hu x hx
theorem State.Ok.swap (h : s.Ok) {p : Nat} : (s.swap p).Ok := by
  unfold State.swap
  extract_lets image out s1 s2 back s3 s4 s5
  have h0 : (s.saveBlocks out fun b => { b with st := .saved image }).Ok := h.saveBlocks fun _ => rfl
  have h1 : s1.Ok := h0.keepImage
  clear_value s1
  have h2 : s2.Ok := h1.loadImage
  clear_value s2
  have h3 : s3.Ok := h2.foldl_mem fun h _ hb => h.restoreBlock (h2.block (List.mem_of_mem_filter hb))
  clear_value s3
  have h4 : s4.Ok := h3
  have h5 : s5.Ok := h4.setMfield
  clear_value s5
  exact h5.checkRestored.setMfield

end
end Sys2Proof.Machine

namespace Sys2Proof.Machine
set_option Elab.async false

/-! ### Commands of the management side -/

section
variable {s : State} {t : Task} {k : StreamId}

theorem execPwrcmdNap_keeps : Keeps s (execPwrcmdNap s) :=
  .next fun h => h.powerCmd fun h => (h.foldl fun h _ => h.keepImage).setPower
theorem State.Ok.setSelfRefresh (h : s.Ok) {l : List Channel} : State.Ok { s with selfRefresh := l } := h
theorem execPwrcmdSleep_keeps : Keeps s (execPwrcmdSleep s) := .next fun h => h.powerCmd fun h =>
  h.linksOff.setSelfRefresh.setPower
theorem execPwrcmdWake_keeps : Keeps s (execPwrcmdWake s) := .next fun h => h.powerCmd fun h => h.setPower
theorem execPwrcmdOff_keeps : Keeps s (execPwrcmdOff s) := .next fun h => h.powerCmd fun _ => .powerOff
theorem execRecover_keeps {f : Bool} : Keeps s (execRecover f s) := .next fun h => .ite (by
  split
  exact .ite .restart (h.writeFlash.fst_of ‹_›).setMfield) h
theorem execUpdate_keeps {f : Bool} : Keeps s (execUpdate f s) := command_keeps fun _ => .next fun h => by
  split
  exact (h.writeFlash.fst_of ‹_›).setMfield
theorem execTlbicmdPartition_keeps {c : Dword} : Keeps s (execTlbicmdPartition c s) :=
  command_keeps fun _ => .next fun h => .ite (h.tlbiCmd fun h _ => h.tlbi) h
theorem execTlbicmdRange_keeps {c : Dword} : Keeps s (execTlbicmdRange c s) :=
  command_keeps fun _ => .next fun h => .ite (h.tlbiCmd fun h _ => h.tlbi) h
theorem execEvict_keeps {p : BitVec 3} {f : Dword} : Keeps s (execEvict p f s) := command_keeps fun _ => .next fun h => h.startReclaim
theorem execSwap_keeps {p : BitVec 3} : Keeps s (execSwap p s) :=
  .next fun h => .ite h (.ite h.setMfield (.ite h.wakeIdle.swap h.setMfield))
theorem execSsdReset_keeps {d : BitVec 3} : Keeps s (execSsdReset d s) :=
  command_keeps fun _ => .next fun h => (State.Ok.ite h.frame h).setMfield.ssdLost
theorem execAdmaddr_keeps {d : BitVec 3} {a : Dword} : Keeps s (execAdmaddr d a s) := command_keeps fun _ => .next fun h => h.admin
theorem execSpeedWrite_keeps {c : Dword} : Keeps s (execSpeedWrite c s) := by
  unfold execSpeedWrite
  refine command_keeps fun u => ?_
  extract_lets s1 s2 s3 s4
  refine .next fun h => ?_
  have h1 : s1.Ok := h.setMfield
  have h2 : s2.Ok := .ite h1 h1.setMfield
  have h3 : s3.Ok := .ite h2.setMfield h2
  have h4 : s4.Ok := h3.ringRecord
  exact .ite h4.loadManifest h4
theorem execLoad_keeps : Keeps s (execLoad s) := command_keeps fun _ => .next State.Ok.loadManifest
theorem execApply_keeps {p : BitVec 3} : Keeps s (execApply p s) := command_keeps fun _ => .next fun h => by
  split
  · exact h.setMfield
  · exact h.applyPart.setMfield
theorem execClr_keeps {d : Nat} : Keeps s (execClr d s) :=
  command_keeps fun _ => .next fun h => .ite (h.foldl fun h _ => h.setMreg) h
theorem execRetire_keeps {d : Nat} {x : BitVec 4} : Keeps s (execRetire d x s) := command_keeps fun _ => .next fun h =>
  .ite h (.ite h.setMfield.setMfield (.ite h.setMfield.setMfield h.setMfield.retireSlice.setMfield))
theorem State.Ok.makeQp (h : s.Ok) {d : List Byte} {p : Nat} {v : Bool} : (s.makeQp d p v).Ok := h
theorem State.Ok.qpResult (h : s.Ok) {o r : Nat} : (s.qpResult o r).Ok := h
theorem execCreate_keeps {q : Nat} : Keeps s (execCreate q s) := command_keeps fun _ => .next fun h => by
  split
  · exact h.qpResult
  · exact .ite h.qpResult (.ite h.qpResult (.ite h.qpResult h.makeQp.setMfield.qpResult))
theorem execDestroy_keeps : Keeps s (execDestroy s) := command_keeps fun _ => .next fun h => by
  split
  · exact h.qpResult
  · split
    · exact h
    · exact h.qpResult
theorem execRgninv_keeps {i : BitVec 16} : Keeps s (execRgninv i s) := command_keeps fun _ => .next fun h => .ite h h

/-! ### Register writes -/

theorem State.Ok.setFields (h : s.Ok) {o : Nat} {v : Dword} : (s.setFields o v).Ok := h.setMreg
theorem State.Ok.freshPool (h : s.Ok) {p : Nat} : (s.freshPool p).Ok := by
  unfold State.freshPool
  extract_lets n base s1 inside s2
  have h1 : s1.Ok := h.setMfield
  have h2 : s2.Ok := h1.keepPast
  exact .ite h1 ((h2.setMem (Memory.wf_filter h2.mem _)).frame)
theorem State.Ok.portRoles (h : s.Ok) : s.portRoles.Ok := h.foldl fun h _ => by
  extract_lets up s1
  have h1 : s1.Ok := .ite h.countMreg.setMfield h
  exact .ite h1 h1.setMfield
theorem State.Ok.fieldsWritten (h : s.Ok) {o : Nat} : (s.fieldsWritten o).Ok :=
  .ite h.freshPool (.ite h.frame (.ite h.portRoles (.ite h.setMfield h)))
theorem State.Ok.writeFields (h : s.Ok) {o : Nat} {v : Dword} : (s.writeFields o v).Ok := .ite h h.setFields.fieldsWritten
theorem powerWrite_keeps {v : Dword} : Keeps s (powerWrite v s) := by
  unfold powerWrite
  split
  · exact execPwrcmdNap_keeps
  · exact execPwrcmdSleep_keeps
  · exact execPwrcmdWake_keeps
  · exact execPwrcmdOff_keeps
  · exact .next fun h => .ite h.setMfield h
theorem thenIf_keeps {c : Bool} {f : State → Out State Fault Refusal} (hf : Keeps s (f s)) : Keeps s (thenIf c f s) :=
  .ite hf (.next id)
theorem State.regWrite_keeps {q o : Nat} {v : Dword} : Keeps s (s.regWrite q o v) := by
  have hw {f} (hf : Keeps (s.writeFields o v) f) : Keeps s f := .via (fun h => h.writeFields) hf
  unfold State.regWrite
  extract_lets fields bit
  refine .ite (.ite (.via (fun h => h.setFields) (thenIf_keeps execRecover_keeps)) (.next id)) ?_
  refine .ite (.next id) (.ite powerWrite_keeps (.ite (command_keeps fun _ => .next fun h => h.queueCmd) ?_))
  refine .ite (.ite execTlbicmdRange_keeps execTlbicmdPartition_keeps) (.ite execEvict_keeps ?_)
  refine .ite (hw (thenIf_keeps execSwap_keeps)) (.ite (hw (thenIf_keeps execSsdReset_keeps)) (.ite execAdmaddr_keeps ?_))
  refine .ite execSpeedWrite_keeps (.ite (hw (thenIf_keeps execUpdate_keeps)) (.ite (hw (thenIf_keeps execApply_keeps)) ?_))
  refine .ite (thenIf_keeps execClr_keeps) (.ite (hw (thenIf_keeps execRetire_keeps)) (.ite ?_ ?_))
  · split
    · exact hw execCreate_keeps
    · exact hw execDestroy_keeps
    · exact .next fun h => h.writeFields.setMfield
  · exact .ite (hw (thenIf_keeps execRgninv_keeps)) (.next fun h => h.writeFields)
theorem State.partWrite_keeps {q o lo hi : Nat} {v : Dword} : Keeps s (s.partWrite q o lo hi v) := by
  unfold State.partWrite
  split
  · exact regWrite_keeps
  · exact .ite regWrite_keeps (.ite (.next id) (.via (fun h => h.writeFields) (thenIf_keeps execLoad_keeps)))
theorem regWrites_keeps {q o : Nat} {d : List Byte} : ∀ {ws : List Nat} {s : State}, Keeps s (regWrites q o d ws s)
  | [], _ => .next id
  | w :: ws, s => by
    obtain ⟨s', e, hs⟩ := State.partWrite_keeps (s := s) (q := q) (o := w) (lo := o - w)
      (hi := Nat.min 8 (o + d.length - w)) (v := s.wordWritten o d w)
    rw [regWrites, e]
    exact .via hs regWrites_keeps

/-! ### Requests of hosts -/

variable {q : Qp} {r : HeldRequest}

theorem State.Ok.holdRegion (h : s.Ok) {i : Nat} : (s.holdRegion i).Ok := .ite h h
theorem State.Ok.setQp (h : s.Ok) : (s.setQp q).Ok := h
theorem State.Ok.send (h : s.Ok) {m : WireMsg} : (s.send m).Ok := h
theorem State.Ok.passPsn (h : s.Ok) {n : Nat} : (s.passPsn q n).Ok := h
theorem State.Ok.ecn (h : s.Ok) {n : Nat} : (s.ecn q n).Ok := h
theorem State.Ok.invalidRequest (h : s.Ok) : (s.invalidRequest q).Ok := h
theorem State.Ok.rdmaStop (h : s.Ok) {p : Nat} {e : RdmaStop} : (s.rdmaStop q r p e).Ok := by
  cases e with
  | nak c => exact h.send
  | away v pte e => exact h.setQp.devAwait
theorem State.Ok.holdFor (h : s.Ok) {x : Request} : (s.holdFor q x).Ok := by
  unfold State.holdFor
  cases x.region q with
  | none => exact h
  | some i => exact h.holdRegion
theorem State.request_keeps {n m : Nat} {x : Request} {f : Qp → HeldRequest → State → Out State Fault Refusal}
    (hf : ∀ {q r u}, Keeps u (f q r u)) : Keeps s (s.request n x m f) := by
  unfold State.request
  split
  · exact .next id
  · refine .ite (.next id) ?_
    have h1 : ∀ {q : Qp} {x : Request}, s.Ok → ((s.ecn q m).holdFor q x).Ok := fun h => h.ecn.holdFor
    exact .via h1 (.ite hf (.next State.Ok.setQp))
theorem State.Ok.writeDone (h : s.Ok) {a n : Nat} : (s.writeDone a n).Ok := by
  unfold State.writeDone
  split <;> exact h
theorem State.Ok.serveSend (h : s.Ok) {p : List Byte} : (s.serveSend q r p).Ok := by
  unfold State.serveSend
  refine .ite h.invalidRequest (.ite h.send ?_)
  extract_lets
  split
  · split
    · exact h.send
    · exact h.rdmaStop
    · exact h.applyBytes.passPsn.send
  · exact h.send
theorem State.serveWrite_keeps {key : Word} {va : Dword} {d : List Byte} : Keeps s (s.serveWrite q r key va d) := by
  unfold State.serveWrite
  refine .ite (.next State.Ok.invalidRequest) ?_
  split
  · exact .next fun h => h.send
  · refine .ite (.next fun h => h.send) ?_
    split
    · exact .next fun h => h.rdmaStop
    · exact .next fun h => h.applyBytes.writeDone
  · exact .next fun h => .ite h.notify.writeDone h.send
  · exact .next fun h => h.frame.writeDone
  · extract_lets ws
    refine .ite (.next fun h => h.send) ?_
    obtain ⟨s', e, hs⟩ := regWrites_keeps (s := s) (q := q.qpn) (o := ‹Nat›) (d := d) (ws := ws)
    rw [e]
    exact .next fun h => (hs h).writeDone
theorem State.Ok.serveRead (h : s.Ok) {key : Word} {va : Dword} {n : Nat} : (s.serveRead q r key va n).Ok := by
  unfold State.serveRead
  refine .ite h.invalidRequest ?_
  split
  · refine .ite h.send ?_
    split
    · exact h.rdmaStop
    · exact h.passPsn.send
  · exact .ite h.send h.passPsn.send
  · exact h.send
theorem State.serveHeld_keeps : Keeps s (s.serveHeld q r) := by
  unfold State.serveHeld
  split
  · exact .next fun h => h.serveSend
  · exact serveWrite_keeps
  · exact .next fun h => h.serveRead
  · exact .next State.Ok.invalidRequest

end
end Sys2Proof.Machine

namespace Sys2Proof.Machine
set_option Elab.async false

/-! ### Instructions of their own -/

section
variable {s : State}

theorem execJal_keeps {d : BitVec 4} {i : BitVec 19} : Keeps s (execJal d i s) := issue_keeps fun _ _ h => .ok h.branch
theorem execJalr_keeps {d a : BitVec 4} {i : BitVec 14} : Keeps s (execJalr d a i s) :=
  issue_keeps fun _ _ h => .ite .error (.ok h.branch)
theorem execLoopn_keeps {a : BitVec 5} {o : BitVec 14} : Keeps s (execLoopn a o s) :=
  issue_keeps fun _ _ h => .ok (.ite h.branch h.retire)
theorem execFenceRel_keeps {c : Scope} : Keeps s (execFenceRel c s) :=
  issue_keeps fun _ _ h => .bind h.release fun _ h => .ok (State.Ok.retire h)
theorem execFenceAcq_keeps {c : Scope} : Keeps s (execFenceAcq c s) := issue_keeps fun _ _ h => .ok h.acquire.retire
theorem execFenceAr_keeps {c : Scope} : Keeps s (execFenceAr c s) :=
  issue_keeps fun _ _ h => .bind h.release fun _ h => .ok (State.Ok.acquire h).retire
theorem execFenceRo_keeps : Keeps s (execFenceRo s) := issue_keeps fun _ _ h => .ok h.drain
theorem execSig_keeps {i : BitVec 5} {n : BitVec 8} : Keeps s (execSig i n s) :=
  issue_keeps fun _ _ h => .ite .error (.ite (.ok h.buffer) (.ite .error (.ok h.drain.setTask)))
theorem execWait_keeps {i : BitVec 5} {n : BitVec 8} : Keeps s (execWait i n s) :=
  issue_keeps fun _ _ h => .ite .error (.ite (.ok h.setTask) (.ok h.stall.testDeadlock))
theorem execBarw_keeps {i : BitVec 4} {a : BitVec 5} {p : BitVec 1} : Keeps s (execBarw i a p s) :=
  issue_keeps fun _ _ h => .ite (.ok h.retire) .error
theorem execSbara_keeps {i : BitVec 2} : Keeps s (execSbara i s) :=
  issue_keeps fun _ _ h => .ite .error (.ite (.ok h.buffer) (.ok h.perform.retire.spanArrive))
theorem execSbarw_keeps {i : BitVec 2} {a : BitVec 5} {p : BitVec 1} : Keeps s (execSbarw i a p s) :=
  issue_keeps fun _ _ h => .ite (.ok h.acquire.retire) .error
theorem execCwait_keeps {a : BitVec 5} {n : BitVec 13} : Keeps s (execCwait a n s) :=
  issue_keeps fun _ _ h => .ite (.ok h.retire) .error
theorem execFtry_keeps {d b : BitVec 5} {a : BitVec 4} : Keeps s (execFtry d a b s) :=
  issue_keeps fun _ _ h => .after fun _ => .ite (.ok h.buffer) (.bind h.release fun _ h => by
    split
    split
    · exact .ok (State.Ok.settle (r := (_, _)) ((State.Ok.resolve h).fst_of ‹_›).homeOp.retire)
    · exact .ok (State.Ok.homeOp h).acquire.retire
    · exact .ok (State.Ok.homeOp h).retire)
theorem execFstat_keeps {d a : BitVec 4} : Keeps s (execFstat d a s) :=
  issue_keeps fun _ _ h => .after fun _ => .ite (.ok h.buffer)
    (.bind h.release fun _ h => .ok (State.Ok.homeOp h).acquire.retire)
theorem execTlaunch_keeps {d : BitVec 5} {a : BitVec 4} : Keeps s (execTlaunch d a s) :=
  issue_keeps fun _ _ h => .after fun _ => .ite (.ok h.buffer) (.bind h.release fun _ h => by
    split
    split
    exact .ok (State.Ok.settle (r := (_, _)) ((State.Ok.launchPkt h).fst_of ‹_›).retire))
theorem execTjoin_keeps {d : BitVec 5} {a : BitVec 4} : Keeps s (execTjoin d a s) :=
  issue_keeps fun _ _ h => .after fun _ => .ite (.ok h.buffer) (.bind h.release fun _ h =>
    .bind (State.Ok.joinRec h) fun _ h => .ok (State.Ok.settle (r := (_, _)) (State.Ok.retire h)))
theorem execGrec_keeps {a : BitVec 4} {b : BitVec 5} : Keeps s (execGrec a b s) :=
  issue_keeps fun _ _ h => .after fun _ => by
    extract_lets
    split
    · exact .error
    · split
      · exact .error
      · refine .ite .error (.ite (.ok h.buffer) (.bind h.release fun _ h => ?_))
        split
        extract_lets _ _ sr
        have hr : sr.1.Ok := State.Ok.acceptRec h
        exact .ok (State.Ok.settleAll (r := (_, _)) hr.retire)
theorem execOclm_keeps {b : BitVec 6} {n : BitVec 7} : Keeps s (execOclm b n s) :=
  issue_keeps fun _ _ h => .ite .error (.ite (by
    split
    · exact .ok h.takeSlots.retire
    · exact .ok h.setCore.stall
    · exact .error) (.ite (.ok h.takeSlots.retire) (.ok h.setCore.stall)))
theorem execOrls_keeps : Keeps s (execOrls s) := issue_keeps fun _ _ h => by
  split
  · exact .ok h.retire
  · exact .ite (.ok h.buffer) (.ok h.retire.passSlots)
theorem execMseed_keeps {a : BitVec 5} : Keeps s (execMseed a s) := issue_keeps fun _ _ h => .ok h.retire
theorem execSmovp_keeps {p j : BitVec 5} : Keeps s (execSmovp p j s) := issue_keeps fun _ _ h => .ok h.retire

end
end Sys2Proof.Machine

namespace Sys2Proof.Machine
set_option Elab.async false

/-! ### Matrix and copy instructions -/

section
variable {s : State} {act : Act}

theorem mmasOp_keeps {i : Instr} {a b n : Nat} : Keeps s (mmasOp i act a b n s) := issue_keeps fun _ _ h => h.matrixIssue
theorem execMold_keeps {b : BitVec 6} {n : BitVec 7} {a : BitVec 5} {side : Bool} : Keeps s (execMold act b n a side s) :=
  issue_keeps fun _ _ h => h.matrixIssue
theorem execMacz_keeps {c n : BitVec 5} : Keeps s (execMacz act c n s) := issue_keeps fun _ _ h => h.matrixIssue
theorem execMacld_keeps {a : BitVec 4} {p c : BitVec 5} {m n : BitVec 3} : Keeps s (execMacld act a p c m n s) :=
  issue_keeps fun _ _ h => h.matrixIssue
theorem execMma_keeps {a b : BitVec 6} {c : BitVec 5} {m n : BitVec 3} {fa fb : BitVec 4} {z : Bool} :
    Keeps s (execMma act a b c m n fa fb z s) := issue_keeps fun _ _ h => h.matrixIssue
theorem execMmap_keeps {a b : BitVec 6} {c : BitVec 5} {m n : BitVec 3} {fa fb : BitVec 4} {z : Bool} :
    Keeps s (execMmap act a b c m n fa fb z s) := issue_keeps fun _ _ h => h.matrixIssue
theorem execMacst_keeps {d : BitVec 4} {p c : BitVec 5} {m n : BitVec 3} {f : BitVec 4} {sr : Bool} {x : BitVec 4} :
    Keeps s (execMacst act d p c m n f sr x s) :=
  issue_keeps fun _ _ h => .bind h.matrixIssue fun _ h => .ok (.ite h.mapTask h)
theorem execMwclr_keeps : Keeps s (execMwclr act s) := issue_keeps fun _ _ h => h.matrixIssue
theorem execMwst_keeps {d : BitVec 4} {p : BitVec 5} {m n : BitVec 3} : Keeps s (execMwst act d p m n s) :=
  issue_keeps fun _ _ h => h.matrixIssue
theorem execRboard_keeps {b : BitVec 6} {l f n m : BitVec 5} : Keeps s (execRboard act b l f n m s) :=
  issue_keeps fun _ _ h => h.matrixIssue

theorem execCpy_keeps {d a : BitVec 4} {n : BitVec 5} : Keeps s (execCpy act d a n s) :=
  issue_keeps fun _ _ h => .after fun _ => h.copyIssue
theorem tcopyOp_keeps {i : Instr} {r : BitVec 4} {a c : BitVec 5} {st : Bool} : Keeps s (tcopyOp i act r a c st s) :=
  issue_keeps fun _ _ h => .after fun _ => .after fun _ => .ite .error h.copyIssue
theorem execTcopyo_keeps {r : BitVec 4} {b : BitVec 6} {c : BitVec 5} : Keeps s (execTcopyo act r b c s) :=
  issue_keeps fun _ _ h => .after fun _ => .after fun _ => .ite .error (.ite .error h.copyIssue)
theorem osliceOp_keeps {i : Instr} {a : BitVec 5} {b n c : Nat} {opb : Bool} : Keeps s (osliceOp i act a b n c opb s) :=
  issue_keeps fun _ _ h => .after fun _ => h.copyIssue
theorem indexedOp_keeps {i : Instr} {d : BitVec 5} {a x : BitVec 4} {n w t : BitVec 5} {st : Bool} :
    Keeps s (indexedOp i act d a x n w t st s) := issue_keeps fun _ _ h => .after fun _ => h.copyIssue
theorem execCpyred_keeps {d : BitVec 4} {a n : BitVec 5} {op : BitVec 3} {ty : BitVec 2} :
    Keeps s (execCpyred act d a n op ty s) := issue_keeps fun _ _ h => .after fun _ => .ite .error h.copyIssue
theorem queueOp_keeps {i : Instr} {q : Nat} {a : BitVec 4} {l e n : BitVec 5} {sink : Bool} :
    Keeps s (queueOp i act q a l e n sink s) := issue_keeps fun _ _ h => .after fun _ => h.copyIssue
theorem execSpref_keeps {a : BitVec 4} {n : BitVec 5} : Keeps s (execSpref act a n s) :=
  issue_keeps fun _ _ h => .after fun _ => h.copyIssue
theorem execCstat_keeps {d : BitVec 5} : Keeps s (execCstat d s) := issue_keeps fun _ _ h => .ok h.retire
theorem execCollred_keeps {g : BitVec 4} {d a n : BitVec 5} {op : BitVec 3} {ty : BitVec 2} {arr : Bool} :
    Keeps s (execCollred act g d a n op ty arr s) :=
  issue_keeps fun _ _ h => .after fun _ => .ite .error (.after fun _ => h.collIssue)
theorem execCollbc_keeps {g : BitVec 4} {d n : BitVec 5} : Keeps s (execCollbc act g d n s) :=
  issue_keeps fun _ _ h => .after fun _ => .after fun _ => h.collIssue
theorem collsendOp_keeps {i : Instr} {g : BitVec 4} {m a n : BitVec 5} {kind : CollKind} :
    Keeps s (collsendOp i act g m a n kind s) := issue_keeps fun _ _ h => .after fun _ => .after fun _ => h.collIssue

/-! ### Vector memory and the paired word -/

theorem execVatom_keeps {w : VW} : Keeps s (execVatom w s) := memWord_keeps fun h => rmwBody_ok h
theorem execVfadd_keeps {w : VW} : Keeps s (execVfadd w s) := memWord_keeps fun h => rmwBody_ok h
theorem execVatomcas_keeps {w : VW} : Keeps s (execVatomcas w s) := by
  unfold execVatomcas
  exact memWord_keeps fun h => vatomBody_ok (fun h => h.applyCas) h
theorem execPairedWord_keeps : Keeps s (execPairedWord s) := by
  unfold execPairedWord
  split
  · exact .next id
  · extract_lets
    split
    · exact issue_keeps fun _ _ _ => .ite .error .error
    · exact vecRun_keeps

/-! ### System instructions -/

theorem State.Ok.tickDie (h : s.Ok) {t : Task} : (s.tickDie t).Ok := h
theorem State.Ok.writeScrway (h : s.Ok) {c : Nat} {w : Word} : Yields State.Ok (s.writeScrway c w) :=
  .ite .error (.ite (.ok h) (.ok h.setCore))
theorem State.Ok.expireCycles (h : s.Ok) {u : Nat} {k : StreamId} : (s.expireCycles u k).Ok := by
  unfold State.expireCycles
  split
  · exact h
  · split <;> exact h
theorem execSysrd_keeps {d : BitVec 5} {i : BitVec 12} : Keeps s (execSysrd d i s) := issue_keeps fun _ _ h => by
  extract_lets s1
  have h1 : s1.Ok := .ite h.tickDie h
  exact .after fun _ => .ite .error (.ok h1.retire)
theorem execSyswr_keeps {a : BitVec 5} {i : BitVec 12} : Keeps s (execSyswr a i s) :=
  issue_keeps fun _ _ h => .after fun _ => .ite .error
    (.ite (.bind h.writeScrway fun _ h => .ok (State.Ok.retire h)) (.ok h.retire))
theorem execTrap_keeps {c : BitVec 8} : Keeps s (execTrap c s) := issue_keeps fun _ _ h => .ok h.setTask.takeTrap
theorem execBkpt_keeps : Keeps s (execBkpt s) := issue_keeps fun _ _ _ => .error
theorem execEret_keeps : Keeps s (execEret s) := issue_keeps fun _ _ h => .ite (.ok h.setTask) .error
theorem execYield_keeps : Keeps s (execYield s) := issue_keeps fun _ _ h => .ok h.setTask
theorem execCycles_keeps {a : BitVec 5} {i : BitVec 14} : Keeps s (execCycles a i s) :=
  issue_keeps fun _ _ h => .ite (.ok h.retire) (.ok h.setTask)
theorem execEndStream_keeps : Keeps s (execEndStream s) :=
  issue_keeps fun _ _ h => .ite .error (.ok h.setTask.testDeadlock)
theorem execKill_keeps : Keeps s (execKill s) := issue_keeps fun _ _ h => .ok h.setTask

/-! ### Events of tasks, cores and blocks -/

theorem execTrapEntry_keeps {u : Nat} : Keeps s (execTrapEntry u s) := .next fun h => by
  split
  · exact .ite h.enterPending h
  · exact h
theorem execMatrixOpCompletion_keeps {u o : Nat} : Keeps s (execMatrixOpCompletion u o s) := .next fun h => by
  split
  · split
    · exact .ite (h.completeMop finishOk_finishOp) h
    · exact h
  · exact h
theorem execCopyCompletion_keeps {u o : Nat} : Keeps s (execCopyCompletion u o s) := .next fun h => by
  split
  · split
    · exact .ite (h.runCop finishOk_finishOp) h
    · exact h
  · exact h
theorem execTilePassage_keeps {c : Nat} {crc : Bool} : Keeps s (execTilePassage c crc s) := .next fun h => .ite h.passTile h
theorem execLayerStart_keeps : Keeps s (execLayerStart s) := .next fun h => .ite h.nextLayer h
theorem execPxwLanePerform_keeps {d l : Nat} : Keeps s (execPxwLanePerform d l s) := .next fun h => by
  split
  · exact .ite h.performPxw h
  · exact h
theorem execTaskRetire_keeps {u : Nat} : Keeps s (execTaskRetire u s) := .next fun h => by
  split
  · exact .ite h.retireTask h
  · exact h
theorem execPlaceBlock_keeps {cs bs : List Nat} : Keeps s (execPlaceBlock cs bs s) := .next fun h => by
  split
  · split
    · exact .ite h.placeAt h
    · exact h
  · exact h
theorem execBlockEviction_keeps {b : Nat} : Keeps s (execBlockEviction b s) := .next fun h => by
  cases hb : (s.block? b).bind s.leaveHeld with
  | none => exact h
  | some v =>
    obtain ⟨x, _, e⟩ := Option.bind_eq_some_iff.1 hb
    exact h.leaveHeld v e
theorem execBlockResumption_keeps {b : Nat} {cs bs : List Nat} : Keeps s (execBlockResumption b cs bs s) := .next fun h => by
  split
  · split
    · exact .ite h.placeAt h
    · exact h
  · exact h
theorem execCommit_keeps {l : Nat} : Keeps s (execCommit l s) := .next fun h => by
  split
  · exact .ite h.commitNow h
  · exact h
theorem execStallExpiry_keeps {u : Nat} : Keeps s (execStallExpiry u s) := .next fun h => by
  split <;> exact h
theorem execStoreQueueDrain_keeps {u : Nat} {k : StreamId} : Keeps s (execStoreQueueDrain u k s) := .next fun h => by
  split
  · exact .ite h (.ite h.landOne h.drainOne.setTask)
  · exact h
theorem execDebugHaltRequest_keeps {u : Nat} : Keeps s (execDebugHaltRequest u s) := .next fun h => .ite h (by
  split
  · exact .ite (.ite h.wakeNap.wakeIdle.takeTrap h.wakeNap.wakeIdle) h
  · exact h)
theorem execDebugResume_keeps {u : Nat} : Keeps s (execDebugResume u s) := .next fun h => by
  split
  · exact .ite h.setTask h
  · exact h

end
end Sys2Proof.Machine

namespace Sys2Proof.Machine
set_option Elab.async false

section
variable {s : State}

/-! ### Events of queues and messages -/

theorem execNotify_keeps {i : Nat} {w : Dword} : Keeps s (execNotify i w s) := .next fun h => .ite h.notify h
theorem execMapQueue_keeps {c : Dword} : Keeps s (execMapQueue c s) := command_keeps fun _ => .next fun h => .ite h.queueCmd h
theorem execUnmapQueue_keeps {c : Dword} : Keeps s (execUnmapQueue c s) := command_keeps fun _ => .next fun h => .ite h.queueCmd h
theorem execDispatch_keeps {i : Nat} : Keeps s (execDispatch i s) := .next fun h => h.turn fun h => h.takeDispatch
theorem execGraph_keeps {i : Nat} : Keeps s (execGraph i s) := .next fun h => h.turn fun h => h.takeGraph
theorem execJoin_keeps {i : Nat} : Keeps s (execJoin i s) := .next fun h => h.turn fun h => h.hold
theorem execMarker_keeps {i : Nat} : Keeps s (execMarker i s) := .next fun h => h.turn fun h => h.hold
theorem execBadpacket_keeps {i : Nat} : Keeps s (execBadpacket i s) := .next fun h => h.turn fun h => h.queueError
theorem execRingfault_keeps {i : Nat} : Keeps s (execRingfault i s) := .next fun h => by
  split
  · split
    · exact .ite h.served.queueError h
    · exact h
  · exact h
theorem execCnp_keeps {q : Nat} : Keeps s (execCnp q s) := .next fun h => by
  split
  · exact .ite h.setQp.countMreg h
  · exact h
theorem execLocalAckTimeout_keeps {q : Nat} : Keeps s (execLocalAckTimeout q s) := .next fun h => by
  split
  · exact .ite h (.ite h.setQp h.setQp.send)
  · exact h
theorem execRefusedOperation_keeps {q : Nat} : Keeps s (execRefusedOperation q s) :=
  State.request_keeps (.next State.Ok.invalidRequest)
theorem execSend_keeps {q : Nat} {p : List Byte} : Keeps s (execSend q p s) :=
  State.request_keeps (.next fun h => h.serveSend)
theorem execRdmaWrite_keeps {q : Nat} {key : Word} {va : Dword} {d : List Byte} : Keeps s (execRdmaWrite q key va d s) :=
  State.request_keeps State.serveWrite_keeps
theorem execRdmaRead_keeps {q n : Nat} {key : Word} {va : Dword} : Keeps s (execRdmaRead q key va n s) :=
  State.request_keeps State.serveHeld_keeps
theorem execConnectionRequest_keeps {p : Nat} {d : List Byte} : Keeps s (execConnectionRequest p d s) := .next fun h =>
  .ite h (.ite h.send h)
theorem execFlaoriRequest_keeps {m : FlaoriMsg} : Keeps s (execFlaoriRequest m s) := .next fun h => .ite h (by
  extract_lets s1
  have h1 : s1.Ok := h.takeOrd
  split
  · exact h1.noteBad
  · split
    split
    rename_i e _ _ _ e'
    have h3 : State.Ok _ := (State.Ok.takeOrd (h1.takeOrd.fst_of e)).fst_of e'
    exact h3.arriveMsg)
theorem execFlaoriChunk_keeps {a b c : Nat} {t : Word} {d : List Byte} {g : Bool} : Keeps s (execFlaoriChunk a t b c d g s) :=
  .next fun h => by
    split
    · exact .ite h (.ite h.countMreg.pullFailed (.ite h.chunkIn h.pullFailed))
    · exact h
theorem execFlaoriLostChunk_keeps {a b c : Nat} {t : Word} : Keeps s (execFlaoriLostChunk a t b c s) := .next fun h => by
  split
  · exact .ite h.pullFailed h
  · exact h
theorem execFlaoriSilenceTimeout_keeps {p : Nat} : Keeps s (execFlaoriSilenceTimeout p s) :=
  .next fun h => .ite h (h.frame.foldl fun h _ => h.abandon)
theorem execFlaoriKeepalive_keeps {p : Nat} : Keeps s (execFlaoriKeepalive p s) := .next fun h => .ite h h
theorem execLinkDown_keeps {p : Nat} : Keeps s (execLinkDown p s) := .next fun h => .ite h h.countMreg.setMfield.setMfield
theorem execLinkUp_keeps {p : Nat} : Keeps s (execLinkUp p s) := .next fun h => .ite h h.setMfield.setMfield
theorem execDroppedFrame_keeps {p : Nat} {y : DropWhy} : Keeps s (execDroppedFrame p y s) := .next fun h => .ite h (by
  cases y <;> exact h)

/-! ### Events of memory and its errors -/

theorem execSelfRefreshEntry_keeps {c : Channel} : Keeps s (execSelfRefreshEntry c s) := .next fun h => .ite h h
theorem execSelfRefreshExit_keeps {c : Channel} : Keeps s (execSelfRefreshExit c s) := .next fun h => .ite h h
theorem execScrubRead_keeps {n : Nat} {f : ScrubFound} {r : Bool} : Keeps s (execScrubRead n f r s) := .next fun h => by
  split
  · refine .ite h ?_
    extract_lets s1
    have h1 : s1.Ok := by
      subst s1
      split <;> exact h
    refine .ite h1 ?_
    split
    · exact h1
    · exact h1.countMreg
    · rename_i g _ _
      cases g with
      | none => exact h1.countMreg
      | some _ => exact h1.setPoison.countMreg
  · exact h
theorem execSoftError_keeps {e : ErrSite} {d : Bool} : Keeps s (execSoftError e d s) := .next fun h => by
  split
  · refine .ite h.countMreg.hardError ?_
    split
    · exact h.countSlice.autoRetire
    · exact h.countMreg
  · exact h
theorem execSliceAutoRetire_keeps {d : Nat} {x : BitVec 4} : Keeps s (execSliceAutoRetire d x s) :=
  .next fun h => .ite h h.countSlice.autoRetire
theorem execPageReadDone_keeps {i : Nat} {r : ReadResult} : Keeps s (execPageReadDone i r s) := .next fun h => .ite h.readDone h
theorem execWriteBackDone_keeps {p : BitVec 3} {r : WriteResult} : Keeps s (execWriteBackDone p r s) := .next fun h => by
  split
  · refine .ite h (.ite h.advanceReclaim ?_)
    cases r with
    | ok => exact h.ssdWrite.reclaimDone
    | media => exact h.reclaimFailed
    | nodev => exact h.reclaimFailed
  · exact h
theorem execAdminCompletion_keeps {d : BitVec 3} {e : List Byte} : Keeps s (execAdminCompletion d e s) :=
  .next fun h => .ite h.frame.engineWrite.setMfield h
theorem execNvmeCommandTimeout_keeps {i : Nat} : Keeps s (execNvmeCommandTimeout i s) := .next fun h => .ite h (by
  split
  · exact h.frame.readDone
  · split
    · exact h.frame.reclaimFailed
    · split
      · exact h.frame.adminLost
      · exact h)
theorem execSsdReady_keeps {d : BitVec 3} : Keeps s (execSsdReady d s) := .next fun h => .ite h.ssdStart.setMfield h
theorem execSsdLinkDown_keeps {d : BitVec 3} : Keeps s (execSsdLinkDown d s) := .next fun h => h.setMfield
theorem execHealthPoll_keeps {d : BitVec 3} {l : Option Dword} : Keeps s (execHealthPoll d l s) := by
  unfold execHealthPoll
  extract_lets s1
  refine .next fun h => ?_
  have h1 : s1.Ok := .ite h h
  split
  · exact .ite h1.setMreg h1
  · exact h1

/-! ### Events of power, start-up and security -/

theorem execBoot_keeps {e : BootEnv} : Keeps s (execBoot e s) := .next fun h => .ite .startUp h
theorem execStageTimeout_keeps {x : BitVec 8} : Keeps s (execStageTimeout x s) := .next fun h => .ite .startUp h
theorem execGetMeasurements_keeps {q : Nat} {i : BitVec 8} : Keeps s (execGetMeasurements q i s) := .next fun h => .ite h (by
  split <;> exact h)
theorem execDebugRequest_keeps {d : DebugState} {p : BitVec 3} {g : Bool} : Keeps s (execDebugRequest d p g s) :=
  .next fun h => .ite h h
theorem execFuseCommand_keeps {t : SecState} {g : Bool} : Keeps s (execFuseCommand t g s) := .next fun h => .ite h h
theorem execIdleEntry_keeps : Keeps s (execIdleEntry s) := .next fun h => .ite h.setPower h
theorem execIdleWake_keeps : Keeps s (execIdleWake s) := .next fun h => .ite h.wakeIdle h
theorem execNapWake_keeps : Keeps s (execNapWake s) := .next fun h => .ite h.wakeNap h
theorem execPowerLoss_keeps : Keeps s (execPowerLoss s) := .next fun _ => .powerOff
theorem execRegisterWrite_keeps {o : Nat} {v : Dword} : Keeps s (execRegisterWrite o v s) := .ite State.regWrite_keeps (.next id)

end
end Sys2Proof.Machine

namespace Sys2Proof.Machine
set_option Elab.async false

/-! ### Every instruction and every event -/

/-- Every instruction and every event goes on, to canonical bytes where it finds them. -/
theorem exec_keeps (i : Instr) (s : State) : Keeps s (exec i s) := by
  cases i with
  | add | sub | and | or | xor | mul | mulhI32 | mulhB32 | divI32 | divB32 | remI32 | remB32 | minI32 | maxI32 |
    minB32 | maxB32 => exact opR_keeps
  | shl | shr | sra | slt | sltb | seq | clz | popc => rw [exec]; exact opR_keeps
  | add64 | sub64 | mul64 => exact opP_keeps
  | shl64 | shr64 => rw [exec]; exact opPR_keeps
  | sel | addi64 | lui | addpc | nop => rw [exec]; exact streamOp_keeps
  | addi | andi | ori | xori => exact opI_keeps
  | slti => rw [exec]; exact opI_keeps
  | shli | shri | srai => exact opC_keeps
  | beq | bne | blt | bltb => exact opB_keeps
  | bge | bgeb => rw [exec]; exact opB_keeps
  | jal => exact execJal_keeps
  | jalr => exact execJalr_keeps
  | loopn => exact execLoopn_keeps
  | ldB8 | ldI8 | ldB16 | ldI16 | ldW | ldD | ldroW | ldroD => rw [exec]; exact loadOp_keeps
  | stB8 | stB16 | stW | stD => rw [exec]; exact storeOp_keeps
  | atomAdd | atomMinI | atomMaxI | atomMinB | atomMaxB | atomAnd | atomOr | atomXor | atomExch |
    atomAddF32 => exact atomOp_keeps
  | atomcasB32 | atomcasB64 => rw [exec]; exact casOp_keeps
  | sig => exact execSig_keeps
  | wait => exact execWait_keeps
  | bara | bare => rw [exec]; exact arriveOp_keeps
  | barw => exact execBarw_keeps
  | sbara => exact execSbara_keeps
  | sbarw => exact execSbarw_keeps
  | fenceRel => exact execFenceRel_keeps
  | fenceAcq => exact execFenceAcq_keeps
  | fenceAr => exact execFenceAr_keeps
  | cwait => exact execCwait_keeps
  | fres | fflt => exact resolveOp_keeps
  | ftry => exact execFtry_keeps
  | fstat => exact execFstat_keeps
  | tlaunch => exact execTlaunch_keeps
  | tjoin => exact execTjoin_keeps
  | grec => rw [exec]; exact execGrec_keeps
  | mif | melse | mjoin | msave | mbreak | pmovs => rw [exec]; exact maskOp_keeps
  | bmany | bmnone => rw [exec]; exact maskBranch_keeps
  | smovp => exact execSmovp_keeps
  | sysrd => exact execSysrd_keeps
  | syswr => exact execSyswr_keeps
  | trap => exact execTrap_keeps
  | cycles => exact execCycles_keeps
  | oclm => exact execOclm_keeps
  | mold => exact execMold_keeps
  | mma => exact execMma_keeps
  | mmap => exact execMmap_keeps
  | mmasFull | mmasTri => exact mmasOp_keeps
  | mwclr => exact execMwclr_keeps
  | mwst => exact execMwst_keeps
  | macz => exact execMacz_keeps
  | macld => exact execMacld_keeps
  | macst => exact execMacst_keeps
  | rboard => exact execRboard_keeps
  | mseed => exact execMseed_keeps
  | cpy => exact execCpy_keeps
  | tcopy | tcopySt => exact tcopyOp_keeps
  | tcopyo => exact execTcopyo_keeps
  | osliceA | osliceB => exact osliceOp_keeps
  | gather | scatter => exact indexedOp_keeps
  | cpyred => exact execCpyred_keeps
  | qfill | qsink => exact queueOp_keeps
  | collred => exact execCollred_keeps
  | collbc => exact execCollbc_keeps
  | collsendSend | collsendRecv => exact collsendOp_keeps
  | spref => exact execSpref_keeps
  | cstat => exact execCstat_keeps
  | fadd | fsub | fmul | ffma | ffnma | fmin | fmax | fceq | fcne | fclt | fcle | fcun | fclass | frnd | dadd | dsub |
    dmul | dfma | dfnma | dmin | dmax | dceq | dcne | dclt | dcle | dcun | drnd | hadd2 | hsub2 | hmul2 | hfma2 |
    hmin2 | hmax2 | dot2 | dot4 | idot4 | rcp | rsq | sqrt | exp2 | log2 | sinpi | cospi | tanh | drcp | dsqrt |
    iadd | isub | imul | imad | imulh | imin | imax | iabs | ishl | ishr | isra | vlut | isum3 | iceq | icne | iclt |
    icle | icltb | icleb | vpopc | vclz | brev | bfx | bfi | iadd64 | imad64 | cvt | cvti | pk2 | pk4 | unpk2 |
    unpk4 | mxq | mxdq | vmov | vmovi | vsel | viota | vperm | bcast | redux | scan | vtag | vunif | vdef |
    vmovsToVector | vmovsToScalar | vreadl | plut | pmov => exact wideRun_keeps
  | vatom => exact execVatom_keeps
  | vatomcas => exact execVatomcas_keeps
  | vfadd => exact execVfadd_keeps
  | fenceRo => exact execFenceRo_keeps
  | eret => exact execEret_keeps
  | yield => exact execYield_keeps
  | bkpt => exact execBkpt_keeps
  | endStream => exact execEndStream_keeps
  | kill => exact execKill_keeps
  | orls => exact execOrls_keeps
  | pairedWord => exact execPairedWord_keeps
  | cyclesExpiry => exact .next fun h => h.expireCycles
  | stallExpiry => exact execStallExpiry_keeps
  | runGrant => exact .next fun h => h.grantRun
  | matrixOpCompletion => exact execMatrixOpCompletion_keeps
  | copyCompletion => exact execCopyCompletion_keeps
  | tilePassage => exact execTilePassage_keeps
  | layerStart => exact execLayerStart_keeps
  | pxwLanePerform => exact execPxwLanePerform_keeps
  | trapEntry => exact execTrapEntry_keeps
  | taskRetire => exact execTaskRetire_keeps
  | placeBlock => exact execPlaceBlock_keeps
  | blockEviction => exact execBlockEviction_keeps
  | blockResumption => exact execBlockResumption_keeps
  | commit => exact execCommit_keeps
  | dispatch => exact execDispatch_keeps
  | join => exact execJoin_keeps
  | joinRelease => exact .next fun h => h.releaseJoin
  | graph => exact execGraph_keeps
  | marker => exact execMarker_keeps
  | markerResolve => exact .next fun h => h.resolveMarker
  | batchFlushTimeout => exact .next fun h => h.flushNode
  | notify => exact execNotify_keeps
  | mapQueue => exact execMapQueue_keeps
  | unmapQueue => exact execUnmapQueue_keeps
  | send => exact execSend_keeps
  | rdmaWrite => exact execRdmaWrite_keeps
  | rdmaRead => exact execRdmaRead_keeps
  | refusedOperation => exact execRefusedOperation_keeps
  | cnp => exact execCnp_keeps
  | connectionRequest => exact execConnectionRequest_keeps
  | create => exact execCreate_keeps
  | destroy => exact execDestroy_keeps
  | rgninv => exact execRgninv_keeps
  | flaoriRequest => exact execFlaoriRequest_keeps
  | flaoriChunk => exact execFlaoriChunk_keeps
  | flaoriSilenceTimeout => exact execFlaoriSilenceTimeout_keeps
  | linkDown => exact execLinkDown_keeps
  | linkUp => exact execLinkUp_keeps
  | tlbicmdPartition => exact execTlbicmdPartition_keeps
  | tlbicmdRange => exact execTlbicmdRange_keeps
  | pageReadDone => exact execPageReadDone_keeps
  | evict => exact execEvict_keeps
  | writeBackDone => exact execWriteBackDone_keeps
  | nvmeCommandTimeout => exact execNvmeCommandTimeout_keeps
  | admaddr => exact execAdmaddr_keeps
  | ssdReset => exact execSsdReset_keeps
  | healthPoll => exact execHealthPoll_keeps
  | selfRefreshEntry => exact execSelfRefreshEntry_keeps
  | scrubRead => exact execScrubRead_keeps
  | softError => exact execSoftError_keeps
  | retire => exact execRetire_keeps
  | sliceAutoRetire => exact execSliceAutoRetire_keeps
  | clr => exact execClr_keeps
  | apply => exact execApply_keeps
  | swap => exact execSwap_keeps
  | boot => exact execBoot_keeps
  | stageTimeout => exact execStageTimeout_keeps
  | recover => rw [exec]; exact execRecover_keeps
  | update => rw [exec]; exact execUpdate_keeps
  | getMeasurements => exact execGetMeasurements_keeps
  | load => exact execLoad_keeps
  | speedWrite => exact execSpeedWrite_keeps
  | pwrcmdNap => exact execPwrcmdNap_keeps
  | pwrcmdSleep => exact execPwrcmdSleep_keeps
  | pwrcmdWake => exact execPwrcmdWake_keeps
  | pwrcmdOff => exact execPwrcmdOff_keeps
  | idleEntry => exact execIdleEntry_keeps
  | idleWake => exact execIdleWake_keeps
  | napWake => exact execNapWake_keeps
  | powerLoss => exact execPowerLoss_keeps
  | debugHaltRequest => exact execDebugHaltRequest_keeps
  | debugResume => exact execDebugResume_keeps
  | registerWrite => exact execRegisterWrite_keeps
  | storeQueueDrain => exact execStoreQueueDrain_keeps
  | scoreboardedWordCompletion => exact .next fun h => h.completeWord
  | badpacket => exact execBadpacket_keeps
  | ringfault => exact execRingfault_keeps
  | droppedFrame => exact execDroppedFrame_keeps
  | selfRefreshExit => exact execSelfRefreshExit_keeps
  | adminCompletion => exact execAdminCompletion_keeps
  | ssdReady => exact execSsdReady_keeps
  | ssdLinkDown => exact execSsdLinkDown_keeps
  | localAckTimeout => exact execLocalAckTimeout_keeps
  | flaoriKeepalive => exact execFlaoriKeepalive_keeps
  | flaoriLostChunk => exact execFlaoriLostChunk_keeps
  | debugRequest => exact execDebugRequest_keeps
  | fuseCommand => exact execFuseCommand_keeps
  | vld | vldro => exact memWord_keeps loadBody_ok
  | vst => exact memWord_keeps storeBody_ok
  | vquad => exact memWord_keeps quadBody_ok
  | vpref => exact memWord_keeps prefBody_ok
  | pxw => exact memWord_keeps pxwBody_ok
  | vxm => exact memWord_keeps vxmBody_ok
  | xbox => exact memWord_keeps xboxBody_ok
  | xtri => exact memWord_keeps xtriBody_ok
  | xstep | xstepPop => exact memWord_keeps xstepBody_ok
  | xtile => exact memWord_keeps xtileBody_ok

/-- Settles O8: what each instruction and event answers, case by case. -/
theorem nothingStops : Obligations.NothingStops := fun i s => (exec_keeps i s).goesOn

end Sys2Proof.Machine

namespace Sys2Proof.Machine
set_option Elab.async false

/-! ### What the device does by itself -/

/-- Where there is a next state, it has canonical bytes. -/
def NextOk (o : Option State) : Prop := ∀ u ∈ o, u.Ok

section
variable {α : Type} {s u : State} {o p : Option State}

theorem NextOk.none : NextOk none := fun _ h => nomatch h
theorem NextOk.some (h : u.Ok) : NextOk (some u) := fun _ e => Option.mem_some.1 e ▸ h
theorem NextOk.ite {c : Prop} [Decidable c] (ho : NextOk o) (hp : NextOk p) : NextOk (if c then o else p) := by
  split
  · exact ho
  · exact hp
theorem NextOk.orElse (ho : NextOk o) (hp : NextOk p) : NextOk (o <|> p) := by
  cases o with
  | none => exact hp
  | some _ => exact ho
theorem NextOk.map {x : Option α} {f : α → State} (hf : ∀ a ∈ x, (f a).Ok) : NextOk (x.map f) := fun _ e => by
  obtain ⟨a, ha, rfl⟩ := Option.mem_map.1 e
  exact hf a ha
theorem NextOk.findSome? {l : List α} {f : α → Option State} (hf : ∀ a ∈ l, NextOk (f a)) : NextOk (l.findSome? f) :=
  fun u e => by
    obtain ⟨a, ha, e⟩ := List.exists_of_findSome?_eq_some e
    exact hf a ha u e
theorem NextOk.getD (ho : NextOk o) (h : u.Ok) : (o.getD u).Ok := by
  cases o with
  | none => exact h
  | some v => exact ho v rfl
theorem NextOk.ifNew (h : u.Ok) : NextOk (s.ifNew u) := .ite .none (.some h)

theorem NextOk.partNext (h : s.Ok) {t : Task} : NextOk (s.partNext t) := by
  unfold State.partNext
  split
  · exact .some (h.completeMop finishOk_landSome)
  · exact .map fun _ _ => h.runCop finishOk_landSome
theorem NextOk.taskWork (h : s.Ok) {t : Task} : NextOk (s.taskWork t) := by
  unfold State.taskWork
  refine .ite (.some h.completeWord) ?_
  have hp : NextOk (if Config.choice s.fresh 6000003 then (s.partNext t).bind s.ifNew else Option.none) := .ite (fun u e => by
    obtain ⟨v, hv, e⟩ := Option.bind_eq_some_iff.1 e
    exact NextOk.ifNew (NextOk.partNext h v hv) u e) .none
  split
  case h_1 e => exact .some (hp _ e)
  split
  · exact .some (h.completeMop finishOk_finishOp)
  split
  case h_1 e =>
    refine .some (NextOk.findSome? (fun o _ => ?_) _ e)
    exact .ite (.ifNew (h.runCop finishOk_finishOp)) .none
  refine .ite .none ?_
  split
  · exact .some h.drainOne.setTask
  · exact .ite (.some h.retireTask) .none
theorem NextOk.commitNext (h : s.Ok) : NextOk s.commitNext := .map fun _ _ => h.commitNow
theorem NextOk.evictHeld (h : s.Ok) : NextOk s.evictHeld := .findSome? fun _ _ => h.leaveHeld
theorem NextOk.pxwNext (h : s.Ok) : NextOk s.pxwNext := .map fun _ _ => h.performPxw
theorem NextOk.ringNext (h : s.Ok) : NextOk s.ringNext :=
  .ite .none (.ite (.map fun _ _ => h.passTile) (.some h.nextLayer))
theorem NextOk.pagesNext (h : s.Ok) : NextOk s.pagesNext := by
  unfold State.pagesNext
  split
  case h_1 e => exact .some (NextOk.findSome? (fun _ _ => .ifNew h.advanceReclaim) _ e)
  case h_2 => exact .ifNew h.tlbiSettle
theorem NextOk.swapNext (h : s.Ok) : NextOk s.swapNext := .ite .none (.map fun _ _ => h.setMfield.swap)
theorem NextOk.placeNext (h : s.Ok) {p : Nat} : NextOk (s.placeNext p) := .ite .none (by
  split
  · exact .none
  · split
    · exact .some h.placeAt
    · exact .map fun _ _ => h.placeAt)
theorem NextOk.serveQueues (h : s.Ok) : NextOk s.serveQueues := .ite .none (by
  split
  · split
    · refine .some (.ite h.served.queueError ?_)
      split
      · exact h.served.takeDispatch
      · exact h.served.takeGraph
      · exact h.served.hold
    · exact .some h.served.queueError
    · exact .none
  · refine .findSome? fun x _ => .ite (.some h.releaseJoin) (.ite (.some h.resolveMarker) ?_)
    split
    · exact .ite (.some h.startRead) .none
    · exact .none)
theorem NextOk.dispatchNext (h : s.Ok) : NextOk s.dispatchNext := by
  unfold State.dispatchNext
  split
  case h_1 e => exact .some (NextOk.swapNext h _ e)
  split
  case h_1 e => exact .some (NextOk.findSome? (fun _ _ => .placeNext h) _ e)
  split
  case h_1 e => exact .some (NextOk.serveQueues h _ e)
  case h_2 => exact .ite (.some h.wakeNap) .none
theorem NextOk.cyclesNext (h : s.Ok) : NextOk s.cyclesNext := .map fun _ _ => h.expireCycles
theorem NextOk.refreshNext (h : s.Ok) : NextOk s.refreshNext := .ite .none (.map fun _ _ => h.wakeChannel)
theorem NextOk.flushNext (h : s.Ok) : NextOk s.flushNext := .findSome? fun _ _ => .ifNew h.flushNode
theorem NextOk.qpNext (h : s.Ok) : NextOk s.qpNext := by
  unfold State.qpNext
  split
  · exact .none
  · split
    · exact .some h.setQp
    · refine .ite ?_ (.some h.setQp.send)
      split
      case h_1 e => exact .some (State.serveHeld_keeps.ok_of_next h.setQp e)
      case h_2 => exact .none
theorem NextOk.pullNext (h : s.Ok) : NextOk s.pullNext := by
  unfold State.pullNext
  split
  · exact .none
  · refine .ite .none ?_
    split
    · exact .some h
    · exact .some h
theorem NextOk.pathNext (h : s.Ok) : NextOk s.pathNext := .map fun _ _ => h.landOne

theorem State.Ok.requestDue (h : s.Ok) {q : Nat} {b : Bool} : (s.requestDue q b).Ok := h
theorem State.Ok.goOn (h : s.Ok) {w : DevWork} : (s.goOn w).Ok := by
  unfold State.goOn
  split
  · exact h.resolveVa.settle
  · exact h.moveOn.settle
  · split
    · exact h.launchBatch.settleAll
    · exact h
  · split
    · exact h.admitGrid.settleAll
    · exact h
  · exact h.graphShow.settle
  · exact h.devStore
  · exact h.notify
  · exact h.tryCommand
  · exact h.requestDue
theorem State.Ok.giveUp (h : s.Ok) {w : DevWork} : (s.giveUp w).Ok := by
  unfold State.giveUp
  split
  · split
    · exact h.loseBatch.settleAll
    · exact h
  · split
    · exact h.frame.refuse.settleAll
    · exact h
  all_goals exact h
theorem State.Ok.strayNext (h : s.Ok) : ∀ r ∈ s.strayNext, r.1.Ok := by
  unfold State.strayNext
  intro r e
  split at e
  · cases e
    exact h
  · obtain ⟨g, _, rfl⟩ := Option.mem_map.1 e
    exact (State.Ok.ite h.dropGraph h.setGraph).resolveGraph
theorem NextOk.devNext (h : s.Ok) : NextOk s.devNext := by
  unfold State.devNext
  split
  · exact .some (.ite h.frame.goOn h.frame.giveUp)
  · refine .map fun r e => State.Ok.settleAll ?_
    rcases Option.or_eq_some_iff.1 e with e | ⟨_, e⟩
    · exact h.strayNext r e
    · rcases Option.or_eq_some_iff.1 e with e | ⟨_, e⟩
      · exact h.heldStep r e
      · exact h.nodeStep r e
theorem NextOk.workNext (h : s.Ok) : NextOk s.workNext :=
  .orElse (.findSome? fun _ _ => .taskWork h) <| .orElse (.commitNext h) <| .orElse (.devNext h) <| .orElse (.evictHeld h) <|
  .orElse (.pxwNext h) <| .orElse (.pagesNext h) <| .orElse (.dispatchNext h) <| .orElse (.cyclesNext h) <|
  .orElse (.flushNext h) <| .orElse (.qpNext h) <| .orElse (.pullNext h) <| .orElse (.refreshNext h) (.ringNext h)
theorem NextOk.advance (h : s.Ok) : NextOk s.advance := by
  unfold State.advance
  split
  · exact .workNext h
  case h_2 e =>
    have hp := NextOk.pathNext h _ e
    refine .ite (.some hp) ?_
    split
    case h_1 e => exact .some (NextOk.workNext h _ e)
    case h_2 => exact .some hp
theorem State.Ok.arbTurn (h : s.Ok) {c : Nat} {k : StreamId} : (s.arbTurn c k).Ok := .ite h.grantRun (by
  split <;> exact h)
theorem NextOk.grantNext (h : s.Ok) : NextOk s.grantNext := .map fun _ _ => h.arbTurn

/-! ### The step -/

/-- The state in which a planned instruction runs, or that a plan has reached. -/
@[reducible] def Plan.state : Plan → State
  | .run _ s => s
  | .done s => s

theorem State.Ok.planFetch (h : s.Ok) {t : Task} {k : StreamId} : (s.planFetch t k).state.Ok := by
  unfold State.planFetch
  extract_lets
  split
  · exact h.stopped
  · extract_lets
    split
    · split
      · exact h.setTask
      · exact h.stopped
    · split
      · exact h.stopped
      · split
        · exact h
        · split
          · exact .ite h.setTask h
          · exact h.stopped
theorem State.Ok.plan (h : s.Ok) : s.plan.state.Ok := by
  unfold State.plan
  split
  · split <;> exact h
  split
  · exact h.enterPending
  split
  · split
    · exact h.planFetch
    · exact h.completeWord
  · exact NextOk.getD (.ite (.orElse (.advance h) (.grantNext h)) (.orElse (.grantNext h) (.advance h))) h
theorem step_keeps (s : State) : Keeps s (step s) := by
  have hp : s.Ok → s.bump.plan.state.Ok := fun h => State.Ok.plan (s := s.bump) h
  unfold step
  split
  case h_1 i s' e => exact .via (fun h => by simpa [e, Plan.state] using hp h) (exec_keeps i s')
  case h_2 s' e => exact .next fun h => by simpa [e, Plan.state] using hp h

/-- Settles O10: canonical bytes are kept by every operation that a step is made of. -/
theorem stepKeepsMemoryCanonical : Obligations.StepKeepsMemoryCanonical := fun s _ h e => (step_keeps s).ok_of_next h e

end
end Sys2Proof.Machine

namespace Sys2Proof.Machine
set_option Elab.async false

/-! ### Power commands (R417) -/

section
variable {s : State}

theorem State.powerCmd_ok {c : Nat} {ok : Power → Bool} {f : State → State} (h : s.byderOpen = true)
    (hp : ok s.byder.power = true) : s.powerCmd c ok f = f (s.powerResult c 0) := by
  simp [State.powerCmd, h, hp]
theorem State.powerCmd_refused {c : Nat} {ok : Power → Bool} {f : State → State} (h : s.byderOpen = true)
    (hp : ok s.byder.power = false) : s.powerCmd c ok f = s.powerResult c 1 := by
  simp [State.powerCmd, h, hp]

/-- The RESULT of a power command reads as it was written. -/
theorem State.mfield_powerResult (s : State) (c r : Nat) : (s.powerResult c r).mfield 0x2028 4 4 = r % 16 :=
  State.mfield_setMfield _ _ _ (by decide)

theorem State.mreg_eq_of_mgmt {u : State} (h : u.mgmt = s.mgmt) (o : Nat) : u.mreg o = s.mreg o := by
  rw [State.mreg, h, State.mreg]
theorem State.mfield_eq_of_mreg {u : State} {o : Nat} (h : u.mreg o = s.mreg o) (lo n : Nat) :
    u.mfield o lo n = s.mfield o lo n := by
  rw [State.mfield, h, State.mfield]
theorem State.mfield_eq_of_mgmt {u : State} (h : u.mgmt = s.mgmt) (o lo n : Nat) : u.mfield o lo n = s.mfield o lo n :=
  State.mfield_eq_of_mreg (State.mreg_eq_of_mgmt h o) lo n

/-- What keeping images leaves: everything beside them. -/
theorem State.foldl_keepImage (l : List Nat) (f : State → Nat → Nat) :
    ∀ s : State, ∃ i, l.foldl (fun (s : State) p => s.keepImage p (f s p)) s = { s with images := i } := by
  induction l with
  | nil => exact fun s => ⟨s.images, rfl⟩
  | cons p l ih =>
    intro s
    obtain ⟨i, h⟩ := ih (s.keepImage p (f s p))
    exact ⟨i, h⟩

theorem execPwrcmdNap_idle (h : s.byderOpen = true) (hp : s.byder.power = .idle) (hr : s.packetReady = false) :
    ∃ i, execPwrcmdNap s = .next (State.setPower { s.powerResult 1 0 with images := i } .nap) := by
  obtain ⟨i, e⟩ := State.foldl_keepImage (upto 8) State.activeImage (s.powerResult 1 0)
  refine ⟨i, ?_⟩
  rw [execPwrcmdNap, State.powerCmd_ok h (by simp [hp, hr]), e]

/-- SLEEP with the links off: every channel refreshes itself. -/
def State.asleepAll (s : State) : State := State.setPower { s with selfRefresh := allChannels } .sleep
theorem State.mgmt_asleepAll (s : State) : s.asleepAll.mgmt = s.mgmt := rfl
/-- The state in which SLEEP leaves the package. -/
def State.asleep (s : State) : State := (s.powerResult 2 0).linksOff.asleepAll
theorem execPwrcmdSleep_nap (h : s.byderOpen = true) (hp : s.byder.power = .nap) : execPwrcmdSleep s = .next s.asleep := by
  rw [execPwrcmdSleep, State.powerCmd_ok h (by simp [hp]), State.asleep, State.asleepAll]
theorem State.mfield_asleep (s : State) (o lo n : Nat) :
    s.asleep.mfield o lo n = (s.powerResult 2 0).linksOff.mfield o lo n :=
  State.mfield_eq_of_mgmt (State.mgmt_asleepAll _) o lo n

/-- A register beside those that a fold writes keeps what it has. -/
theorem State.mreg_foldl_setMfield {off : Nat → Nat} {lo n v o : Nat} {l : List Nat} (h : ∀ q ∈ l, o ≠ off q) :
    ∀ s : State, (l.foldl (fun (s : State) q => s.setMfield (off q) lo n v) s).mreg o = s.mreg o := by
  induction l with
  | nil => exact fun _ => rfl
  | cons q l ih =>
    intro s
    rw [List.foldl_cons, ih fun p hp => h p (List.mem_cons_of_mem _ hp),
      State.mreg_setMfield_ne _ _ _ _ (h q List.mem_cons_self)]
/-- A field that a fold writes in each of its registers reads as it was written. -/
theorem State.mfield_foldl_setMfield {off : Nat → Nat} (inj : ∀ {p q}, off p = off q → p = q) {lo n v x : Nat}
    (hn : lo + n ≤ 64) {l : List Nat} (h : x ∈ l) :
    ∀ s : State, (l.foldl (fun (s : State) q => s.setMfield (off q) lo n v) s).mfield (off x) lo n = v % 2 ^ n := by
  induction l with
  | nil => exact absurd h List.not_mem_nil
  | cons q l ih =>
    intro s
    rw [List.foldl_cons]
    by_cases hx : x ∈ l
    · exact ih hx _
    · obtain rfl : x = q := (List.mem_cons.1 h).resolve_right hx
      have e := State.mreg_foldl_setMfield (lo := lo) (n := n) (v := v) (o := off x) (l := l)
        (fun p hp e => hx (inj e ▸ hp)) (s.setMfield (off x) lo n v)
      rw [State.mfield, e, ← State.mfield, State.mfield_setMfield _ _ _ hn]

/-- Registers that no link has. -/
theorem State.mreg_linksOff (s : State) {o : Nat} (hq : ∀ q, o ≠ portRegs q + 0x18)
    (hk : ∀ k < 8, o ≠ 0x1000 + 0x100 * k) :
    s.linksOff.mreg o = s.mreg o := by
  unfold State.linksOff
  rw [State.mreg_foldl_setMfield (off := fun k => 0x1000 + 0x100 * k),
    State.mreg_foldl_setMfield (off := fun q => portRegs q + 0x18)]
  · exact fun q _ => hq q
  · intro k hk'
    exact hk k (by simpa [upto_eq_range] using hk')
theorem State.port_linksOff (s : State) {q : Nat} (h1 : 1 ≤ q) (h2 : q < 16) :
    s.linksOff.mfield (portRegs q + 0x18) 0 1 = 0 := by
  unfold State.linksOff
  rw [State.mfield, State.mreg_foldl_setMfield (off := fun k => 0x1000 + 0x100 * k)]
  · refine State.mfield_foldl_setMfield (off := fun q => portRegs q + 0x18) (lo := 0) (n := 1) (v := 0) ?_ (by decide) ?_ _
    · intro p q e
      simp only [portRegs] at e
      omega
    · simp [idxFrom_eq_range']
      omega
  · intro k _
    simp only [portRegs]
    have : k < 8 := by simp_all [upto_eq_range]
    omega

theorem mem_allChannels {ch : Channel} (h : Channel.dieNo ch < 4) : ch ∈ allChannels := by
  cases ch with
  | hbm d c => exact List.mem_flatMap.2 ⟨d, by simpa [upto_eq_range, Channel.dieNo] using h, List.mem_append_left _
      (List.mem_map.2 ⟨c.toNat, by simpa [upto_eq_range] using c.isLt, by simp⟩)⟩
  | lp6 d c => exact List.mem_flatMap.2 ⟨d, by simpa [upto_eq_range, Channel.dieNo] using h, List.mem_append_right _
      (List.mem_map.2 ⟨c.toNat, by simpa [upto_eq_range] using c.isLt, by simp⟩)⟩

/-! ### Register writes (R6) -/

/-- A register whose write may start a command. -/
def startsCommand (off : Nat) : Bool :=
  off = 0x2020 || off = 0x2028 || off = 0x0010 || off = 0x0100 || (0x0400 ≤ off && off < 0x0600 && off % 0x40 = 0x28) ||
  (0x0800 ≤ off && off < 0x0900 && off % 0x20 = 0) || (0x1000 ≤ off && off < 0x1800 && off % 0x100 = 0) ||
  (0x1000 ≤ off && off < 0x1800 && off % 0x100 = 0x88) || off = 0x2000 || off = 0x2038 ||
  (0x3000 ≤ off && off < 0x3200 && off % 0x40 = 0x38) || (0x3200 ≤ off && off < 0x3400 && off % 0x80 = 0x28) ||
  (0x3400 ≤ off && off < 0x3500 && off % 0x40 = 0) || off = 0x4008 || off = 0x4018

theorem State.byderOpen_mode (h : s.byderOpen = true) : s.byder.mode = .normal := by
  simp [State.byderOpen] at h
  exact h.1.1

/-- A write that starts no command changes the register's fields. -/
theorem State.regWrite_fields (h : s.byderOpen = true) {q off : Nat} (ho : startsCommand off = false) (v : Dword) :
    s.regWrite q off v = .next (s.writeFields off v) := by
  have hm : (s.byder.mode == .dawn) = false := by rw [State.byderOpen_mode h]; rfl
  simp only [startsCommand, Bool.or_eq_false_iff, decide_eq_false_iff_not] at ho
  simp only [State.regWrite, hm, h, ho, Bool.false_eq_true, Bool.not_true, if_false]

/-- The write of fields without a W1C bit (R6). -/
theorem State.mreg_setFields (s : State) {off : Nat} (hw : w1cMask off = 0) (v : Dword) :
    (s.setFields off v).mreg off =
      (s.mreg off &&& ~~~BitVec.ofNat 64 (rwMask off)) ||| (v &&& BitVec.ofNat 64 (rwMask off)) := by
  rw [State.setFields, State.mreg_setMreg_same, hw, BitVec.and_zero, BitVec.not_zero, BitVec.and_allOnes]
theorem State.mreg_setFields_ne (s : State) {off o : Nat} (v : Dword) (h : o ≠ off) :
    (s.setFields off v).mreg o = s.mreg o := State.mreg_setMreg_ne s _ h

/-- A register of which no write has a consequence beside its fields. -/
def fieldsAlone (off : Nat) : Bool :=
  !(0x0400 ≤ off && off < 0x0600 && off % 0x40 < 0x18) && off != 0x4010 && off != 0x4038 &&
  !(0x1000 ≤ off && off < 0x1800 && 8 ≤ off % 0x100 && off % 0x100 < 0x88)

theorem State.fieldsWritten_alone (s : State) {off : Nat} (h : fieldsAlone off = true) : s.fieldsWritten off = s := by
  simp only [fieldsAlone, Bool.and_eq_true, Bool.not_eq_true', bne_iff_ne] at h
  simp only [State.fieldsWritten, h, Bool.false_eq_true, Bool.false_and, if_false]

/-- A write of a register of the window that starts no command. -/
theorem exec_registerWrite_fields (h : s.byderOpen = true) {off : Nat} (hl : off < 0x10000) (h8 : off % 8 = 0)
    (ho : startsCommand off = false) (v : Dword) : exec (.registerWrite off v) s = .next (s.writeFields off v) := by
  simp only [exec_registerWrite, execRegisterWrite, hl, h8, decide_true, Bool.and_true, if_true]
  exact State.regWrite_fields h ho v
theorem State.writeFields_locked {off : Nat} (h : s.fieldsLocked off = true) (v : Dword) :
    s.writeFields off v = s := if_pos h
theorem State.writeFields_open {off : Nat} (h : s.fieldsLocked off = false) (v : Dword) :
    s.writeFields off v = (s.setFields off v).fieldsWritten off := by
  simp [State.writeFields, h]

/-- FFREE counts the pool (R385); no other register changes. -/
theorem State.mreg_freshPool (s : State) (p : Nat) :
    (s.freshPool p).mgmt = (s.setMfield (0x420 + 0x40 * p) 0 24 (s.frameCount p)).mgmt := by
  unfold State.freshPool
  extract_lets n base s1 inside s2
  split
  · rfl
  · exact (State.keepPast_only _ _).mgmt
theorem State.mfield_freshPool (s : State) (p : Nat) :
    (s.freshPool p).mfield (0x420 + 0x40 * p) 0 24 = s.frameCount p := by
  rw [State.mfield_eq_of_mgmt (s.mreg_freshPool p), State.mfield_setMfield _ _ _ (by decide)]
  exact Nat.mod_eq_of_lt (s.mfield_lt _ _ _)
theorem State.mreg_freshPool_ne (s : State) {p o : Nat} (h : o ≠ 0x420 + 0x40 * p) :
    (s.freshPool p).mreg o = s.mreg o := by
  rw [State.mreg_eq_of_mgmt (s.mreg_freshPool p), State.mreg_setMfield_ne _ _ _ _ h]

/-- A register that holds a pool's place or size, or its page table: FPBASE, FCOUNT and FRTAB of partition 0. -/
theorem exec_registerWrite_pool (h : s.byderOpen = true) {off : Nat} (ho : off ∈ [0x0400, 0x0408, 0x0410])
    (hl : s.fieldsLocked off = false) (v : Dword) :
    exec (.registerWrite off v) s = .next ((s.setFields off v).freshPool 0) := by
  have hb : off < 0x10000 ∧ off % 8 = 0 ∧ startsCommand off = false ∧
      (0x0400 ≤ off && off < 0x0600 && off % 0x40 < 0x18) = true ∧ (off - 0x400) / 0x40 = 0 := by
    clear hl
    revert off
    decide
  obtain ⟨h1, h2, h3, h4, h5⟩ := hb
  rw [exec_registerWrite_fields h h1 h2 h3, State.writeFields_open hl, State.fieldsWritten, if_pos h4, h5]

/-- What each command register starts. -/
theorem exec_registerWrite_open {off : Nat} (hl : off < 0x10000) (h8 : off % 8 = 0) (v : Dword) :
    exec (.registerWrite off v) s = s.regWrite 0 off v := by
  simp [execRegisterWrite, hl, h8]

theorem exec_registerWrite_tlbi (h : s.byderOpen = true) (v : Dword) : exec (.registerWrite 0x0100 v) s =
    if v.toNat / 8 % 2 = 1 then exec (.tlbicmdRange v) s else exec (.tlbicmdPartition v) s := by
  have hb : v[3] = decide (v.toNat / 8 % 2 = 1) := by
    simp [← BitVec.getLsbD_eq_getElem, BitVec.getLsbD, Nat.testBit_eq_decide_div_mod_eq]
  rw [exec_registerWrite_open (by decide) (by decide)]
  simp [State.regWrite, State.byderOpen_mode h, h, hb]
theorem exec_registerWrite_evict (h : s.byderOpen = true) (p : BitVec 3) (v : Dword) :
    exec (.registerWrite (0x0428 + 0x40 * p.toNat) v) s = exec (.evict p v) s := by
  have hp := p.isLt
  rw [exec_registerWrite_open (by omega) (by omega)]
  have hi : BitVec.ofNat 3 ((0x0428 + 0x40 * p.toNat - 0x400) / 0x40) = p := by
    rw [show (0x0428 + 0x40 * p.toNat - 0x400) / 0x40 = p.toNat by omega]
    simp
  have hr : 0x0400 ≤ 0x0428 + 0x40 * p.toNat ∧ 0x0428 + 0x40 * p.toNat < 0x0600 ∧
    (0x0428 + 0x40 * p.toNat) % 0x40 = 0x28 := by omega
  generalize 0x0428 + 0x40 * p.toNat = off at *
  have hn : off ≠ 0x2028 ∧ off ≠ 0x0010 ∧ off ≠ 0x0100 := by omega
  simp [State.regWrite, State.byderOpen_mode h, h, hn, hr, hi]
theorem exec_registerWrite_speed (h : s.byderOpen = true) (v : Dword) :
    exec (.registerWrite 0x2000 v) s = exec (.speedWrite v) s := by
  rw [exec_registerWrite_open (by decide) (by decide)]
  simp [State.regWrite, State.byderOpen_mode h, h]
theorem exec_registerWrite_power (h : s.byderOpen = true) (v : Dword) :
    exec (.registerWrite 0x2028 v) s = powerWrite v s := by
  rw [exec_registerWrite_open (by decide) (by decide)]
  simp [State.regWrite, State.byderOpen_mode h, h]

/-! ### The statement, in its parts -/

theorem powerCommands (h : s.byderOpen = true) :
    (s.byder.power = .idle → s.packetReady = false → ∃ s', exec .pwrcmdNap s = .next s' ∧ s'.byder.power = .nap ∧
      s'.mfield 0x2028 4 4 = 0 ∧ s'.mem = s.mem ∧ s'.tasks = s.tasks) ∧
    (s.byder.power ≠ .idle ∨ s.packetReady = true → exec .pwrcmdNap s = .next (s.powerResult 1 1)) ∧
    (s.byder.power = .nap → ∃ s', exec .pwrcmdSleep s = .next s' ∧ s'.byder.power = .sleep ∧ s'.mfield 0x2028 4 4 = 0 ∧
      (∀ ch, Channel.dieNo ch < 4 → ch ∈ s'.selfRefresh) ∧
      ∀ port, 1 ≤ port → port < 16 → s'.mfield (0x3618 + 0x20 * port) 0 1 = 0) ∧
    (s.byder.power ≠ .nap → exec .pwrcmdSleep s = .next (s.powerResult 2 1)) ∧
    (s.byder.power = .sleep → ∃ s', exec .pwrcmdWake s = .next s' ∧ s'.byder.power = .nap ∧ s'.mfield 0x2028 4 4 = 0) ∧
    (s.byder.power ≠ .sleep → exec .pwrcmdWake s = .next (s.powerResult 3 1)) ∧
    (∃ s', exec .pwrcmdOff s = .next s' ∧ s'.byder.power = .off ∧ s'.tasks = [] ∧ s'.ssd = s.ssd) := by
  refine ⟨fun hp hr => ?_, fun hp => ?_, fun hp => ?_, fun hp => ?_, fun hp => ?_, fun hp => ?_, ?_⟩
  · obtain ⟨i, e⟩ := execPwrcmdNap_idle h hp hr
    exact ⟨_, e, rfl, s.mfield_powerResult 1 0, rfl, rfl⟩
  · refine congrArg Host.Outcome.next (State.powerCmd_refused h ?_)
    rcases hp with hp | hp <;> simp [hp]
  · refine ⟨_, execPwrcmdSleep_nap h hp, rfl, ?_, fun _ => mem_allChannels, fun q h1 h2 => ?_⟩
    · rw [State.mfield_asleep, State.mfield_eq_of_mreg (State.mreg_linksOff _ (fun q => by simp only [portRegs]; omega)
        fun k hk => by omega), State.mfield_powerResult]
    · rw [State.mfield_asleep, show 0x3618 + 0x20 * q = portRegs q + 0x18 by simp only [portRegs]; omega,
        State.port_linksOff _ h1 h2]
  · exact congrArg Host.Outcome.next (State.powerCmd_refused h (by simp [hp]))
  · exact ⟨_, congrArg Host.Outcome.next (State.powerCmd_ok h (by simp [hp])), rfl, s.mfield_powerResult 3 0⟩
  · exact congrArg Host.Outcome.next (State.powerCmd_refused h (by simp [hp]))
  · exact ⟨_, congrArg Host.Outcome.next (State.powerCmd_ok h rfl), rfl, rfl, rfl⟩

end

/-- Settles O60: the commands by the power state they find, and the register writes by what each register's write is. -/
theorem powerAndRegisterWrites : Obligations.PowerAndRegisterWrites := by
  refine ⟨fun s h => powerCommands h, fun s => ?_, fun s hp hm hb hn => ?_, fun s hr => ⟨fun hp => ?_, fun hp => ?_⟩,
    fun s v h => ⟨fun off ho hl => ?_, fun off ho hl => ?_, fun off ho hl => ?_, exec_registerWrite_tlbi h v,
      fun p => exec_registerWrite_evict h p v, exec_registerWrite_speed h v, fun hv => ?_, fun hv => ?_⟩⟩
  · exact ⟨_, rfl, rfl, rfl, rfl, rfl, rfl, rfl, rfl, rfl, rfl, rfl⟩
  · have hb' : (s.blocks.any fun b => b.st == .resident) = false := by simpa using hb
    simp [execIdleEntry, hp, hm, hb', hn, State.setPower]
  · simp [execIdleWake, hr, State.wakeIdle, hp]
  · refine ⟨s.wakeNap, by rw [exec_napWake, execNapWake, if_pos hr], ?_⟩
    rw [State.wakeNap, if_pos hp]
    refine ⟨rfl, rfl, rfl, fun p hp => ?_⟩
    obtain ⟨c, _, rfl⟩ := List.mem_map.1 hp
    exact ⟨rfl, rfl⟩
  · have hc : off < 0x10000 ∧ off % 8 = 0 ∧ startsCommand off = false ∧ fieldsAlone off = true ∧
        w1cMask off = 0 := by
      clear hl
      revert off
      decide
    obtain ⟨h1, h2, h3, h4, h5⟩ := hc
    refine ⟨_, exec_registerWrite_fields h h1 h2 h3 v, ?_⟩
    rw [State.writeFields_open hl, State.fieldsWritten_alone _ h4]
    exact ⟨rfl, s.mreg_setFields h5 v, fun o => s.mreg_setFields_ne v⟩
  · have hc : off < 0x10000 ∧ off % 8 = 0 ∧ startsCommand off = false := by
      clear hl
      revert off
      decide
    obtain ⟨h1, h2, h3⟩ := hc
    rw [exec_registerWrite_fields h h1 h2 h3, State.writeFields_locked hl]
  · have hc : off ≠ 0x0420 ∧ w1cMask off = 0 := by
      clear hl
      revert off
      decide
    obtain ⟨h1, h2⟩ := hc
    refine ⟨_, exec_registerWrite_pool h ho hl v, ?_, ?_⟩
    · rw [State.mreg_freshPool_ne _ (by simpa using h1), State.mreg_setFields _ h2]
    · rw [State.mfield_freshPool, State.mfield, State.mreg_freshPool_ne _ (by decide)]
      rfl
  · rw [exec_registerWrite_power h, powerWrite, show bitsOf v.toNat 0 3 = 1 by simpa [bitsOf] using hv]
    rfl
  · rw [exec_registerWrite_power h, powerWrite, show bitsOf v.toNat 0 3 = 4 by simpa [bitsOf] using hv]
    rfl

end Sys2Proof.Machine

namespace Sys2Proof.Machine
set_option Elab.async false

/-! ### Requests of a queue pair (R355 to R359, R367) -/

section
variable {s : State} {q : Qp}

theorem State.qpn_of_qp? {n : Nat} (h : s.qp? n = some q) : q.qpn = n := by
  have e := List.find?_some h
  simp only [Bool.and_eq_true, beq_iff_eq] at e
  exact e.1
/-- A queue pair in error takes nothing more. -/
theorem State.qp?_invalidRequest (c : State) (q : Qp) : (c.invalidRequest q).qp? q.qpn = none := by
  refine List.find?_eq_none.2 fun x hx => ?_
  obtain ⟨y, _, rfl⟩ := List.mem_map.1 hx
  split <;> simp_all

/-- A request behind others waits with the entry of its region as it stands. -/
theorem State.request_waits (hq : s.qp? q.qpn = some q) (ho : s.qpOpen q = true) (hh : q.held ≠ [])
    (r : Request) (n : Nat) (f : Qp → HeldRequest → State → Out State Fault Refusal) : s.request q.qpn r n f =
      .next (((s.ecn q n).holdFor q (q.takes r)).setQp { q with held := q.held ++ [s.accepted q (q.takes r)] }) := by
  simp [State.request, hq, ho, hh]
/-- A request with none before it is served. -/
theorem State.request_served (hq : s.qp? q.qpn = some q) (ho : s.qpOpen q = true) (hh : q.held = [])
    (r : Request) (n : Nat) (f : Qp → HeldRequest → State → Out State Fault Refusal) : s.request q.qpn r n f =
      f q (s.accepted q (q.takes r)) ((s.ecn q n).holdFor q (q.takes r)) := by
  simp [State.request, hq, ho, hh]

theorem Qp.takes_read {rkey : Word} {va : Dword} {len : Nat} (h : q.reads < 16) :
    q.takes (.read rkey va len) = .read rkey va len := if_neg (Nat.not_le.2 h)
theorem Qp.takes_read_full {rkey : Word} {va : Dword} {len : Nat} (h : 16 ≤ q.reads) :
    q.takes (.read rkey va len) = .refused := if_pos h
theorem Qp.reads_nil (h : q.held = []) : q.reads = 0 := by simp [Qp.reads, h]

/-! ### What the answers to marked packets and the entries held leave unchanged -/

theorem State.holdRegion_only (s : State) (i : Nat) : ∃ r, s.holdRegion i = { s with regions := r } := by
  unfold State.holdRegion
  split
  · exact ⟨s.regions, rfl⟩
  · exact ⟨_, rfl⟩
theorem State.keyed_only (s : State) (q : Qp) (n i : Nat) :
    ∃ w r, (s.ecn q n).holdRegion i = { s with wire := w, regions := r } := by
  obtain ⟨r, e⟩ := (s.ecn q n).holdRegion_only i
  exact ⟨_, r, e⟩
theorem State.mem_keyed (s : State) (q : Qp) (n i : Nat) : ((s.ecn q n).holdRegion i).mem = s.mem := by
  obtain ⟨w, r, e⟩ := s.keyed_only q n i
  rw [e]
theorem State.blocks_keyed (s : State) (q : Qp) (n i : Nat) : ((s.ecn q n).holdRegion i).blocks = s.blocks := by
  obtain ⟨w, r, e⟩ := s.keyed_only q n i
  rw [e]
theorem State.byder_keyed (s : State) (q : Qp) (n i : Nat) : ((s.ecn q n).holdRegion i).byder = s.byder := by
  obtain ⟨w, r, e⟩ := s.keyed_only q n i
  rw [e]
theorem State.memOpen_keyed (s : State) (q : Qp) (n i : Nat) : ((s.ecn q n).holdRegion i).memOpen = s.memOpen := by
  rw [State.memOpen, s.byder_keyed, State.memOpen]
theorem State.fresh_keyed (s : State) (q : Qp) (n i : Nat) : ((s.ecn q n).holdRegion i).fresh = s.fresh := by
  obtain ⟨w, r, e⟩ := s.keyed_only q n i
  rw [e]
theorem State.readLocs_keyed (s : State) (q : Qp) (n i : Nat) (ls : List Loc) :
    ((s.ecn q n).holdRegion i).readLocs ls = s.readLocs ls := by
  obtain ⟨w, r, e⟩ := s.keyed_only q n i
  rw [e]
  exact List.map_congr_left fun l _ => by cases l <;> rfl

/-- At most one CNP for each packet of the request. -/
theorem State.ecn_cnps (s : State) (q : Qp) (n : Nat) :
    ∃ k, k ≤ q.packets n ∧ s.ecn q n = { s with wire := s.wire ++ List.replicate k (.cnp q.qpn) } :=
  ⟨_, Nat.lt_succ_iff.1 (Nat.mod_lt _ (Nat.succ_pos _)), rfl⟩

/-! ### A stop -/

theorem State.rdmaStop_nak (c : State) (q : Qp) (r : HeldRequest) (part k : Nat) :
    c.rdmaStop q r part (.nak k) = c.send (.nak q.qpn k) := rfl
theorem State.rdmaStop_away (c : State) {q : Qp} (hh : q.held = []) (r : HeldRequest) (part v pte e : Nat) :
    c.rdmaStop q r part (.away v pte e) =
      (c.setQp { q with held := [r], due := none }).devAwait part v pte e (.request q.qpn) := by
  rw [State.rdmaStop, hh]

/-! ### A WRITE, by its target -/

section
variable {c : State} {h : HeldRequest} {rkey : Word} {va : Dword} {data : List Byte} {part : Nat}

theorem State.serveWrite_long (hl : 2 ^ 31 < data.length) : c.serveWrite q h rkey va data = .next (c.invalidRequest q) :=
  if_pos hl

variable (hl : data.length ≤ 2 ^ 31)
include hl

theorem State.serveWrite_none (ht : targetOf h.entry q rkey va.toNat data.length true = none) :
    c.serveWrite q h rkey va data = .next (c.send (.nak q.qpn 2)) := by
  simp only [State.serveWrite, Nat.not_lt.2 hl, if_false, ht]
theorem State.serveWrite_closed (ht : targetOf h.entry q rkey va.toNat data.length true = some (.memory part))
    (hm : c.memOpen = false) : c.serveWrite q h rkey va data = .next (c.send (.nak q.qpn 2)) := by
  simp only [State.serveWrite, Nat.not_lt.2 hl, if_false, ht, hm, Bool.not_false, if_true]
theorem State.serveWrite_ok (ht : targetOf h.entry q rkey va.toNat data.length true = some (.memory part))
    (hm : c.memOpen = true) {ls : List Loc} (hr : c.rdmaLocs part va.toNat data.length true = .ok ls) :
    c.serveWrite q h rkey va data = .next ((c.applyBytes (ls.zip data)).writeDone q.qpn data.length) := by
  simp only [State.serveWrite, Nat.not_lt.2 hl, if_false, ht, hm, hr, Bool.not_true, Bool.false_eq_true]
theorem State.serveWrite_stop (ht : targetOf h.entry q rkey va.toNat data.length true = some (.memory part))
    (hm : c.memOpen = true) {e : RdmaStop} (hr : c.rdmaLocs part va.toNat data.length true = .error e) :
    c.serveWrite q h rkey va data = .next (c.rdmaStop q h part e) := by
  simp only [State.serveWrite, Nat.not_lt.2 hl, if_false, ht, hm, hr, Bool.not_true, Bool.false_eq_true]
theorem State.serveWrite_notify {i : Nat} (ht : targetOf h.entry q rkey va.toNat data.length true = some (.notify i))
    (hm : c.memOpen = true) :
    c.serveWrite q h rkey va data = .next ((c.notify i (BitVec.ofNat 64 (leNat data))).writeDone q.qpn 8) := by
  simp only [State.serveWrite, Nat.not_lt.2 hl, if_false, ht, hm, if_true]
theorem State.serveWrite_staging {off : Nat}
    (ht : targetOf h.entry q rkey va.toNat data.length true = some (.staging off)) :
    c.serveWrite q h rkey va data = .next (({ c with byder := { c.byder with
      staging := Memory.writeBytes c.byder.staging off data } } : State).writeDone q.qpn data.length) := by
  simp only [State.serveWrite, Nat.not_lt.2 hl, if_false, ht]

end

/-! ### A register of the management window -/

theorem regWords_aligned {off : Nat} (h : off % 8 = 0) : regWords off 8 = [off] := by
  rw [regWords, if_neg (by decide), show (off + 8 - 1) / 8 + 1 - off / 8 = 1 by omega]
  show [8 * (off / 8)] = [off]
  rw [show 8 * (off / 8) = off by omega]

/-- The field that starts a command lies in the register. -/
theorem commandField_lt {off b n : Nat} (h : commandField off = some (b, n)) : 0 < b + n ∧ b < 64 := by
  unfold commandField at h
  split_ifs at h <;> cases h <;> decide
/-- A write of all eight bytes is a write of the register. -/
theorem State.partWrite_whole (c : State) (n off : Nat) (v : Dword) : c.partWrite n off 0 8 v = c.regWrite n off v := by
  unfold State.partWrite
  split
  · rfl
  next b m hf =>
    obtain ⟨h1, h2⟩ := commandField_lt hf
    rw [if_pos (by simp; omega)]
theorem upto_map_nth (data : List Byte) : (upto data.length).map (fun i => nth data i 0) = data := by
  rw [upto_eq_range]
  refine List.ext_getElem (by simp) fun i hi h => ?_
  simp [nth, h]
theorem State.wordWritten_whole (c : State) {off : Nat} {data : List Byte} (h : data.length = 8) :
    c.wordWritten off data off = BitVec.ofNat 64 (leNat data) := by
  rw [State.wordWritten]
  conv => rhs; rw [← upto_map_nth data, h]
  refine congrArg (fun l => BitVec.ofNat 64 (leNat l)) (List.map_congr_left fun i hi => ?_)
  have hi : i < 8 := by simpa [upto_eq_range] using hi
  simp [h, hi]

theorem State.serveWrite_management {c c' : State} {h : HeldRequest} {rkey : Word} {va : Dword}
    {data : List Byte} {off : Nat}
    (ht : targetOf h.entry q rkey va.toNat data.length true = some (.management off)) (h8 : off % 8 = 0)
    (hd : data.length = 8) (hs : c.regServed off = true)
    (hw : c.regWrite q.qpn off (BitVec.ofNat 64 (leNat data)) = .next c') :
    c.serveWrite q h rkey va data = .next (c'.writeDone q.qpn 8) := by
  have e : regWrites q.qpn off data [off] c = .next c' := by
    rw [regWrites, Nat.sub_self, hd, show Nat.min 8 (off + 8 - off) = 8 by rw [Nat.add_sub_cancel_left]; rfl,
      State.partWrite_whole, State.wordWritten_whole _ hd, hw]
    rfl
  rw [hd] at ht
  simp [State.serveWrite, hd, ht, regWords_aligned h8, hs, e]

/-! ### A READ, by its target -/

section
variable {c : State} {h : HeldRequest} {rkey : Word} {va : Dword} {len part : Nat}

theorem State.serveRead_long (hl : 2 ^ 31 < len) : c.serveRead q h rkey va len = c.invalidRequest q := if_pos hl

variable (hl : len ≤ 2 ^ 31)
include hl

theorem State.serveRead_none (ht : targetOf h.entry q rkey va.toNat len false = none) :
    c.serveRead q h rkey va len = c.send (.nak q.qpn 2) := by
  simp only [State.serveRead, Nat.not_lt.2 hl, if_false, ht]
theorem State.serveRead_closed (ht : targetOf h.entry q rkey va.toNat len false = some (.memory part))
    (hm : c.memOpen = false) : c.serveRead q h rkey va len = c.send (.nak q.qpn 2) := by
  simp only [State.serveRead, Nat.not_lt.2 hl, if_false, ht, hm, Bool.not_false, if_true]
theorem State.serveRead_ok (ht : targetOf h.entry q rkey va.toNat len false = some (.memory part))
    (hm : c.memOpen = true) {ls : List Loc} (hr : c.rdmaLocs part va.toNat len false = .ok ls) :
    c.serveRead q h rkey va len = (c.passPsn q len).send (.readData q.qpn (c.readLocs ls)) := by
  simp only [State.serveRead, Nat.not_lt.2 hl, if_false, ht, hm, hr, Bool.not_true, Bool.false_eq_true]
theorem State.serveRead_stop (ht : targetOf h.entry q rkey va.toNat len false = some (.memory part))
    (hm : c.memOpen = true) {e : RdmaStop} (hr : c.rdmaLocs part va.toNat len false = .error e) :
    c.serveRead q h rkey va len = c.rdmaStop q h part e := by
  simp only [State.serveRead, Nat.not_lt.2 hl, if_false, ht, hm, hr, Bool.not_true, Bool.false_eq_true]

end

theorem State.serveRead_management {c : State} {h : HeldRequest} {rkey : Word} {va : Dword} {off : Nat}
    (ht : targetOf h.entry q rkey va.toNat 8 false = some (.management off)) (h8 : off % 8 = 0)
    (hs : c.regServed off = true) : c.serveRead q h rkey va 8 =
      (c.passPsn q 8).send (.readData q.qpn (natLe 8 (c.regRead off).toNat)) := by
  have e : (natLe 8 (c.regRead off).toNat).take 8 = natLe 8 (c.regRead off).toNat :=
    List.take_of_length_le (natLe_length _ _).le
  simp [State.serveRead, ht, regWords_aligned h8, hs, h8, e]

/-! ### A SEND, by its target -/

/-- The entry of the receive ring that the next SEND fills (R356). -/
def Qp.ringEntry (q : Qp) : Nat :=
  (fieldOf q.desc 40 8 + 4096 * (q.ringPut % Nat.max 1 (fieldOf q.desc 52 2))) % 2 ^ 64
/-- The key of the receive ring. -/
def Qp.ringKey (q : Qp) : Word := BitVec.ofNat 32 (fieldOf q.desc 48 4)
/-- What a SEND writes: its length, and its payload. -/
def sendBytes (payload : List Byte) : List Byte := natLe 64 payload.length ++ payload

theorem leNat_lt : ∀ l : List Byte, leNat l < 256 ^ l.length
  | [] => by simp [leNat]
  | b :: l => by
    have hb := b.isLt
    have hl := leNat_lt l
    rw [leNat, List.length_cons, Nat.pow_succ']
    omega
theorem fieldOf_lt (bs : List Byte) (off n : Nat) : fieldOf bs off n < 256 ^ n :=
  (leNat_lt _).trans_le (Nat.pow_le_pow_right (by decide) (List.length_take_le _ _))
theorem Qp.ringKey_toNat (q : Qp) : q.ringKey.toNat = fieldOf q.desc 48 4 := by
  have h := fieldOf_lt q.desc 48 4
  rw [Qp.ringKey, BitVec.toNat_ofNat]
  exact Nat.mod_eq_of_lt h

section
variable {c : State} {h : HeldRequest} {payload : List Byte} {part : Nat}

theorem State.serveSend_long (hl : 4032 < payload.length) : c.serveSend q h payload = c.invalidRequest q := if_pos hl

variable (hl : payload.length ≤ 4032)
include hl

theorem State.serveSend_full (hf : fieldOf q.desc 52 2 ≤ q.ringPut ∧ Config.choice c.fresh 8000002 = true) :
    c.serveSend q h payload = c.send (.nak q.qpn 32) := by
  obtain ⟨h1, h2⟩ := hf
  simp only [State.serveSend, Nat.not_lt.2 hl, if_false, h1, h2, decide_true, Bool.and_true, if_true]

variable (hf : (decide (fieldOf q.desc 52 2 ≤ q.ringPut) && Config.choice c.fresh 8000002) = false)
include hf

theorem State.serveSend_closed (ht : c.memOpen = false ∨
    ∀ part, targetOf h.entry q q.ringKey q.ringEntry (sendBytes payload).length true ≠ some (.memory part)) :
    c.serveSend q h payload = c.send (.nak q.qpn 3) := by
  simp only [State.serveSend, Nat.not_lt.2 hl, if_false, hf, Bool.false_eq_true]
  rcases ht with ht | ht
  · simp [ht]
  · split
    next part hm =>
      split at hm
      · exact absurd hm (ht part)
      · cases hm
    · rfl

variable (hm : c.memOpen = true)
  (ht : targetOf h.entry q q.ringKey q.ringEntry (sendBytes payload).length true = some (.memory part))
include hm ht

theorem State.serveSend_ok {ls : List Loc}
    (hr : c.rdmaLocs part q.ringEntry (sendBytes payload).length true = .ok ls) :
    c.serveSend q h payload = ((c.applyBytes (ls.zip (sendBytes payload))).passPsn
      { q with ringPut := q.ringPut + 1 } payload.length).send (.ack q.qpn) := by
  simp only [Qp.ringKey, Qp.ringEntry, sendBytes] at ht hr
  simp only [State.serveSend, Nat.not_lt.2 hl, if_false, hf, Bool.false_eq_true, hm, if_true, ht, hr, sendBytes]
theorem State.serveSend_nak {k : Nat}
    (hr : c.rdmaLocs part q.ringEntry (sendBytes payload).length true = .error (.nak k)) :
    c.serveSend q h payload = c.send (.nak q.qpn 3) := by
  simp only [Qp.ringKey, Qp.ringEntry, sendBytes] at ht hr
  simp only [State.serveSend, Nat.not_lt.2 hl, if_false, hf, Bool.false_eq_true, hm, if_true, ht, hr]
theorem State.serveSend_away {v pte e : Nat}
    (hr : c.rdmaLocs part q.ringEntry (sendBytes payload).length true = .error (.away v pte e)) :
    c.serveSend q h payload = c.rdmaStop q h part (.away v pte e) := by
  simp only [Qp.ringKey, Qp.ringEntry, sendBytes] at ht hr
  simp only [State.serveSend, Nat.not_lt.2 hl, if_false, hf, Bool.false_eq_true, hm, if_true, ht, hr]

end

/-! ### The target of a request as it was accepted (R367) -/

theorem State.target_write (s : State) (q : Qp) (rkey : Word) (va : Dword) (data : List Byte) (a n : Nat) :
    s.target q rkey a n true = targetOf (s.accepted q (.write rkey va data)).entry q rkey a n true := rfl
theorem State.target_read (s : State) (q : Qp) (rkey : Word) (va : Dword) (len a n : Nat) :
    s.target q rkey a n false = targetOf (s.accepted q (.read rkey va len)).entry q rkey a n false := rfl
theorem State.target_send (s : State) (q : Qp) (payload : List Byte) (a n : Nat) :
    s.target q q.ringKey a n true = targetOf (s.accepted q (.send payload)).entry q q.ringKey a n true := by
  rw [State.target, Qp.ringKey_toNat]
  rfl

/-! ### The requests, as an open queue pair takes them -/

section
variable (hq : s.qp? q.qpn = some q) (ho : s.qpOpen q = true)
include hq ho

theorem exec_rdmaWrite_served (hh : q.held = []) (rkey : Word) (va : Dword) (data : List Byte) :
    exec (.rdmaWrite q.qpn rkey va data) s = ((s.ecn q data.length).holdRegion (rkey.toNat / 2 ^ 16)).serveWrite q
      (s.accepted q (.write rkey va data)) rkey va data := by
  rw [exec_rdmaWrite]
  exact State.request_served hq ho hh _ _ _
theorem exec_rdmaRead_served (hh : q.held = []) (rkey : Word) (va : Dword) (len : Nat) :
    exec (.rdmaRead q.qpn rkey va len) s = .next (((s.ecn q 0).holdRegion (rkey.toNat / 2 ^ 16)).serveRead q
      (s.accepted q (.read rkey va len)) rkey va len) := by
  rw [exec_rdmaRead, execRdmaRead, State.request_served hq ho hh, Qp.takes_read (by rw [Qp.reads_nil hh]; decide)]
  rfl
theorem exec_send_served (hh : q.held = []) (payload : List Byte) :
    exec (.send q.qpn payload) s = .next (((s.ecn q payload.length).holdRegion (fieldOf q.desc 48 4 / 2 ^ 16)).serveSend q
      (s.accepted q (.send payload)) payload) := by
  rw [exec_send]
  exact State.request_served hq ho hh _ _ _
theorem exec_refusedOperation_served (hh : q.held = []) :
    exec (.refusedOperation q.qpn) s = .next ((s.ecn q (2 ^ 31)).invalidRequest q) := by
  rw [exec_refusedOperation]
  exact State.request_served hq ho hh _ _ _

/-- Behind requests that wait every request waits, each with its region's entry; a seventeenth READ as a refused one. -/
theorem requests_wait (hh : q.held ≠ []) :
    (∀ rkey va data, exec (.rdmaWrite q.qpn rkey va data) s =
      .next (((s.ecn q data.length).holdRegion (rkey.toNat / 2 ^ 16)).setQp
      { q with held := q.held ++ [{ req := .write rkey va data, entry := s.region (rkey.toNat / 2 ^ 16) }] })) ∧
    (∀ rkey va len, (q.reads < 16 → exec (.rdmaRead q.qpn rkey va len) s =
        .next (((s.ecn q 0).holdRegion (rkey.toNat / 2 ^ 16)).setQp
        { q with held := q.held ++ [{ req := .read rkey va len, entry := s.region (rkey.toNat / 2 ^ 16) }] })) ∧
      (16 ≤ q.reads → exec (.rdmaRead q.qpn rkey va len) s =
        .next ((s.ecn q 0).setQp { q with held := q.held ++ [{ req := .refused, entry := none }] }))) ∧
    (∀ payload, exec (.send q.qpn payload) s =
      .next (((s.ecn q payload.length).holdRegion (fieldOf q.desc 48 4 / 2 ^ 16)).setQp
        { q with held := q.held ++ [{ req := .send payload, entry := s.region (fieldOf q.desc 48 4 / 2 ^ 16) }] })) ∧
    exec (.refusedOperation q.qpn) s =
      .next ((s.ecn q (2 ^ 31)).setQp { q with held := q.held ++ [{ req := .refused, entry := none }] }) := by
  refine ⟨fun rkey va data => ?_, fun rkey va len => ⟨fun h => ?_, fun h => ?_⟩, fun payload => ?_, ?_⟩
  · rw [exec_rdmaWrite]
    exact State.request_waits hq ho hh _ _ _
  · rw [exec_rdmaRead, execRdmaRead, State.request_waits hq ho hh, Qp.takes_read h]
    rfl
  · rw [exec_rdmaRead, execRdmaRead, State.request_waits hq ho hh, Qp.takes_read_full h]
    rfl
  · rw [exec_send]
    exact State.request_waits hq ho hh _ _ _
  · rw [exec_refusedOperation]
    exact State.request_waits hq ho hh _ _ _

theorem exec_cnp_open : exec (.cnp q.qpn) s =
    .next ((s.setQp { q with rateCuts := q.rateCuts + 1 }).countMreg (0x3600 + 0x20 * q.port + 8) 0) := by
  rw [exec_cnp, execCnp, hq]
  exact congrArg Host.Outcome.next (if_pos ho)
theorem exec_localAckTimeout_open : exec (.localAckTimeout q.qpn) s = .next (if q.retries < fieldOf q.desc 54 1 then
    (s.setQp { q with retries := q.retries + 1 }).send (.retry q.qpn) else s.setQp { q with err := true }) := by
  rw [exec_localAckTimeout, execLocalAckTimeout, hq]
  by_cases h : q.retries < fieldOf q.desc 54 1 <;> simp [ho, h]

end

end

end Sys2Proof.Machine

namespace Sys2Proof.Machine
set_option Elab.async false

section
variable {s : State} {q : Qp} (hq : s.qp? q.qpn = some q) (ho : s.qpOpen q = true) (hh : q.held = [])
include hq ho hh

/-- A WRITE of device memory: it acts on its bytes, is refused, or waits for a page. -/
theorem rdmaWrite_memory {rkey : Word} {va : Dword} {data : List Byte} (hl : data.length ≤ 2 ^ 31) {part : Nat}
    (ht : s.target q rkey va.toNat data.length true = some (.memory part)) :
    let c := (s.ecn q data.length).holdRegion (rkey.toNat / 2 ^ 16)
    (s.memOpen = false → exec (.rdmaWrite q.qpn rkey va data) s = .next (c.send (.nak q.qpn 2))) ∧
    (s.memOpen = true →
      (∀ ls, c.rdmaLocs part va.toNat data.length true = .ok ls →
        exec (.rdmaWrite q.qpn rkey va data) s = .next ((c.applyBytes (ls.zip data)).writeDone q.qpn data.length)) ∧
      (∀ k, c.rdmaLocs part va.toNat data.length true = .error (.nak k) →
        exec (.rdmaWrite q.qpn rkey va data) s = .next (c.send (.nak q.qpn k))) ∧
      (∀ v pte e, c.rdmaLocs part va.toNat data.length true = .error (.away v pte e) →
        exec (.rdmaWrite q.qpn rkey va data) s = .next ((c.setQp { q with
          held := [{ req := .write rkey va data, entry := s.region (rkey.toNat / 2 ^ 16) }], due := none }).devAwait
          part v pte e (.request q.qpn)))) := by
  intro c
  have hm : c.memOpen = s.memOpen := s.memOpen_keyed q _ _
  rw [s.target_write q rkey va data] at ht
  rw [show exec (.rdmaWrite q.qpn rkey va data) s = c.serveWrite q (s.accepted q (.write rkey va data)) rkey va data from
    exec_rdmaWrite_served hq ho hh rkey va data]
  clear_value c
  refine ⟨fun h => State.serveWrite_closed hl ht (hm.trans h),
    fun h => ⟨fun ls hr => State.serveWrite_ok hl ht (hm.trans h) hr,
    fun k hr => State.serveWrite_stop hl ht (hm.trans h) hr, fun v pte e hr => ?_⟩⟩
  rw [← State.rdmaStop_away c hh]
  exact State.serveWrite_stop hl ht (hm.trans h) hr

/-- A READ of device memory. -/
theorem rdmaRead_memory {rkey : Word} {va : Dword} {len : Nat} (hl : len ≤ 2 ^ 31) {part : Nat}
    (ht : s.target q rkey va.toNat len false = some (.memory part)) :
    let c := (s.ecn q 0).holdRegion (rkey.toNat / 2 ^ 16)
    (s.memOpen = false → exec (.rdmaRead q.qpn rkey va len) s = .next (c.send (.nak q.qpn 2))) ∧
    (s.memOpen = true →
      (∀ ls, c.rdmaLocs part va.toNat len false = .ok ls → ∃ s', exec (.rdmaRead q.qpn rkey va len) s = .next s' ∧
        s'.wire = c.wire ++ [.readData q.qpn (s.readLocs ls)] ∧ s'.mem = s.mem ∧ s'.blocks = s.blocks) ∧
      (∀ k, c.rdmaLocs part va.toNat len false = .error (.nak k) →
        exec (.rdmaRead q.qpn rkey va len) s = .next (c.send (.nak q.qpn k))) ∧
      (∀ v pte e, c.rdmaLocs part va.toNat len false = .error (.away v pte e) →
        exec (.rdmaRead q.qpn rkey va len) s = .next ((c.setQp { q with
          held := [{ req := .read rkey va len, entry := s.region (rkey.toNat / 2 ^ 16) }], due := none }).devAwait
          part v pte e (.request q.qpn)))) := by
  intro c
  have hm : c.memOpen = s.memOpen := s.memOpen_keyed q _ _
  have hmem : c.mem = s.mem := s.mem_keyed q _ _
  have hb : c.blocks = s.blocks := s.blocks_keyed q _ _
  have hls : ∀ ls, c.readLocs ls = s.readLocs ls := s.readLocs_keyed q _ _
  rw [s.target_read q rkey va len] at ht
  rw [show exec (.rdmaRead q.qpn rkey va len) s = .next (c.serveRead q (s.accepted q (.read rkey va len)) rkey va len) from
    exec_rdmaRead_served hq ho hh rkey va len]
  clear_value c
  refine ⟨fun h => congrArg Host.Outcome.next (State.serveRead_closed hl ht (hm.trans h)), fun h => ⟨fun ls hr => ?_,
    fun k hr => congrArg Host.Outcome.next (State.serveRead_stop hl ht (hm.trans h) hr), fun v pte e hr => ?_⟩⟩
  · refine ⟨_, congrArg Host.Outcome.next (State.serveRead_ok hl ht (hm.trans h) hr), ?_, hmem, hb⟩
    rw [← hls]
    rfl
  · rw [← State.rdmaStop_away c hh]
    exact congrArg Host.Outcome.next (State.serveRead_stop hl ht (hm.trans h) hr)

/-- A SEND fills the next entry of the receive ring, unless the ring is full or the entry is not to be reached. -/
theorem send_served (payload : List Byte) :
    let c := (s.ecn q payload.length).holdRegion (fieldOf q.desc 48 4 / 2 ^ 16)
    let full := fieldOf q.desc 52 2 ≤ q.ringPut ∧ Config.choice s.fresh 8000002 = true
    (4032 < payload.length → exec (.send q.qpn payload) s = .next (c.invalidRequest q)) ∧
    (payload.length ≤ 4032 → full → exec (.send q.qpn payload) s = .next (c.send (.nak q.qpn 32))) ∧
    (payload.length ≤ 4032 → ¬ full →
      let target := s.target q q.ringKey q.ringEntry (sendBytes payload).length true
      (s.memOpen = false ∨ (∀ part, target ≠ some (.memory part)) →
        exec (.send q.qpn payload) s = .next (c.send (.nak q.qpn 3))) ∧
      ∀ part, target = some (.memory part) → s.memOpen = true →
        (∀ ls, c.rdmaLocs part q.ringEntry (sendBytes payload).length true = .ok ls → ∃ s',
          exec (.send q.qpn payload) s = .next s' ∧ s'.wire = c.wire ++ [.ack q.qpn] ∧
          s'.mem = (c.applyBytes (ls.zip (sendBytes payload))).mem) ∧
        (∀ k, c.rdmaLocs part q.ringEntry (sendBytes payload).length true = .error (.nak k) →
          exec (.send q.qpn payload) s = .next (c.send (.nak q.qpn 3))) ∧
        (∀ v pte e, c.rdmaLocs part q.ringEntry (sendBytes payload).length true = .error (.away v pte e) →
          exec (.send q.qpn payload) s = .next ((c.setQp { q with
            held := [{ req := .send payload, entry := s.region (fieldOf q.desc 48 4 / 2 ^ 16) }], due := none }).devAwait
            part v pte e (.request q.qpn)))) := by
  intro c full
  have hm : c.memOpen = s.memOpen := s.memOpen_keyed q _ _
  have hc : c.fresh = s.fresh := s.fresh_keyed q _ _
  rw [exec_send_served hq ho hh]
  refine ⟨fun h => congrArg Host.Outcome.next (State.serveSend_long h),
    fun h hf => congrArg Host.Outcome.next (State.serveSend_full h ?_),
    fun h hf => ?_⟩
  · rwa [hc]
  have hf : (decide (fieldOf q.desc 52 2 ≤ q.ringPut) && Config.choice c.fresh 8000002) = false := by
    rw [hc]
    simpa [full] using hf
  rw [s.target_send q payload]
  refine ⟨fun ht => congrArg Host.Outcome.next (State.serveSend_closed h hf (ht.imp_left hm.trans)),
    fun part ht ho => ?_⟩
  refine ⟨fun ls hr => ?_, fun k hr => congrArg Host.Outcome.next (State.serveSend_nak h hf (hm.trans ho) ht hr),
    fun v pte e hr => ?_⟩
  · exact ⟨_, congrArg Host.Outcome.next (State.serveSend_ok h hf (hm.trans ho) ht hr),
      congrArg (· ++ [WireMsg.ack q.qpn]) (State.applyBytes_only c _).wire, rfl⟩
  · rw [← State.rdmaStop_away c hh]
    exact congrArg Host.Outcome.next (State.serveSend_away h hf (hm.trans ho) ht hr)

end

/-- Settles O53, request by request: each clause is what the queue pair's state and the target of the request decide. -/
theorem hostRequestsAreServed : Obligations.HostRequestsAreServed := by
  intro s n q hq ho ring entryOf keyed behind waits inError
  obtain rfl := State.qpn_of_qp? hq
  refine ⟨fun c => c.qp?_invalidRequest q, requests_wait hq ho, fun len => s.ecn_cnps q len, fun hh => ?_,
    exec_cnp_open hq ho, exec_localAckTimeout_open hq ho⟩
  refine ⟨fun rkey va data => ?_, fun rkey va len => ?_, fun payload => send_served hq ho hh payload,
    exec_refusedOperation_served hq ho hh⟩
  · intro c target
    have e := exec_rdmaWrite_served hq ho hh rkey va data
    refine ⟨fun hl => e.trans (State.serveWrite_long hl), fun hl => ⟨fun ht => e.trans (State.serveWrite_none hl ht),
      fun part ht => rdmaWrite_memory hq ho hh hl ht, fun i ht hm => ?_, fun off ht => ?_, fun off c' ht h8 hd hs hw =>
      e.trans (State.serveWrite_management ht h8 hd hs hw)⟩⟩
    · exact e.trans (State.serveWrite_notify hl ht ((s.memOpen_keyed q _ _).trans hm))
    · refine ⟨_, e.trans (State.serveWrite_staging hl ht), s.mem_keyed q _ _, ?_⟩
      rw [s.byder_keyed]
  · intro c target
    have e := exec_rdmaRead_served hq ho hh rkey va len
    refine ⟨fun hl => e.trans (congrArg Host.Outcome.next (State.serveRead_long hl)),
      fun hl => ⟨fun ht => e.trans (congrArg Host.Outcome.next (State.serveRead_none hl ht)),
      fun part ht => rdmaRead_memory hq ho hh hl ht, fun off ht h8 hd hs => ?_⟩⟩
    subst hd
    exact ⟨_, e.trans (congrArg Host.Outcome.next (State.serveRead_management ht h8 hs)), s.mem_keyed q _ _, rfl⟩

end Sys2Proof.Machine

namespace Sys2Proof.Machine
set_option Elab.async false

/-! ### Instructions that trap or wait -/

section
variable {s s' : State} {t : Task} {k : StreamId} {i : Instr} {f : Task → StreamId → Except Stop State}

/-- A scalar instruction that completes goes on to the state that its meaning answers. -/
theorem exec_completes (h : Issues s t k) (he : exec i s = issue .scalar s f) (hf : f t k = .ok s') :
    exec i s = .next s' := he.trans (issue_next h (runsOn_scalar k) hf)

/-- A scalar instruction whose meaning raises a trap other than STORAGE takes it at its own program counter (R135). -/
theorem exec_traps (h : Issues s t k) (he : exec i s = issue .scalar s f) {cls sub : Nat} (hf : f t k = trapWith cls sub)
    (hc : cls ≠ clsStorage) :
    exec i s = .next (s.takeTrap t k (t.st k).pc false 0 { cls := cls, sub := sub }) :=
  he.trans ((issue_stop h (runsOn_scalar k) hf).trans (congrArg _ (State.stopped_trap s t k _ hc)))

/-- A scalar instruction whose meaning waits leaves its stream WAITING (R15). -/
theorem exec_stalls (h : Issues s t k) (he : exec i s = issue .scalar s f) {w : Wait} (hf : f t k = .error (.wait w))
    (hw : w ≠ .array) : exec i s = .next (s.stall t k w) :=
  he.trans ((issue_stop h (runsOn_scalar k) hf).trans (congrArg _ (if_neg hw)))

end

/-! ### The end of a stream and traps on purpose (R168 to R171) -/

theorem Task.killAll_st (t : Task) (f : Nat × Nat) (j : StreamId) :
    ((t.killAll f).st j).status = .ended ∧ ((t.killAll f).st j).regs = (t.st j).regs ∧
      ((t.killAll f).st j).queue = (t.st j).queue := by
  cases j <;> exact ⟨rfl, rfl, rfl⟩

theorem State.raiseDeadlock_none (s : State) {t : Task} (h : t.semQ = []) : s.raiseDeadlock t = s := by
  simp [State.raiseDeadlock, h]

/-- A task none of whose streams waits on a semaphore meets no DEADLOCK (R19). -/
theorem State.testDeadlock_setTask {s : State} {t : Task} (ht : (s.task? t.uid).isSome) (h : t.semQ = []) :
    (s.setTask t).testDeadlock t.uid = s.setTask t := by
  simp [State.testDeadlock, State.task?_setTask s t ht, State.raiseDeadlock_none _ h]

/-- The count of a CYCLES instruction (R170). -/
theorem toNat_cycleCount (x : Word) (i : BitVec 14) : (x + i.zeroExtend 32).toNat = (x.toNat + i.toNat) % 2 ^ 32 := by
  rw [BitVec.toNat_add, BitVec.toNat_setWidth, Nat.mod_eq_of_lt (a := i.toNat) (by omega)]

theorem exec_cycles_issued {s : State} {t : Task} {k : StreamId} (h : Issues s t k) (a : BitVec 5) (i : BitVec 14) :
    let st := t.st k
    let n := ((st.reg a).toNat + i.toNat) % 2 ^ 32
    (n = 0 → exec (.cycles a i) s = .next (s.retire t k st)) ∧
    (0 < n → exec (.cycles a i) s = .next (s.setTask (t.setSt k
      { t.advance st 1 with status := .waiting (.cycles (s.now + n)), granted := false, run := 0 }))) := by
  intro st n
  have hn : (st.reg a + i.zeroExtend 32).toNat = n := toNat_cycleCount _ i
  refine ⟨fun h0 => exec_completes h (exec_cycles a i s) (if_pos ?_),
    fun h0 => exec_completes h (exec_cycles a i s) ?_⟩
  · exact BitVec.eq_of_toNat_eq (hn.trans h0)
  · have hne : st.reg a + i.zeroExtend 32 ≠ 0 := fun e => by
      rw [e] at hn
      exact absurd hn (Nat.ne_of_lt h0)
    rw [← hn]
    exact if_neg hne

theorem exec_endStream_issued {s : State} {t : Task} {k : StreamId} (h : Issues s t k) (hm : t.tmode = false)
    (hq : t.semQ = []) : exec .endStream s = .next (s.setTask (t.setSt k
      { t.st k with status := .ended, granted := false, run := 0, retired := (t.st k).retired + 1 })) := by
  refine exec_completes h (exec_endStream s) ?_
  simp only [hm, Bool.false_eq_true, if_false]
  exact congrArg Except.ok (State.testDeadlock_setTask (t := t.setSt k _) (by rw [Task.setSt_uid, h.task]; rfl) hq)

/-- Settles O39, instruction by instruction. -/
theorem streamControlResults : Obligations.StreamControlResults := by
  intro s t k h st
  refine ⟨fun c => exec_completes h (exec_trap c s) ?_, exec_traps h (exec_bkpt s) rfl (by decide),
    exec_completes h (exec_yield s) rfl, streamOp_next h (runsOn_scalar k) id, exec_cycles_issued h,
    fun hm => exec_traps h (exec_endStream s) (if_pos hm) (by decide), exec_endStream_issued h, t.killAll (9, 0),
    exec_completes h (exec_kill s) rfl, rfl, rfl, rfl, t.killAll_st (9, 0)⟩
  simp [State.retire, st, clsUser]

end Sys2Proof.Machine

namespace Sys2Proof.Machine
set_option Elab.async false

/-! ### Taking a trap (R387 to R397) -/

/-- TSTAT.ENDED holds the bit of each stream that has ended (R392). -/
theorem Task.endedBits_getLsbD (t : Task) (j : StreamId) :
    t.endedBits.getLsbD j.idx = decide ((t.st j).status = .ended) := by
  have bits : ∀ a b c d : Bool, ∀ j : StreamId, (BitVec.ofNat 4 ((((0 + if a then 2 ^ StreamId.s.idx else 0) +
      if b then 2 ^ StreamId.v.idx else 0) + if c then 2 ^ StreamId.m.idx else 0) + if d then 2 ^ StreamId.c.idx else 0)).getLsbD j.idx =
      match j with | .s => a | .v => b | .m => c | .c => d := by
    intro a b c d j
    cases j <;> revert a b c d <;> decide
  have h := bits (decide ((t.st .s).status = .ended)) (decide ((t.st .v).status = .ended))
    (decide ((t.st .m).status = .ended)) (decide ((t.st .c).status = .ended)) j
  simp only [decide_eq_true_eq] at h
  rw [Task.endedBits]
  refine h.trans ?_
  cases j <;> rfl

/-- TCAUSE of an entry without lane records, field by field (R392). -/
theorem tcauseOf_toNat {cls sub : Nat} (hc : cls < 15) (hs : sub < 256) (k : StreamId) (deliv : Bool) (also : BitVec 4) :
    (tcauseOf cls sub k false deliv also).toNat =
      sub + 2 ^ 8 * cls + 2 ^ 12 * k.idx + 2 ^ 15 * deliv.toNat + 2 ^ 16 * also.toNat := by
  have hk : k.idx < 4 := by cases k <;> decide
  have hd : deliv.toNat < 2 := Bool.toNat_lt deliv
  have ha : also.toNat < 16 := also.isLt
  rw [tcauseOf, BitVec.toNat_ofNat, Bool.toNat_false]
  omega

/-- A stream that stops at an instruction boundary keeps all but its status and its run (R15, R389). -/
theorem Task.st_halted (t : Task) (j : StreamId) :
    (Streams.get ⟨t.str.s.halt, t.str.v.halt, t.str.m.halt, t.str.c.halt⟩ j) = (t.st j).halt := by
  cases j <;> rfl

/-- The streams of a task that enters its handler, the scalar stream apart, stop where they stand (R389). -/
theorem Task.st_enter_ne (t : Task) {k j : StreamId} (pc : Dword) (cls sub : Nat) (info : Dword) (lrec deliv : Bool)
    (also : BitVec 4) (h : j ≠ .s) : (t.enter k pc cls sub info lrec deliv also).st j = (t.st j).halt := by
  cases j
  case s => exact absurd rfl h
  all_goals rfl

/-- The debug agent takes no trap but DEBUG, and that only of a task in its reach (R397). -/
theorem agent_passes {c : Nat} {b : Bool} (h : ¬(c = 10 ∧ b = true)) : (decide (c = clsDebug) && b) = false :=
  eq_false_of_ne_true fun e => h ((Bool.and_eq_true _ _ ▸ e).imp_left of_decide_eq_true)

/-- A trap that the handler takes is the entry of R389. -/
theorem State.takeTrap_handled {s : State} {t : Task} {k : StreamId} {r : TrapReq} (ha : r.cls = 10 → s.agentStops t = false)
    (hv : t.tvec ≠ 0) (hm : ¬(t.tmode = true ∧ k = .s)) (hl : r.lanes = none) (pc : Dword) (deliv : Bool) (also : BitVec 4) :
    s.takeTrap t k pc deliv also r = s.setTask (t.enter k pc r.cls r.sub r.info false deliv also) := by
  have h1 := agent_passes (c := r.cls) fun h => Bool.false_ne_true ((ha h.1).symm.trans h.2)
  have h2 : t.unhandled k = false := Bool.or_eq_false_iff.2 ⟨beq_false_of_ne hv, by simpa using hm⟩
  simp [State.takeTrap, h1, h2, hl]

/-- A trap with TVEC 0, or of the handler itself, ends the task (R23, R396). -/
theorem State.takeTrap_unhandled {s : State} {t : Task} {k : StreamId} {r : TrapReq}
    (ha : ¬(r.cls = 10 ∧ s.agentStops t = true)) (hu : t.tvec = 0 ∨ t.tmode = true ∧ k = .s) (pc : Dword) (deliv : Bool)
    (also : BitVec 4) : s.takeTrap t k pc deliv also r = s.setTask (t.killAll (r.cls, r.sub)) := by
  have h1 := agent_passes ha
  have h2 : t.unhandled k = true := by simpa [Task.unhandled] using hu
  simp [State.takeTrap, h1, h2]

/-- DEBUG under the debug agent stops every stream, outside trap mode (R397). -/
theorem State.takeTrap_agent {s : State} {t : Task} {k : StreamId} {r : TrapReq} (hc : r.cls = 10)
    (ha : s.agentStops t = true) (pc : Dword) (deliv : Bool) (also : BitVec 4) :
    s.takeTrap t k pc deliv also r = { s.setTask { t with
      dbgHalt := true, semQ := [], flights := [], sb := [],
      str := ⟨t.str.s.halt, t.str.v.halt, t.str.m.halt, t.str.c.halt⟩ } with wire := s.wire ++ [.stopped t.uid r.sub] } := by
  simp [State.takeTrap, hc, ha, clsDebug]

/-- Settles O37: the three ways in which a trap is taken, each with what it leaves. -/
theorem trapsAreTaken : Obligations.TrapsAreTaken := by
  refine ⟨fun s t k pc deliv also r _ hv hm ha hl hc hs => ?_, fun s t k pc deliv also r => ⟨fun ha hu => ?_, fun hc ha => ?_⟩⟩
  · refine ⟨_, State.takeTrap_handled ha hv hm hl pc deliv also, rfl, rfl, fun j => ?_, tcauseOf_toNat hc hs k deliv also, rfl,
      fun j => ?_, rfl, rfl, fun j hj => ?_, fun j => ?_, rfl⟩
    · cases j <;> rfl
    · exact (Bool.coe_iff_coe.2 (t.endedBits_getLsbD j)).trans decide_eq_true_iff
    · rw [Task.st_enter_ne t pc _ _ _ _ _ _ hj]
      exact ⟨rfl, rfl⟩
    · cases j <;> exact ⟨rfl, rfl, rfl, rfl⟩
  · exact ⟨_, State.takeTrap_unhandled ha hu pc deliv also, fun j => by cases j <;> exact ⟨rfl, rfl⟩, rfl, rfl, rfl, rfl⟩
  · refine ⟨_, _, State.takeTrap_agent hc ha pc deliv also, rfl, rfl, rfl, rfl, rfl, fun j => ?_⟩
    rw [Task.st, Task.st_halted]
    exact ⟨rfl, rfl, rfl⟩

end Sys2Proof.Machine

namespace Sys2Proof.Machine
set_option Elab.async false

/-! ### Counts of semaphores (R16, R17) -/

theorem nth_set {α : Type} (l : List α) (i j : Nat) (v d : α) (hi : i < l.length) :
    nth (l.set i v) j d = if j = i then v else nth l j d := by
  by_cases h : j = i
  · subst h
    simp [nth, hi]
  · simp [nth, h, List.getElem?_set_ne (Ne.symm h)]

theorem Task.sem_setSem (t : Task) {i : Nat} (h : i < t.sems.length) (v j : Nat) :
    (t.setSem i v).sem j = if j = i then v else t.sem j := nth_set t.sems i j v 0 h
@[simp] theorem Task.sem_setSt (t : Task) (k : StreamId) (st : StreamSt) (j : Nat) : (t.setSt k st).sem j = t.sem j := rfl
@[simp] theorem Task.sem_noteSig (t : Task) (i n : Nat) (x : List Nat) (j : Nat) : (t.noteSig i n x).sem j = t.sem j := rfl
@[simp] theorem Task.sem_takeSeen (t : Task) (i n : Nat) (k : StreamId) (j : Nat) : (t.takeSeen i n k).sem j = t.sem j := rfl

/-- Taking from a semaphore lets its stream follow the SIGs that it consumed, and changes no other of its state (R17). -/
theorem Task.st_takeSem (t : Task) (i n : Nat) (k : StreamId) :
    ∃ seen, (t.takeSem i n k).st k = { t.st k with seen := seen } :=
  ⟨_, Task.st_setSt _ k _⟩

theorem Task.sem_takeSem (t : Task) {i : Nat} (h : i < t.sems.length) (n : Nat) (k : StreamId) (j : Nat) :
    (t.takeSem i n k).sem j = if j = i then t.sem i - n else t.sem j := t.sem_setSem h _ j

theorem Task.serveSem_none {t : Task} {i : Nat} (h : ∀ w ∈ t.semQ, w.sem ≠ i) : ∀ f, t.serveSem i f = t
  | 0 => rfl
  | f + 1 => by
    have hn : (t.semQ.find? fun w => w.sem == i) = none := List.find?_eq_none.2 fun w hw => by simpa using h w hw
    simp only [Task.serveSem, hn]

/-- With no waiter a count that grows is all (R16). -/
theorem Task.addSem_none {t : Task} {i : Nat} (h : ∀ w ∈ t.semQ, w.sem ≠ i) (n : Nat) :
    t.addSem i n = t.setSem i (t.sem i + n) := by
  unfold Task.addSem
  dsimp only
  split
  · rfl
  · exact Task.serveSem_none (t := t.setSem i (t.sem i + n)) h _

/-! ### SIG and WAIT (R149) -/

section
variable {s : State} {t : Task} {k : StreamId}

theorem State.leaveAll_tasks (s : State) (c b : Nat) (q : List QEntry) : (s.leaveAll c b q).tasks = s.tasks := by
  induction q generalizing s with
  | nil => rfl
  | cons e q ih => exact (ih _).trans (s.leaveQueue_carries c b e.eff.parts).tasks

theorem State.drain_tasks (s : State) (t : Task) (k : StreamId) : (s.drain t k).1.tasks = s.tasks := by
  unfold State.drain
  split
  · rfl
  · exact State.leaveAll_tasks s _ _ _

/-- Outside deterministic launches a drain empties the stream's queue and changes nothing else of the task (R97). -/
theorem State.drain_task (s : State) (k : StreamId) (h : t.det = false) :
    (s.drain t k).2 = t.setSt k { t.st k with queue := [] } := by
  simp [State.drain, h]

theorem State.task?_of_tasks {u : State} (h : u.tasks = s.tasks) (n : Nat) : u.task? n = s.task? n := by
  rw [State.task?, h]
  rfl

theorem any_waiter_false {i : Nat} (h : ∀ w ∈ t.semQ, w.sem ≠ i) : (t.semQ.any fun w => w.sem == i) = false := by
  simpa using h

theorem exec_sig_added (h : Issues s t k) {i : BitVec 5} {n : BitVec 8} (hi : i.toNat < t.nsems)
    (hl : t.nsems ≤ t.sems.length) (hd : t.det = false) (hn : t.sem i.toNat + n.toNat ≤ 255)
    (hq : ∀ w ∈ t.semQ, w.sem ≠ i.toNat) :
    ∃ s' t', exec (.sig i n) s = .next s' ∧ s'.task? t.uid = some t' ∧ t'.sem i.toNat = t.sem i.toNat + n.toNat ∧
      (∀ j, j ≠ i.toNat → t'.sem j = t.sem j) ∧ (t'.st k).queue = [] ∧ (t'.st k).pc = (t.st k).pc + 4 ∧
      (t'.st k).regs = (t.st k).regs := by
  let d := t.setSt k { t.st k with queue := [] }
  let u := (d.noteSig i.toNat n.toNat ((s.drain t k).1.seenBy d k)).setSt k (d.advance (d.st k) 1)
  have he : exec (.sig i n) s = .next ((s.drain t k).1.setTask (u.addSem i.toNat n.toNat)) := by
    refine exec_completes h (exec_sig i n s) ?_
    simp only [if_neg (Nat.not_le.2 hi), hd, Bool.false_eq_true, if_false, if_neg (Nat.not_lt.2 hn)]
    rw [s.drain_task k hd]
  rw [Task.addSem_none (t := u) hq] at he
  have hu : ∀ j, (u.setSem i.toNat (u.sem i.toNat + n.toNat)).sem j =
      if j = i.toNat then t.sem i.toNat + n.toNat else t.sem j :=
    u.sem_setSem (Nat.lt_of_lt_of_le hi hl) _
  have hst : (u.setSem i.toNat (u.sem i.toNat + n.toNat)).st k = t.advance { t.st k with queue := [] } 1 := by
    refine (Task.st_setSt _ k _).trans ?_
    rw [Task.st_setSt]
    rfl
  refine ⟨_, _, he, State.task?_setTask _ (u.setSem _ _) ?_, (hu _).trans (if_pos rfl), fun j hj => (hu j).trans (if_neg hj), ?_⟩
  · exact (congrArg Option.isSome ((State.task?_of_tasks (s.drain_tasks t k) _).trans h.task)).trans rfl
  · rw [hst]
    exact ⟨rfl, rfl, rfl⟩

theorem exec_wait_taken (h : Issues s t k) {i : BitVec 5} {n : BitVec 8} (hi : i.toNat < t.nsems)
    (hl : t.nsems ≤ t.sems.length) (hn : n.toNat ≤ t.sem i.toNat) (hq : ∀ w ∈ t.semQ, w.sem ≠ i.toNat) :
    ∃ s' t', exec (.wait i n) s = .next s' ∧ s'.task? t.uid = some t' ∧ t'.sem i.toNat = t.sem i.toNat - n.toNat ∧
      (∀ j, j ≠ i.toNat → t'.sem j = t.sem j) ∧ (t'.st k).pc = (t.st k).pc + 4 ∧ (t'.st k).regs = (t.st k).regs ∧
      { s' with tasks := s.tasks } = s := by
  let u := t.takeSem i.toNat n.toNat k
  have he : exec (.wait i n) s = .next (s.setTask (u.setSt k (u.advance (u.st k) 1))) := by
    refine exec_completes h (exec_wait i n s) ?_
    simp only [if_neg (Nat.not_le.2 hi), any_waiter_false hq, hn, decide_true, Bool.not_false, Bool.and_true, if_true]
    rfl
  have hu : ∀ j, (u.setSt k (u.advance (u.st k) 1)).sem j = if j = i.toNat then t.sem i.toNat - n.toNat else t.sem j :=
    t.sem_takeSem (Nat.lt_of_lt_of_le hi hl) _ k
  obtain ⟨seen, hs⟩ := t.st_takeSem i.toNat n.toNat k
  refine ⟨_, _, he, State.task?_setTask s (u.setSt k _) ?_, (hu _).trans (if_pos rfl), fun j hj => (hu j).trans (if_neg hj), ?_⟩
  · exact (congrArg Option.isSome h.task).trans rfl
  · rw [Task.st_setSt, show u.st k = _ from hs]
    exact ⟨rfl, rfl, rfl⟩

theorem exec_wait_joins (h : Issues s t k) {i : BitVec 5} {n : BitVec 8} (hi : i.toNat < t.nsems)
    (hw : t.sem i.toNat < n.toNat ∨ ∃ w ∈ t.semQ, w.sem = i.toNat) :
    exec (.wait i n) s = .next ((s.stall { t with semQ := t.semQ ++ [{ sem := i.toNat, stream := k, k := n.toNat }] } k
      (.sem i.toNat n.toNat)).testDeadlock t.uid) := by
  have hc : ¬(decide (n.toNat ≤ t.sem i.toNat) && !(t.semQ.any fun w => w.sem == i.toNat)) = true := by
    rw [Bool.and_eq_true, decide_eq_true_iff, Bool.not_eq_true', ← Bool.not_eq_true, List.any_eq_true]
    rintro ⟨hn, hq⟩
    rcases hw with hw | ⟨w, hm, he⟩
    · omega
    · exact hq ⟨w, hm, beq_iff_eq.2 he⟩
  refine exec_completes h (exec_wait i n s) ?_
  simp only [if_neg (Nat.not_le.2 hi), hc]
  rfl

end

/-! ### How waiters are served (R16) -/

theorem Task.serveSem_blocked {t : Task} {i : Nat} {w : SemWait} (hw : (t.semQ.find? fun x => x.sem == i) = some w)
    (hk : t.sem i < w.k) (n : Nat) : t.serveSem i (n + 1) = t := by
  simp only [Task.serveSem, hw, if_neg (Nat.not_le.2 hk)]

theorem Task.serveSem_served {t : Task} {i : Nat} {w : SemWait} (hw : (t.semQ.find? fun x => x.sem == i) = some w)
    (hk : w.k ≤ t.sem i) (n : Nat) : t.serveSem i (n + 1) = (t.grantWait w).serveSem i n := by
  simp only [Task.serveSem, hw, if_pos hk]

/-- A served WAIT takes its count, leaves the waiters, and its stream goes on (R16, R149). -/
theorem Task.grantWait_spec (t : Task) (w : SemWait) (hi : w.sem < t.sems.length) :
    (∀ j, (t.grantWait w).sem j = if j = w.sem then t.sem w.sem - w.k else t.sem j) ∧
    ((t.grantWait w).st w.stream).pc = (t.st w.stream).pc + 4 ∧
    ∀ x ∈ (t.grantWait w).semQ, x.stream ≠ w.stream := by
  let u : Task := { t with semQ := t.semQ.filter fun x => !(x.stream == w.stream) }
  obtain ⟨seen, hs⟩ := u.st_takeSem w.sem w.k w.stream
  refine ⟨u.sem_takeSem hi w.k w.stream, ?_, fun x hx => ?_⟩
  · refine (congrArg StreamSt.pc (Task.st_setSt _ w.stream _)).trans ?_
    rw [Task.advance_pc, hs]
    rfl
  · have hm : x ∈ t.semQ.filter fun x => !(x.stream == w.stream) := hx
    simpa using (List.mem_filter.1 hm).2

/-- Settles O26: each instruction by the state of the semaphore that it meets, and one step of serving the waiters. -/
theorem semaphoreResults : Obligations.SemaphoreResults := by
  refine ⟨fun s t k h i n => ⟨fun hi => ⟨?_, ?_⟩, fun hi hd ho => ?_, fun hi hd => ?_, fun hi hl hd => exec_sig_added h hi hl hd,
    fun hi hl => exec_wait_taken h hi hl, fun hi => exec_wait_joins h hi⟩, fun t i n w hw hi => ?_⟩
  · exact exec_traps h (exec_sig i n s) (if_pos hi) (by decide)
  · exact exec_traps h (exec_wait i n s) (if_pos hi) (by decide)
  · refine exec_traps h (exec_sig i n s) ?_ (by decide)
    simp only [if_neg (Nat.not_le.2 hi), hd, Bool.false_eq_true, if_false, if_pos ho]
    rfl
  · refine exec_completes h (exec_sig i n s) ?_
    simp only [if_neg (Nat.not_le.2 hi), hd, if_true]
  · obtain rfl : w.sem = i := by simpa using List.find?_some hw
    obtain ⟨hs, hp, hq⟩ := t.grantWait_spec w hi
    exact ⟨fun hk => Task.serveSem_blocked hw hk n, fun hk => ⟨_, Task.serveSem_served hw hk n, (hs _).trans (if_pos rfl), hp, hq,
      fun j hj => (hs j).trans (if_neg hj)⟩⟩

end Sys2Proof.Machine

namespace Sys2Proof.Machine
set_option Elab.async false

/-! ### The events of tasks and blocks -/

section
variable {s : State} {u : Nat} {t : Task}

theorem exec_cyclesExpiry_due {k : StreamId} {c : Nat} (ht : s.task? u = some t) (hw : (t.st k).status = .waiting (.cycles c)) :
    exec (.cyclesExpiry u k) s = .next
      { s.setTask (t.setSt k { t.st k with status := if t.tmode then .trap else .ready }) with now := Nat.max s.now c } := by
  simp only [exec_cyclesExpiry, execCyclesExpiry, State.expireCycles, ht, hw]

theorem exec_stallExpiry_due (ht : s.task? u = some t) :
    exec (.stallExpiry u) s = .next { s with now := Nat.max s.now t.vready } := by
  simp only [exec_stallExpiry, execStallExpiry, ht]

theorem exec_scoreboardedWordCompletion_due (ht : s.task? u = some t) :
    exec (.scoreboardedWordCompletion u) s = .next (s.setTask { t with sb := t.sb.tail }) := by
  simp only [exec_scoreboardedWordCompletion, execScoreboardedWordCompletion, State.completeWord, ht]

theorem exec_trapEntry_due {p : PendTrap} {ps : List PendTrap} (ht : s.task? u = some t) (hr : s.resident t = true)
    (hm : t.tmode = false) (hd : t.dbgHalt = false) (hp : t.pend = p :: ps) :
    exec (.trapEntry u) s = .next (s.takeTrap { t with pend := ps } p.stream (t.st p.stream).pc true p.also
      { cls := p.cls, sub := p.sub, info := p.info }) := by
  have hm : s.mayEnter t = true := by simp [State.mayEnter, hr, hm, hd, hp]
  simp only [exec_trapEntry, execTrapEntry, ht, hm, if_true, State.enterPending, hp]
  rfl

/-! #### The retirement of a task (R20, R23) -/

theorem Task.over_iff : t.over = true ↔
    (∀ k, (t.st k).status = .ended) ∧ t.mops = [] ∧ t.cops = [] ∧ t.pend = [] ∧ t.dbgHalt = false := by
  have hk : (allStreams.all fun k => (t.st k).status == .ended) = true ↔ ∀ k, (t.st k).status = .ended := by
    simp only [List.all_eq_true, beq_iff_eq]
    exact ⟨fun h k => h k (by cases k <;> decide), fun h k _ => h k⟩
  simp only [Task.over, Bool.and_eq_true, hk, List.isEmpty_iff, Bool.not_eq_true', and_assoc]

theorem exec_taskRetire_resident (ht : s.task? u = some t) (hd : t.det = false) (hr : s.resident t = true) :
    exec (.taskRetire u) s = .next (if t.over then s.retireTask t else s) := by
  simp only [exec_taskRetire, execTaskRetire, ht, hd, hr, Bool.not_false, Bool.and_true]

/-! #### A block that waits for a page (R277, R401, R402) -/

theorem any_not_resident {bs : List Block} (h : ∀ x ∈ bs, x.st = .resident) : (bs.any fun x => x.st != .resident) = false := by
  simpa using h

variable {b : Block}

theorem State.leaveHeld_room (hh : b.held = true) (hs : ∀ x ∈ s.blocksOf b.span, x.st = .resident)
    (hr : s.poolRoom (s.blocksOf b.span) = true) :
    s.leaveHeld b = some (s.evict ((s.blocksOf b.span).map (·.uid)) false) := by
  simp [State.leaveHeld, hh, any_not_resident hs, hr]

theorem State.leaveHeld_full (hh : b.held = true) (hs : ∀ x ∈ s.blocksOf b.span, x.st = .resident)
    (hr : s.poolRoom (s.blocksOf b.span) = false) :
    s.leaveHeld b = if (s.blocksOf b.span).all fun x => x.page.isNone then
      some { s with blocks := s.blocks.map fun x => if x.span = b.span then { x with held := false } else x } else none := by
  simp [State.leaveHeld, hh, any_not_resident hs, hr]

theorem exec_blockEviction_of (hb : s.block? u = some b) :
    exec (.blockEviction u) s = .next ((s.leaveHeld b).getD s) := by
  simp only [exec_blockEviction, execBlockEviction, hb, Option.bind_some]

/-! #### The debug agent (R397, R416) -/

theorem exec_debugHaltRequest_active (ht : s.task? u = some t) (hp : s.byder.power = .active) (hm : s.mgmtOpen = true)
    (ha : s.agentStops t = true) (hr : s.resident t = true) (hd : t.dbgHalt = false) :
    exec (.debugHaltRequest u) s = .next (s.takeTrap t .s (t.st .s).pc true 0 { cls := 10, sub := 2 }) := by
  have hw : s.wakeNap.wakeIdle = s := by simp [State.wakeNap, State.wakeIdle, hp]
  simp [execDebugHaltRequest, ht, hm, ha, hw, hr, hd, clsDebug]

theorem exec_debugResume_halted (ht : s.task? u = some t) (hd : t.dbgHalt = true) (hm : s.mgmtOpen = true) :
    ∃ v, exec (.debugResume u) s = .next (s.setTask v) ∧ v.dbgHalt = false ∧
      ∀ k, v.st k = (t.st k).goOn t.tmode k := by
  refine ⟨{ t with dbgHalt := false, str := ⟨t.str.s.goOn t.tmode .s, t.str.v.goOn t.tmode .v, t.str.m.goOn t.tmode .m,
    t.str.c.goOn t.tmode .c⟩ }, ?_, rfl, fun k => ?_⟩
  · simp only [exec_debugResume, execDebugResume, ht, hd, hm, Bool.and_self, if_true]
  · cases k <;> rfl

theorem exec_batchFlushTimeout_of {id : Nat} {n : Node} {g : Graph} (hn : s.node? id = some n) (hg : s.graph? n.graph = some g) :
    exec (.batchFlushTimeout id) s = .next (if n.recs.isEmpty || g.det then s
      else State.settleAll (s.cutBatch n (Nat.min 96 n.recs.length))) := by
  simp only [exec_batchFlushTimeout, execBatchFlushTimeout, State.flushNode, hn, hg, Option.map_some, Option.getD_some]

end

/-- Settles O50, event by event. -/
theorem taskEventsComplete : Obligations.TaskEventsComplete := by
  refine ⟨fun s u k t c => exec_cyclesExpiry_due, fun s u t => exec_stallExpiry_due,
    fun s u t => exec_scoreboardedWordCompletion_due, fun s u t p ps => exec_trapEntry_due,
    fun s u t ht hd hr => ⟨fun h => ?_, fun h => ?_⟩, fun s u b hb hh hs hr => ?_, fun s u b hb hh hs hr => ⟨fun h => ?_, fun h => ?_⟩,
    fun s n l hl hc => ?_, fun s id n g hn hg => ⟨fun h => ?_, fun h hd => ?_⟩, fun s u t => exec_debugHaltRequest_active,
    fun s u t ht hd hm => ?_⟩
  · rw [exec_taskRetire_resident ht hd hr, if_pos (Task.over_iff.2 h)]
  · rw [exec_taskRetire_resident ht hd hr, if_neg]
    intro ho
    obtain ⟨hk, hmo, hco, hpe, -⟩ := Task.over_iff.1 ho
    rcases h with ⟨k, h⟩ | h | h | h
    · exact h (hk k)
    · exact h hmo
    · exact h hco
    · exact h hpe
  · rw [exec_blockEviction_of hb, State.leaveHeld_room hh hs hr, Option.getD_some]
  · obtain ⟨x, hx, hp⟩ := h
    rw [exec_blockEviction_of hb, State.leaveHeld_full hh hs hr, if_neg, Option.getD_none]
    exact fun hall => hp (Option.isNone_iff_eq_none.1 (List.all_eq_true.1 hall x hx))
  · rw [exec_blockEviction_of hb, State.leaveHeld_full hh hs hr, if_pos, Option.getD_some]
    exact List.all_eq_true.2 fun x hx => Option.isNone_iff_eq_none.2 (h x hx)
  · simp only [exec_commit, execCommit, hl, hc, if_true]
  · rw [exec_batchFlushTimeout_of hn hg, if_pos]
    rcases h with h | h <;> simp [h]
  · rw [exec_batchFlushTimeout_of hn hg, if_neg (by simp [h, hd])]
  · obtain ⟨v, he, hv, hk⟩ := exec_debugResume_halted ht hd hm
    refine ⟨v, he, hv, fun k => ?_⟩
    rw [hk]
    exact ⟨rfl, rfl, fun hs hm => by simp [StreamSt.goOn, hs, hm]⟩

end Sys2Proof.Machine

namespace Sys2Proof.Machine
set_option Elab.async false

/-! ### The order of an arbiter (R295) -/

/-- The first of a list in a total preorder goes before all of it. -/
theorem foldl_best {α : Type} {before : α → α → Bool} (total : ∀ a b, before a b = true ∨ before b a = true)
    (trans : ∀ a b c, before a b = true → before b c = true → before a c = true) :
    ∀ (l : List α) (b : α), let r := l.foldl (fun b y => if before y b then y else b) b
      r ∈ b :: l ∧ ∀ u ∈ b :: l, before r u = true
  | [], b => ⟨List.mem_cons_self .., fun u hu => by
      rw [List.mem_singleton.1 hu]
      exact (total b b).elim id id⟩
  | y :: l, b => by
    obtain ⟨hm, hb⟩ := foldl_best total trans l (if before y b then y else b)
    have hy := hb _ (List.mem_cons_self ..)
    refine ⟨?_, fun u hu => ?_⟩
    · rcases List.mem_cons.1 hm with h | h
      · rw [List.foldl_cons, h]
        split <;> simp
      · exact List.mem_cons_of_mem _ (List.mem_cons_of_mem _ h)
    · have hfirst : before (if before y b then y else b) b = true ∧ before (if before y b then y else b) y = true := by
        split
        · exact ⟨‹_›, (total y y).elim id id⟩
        · exact ⟨(total b b).elim id id, (total y b).resolve_left ‹_›⟩
      rcases List.mem_cons.1 hu with rfl | hu
      · exact trans _ _ _ hy hfirst.1
      · rcases List.mem_cons.1 hu with rfl | hu
        · exact trans _ _ _ hy hfirst.2
        · exact hb u (List.mem_cons_of_mem _ hu)

section
variable {s : State} {x : CoreSt} {k : StreamId}

theorem State.arbBefore_iff (a b : Task) : s.arbBefore x k a b = true ↔ grantFirst s x k a b := by
  simp only [State.arbBefore, grantFirst]
  generalize decide (31 ≤ (x.arbOf k a.uid).refused) = wa
  generalize decide (31 ≤ (x.arbOf k b.uid).refused) = wb
  generalize Option.getD (Option.map (· + 1) (x.arbOf k a.uid).lastEnd) 0 = la
  generalize Option.getD (Option.map (· + 1) (x.arbOf k b.uid).lastEnd) 0 = lb
  by_cases hw : wa = wb
  · by_cases hp : s.prio a = s.prio b
    · by_cases hl : la = lb
      · simp [hw, hp, hl]
      · simp [hw, hp, hl]
    · simp [hw, hp]
  · cases wa <;> cases wb <;> simp_all

theorem grantFirst_total (a b : Task) : grantFirst s x k a b ∨ grantFirst s x k b a := by
  simp only [grantFirst]
  generalize decide (31 ≤ (x.arbOf k a.uid).refused) = wa
  generalize decide (31 ≤ (x.arbOf k b.uid).refused) = wb
  cases wa <;> cases wb <;> simp <;> omega

theorem grantFirst_trans (a b c : Task) (h : grantFirst s x k a b) (h' : grantFirst s x k b c) : grantFirst s x k a c := by
  simp only [grantFirst] at *
  generalize decide (31 ≤ (x.arbOf k a.uid).refused) = wa at *
  generalize decide (31 ≤ (x.arbOf k b.uid).refused) = wb at *
  generalize decide (31 ≤ (x.arbOf k c.uid).refused) = wc at *
  cases wa <;> cases wb <;> cases wc <;> simp at * <;> omega

/-- Of the candidates of an arbiter the best is one that R295 puts before all of them. -/
theorem State.bestOf_arbBefore {l : List Task} (h : l ≠ []) :
    ∃ t ∈ l, bestOf (s.arbBefore x k) l = some t ∧ ∀ u ∈ l, grantFirst s x k t u := by
  obtain ⟨b, l, rfl⟩ := List.exists_cons_of_ne_nil h
  obtain ⟨hm, hb⟩ := foldl_best (before := s.arbBefore x k)
    (fun a b => by simp only [State.arbBefore_iff]; exact grantFirst_total a b)
    (fun a b c => by simp only [State.arbBefore_iff]; exact grantFirst_trans a b c) l b
  exact ⟨_, hm, rfl, fun u hu => (State.arbBefore_iff _ _).1 (hb u hu)⟩

end

/-! ### What an arbiter remembers after a grant (R295) -/

/-- The entry of a candidate after the grant to `t`: its refusals are over, or there is one more. -/
def CoreSt.granted (x : CoreSt) (k : StreamId) (t : Task) (now : Nat) (c : Task) : ArbEnt :=
  let e := x.arbOf k c.uid
  if c.uid == t.uid then { e with refused := 0, lastEnd := some now } else { e with refused := e.refused + 1 }

/-- A core after its arbiter of a kind has granted a run to `t` among the candidates `ready`. -/
def CoreSt.afterGrant (x : CoreSt) (k : StreamId) (ready : List Task) (t : Task) (now : Nat) : CoreSt :=
  { x with arb := ready.map (x.granted k t now) ++
      (x.arb.filter fun e => !(e.k == k && ready.any fun c => c.uid == e.task)).map fun e =>
        if e.k == k then { e with refused := 0 } else e }

section
variable {x : CoreSt} {k : StreamId} {ready : List Task} {t : Task} {now : Nat}

theorem CoreSt.arbOf_key (x : CoreSt) (k : StreamId) (u : Nat) : (x.arbOf k u).k = k ∧ (x.arbOf k u).task = u := by
  unfold CoreSt.arbOf
  cases h : x.arb.find? fun e => e.k == k && e.task == u with
  | none => exact ⟨rfl, rfl⟩
  | some e => simpa using List.find?_some h

theorem CoreSt.granted_key (c : Task) : (x.granted k t now c).k = k ∧ (x.granted k t now c).task = c.uid := by
  unfold CoreSt.granted
  dsimp only
  split <;> exact x.arbOf_key k c.uid

/-- The entry of a candidate is the one that the grant wrote. -/
theorem CoreSt.arbOf_afterGrant {u : Task} (hu : u ∈ ready) :
    ∃ c ∈ ready, c.uid = u.uid ∧ (x.afterGrant k ready t now).arbOf k u.uid = x.granted k t now c := by
  have hs : ((ready.map (x.granted k t now)).find? fun e => e.k == k && e.task == u.uid).isSome := by
    rw [List.find?_isSome]
    exact ⟨_, List.mem_map_of_mem hu, by simp [(CoreSt.granted_key (x := x) (t := t) (now := now) u).1,
      (CoreSt.granted_key (x := x) (k := k) (t := t) (now := now) u).2]⟩
  obtain ⟨e, he⟩ := Option.isSome_iff_exists.1 hs
  obtain ⟨c, hc, rfl⟩ := List.mem_map.1 (List.mem_of_find?_eq_some he)
  have hk := List.find?_some he
  rw [Bool.and_eq_true, beq_iff_eq, beq_iff_eq, (CoreSt.granted_key c).2] at hk
  exact ⟨c, hc, hk.2, by simp [CoreSt.arbOf, CoreSt.afterGrant, List.find?_append, he]⟩

theorem CoreSt.refused_granted (ht : t ∈ ready) : ((x.afterGrant k ready t now).arbOf k t.uid).refused = 0 := by
  obtain ⟨c, -, hc, he⟩ := CoreSt.arbOf_afterGrant (x := x) (k := k) (t := t) (now := now) ht
  rw [he, CoreSt.granted]
  simp [hc]

theorem CoreSt.refused_candidate {u : Task} (hu : u ∈ ready) (hn : u.uid ≠ t.uid) :
    ((x.afterGrant k ready t now).arbOf k u.uid).refused = (x.arbOf k u.uid).refused + 1 := by
  obtain ⟨c, -, hc, he⟩ := CoreSt.arbOf_afterGrant (x := x) (k := k) (t := t) (now := now) hu
  rw [he, CoreSt.granted]
  simp [hc, hn]

/-- What is no candidate has no refusals. -/
theorem CoreSt.refused_other {u : Nat} (hu : ∀ r ∈ ready, r.uid ≠ u) :
    ((x.afterGrant k ready t now).arbOf k u).refused = 0 := by
  have hn : (ready.map (x.granted k t now)).find? (fun e => e.k == k && e.task == u) = none := by
    rw [List.find?_eq_none]
    intro e he
    obtain ⟨c, hc, rfl⟩ := List.mem_map.1 he
    simp [CoreSt.granted_key c, hu c hc]
  rw [CoreSt.arbOf, CoreSt.afterGrant, List.find?_append, hn, Option.none_or]
  generalize x.arb.filter _ = old
  cases he : (old.map fun e : ArbEnt => if e.k == k then { e with refused := 0 } else e).find?
      fun e => e.k == k && e.task == u with
  | none => rfl
  | some e =>
    obtain ⟨e', -, rfl⟩ := List.mem_map.1 (List.mem_of_find?_eq_some he)
    have hk := List.find?_some he
    by_cases hk' : e'.k = k
    · simp [hk']
    · simp [hk'] at hk

end

/-! ### RUN_GRANT (R294, R295) -/

section
variable {s : State} {core : Nat} {k : StreamId} {t : Task}

theorem State.grantRun_again (h : ((s.tasks.filter fun t => s.coreOf t == core && s.ready t k).find?
    fun t => (t.st k).granted) = some t) : s.grantRun core k = { s with focus := some { task := t.uid, k := k } } := by
  simp only [State.grantRun, h]

/-- The state after a new run of stream `k` of the task `t`. -/
theorem State.grantRun_new {ready : List Task} (hr : ready = s.tasks.filter fun t => s.coreOf t == core && s.ready t k)
    (hg : ∀ t ∈ ready, (t.st k).granted = false) (hb : bestOf (s.arbBefore (s.core core) k) ready = some t) :
    s.grantRun core k = { (s.setCore core ((s.core core).afterGrant k ready t s.fresh)).setTask
        (({ t with runcnt := t.runcnt + 1 } : Task).setSt k { t.st k with granted := true, run := 0, runVec := false }) with
      focus := some { task := t.uid, k := k } } := by
  have hn : (ready.find? fun t => (t.st k).granted) = none := List.find?_eq_none.2 fun t ht => by simp [hg t ht]
  subst hr
  simp only [State.grantRun, hn, hb]
  rfl

theorem exec_runGrant_new {ready : List Task} (hr : ready = s.tasks.filter fun t => s.coreOf t == core && s.ready t k)
    (hne : ready ≠ []) (hg : ∀ t ∈ ready, (t.st k).granted = false) :
    ∃ t ∈ ready, (∀ u ∈ ready, grantFirst s (s.core core) k t u) ∧
      ∃ s', exec (.runGrant core k) s = .next s' ∧ s'.focus = some { task := t.uid, k := k } ∧
        s'.task? t.uid = some (({ t with runcnt := t.runcnt + 1 } : Task).setSt k
          { t.st k with granted := true, run := 0, runVec := false }) ∧
        ((s'.core core).arbOf k t.uid).refused = 0 ∧
        (∀ u ∈ ready, u.uid ≠ t.uid →
          ((s'.core core).arbOf k u.uid).refused = ((s.core core).arbOf k u.uid).refused + 1) ∧
        (∀ u, (∀ r ∈ ready, r.uid ≠ u) → ((s'.core core).arbOf k u).refused = 0) ∧
        (∀ u, u ≠ t.uid → s'.task? u = s.task? u) ∧ ∀ l, s'.byteAt l = s.byteAt l := by
  obtain ⟨t, ht, hb, hf⟩ := State.bestOf_arbBefore (s := s) (x := s.core core) (k := k) hne
  have hc := s.setCore_only core ((s.core core).afterGrant k ready t s.fresh)
  have hcore := s.core_setCore core ((s.core core).afterGrant k ready t s.fresh)
  have hm : t ∈ s.tasks := List.mem_of_mem_filter (hr ▸ ht)
  refine ⟨t, ht, hf, _, congrArg Host.Outcome.next (State.grantRun_new hr hg hb), rfl, ?_, ?_, fun u hu hn => ?_, fun u hu => ?_,
    fun u hu => ?_, fun l => ?_⟩
  · refine State.task?_setTask _ (({ t with runcnt := t.runcnt + 1 } : Task).setSt k _) ?_
    exact (congrArg Option.isSome (hc.task? t.uid)).trans (List.find?_isSome.2 ⟨t, hm, beq_self_eq_true _⟩)
  · exact (congrArg (fun x => (CoreSt.arbOf x k t.uid).refused) hcore).trans (CoreSt.refused_granted ht)
  · exact (congrArg (fun x => (CoreSt.arbOf x k u.uid).refused) hcore).trans (CoreSt.refused_candidate hu hn)
  · exact (congrArg (fun x => (CoreSt.arbOf x k u).refused) hcore).trans (CoreSt.refused_other hu)
  · exact (State.task?_setTask_ne _ (({ t with runcnt := t.runcnt + 1 } : Task).setSt k _) hu).trans (hc.task? u)
  · exact Eq.trans (by cases l <;> rfl) (hc.byteAt l)

end

end Sys2Proof.Machine

namespace Sys2Proof.Machine
set_option Elab.async false

/-! ### Tasks at their start (R14) -/

section
variable {s : State} {l : Launch}

theorem StreamSt.reg_of_zeros {st : StreamSt} (h : st.regs = Vector.replicate 32 0) (r : BitVec 5) : st.reg r = 0 := by
  unfold StreamSt.reg
  split
  · rfl
  · simp [h]

theorem StreamSt.pair_setReg (st : StreamSt) {r : BitVec 5} (v : Word) {p : BitVec 4} (h1 : pairLo p ≠ r) (h2 : pairHi p ≠ r) :
    (st.setReg r v).pair p = st.pair p := by
  rw [StreamSt.pair, StreamSt.reg_setReg, StreamSt.reg_setReg, if_neg (fun h => h1 h.1), if_neg (fun h => h2 h.1)]
  rfl

theorem StreamSt.setAm_eq (st : StreamSt) (am : Mask) : st.setAm am =
    ((st.setReg 28 (am.extractLsb' 0 32)).setReg 29 (am.extractLsb' 32 32)).setReg 30 (am.extractLsb' 64 32) := rfl

/-- A stream at its start before its registers are set (R14). -/
def startBare (s : State) (l : Launch) (core : Nat) (off : Word) : StreamSt :=
  { StreamSt.init with pc := if off = 0 then 0 else l.pkt.codebase + off.zeroExtend 64,
                       status := if off = 0 then .ended else .ready, ro := s.roPoint core }

theorem startStream_eq (s : State) (l : Launch) (core : Nat) (k : StreamId) (off : Word) (am : Mask) :
    startStream s l core k off am = if k = .v then ((startBare s l core off).setPair 1 l.addr).setAm am
      else (startBare s l core off).setPair 1 l.addr := rfl

theorem StreamSt.setAm_fields (st : StreamSt) (am : Mask) :
    (st.setAm am).status = st.status ∧ (st.setAm am).pc = st.pc ∧ (st.setAm am).fpmode = st.fpmode ∧
      (st.setAm am).fpflags = st.fpflags ∧ (st.setAm am).queue = st.queue ∧ (st.setAm am).pair 1 = st.pair 1 := by
  rw [StreamSt.setAm_eq]
  refine ⟨by simp, by simp, by simp, by simp, by simp, ?_⟩
  rw [StreamSt.pair_setReg _ _ (by decide) (by decide), StreamSt.pair_setReg _ _ (by decide) (by decide),
    StreamSt.pair_setReg _ _ (by decide) (by decide)]

theorem StreamSt.reg_setAm (st : StreamSt) (am : Mask) (r : BitVec 5) : (st.setAm am).reg r =
    if r = 30 then am.extractLsb' 64 32 else if r = 29 then am.extractLsb' 32 32 else
      if r = 28 then am.extractLsb' 0 32 else st.reg r := by
  have ne : (28 : BitVec 5) ≠ 31 ∧ (29 : BitVec 5) ≠ 31 ∧ (30 : BitVec 5) ≠ 31 := by decide
  simp only [StreamSt.setAm_eq, StreamSt.reg_setReg, ne.1, ne.2.1, ne.2.2, not_false_eq_true, and_true, ne_eq]

theorem startStream_fresh {core : Nat} {k : StreamId} {off : Word} {am : Mask} (ha : l.node = none → am = BitVec.allOnes 96) :
    freshStream l k off (startStream s l core k off am) := by
  let st := (startBare s l core off).setPair 1 l.addr
  have hreg : ∀ r : BitVec 5, r ≠ 2 → r ≠ 3 → st.reg r = 0 := fun r h2 h3 =>
    (StreamSt.reg_setPair_of_ne _ 1 _ h2 h3).trans (StreamSt.reg_of_zeros rfl r)
  have hst : st.status = if off = 0 then .ended else .ready := by simp [st, StreamSt.setPair, startBare]
  have hpc : st.pc = if off = 0 then 0 else l.pkt.codebase + off.zeroExtend 64 := by simp [st, startBare]
  have hrun : if off = 0 then st.status = .ended else st.status = .ready ∧ st.pc = l.pkt.codebase + off.zeroExtend 64 := by
    rw [hst, hpc]
    split <;> simp
  have hpair : st.pair 1 = l.addr := StreamSt.pair_setPair _ _ (by decide)
  rw [startStream_eq]
  split
  · obtain ⟨h1, h2, h3, h4, h5, h6⟩ := st.setAm_fields am
    refine ⟨by rw [h1, h2]; exact hrun, h6.trans hpair, h3.trans (by simp [st, startBare, StreamSt.init]),
      h4.trans (by simp [st, startBare, StreamSt.init]), h5.trans (by simp [st, startBare, StreamSt.init]), fun r hr2 hr3 hv => ?_, fun _ hn => ?_⟩
    · obtain ⟨n28, n29, n30⟩ := hv ‹_›
      rw [StreamSt.reg_setAm, if_neg n30, if_neg n29, if_neg n28, hreg r hr2 hr3]
    · rw [ha hn]
      exact ⟨st.reg_setAm _ 28, st.reg_setAm _ 29, st.reg_setAm _ 30⟩
  · exact ⟨hrun, hpair, by simp [startBare, StreamSt.init], by simp [startBare, StreamSt.init], by simp [startBare, StreamSt.init],
      fun r h2 h3 _ => hreg r h2 h3, fun hk => absurd hk ‹_›⟩

theorem startTask_fresh (b : Block) (uid tid slot : Nat) : freshTask l (startTask s l b uid tid slot) := by
  have ha : l.node = none → (if l.node.isSome then BitVec.ofNat 96 (2 ^ l.records.length - 1) else BitVec.allOnes 96) =
      BitVec.allOnes 96 := fun h => by rw [h]; rfl
  exact ⟨rfl, rfl, rfl, rfl, rfl, rfl, startStream_fresh ha, startStream_fresh ha, startStream_fresh ha, startStream_fresh ha,
    fun v hv => List.eq_of_mem_replicate hv, fun p hp => List.eq_of_mem_replicate hp, fun n hn => List.eq_of_mem_replicate hn,
    rfl, rfl, rfl⟩

/-! ### Blocks at their start (R14, R26) -/

/-- A block of a launch that has just started, at a place of those given. -/
def freshBlock (l : Launch) (at_ : List (Nat × Nat)) (b : Block) : Prop :=
  b.launch = l.num ∧ b.scratch = [] ∧ b.st = .resident ∧ (b.core, b.base) ∈ at_

/-- In `u` some blocks of a launch have started since `s`, with `n` tasks of theirs. -/
structure State.Placed (s u : State) (l : Launch) (at_ : List (Nat × Nat)) (n : Nat) : Prop where
  byder : u.byder = s.byder
  mem : u.mem = s.mem
  tasks : ∃ ts, u.tasks = s.tasks ++ ts ∧ ts.length = n ∧ ∀ t ∈ ts, freshTask l t
  blocks : ∃ bs, u.blocks = s.blocks ++ bs ∧ ∀ b ∈ bs, freshBlock l at_ b

theorem State.Placed.refl (s : State) (l : Launch) (at_ : List (Nat × Nat)) : s.Placed s l at_ 0 :=
  ⟨rfl, rfl, ⟨[], by simp, rfl, by simp⟩, ⟨[], by simp, by simp⟩⟩

/-- What changes neither tasks nor blocks, memory nor Byder starts nothing. -/
theorem State.Placed.of_same {s u : State} {at_ : List (Nat × Nat)} (h1 : u.byder = s.byder) (h2 : u.mem = s.mem)
    (h3 : u.tasks = s.tasks) (h4 : u.blocks = s.blocks) : s.Placed u l at_ 0 :=
  ⟨h1, h2, ⟨[], by simp [h3], rfl, by simp⟩, ⟨[], by simp [h4], by simp⟩⟩

theorem State.Placed.trans {s u v : State} {at_ : List (Nat × Nat)} {m n : Nat} (h : s.Placed u l at_ m)
    (h' : u.Placed v l at_ n) : s.Placed v l at_ (m + n) := by
  obtain ⟨hb, hm, ⟨ts, ht, hl, hf⟩, ⟨bs, hbs, hbf⟩⟩ := h
  obtain ⟨hb', hm', ⟨ts', ht', hl', hf'⟩, ⟨bs', hbs', hbf'⟩⟩ := h'
  refine ⟨hb'.trans hb, hm'.trans hm, ⟨ts ++ ts', by rw [ht', ht, List.append_assoc], by rw [List.length_append, hl, hl'],
    fun t h => (List.mem_append.1 h).elim (hf t) (hf' t)⟩, ⟨bs ++ bs', by rw [hbs', hbs, List.append_assoc],
    fun b h => (List.mem_append.1 h).elim (hbf b) (hbf' b)⟩⟩

theorem State.l1Clear_byder (s : State) (c : Nat) : (s.l1Clear c).byder = s.byder := by
  obtain ⟨x, d, w, h⟩ := s.l1Clear_only c
  rw [h]

theorem State.startBlock_placed (s : State) (l : Launch) (span bid pos core base : Nat) {at_ : List (Nat × Nat)}
    (h : (core, base) ∈ at_) : s.Placed (s.startBlock l span bid pos core base) l at_ l.pkt.tasks := by
  have ho := s.l1Clear_only core
  refine ⟨s.l1Clear_byder core, ho.mem, ⟨_, congrArg (· ++ _) ho.tasks, ?_, fun t ht => ?_⟩,
    ⟨_, congrArg (· ++ _) ho.blocks, fun b hb => ?_⟩⟩
  · rw [List.length_map, upto_eq_range, List.length_range]
  · obtain ⟨i, -, rfl⟩ := List.mem_map.1 ht
    exact startTask_fresh _ _ _ _
  · rw [List.mem_singleton.1 hb]
    exact ⟨rfl, rfl, rfl, h⟩

theorem State.startBlocks_placed (l : Launch) (span sid : Nat) {at_ : List (Nat × Nat)} :
    ∀ (ps : List (Nat × Nat × Nat)) (s : State), (∀ x ∈ ps, x.2 ∈ at_) →
      s.Placed (ps.foldl (fun s x => s.startBlock l span (sid * l.pkt.spanSize + x.1) x.1 x.2.1 x.2.2) s) l at_
        (ps.length * l.pkt.tasks)
  | [], s, _ => by simpa using State.Placed.refl s l at_
  | x :: ps, s, h => by
    have h1 := s.startBlock_placed l span (sid * l.pkt.spanSize + x.1) x.1 x.2.1 x.2.2 (h x (List.mem_cons_self ..))
    have h2 := State.startBlocks_placed l span sid ps (s.startBlock l span (sid * l.pkt.spanSize + x.1) x.1 x.2.1 x.2.2) fun y hy => h y (List.mem_cons_of_mem _ hy)
    rw [List.length_cons, Nat.succ_mul, Nat.add_comm]
    exact h1.trans h2

theorem State.nodeFree_placed (s : State) (l : Launch) (at_ : List (Nat × Nat)) (n k : Nat) :
    s.Placed (s.nodeFree n k) l at_ 0 := by
  unfold State.nodeFree
  split <;> exact .of_same rfl rfl rfl rfl

theorem State.startSpan_placed (s : State) (l : Launch) (sid : Nat) {places : List (Nat × Nat × Nat)} {at_ : List (Nat × Nat)}
    (h : ∀ x ∈ places, x.2 ∈ at_) : s.Placed (s.startSpan l sid places) l at_ (places.length * l.pkt.tasks) := by
  unfold State.startSpan
  extract_lets _ p s1 s2 _ s3
  have h1 : s.Placed s1 l at_ 0 := .of_same rfl rfl rfl rfl
  have h2 : s1.Placed s2 l at_ 0 := by
    subst s2
    split
    · exact s1.nodeFree_placed l at_ _ _
    · exact .refl s1 l at_
  have h3 : s2.Placed s3 l at_ 0 := by
    subst s3
    split <;> exact .of_same rfl rfl rfl rfl
  simpa using ((h1.trans h2).trans h3).trans (State.startBlocks_placed l p.uid sid places s3 h)

end

/-! ### PLACE_BLOCK and BLOCK_RESUMPTION (R26, R27, R284) -/

section
variable {s : State} {w : Waiting} {cores bases : List Nat} {l : Launch} {ns : List (Nat × Need)}

/-- What waits takes the place that it fits. -/
theorem State.placeAt_fits (hn : s.waitingNeeds w = some (l, ns)) (hl : cores.length = bases.length)
    (ha : s.coresAllowed l w ((ns.map (·.1)).zip cores) = true)
    (hf : s.placesFit w [] ns ((ns.map (·.1)).zip (cores.zip bases)) = true) :
    s.placeAt w cores bases = s.takePlace w ((ns.map (·.1)).zip (cores.zip bases)) := by
  simp [State.placeAt, hn, hl, ha, hf]

/-- What fits elsewhere stays. -/
theorem State.placeAt_elsewhere (hn : s.waitingNeeds w = some (l, ns))
    (hf : (s.coresAllowed l w ((ns.map (·.1)).zip cores) && s.placesFit w [] ns ((ns.map (·.1)).zip (cores.zip bases))) = false)
    (he : (s.findPlace w).isSome = true) : s.placeAt w cores bases = s := by
  have hok : (cores.length == bases.length && s.coresAllowed l w ((ns.map (·.1)).zip cores) &&
      s.placesFit w [] ns ((ns.map (·.1)).zip (cores.zip bases))) = false := by rw [Bool.and_assoc, hf, Bool.and_false]
  simp only [State.placeAt, hn, hok, he, Bool.false_eq_true, if_false, if_true]

variable {p : Nat}

theorem exec_placeBlock_fresh {n j : Nat} (hp : (cores.head?).bind s.partOfCore = some p) (hd : s.dispatching = true)
    (hh : s.pendingHead p = some (.fresh n j)) : exec (.placeBlock cores bases) s = .next (s.placeAt (.fresh n j) cores bases) := by
  simp only [exec_placeBlock, execPlaceBlock, hp, hh, hd, if_true]

theorem exec_blockResumption_back {u : Nat} {b : Block} (hp : (cores.head?).bind s.partOfCore = some p) (hd : s.dispatching = true)
    (hh : s.pendingHead p = some (.back u)) (hb : b ∈ s.blocksOf u) :
    exec (.blockResumption b.uid cores bases) s = .next (s.placeAt (.back u) cores bases) := by
  have ha : ((s.blocksOf u).any fun x => x.uid == b.uid) = true := List.any_eq_true.2 ⟨b, hb, beq_self_eq_true _⟩
  simp only [exec_blockResumption, execBlockResumption, hp, hh, hd, ha, Bool.and_self, if_true]

/-- A package whose dispatcher runs is ACTIVE once work wakes it (R417). -/
theorem State.power_wakeIdle (hd : s.dispatching = true) : s.wakeIdle.byder.power = .active := by
  obtain ⟨b, he, -, hi, hn⟩ := s.wakeIdle_cases
  rw [he]
  by_cases h : s.byder.power = .idle
  · exact hi h
  · have ha : s.byder.power = .active := by simpa [State.dispatching, h] using hd
    exact (congrArg Byder.power (hn h)).trans ha

theorem State.waitingNeeds_fresh {n j : Nat} (hn : s.waitingNeeds (.fresh n j) = some (l, ns)) : s.launch? n = some l := by
  obtain ⟨l', hl, he⟩ := Option.map_eq_some_iff.1 hn
  rw [hl, ← (Prod.mk.inj he).1]

theorem State.takePlace_fresh {n j : Nat} (hl : s.launch? n = some l) (places : List (Nat × Nat × Nat)) :
    s.takePlace (.fresh n j) places = s.wakeIdle.startSpan l j places := by
  have hw : s.wakeIdle.launch? n = some l := by
    obtain ⟨b, he, -⟩ := s.wakeIdle_cases
    rw [he]
    exact hl
  simp only [State.takePlace, hw]

theorem exec_placeBlock_placed {n j : Nat} (hp : (cores.head?).bind s.partOfCore = some p) (hd : s.dispatching = true)
    (hlen : cores.length = bases.length) (hh : s.pendingHead p = some (.fresh n j))
    (hn : s.waitingNeeds (.fresh n j) = some (l, ns)) (ha : s.coresAllowed l (.fresh n j) ((ns.map (·.1)).zip cores) = true)
    (hf : s.placesFit (.fresh n j) [] ns ((ns.map (·.1)).zip (cores.zip bases)) = true) :
    let places := (ns.map (·.1)).zip (cores.zip bases)
    ∃ s', exec (.placeBlock cores bases) s = .next s' ∧ s'.byder.power = .active ∧ s'.mem = s.mem ∧
      (∀ t ∈ s.tasks, t ∈ s'.tasks) ∧ s'.tasks.length = s.tasks.length + places.length * l.pkt.tasks ∧
      (∀ t ∈ s'.tasks, t ∈ s.tasks ∨ freshTask l t) ∧
      (∀ b ∈ s'.blocks, b ∈ s.blocks ∨ (b.launch = n ∧ b.scratch = [] ∧ b.st = .resident ∧ (b.core, b.base) ∈ cores.zip bases)) := by
  intro places
  have hl := State.waitingNeeds_fresh hn
  have hnum : l.num = n := by simpa using List.find?_some hl
  obtain ⟨hby, hm, ⟨ts, ht, htl, htf⟩, ⟨bs, hb, hbf⟩⟩ :=
    s.wakeIdle.startSpan_placed l j (places := places) (at_ := cores.zip bases) fun x hx => (List.of_mem_zip hx).2
  rw [State.wakeIdle_tasks] at ht
  rw [State.wakeIdle_blocks] at hb
  have he : exec (.placeBlock cores bases) s = .next (s.wakeIdle.startSpan l j places) := by
    rw [exec_placeBlock_fresh hp hd hh, State.placeAt_fits hn hlen ha hf, State.takePlace_fresh hl]
  refine ⟨_, he, ?_, hm.trans s.wakeIdle_mem, fun t h => ?_, ?_, fun t h => ?_, fun b h => ?_⟩
  · rw [hby]
    exact State.power_wakeIdle hd
  · exact ht ▸ List.mem_append_left _ h
  · rw [ht, List.length_append, htl]
  · exact (List.mem_append.1 (ht ▸ h)).imp_right (htf t)
  · refine (List.mem_append.1 (hb ▸ h)).imp_right fun h => ?_
    obtain ⟨h1, h2⟩ := hbf b h
    exact ⟨h1.trans hnum, h2⟩

end

/-- Settles O49: the grants by the order that an arbiter keeps, the placements by where the head of the lists fits. -/
theorem grantsAndPlacements : Obligations.GrantsAndPlacements := by
  refine ⟨fun s core k => ⟨fun t h => congrArg _ (State.grantRun_again h), exec_runGrant_new rfl⟩,
    fun s cores bases p l ns hp hd hlen => ⟨fun n j hh hn ha hf => exec_placeBlock_placed hp hd hlen hh hn ha hf,
      fun n j hh hn hf he => ?_, fun u b hh hb hn ha hf => ?_⟩⟩
  · rw [exec_placeBlock_fresh hp hd hh, State.placeAt_elsewhere hn hf he]
  · rw [exec_blockResumption_back hp hd hh hb, State.placeAt_fits hn hlen ha hf]

end Sys2Proof.Machine

namespace Sys2Proof.Machine
set_option Elab.async false

/-! ### The launches that a state lists, and what leaves them -/

/-- The launches of a state, and the number of the next. -/
def State.launched (s : State) : List Launch × BitVec 32 := (s.launches, s.nextLaunch)

theorem State.OnlyBytes.launched {s u : State} (h : s.OnlyBytes u) : u.launched = s.launched := by
  obtain ⟨⟨_, _, _, _, rfl⟩, _⟩ := h
  rfl

@[simp] theorem State.engineWrite_launched (s : State) (pa n v : Nat) : (s.engineWrite pa n v).launched = s.launched :=
  (s.engineWrite_only pa n v).launched
@[simp] theorem State.setMfield_launched (s : State) (o lo n x : Nat) : (s.setMfield o lo n x).launched = s.launched := rfl
@[simp] theorem State.faultRecord_launched (s : State) (a b c d e f g i : Nat) :
    (s.faultRecord a b c d e f g i).launched = s.launched := by
  unfold State.faultRecord
  dsimp only
  split <;> simp
@[simp] theorem State.setFrame_launched (s : State) (a b c d e f : Nat) : (s.setFrame a b c d e f).launched = s.launched :=
  s.engineWrite_launched ..
@[simp] theorem State.ssdIo_launched (s : State) (e : Nat) (w : Bool) : (s.ssdIo e w).launched = s.launched := rfl
@[simp] theorem State.takeFrame_launched (s : State) (a b c d : Nat) : (s.takeFrame a b c d).launched = s.launched := by
  unfold State.takeFrame
  dsimp only
  split <;> simp
theorem State.wakePage_launched (s : State) (a : Nat) (e : Option Nat) : (s.wakePage a e).launched = s.launched := rfl
@[simp] theorem State.failRead_launched (s : State) (a b c d e f g : Nat) :
    (s.failRead a b c d e f g).launched = s.launched := by
  rw [State.failRead, State.wakePage_launched, State.faultRecord_launched]
theorem State.swapEntry_launched (s : State) (a b c : Nat) : (s.swapEntry a b c).1.launched = s.launched := by
  unfold State.swapEntry
  split <;> simp

theorem State.reads_launched (s : State) (r : List SsdRead) : ({ s with reads := r } : State).launched = s.launched := rfl
theorem State.uid_launched (s : State) (n : Nat) : ({ s with uid := n } : State).launched = s.launched := rfl

/-- The start of a page read submits nothing and ends nothing. -/
@[simp] theorem State.startRead_launched (s : State) (a b c d e f : Nat) :
    (s.startRead a b c d e f).launched = s.launched := by
  have hw := s.swapEntry_launched b c (c + 32)
  unfold State.startRead
  split
  · rfl
  · split
    · simp
    · split
      · simp
      · split
        · next e => rw [e] at hw; exact hw
        · next u e =>
          rw [e] at hw
          rw [← hw]
          dsimp only
          split
          · rw [State.reads_launched, State.takeFrame_launched, State.uid_launched]
          · rw [State.reads_launched]
            split
            · rw [State.faultRecord_launched, State.uid_launched]
            · exact u.uid_launched _
@[simp] theorem State.devAwait_launched (s : State) (a b c d : Nat) (w : DevWork) :
    (s.devAwait a b c d w).launched = s.launched :=
  s.startRead_launched ..

theorem State.resolve_launched (s : State) (pa : Nat) (res : Word) (fault : Bool) :
    (s.resolve pa res fault).1.launched = s.launched := by
  unfold State.resolve
  dsimp only
  split
  · rfl
  · exact (State.applyBytes_only _ _).launched

theorem State.resolveVa_launched (s : State) (part va : Nat) (res : Word) (fault : Bool) :
    (s.resolveVa part va res fault).1.launched = s.launched := by
  unfold State.resolveVa
  split
  · rfl
  · split
    · exact s.resolve_launched ..
    · simp
    · rfl

/-- The device resolves at once a future whose page is there. -/
theorem State.resolveVa_here {s : State} {part va f : Nat} {res : Word} {fault : Bool} (hv : va ≠ 0)
    (h : s.devPa part va true = some f) : (s.resolveVa part va res fault).1 = (s.resolve f res fault).1 := by
  unfold State.devPa at h
  unfold State.resolveVa State.devPlace
  rw [if_neg hv]
  split at h
  · next e =>
    cases h
    rw [e]
  · cases h

/-! ### Submission (R25, R281) -/

/-- A launch is no longer listed. -/
def State.dropLaunch (s : State) (n : Nat) : State := { s with launches := s.launches.filter fun x => x.num != n }

section
variable {s : State} {l : Launch}

/-- A grid without a variant table that no check refuses is enrolled with its whole GRID. -/
theorem State.admitGrid_accepted (hv : l.pkt.variant = 0) (hc : s.gridCode l.part l.pkt = none) :
    ∃ l' : Launch, s.admitGrid l = (({ s with seq := s.seq + 1 } : State).setLaunch l', []) ∧
      l'.num = l.num ∧ l'.pkt = l.pkt ∧ l'.left = l.pkt.grid ∧ l'.live = true := by
  have ha : s.variantAway l.part l.pkt = none := if_pos hv
  have hp : s.variantOf l.part l.pkt = .ok (l.pkt, none) := if_pos hv
  unfold State.admitGrid State.enrol
  simp only [ha, hp, bind, Except.bind, hc]
  exact ⟨_, rfl, rfl, rfl, rfl, rfl⟩

/-- A grid without a variant table that a check refuses is removed, with the reason. -/
theorem State.admitGrid_refused (hv : l.pkt.variant = 0) {c : Nat} (hc : s.gridCode l.part l.pkt = some c) :
    s.admitGrid l = (s.dropLaunch l.num).refuse l c := by
  have ha : s.variantAway l.part l.pkt = none := if_pos hv
  have hp : s.variantOf l.part l.pkt = .ok (l.pkt, none) := if_pos hv
  unfold State.admitGrid State.enrol
  simp only [ha, hp, bind, Except.bind, hc]
  rfl

/-- Outside a graph, a refused grid only faults its future. -/
theorem State.refuse_of_no_graph (hg : l.graph = none) (c : Nat) :
    s.refuse l c = s.resolveVa l.part l.pkt.future.toNat (BitVec.ofNat 32 c) true := by
  unfold State.refuse
  rw [hg]
  cases l.node <;> rfl

end

section
variable (s : State) (part image : Nat) (p : Packet) (addr : Nat)

/-- The state in which a packet is listed as a launch and not yet checked. -/
def State.listed : State := (s.newLaunch part image p addr).1.setLaunch (s.newLaunch part image p addr).2
/-- The launch that is then checked. -/
def State.candidate : Launch := (s.newLaunch part image p addr).2

/-- Listing it changes nothing that the checks read. -/
theorem State.gridCode_listed (q : Nat) (r : Packet) : (s.listed part image p addr).gridCode q r = s.gridCode q r := by
  have hu : (s.listed part image p addr).unitsOf q r = s.unitsOf q r := rfl
  simp only [State.gridCode, hu]

/-- A packet that waits for no other grid is checked at once. -/
theorem State.submit_eq : s.submit part image p addr none none [] =
    (((s.listed part image p addr).admitGrid (s.candidate part image p addr)).1, s.nextLaunch.toNat,
      ((s.listed part image p addr).admitGrid (s.candidate part image p addr)).2) := rfl

/-- The listed launches have the candidate's number among them. -/
theorem State.exists_listed_num : ∃ l ∈ (s.listed part image p addr).launches, l.num = s.nextLaunch.toNat :=
  ⟨s.candidate part image p addr, List.mem_map.mpr ⟨_, List.mem_append_right _ (List.mem_singleton.mpr rfl),
    if_pos (beq_self_eq_true _)⟩, rfl⟩

end

/-- Settles O31: without a variant table the checks see the state before the submission, since a listing changes only the
launches and the counters. -/
theorem submittedGridsAreChecked : Obligations.SubmittedGridsAreChecked := by
  unfold Obligations.SubmittedGridsAreChecked
  intro s part image p addr hv
  set u := s.listed part image p addr
  set l := s.candidate part image p addr
  have hl : l.num = s.nextLaunch.toNat := rfl
  have code : u.gridCode l.part l.pkt = s.gridCode part p := s.gridCode_listed ..
  rw [State.submit_eq]
  dsimp only
  have refused {c : Nat} (hc : s.gridCode part p = some c) :
      u.admitGrid l = (u.dropLaunch l.num).resolveVa part p.future.toNat (BitVec.ofNat 32 c) true :=
    (State.admitGrid_refused (l := l) hv (code.trans hc)).trans (State.refuse_of_no_graph rfl c)
  have launched (c : Nat) := State.resolveVa_launched (u.dropLaunch l.num) part p.future.toNat (BitVec.ofNat 32 c) true
  refine ⟨rfl, ?_, fun hc => ?_, fun c hc => ⟨fun x hx => ?_, fun hf => ?_, fun f hf hpa => ?_⟩⟩
  · cases hc : s.gridCode part p with
    | none =>
      obtain ⟨l', e, _⟩ := State.admitGrid_accepted (s := u) (l := l) hv (code.trans hc)
      rw [e]
      rfl
    | some c =>
      rw [refused hc]
      exact congrArg Prod.snd (launched c)
  · obtain ⟨l', e, hnum, hpkt, hleft, hlive⟩ := State.admitGrid_accepted (s := u) (l := l) hv (code.trans hc)
    obtain ⟨x, hx, hxn⟩ := s.exists_listed_num part image p addr
    rw [e]
    exact ⟨⟨l', List.mem_map.mpr ⟨x, hx, if_pos (by simp [hnum, hl, hxn])⟩, hnum, hpkt, hleft, hlive⟩, rfl, rfl⟩
  · rw [refused hc] at hx
    have hls : _ = u.launches.filter fun x => x.num != l.num := congrArg Prod.fst (launched c)
    exact bne_iff_ne.mp (List.mem_filter.mp (hls ▸ hx : x ∈ u.launches.filter fun x => x.num != l.num)).2
  · rw [refused hc, hf]
    rfl
  · refine ⟨u.dropLaunch l.num, rfl, ?_⟩
    rw [refused hc]
    exact State.resolveVa_here (fun h => hf (BitVec.eq_of_toNat_eq h)) hpa

end Sys2Proof.Machine

namespace Sys2Proof.Machine
set_option Elab.async false

/-! ### Two tasks of one number -/

/-- A task of block 0. -/
def leaver : Task := { Task.init with uid := 1 }
/-- A task of no living block whose OCLM waits for a slot. -/
def stranger : Task :=
  ({ Task.init with uid := 5, block := 9 } : Task).setSt .m { StreamSt.init with status := .waiting .slots }
/-- Another task of block 0, of the same number, which has arrived at barrier 0. -/
def namesake : Task := { Task.init with uid := 5, taskId := 1 }

/-- The block of the two, with barrier 0 full but for `leaver`. -/
def halfArrived : Block := { Block.init with uid := 0, bars := [{ abits := 2, bal := 0, phase := 0 }] }

/-- The queue of core 0 names the number that `stranger` and `namesake` share. -/
def sharedNumber : State :=
  { State.reset with tasks := [leaver, stranger, namesake], blocks := [halfArrived],
                     cores := [(0, { CoreSt.init with oclmQ := [(5, 0, 1)] })] }

/-- The slot that `leaver` passes on goes to `stranger`, which then stands for `namesake` too: its block has no task left. -/
theorem sharedNumber_block_gone : (sharedNumber.retireTask leaver).block? 0 = none := by decide +kernel

/-- Refutes O27: the clause on retirement does not ask that tasks have numbers of their own. Where a task of another block
shares the number of the only task that is left, the OCLM that the retirement serves replaces that task, and the block retires
instead of completing its phase. -/
theorem not_barrierResults : ¬ Obligations.BarrierResults := by
  unfold Obligations.BarrierResults
  rintro ⟨-, phase, -⟩
  obtain ⟨-, -, retires⟩ := phase sharedNumber halfArrived 0 (by decide +kernel) (by decide +kernel)
  obtain ⟨⟨b, hb, -⟩, -⟩ := retires leaver (by decide) (by decide +kernel) rfl (by decide +kernel) (by decide +kernel) rfl
  rw [show halfArrived.uid = 0 from rfl, sharedNumber_block_gone] at hb
  cases hb

end Sys2Proof.Machine

namespace Sys2Proof.Machine
set_option Elab.async false

/-! ### What the steps after a completion leave of a task -/

section
variable {s : State} {t : Task} {c n : Nat}

theorem State.serveOclm_tasks (h : (s.core c).oclmQ = []) (ok : Task → Bool) : (s.serveOclm c ok).tasks = s.tasks := by
  unfold State.serveOclm
  simp only [h, List.foldl_nil, State.setCore_tasks]

/-- Where no OCLM waits on a core, slots that pass on change no task. -/
theorem State.passSlots_tasks (h : (s.core c).oclmQ = []) : (s.passSlots c).tasks = s.tasks := by
  unfold State.passSlots
  dsimp only
  refine (State.serveOclm_tasks ?_ _).trans (s.setCore_tasks c _)
  rw [State.core_setCore]
  exact h

/-- A task with a stream that is READY is not in DEADLOCK (R19). -/
theorem State.testDeadlock_of_ready (ht : s.task? n = some t) (k : StreamId) (hk : (t.st k).status = .ready) :
    s.testDeadlock n = s := by
  have hno : s.deadlocked t = false := by
    have hall : (allStreams.all fun k => (t.st k).status == .ended || (t.st k).inSem) = false :=
      List.all_eq_false.mpr ⟨k, by cases k <;> decide, by simp [StreamSt.inSem, hk]⟩
    simp [State.deadlocked, hall]
  simp [State.testDeadlock, ht, hno]

theorem settled_task? (ht : s.task? n = some t) (k : StreamId) (hk : (t.st k).status = .ready)
    (hq : (s.core c).oclmQ = []) : (settled s c [n]).task? n = some t := by
  have hp : (State.passSlots { s with seq := s.seq + 1 } c).task? n = some t :=
    (congrArg (List.find? fun x : Task => x.uid == n)
      (State.passSlots_tasks (s := { s with seq := s.seq + 1 }) hq)).trans ht
  rw [settled, (State.noteArray_only _ c).task?, List.foldl_cons, List.foldl_nil, State.testDeadlock_of_ready hp k hk]
  exact hp

theorem State.applyCopied_nil_task? (s : State) (c n : Nat) : (s.applyCopied c [] []).task? n = s.task? n :=
  ((State.l1Drop_only _ c []).task? n).trans ((s.applyBytes_only []).task? n)

end

/-! ### A MACZ over accumulators out of order -/

/-- A MACZ of tile 1. -/
def maczOp : AsyncOp :=
  { id := 3, seq := 0, instr := .macz Act.none 1 0, vals := [], record := [], xl := [],
    act := { stat := none, sem := none, bar := none, bytes := 0, fut := none }, pc := 0, foot := [], fpmode := 0,
    srseed := 0, srcnt := 0, board := none, follower := none, pages := [], prog := 0, fault := none, hurt := none, num := 0,
    readAt := 0, path := [], seen := [0, 0, 0, 0], key := 0, out := none }
/-- Its task, whose accumulator bytes are listed out of order: the byte of tile 1 stands before the one at 3. -/
def maczTask : Task :=
  ({ Task.init with acc := [(16384, 1), (3, 7)], mops := [maczOp] } : Task).setSt .s { StreamSt.init with status := .ready }
def maczState : State := { State.reset with tasks := [maczTask], blocks := [.init] }

/-- The accumulator byte at 3 of its task, in the state that an answer leads to. -/
def maczByte : Out State Fault Refusal → Option Byte
  | .next s => (s.task? maczTask.uid).map (·.acc.read 3)
  | _ => none

theorem maczByte_next {v : State} {u : Task} (h : v.task? maczTask.uid = some u) :
    maczByte (.next v) = some (u.acc.read 3) := by rw [maczByte, h, Option.map_some]

/-- The byte at 3, which the byte before it hid, is read after the MACZ. -/
theorem maczByte_exec : maczByte (exec (.matrixOpCompletion maczTask.uid maczOp.id) maczState) = some 7 := by
  decide +kernel

/-- No OCLM waits on its core, whatever its task becomes. -/
theorem maczState_oclmQ (u : Task) :
    ((((maczState.landAll (maczState.coreOf maczTask)).setTask u).applyCopied (maczState.coreOf maczTask) [] []).core
      (maczState.coreOf maczTask)).oclmQ = [] := rfl

theorem maczState_mayRun : mayRun maczState maczTask maczOp :=
  ⟨⟨.init, by decide +kernel⟩, by simp [maczOp], by simp [maczOp]⟩

theorem maczState_arrayGives : arrayGives maczState maczTask maczOp :=
  ⟨rfl, by decide +kernel, by simp [maczOp]⟩

/-- Refutes O51: the clause on MACZ does not ask that the accumulators' bytes are listed in their canonical order. Where a
byte of the tiles stands before a lower address, a read of that address finds nothing before the MACZ and the byte after it. -/
theorem not_engineOperationsComplete : ¬ Obligations.EngineOperationsComplete := by
  unfold Obligations.EngineOperationsComplete
  rintro ⟨-, -, macz, -⟩
  obtain ⟨u, e, ⟨huid, -, -, -, hst, -⟩, hacc⟩ := macz maczState maczTask maczOp Act.none 1 0 (by decide +kernel)
    (by decide +kernel) maczState_mayRun maczState_arrayGives rfl rfl rfl rfl rfl rfl
  have hready : (u.st .s).status = .ready := by
    rw [hst .s (by decide)]
    decide +kernel
  have hland : ((maczState.landAll (maczState.coreOf maczTask)).task? u.uid).isSome = true := by
    rw [huid]
    decide +kernel
  have hu := (State.applyCopied_nil_task? _ (maczState.coreOf maczTask) _).trans (State.task?_setTask _ u hland)
  rw [huid] at hu
  have hsame := settled_task? hu .s hready (maczState_oclmQ u)
  rw [show maczOp.follower.toList ++ [maczTask.uid] = [maczTask.uid] from rfl] at e
  have h7 := (maczByte_next hsame).symm.trans ((congrArg maczByte e).symm.trans maczByte_exec)
  exact absurd ((hacc 3).symm.trans (Option.some.inj h7)) (by decide +kernel)

end Sys2Proof.Machine

namespace Sys2Proof.Machine

/-! ### Scalar registers (R32) -/

/-- Bits [31:0] of a pair are its even register, bits [63:32] its odd one (R32). -/
theorem Dword.toNat_mk (lo hi : Word) : (Dword.mk lo hi).toNat = lo.toNat + 2 ^ 32 * hi.toNat := by
  rw [Dword.mk, BitVec.toNat_append, ← Nat.shiftLeft_add_eq_or_of_lt lo.isLt, Nat.shiftLeft_eq]
  omega

theorem StreamSt.toNat_pair (st : StreamSt) (p : BitVec 4) :
    (st.pair p).toNat = (st.reg (pairLo p)).toNat + 2 ^ 32 * (st.reg (pairHi p)).toNat :=
  Dword.toNat_mk _ _

/-- Of the pair s30:31 the write of the low half is kept and that of the high half discarded (R32). -/
theorem StreamSt.toNat_pair_setPair_last (st : StreamSt) (v : Dword) :
    ((st.setPair 15 v).pair 15).toNat = v.toNat % 2 ^ 32 := by
  have lo : (st.setPair 15 v).reg (pairLo 15) = v.lo := by
    rw [StreamSt.setPair, StreamSt.reg_setReg, StreamSt.reg_setReg, if_neg (by decide), if_pos (by decide)]
  have hi : (st.setPair 15 v).reg (pairHi 15) = 0 := StreamSt.reg_zero _
  rw [StreamSt.toNat_pair, lo, hi]
  simp [Dword.lo]

/-- Settles O12, by the rules for one register written and read. -/
theorem scalarRegisterFile : Obligations.ScalarRegisterFile := by
  unfold Obligations.ScalarRegisterFile
  refine fun st => ⟨st.reg_zero, st.setReg_zero, fun r x v hr => ?_, st.toNat_pair, fun p v hp => st.pair_setPair v hp,
    st.toNat_pair_setPair_last, fun p v r hr => ?_⟩
  · rw [StreamSt.reg_setReg]
    simp only [hr, ne_eq, not_false_eq_true, and_true]
  · simp only [halves, List.mem_cons, List.not_mem_nil, or_false, not_or] at hr
    exact st.reg_setPair_of_ne p v hr.1 hr.2

end Sys2Proof.Machine

namespace Sys2Proof

/-! ### Rejoin triples (R34) -/

/-- The mask instructions that name the rejoin triple `j` and perhaps a predicate `p`. -/
def tripleForms (j p : BitVec 5) : List Instr := [.mif j p, .melse j, .mjoin j, .msave j, .pmovs j p, .smovp p j]

/-- Each has one parcel, of the 32-bit class, and the decoder accepts it by its own field limit alone. -/
theorem dec32_tripleForms (j p : BitVec 5) :
    ∀ i ∈ tripleForms j p, ∃ n, encodeNat i = [n] ∧ n < 2 ^ 31 ∧ dec32 n = accept i := by
  have lt (op d a : Nat) (ho : op < 128) (hd : d < 32) (ha : a < 32) : fmtSR op d a 0 0 < 2 ^ 31 :=
    fmtSR_lt ho hd ha (by decide) (by decide)
  simp only [tripleForms, List.forall_mem_cons]
  refine ⟨⟨_, rfl, lt _ _ _ (by decide) j.isLt p.isLt, ?_⟩, ⟨_, rfl, lt _ _ _ (by decide) j.isLt (by decide), ?_⟩,
    ⟨_, rfl, lt _ _ _ (by decide) j.isLt (by decide), ?_⟩, ⟨_, rfl, lt _ _ _ (by decide) j.isLt (by decide), ?_⟩,
    ⟨_, rfl, lt _ _ _ (by decide) j.isLt p.isLt, ?_⟩, ⟨_, rfl, lt _ _ _ (by decide) p.isLt j.isLt, ?_⟩,
    by simp⟩ <;> simp (disch := omega) [dec32]

/-- Their own field limit is that of the triple. -/
theorem illegal_tripleForms (j p : BitVec 5) :
    ∀ i ∈ tripleForms j p, i.illegal = if j.toNat ≤ 25 then none else some 4 := by
  have h : (if !(tripleOk j) then some 4 else none) = if j.toNat ≤ 25 then none else some (4 : Nat) := by
    unfold tripleOk
    by_cases hj : j.toNat ≤ 25 <;> simp [hj]
  simp only [tripleForms, List.forall_mem_cons]
  exact ⟨h, h, h, h, h, h, by simp⟩

/-- A rejoin triple decodes where it ends below am0 (s28), and is ILLEGAL, OPERAND, elsewhere (R34, R134). -/
theorem decode_tripleForms {j p : BitVec 5} {i : Instr} (hi : i ∈ tripleForms j p) {w : Word} {ps : List Word}
    (he : encode i = w :: ps) (p1 p2 : Word) :
    w.getLsbD 31 = false ∧ decode w p1 p2 = if j.toNat ≤ 25 then .ok i else .error 4 := by
  obtain ⟨n, hn, hlt, hd⟩ := dec32_tripleForms j p i hi
  simp only [encode, hn, List.map_cons, List.map_nil, List.cons.injEq] at he
  rw [← he.1, decode_32 hlt, hd, accept, illegal_tripleForms j p i hi]
  refine ⟨bit31_of_lt hlt, ?_⟩
  by_cases hj : j.toNat ≤ 25
  · rw [if_pos hj, if_pos hj]
  · rw [if_neg hj, if_neg hj]

/-- The registers of a triple that starts at s25 or below lie below am0. -/
theorem triple_below_masks : ∀ j : BitVec 5, j.toNat ≤ 25 → ∀ x ∈ [j, j + 1, j + 2], x.toNat < 28 := by decide

/-- The vector stream runs every word of the 32-bit class (R112). -/
theorem classOf_runsOn_v {w : Word} (h : w.getLsbD 31 = false) : ∃ c, classOf w = some c ∧ c.runsOn .v = true := by
  unfold classOf
  simp only [h, Bool.false_eq_true, if_false]
  split
  · exact ⟨_, rfl, rfl⟩
  · exact ⟨_, rfl, rfl⟩

end Sys2Proof

namespace Sys2Proof.Machine

/-- Where nothing stands between the stream in focus and its next instruction, the next step fetches it. -/
theorem State.plan_of_inRun {s : State} {t : Task} {k : StreamId} (h : s.inRun t k) :
    s.bump.plan = s.bump.planFetch t k := by
  obtain ⟨ha, he, hi, hg, hsb⟩ := h
  have hag : s.bump.agenda = [] := ha
  have hen : s.bump.tasks.find? s.bump.mayEnter = none :=
    List.find?_eq_none.2 fun x hx => Bool.eq_false_iff.1 (he x hx)
  have hrun : s.bump.running = some (t, k) := by
    have hf : s.bump.focus = some { task := t.uid, k := k } := hi.focus
    have ht : s.bump.task? t.uid = some t := hi.task
    have hc : s.bump.canIssue t k = true := hi.can
    simp only [State.running, hf, ht, hc, hg, Bool.and_self, if_true]
  simp only [State.plan, hag, hen, hrun, hsb, List.isEmpty_nil, Bool.true_or, if_true]

/-- Parcels that decode to nothing, of a class that the stream executes, take ILLEGAL with the decoder's sub-code, but for
a paired word that breaks R129 (R112, R134). -/
theorem step_illegal {s : State} {t : Task} {k : StreamId} (h : s.inRun t k) {p0 p1 p2 : Word}
    (hf : s.bump.fetch t k (t.st k).pc = .ok (p0, p1, p2)) {c : InstrClass} (hc : classOf p0 = some c)
    (hr : c.runsOn k = true) {sub : Nat} (hd : decode p0 p1 p2 = .error sub) (h5 : sub ≠ 5) :
    step s = .next (s.bump.takeTrap t k (t.st k).pc false 0 { cls := 0, sub := sub }) := by
  have hp : s.bump.planFetch t k = .done (s.bump.stopped t k (.trap { cls := clsIllegal, sub := sub })) := by
    simp only [State.planFetch, hf, hc, hr, hd, h5, Bool.not_true, Bool.false_and, Bool.false_eq_true, if_false,
      decide_false]
  unfold step
  rw [State.plan_of_inRun h, hp]
  exact congrArg Host.Outcome.next
    (State.stopped_trap s.bump t k { cls := clsIllegal, sub := sub } (by decide : clsIllegal ≠ clsStorage))

/-- Settles O4: every form of the decoder that names a triple accepts it by one limit, and what it refuses the step traps. -/
theorem rejoinTripleAbove25Illegal : Obligations.RejoinTripleAbove25Illegal := by
  unfold Obligations.RejoinTripleAbove25Illegal
  intro j p i hi w ps he p1 p2
  obtain ⟨h31, hd⟩ := decode_tripleForms hi he p1 p2
  refine ⟨fun hj => ?_, fun hj => ⟨hd.trans (if_pos hj), triple_below_masks j hj⟩⟩
  have herr : decode w p1 p2 = .error 4 := hd.trans (if_neg (Nat.not_le.2 hj))
  obtain ⟨c, hc, hr⟩ := classOf_runsOn_v h31
  exact ⟨herr, fun s t hin hf => step_illegal hin hf hc hr herr (by decide)⟩

end Sys2Proof.Machine

namespace Sys2Proof.Machine

/-! ### What SYSRD and SYSWR find at an index (R44, R392, R393) -/

/-- The register at an index, where one is listed. -/
def State.sysReg (s : State) (t : Task) (k : StreamId) (i : Nat) : Option Word :=
  if i < 0x100 then s.userReg t k i else s.privReg t i

/-- The indices of the rows of SYSRD. -/
def sysIndices : List (BitVec 12) :=
  [0x000, 0x001, 0x002, 0x003, 0x004, 0x005, 0x006, 0x007, 0x010, 0x011, 0x012, 0x013, 0x020, 0x021, 0x022, 0x030, 0x031, 0x050,
   0x051, 0x100, 0x101, 0x102, 0x103, 0x104, 0x105, 0x106, 0x107, 0x108, 0x109, 0x10A, 0x10B, 0x10C, 0x10D, 0x110, 0x111, 0x112,
   0x113, 0x120, 0x121, 0x122, 0x123]

theorem sysRows_indices (s : State) (t : Task) (k : StreamId) (b : Block) : (sysRows s t k b).map (·.1) = sysIndices := rfl

/-- An index is listed where a row has it, where it is CYCLO's or CYCHI's, and in the window on the scalar registers. -/
theorem sysMapped_iff (i : BitVec 12) :
    sysMapped i = true ↔ i ∈ sysIndices ∨ i = 0x040 ∨ i = 0x041 ∨ (0x200 ≤ i.toNat ∧ i.toNat < 0x280) := by
  have h : (sysRows .reset .init .s .init).any (·.1 == i) = sysIndices.contains i := by
    rw [← sysRows_indices .reset .init .s .init, List.contains_eq_any_beq, List.any_map]
    exact congrArg _ (funext fun r => by simp [Bool.beq_comm])
  simp [sysMapped, h, or_assoc]

theorem Dword.lo_eq (v : Dword) : v.lo = BitVec.ofNat 32 (v.toNat % 2 ^ 32) :=
  BitVec.eq_of_toNat_eq (by simp [Dword.lo])
theorem Dword.hi_eq (v : Dword) : v.hi = BitVec.ofNat 32 (v.toNat / 2 ^ 32) :=
  BitVec.eq_of_toNat_eq (by simp [Dword.hi, Nat.shiftRight_eq_div_pow])

@[simp] theorem streamOf_idx (j : StreamId) : streamOf j.idx = j := by cases j <;> rfl

section
variable {s : State} {t : Task} {k : StreamId} {b : Block} {i : BitVec 12}

theorem State.coreOf_eq (hb : s.blockOf t = some b) : s.coreOf t = b.core := by
  have h : s.block? t.block = some b := hb
  rw [State.coreOf, h]
  rfl

/-- Every row of SYSRD is what its index finds. -/
theorem State.sysReg_of_mem_rows (hb : s.blockOf t = some b) :
    ∀ r ∈ sysRows s t k b, s.sysReg t k r.1.toNat = some r.2 := by
  have hlo (n : Nat) : BitVec.ofNat 32 (n % 4294967296) = BitVec.ofNat 32 n := BitVec.eq_of_toNat_eq (by simp)
  have hhi (n : Nat) : BitVec.ofNat 32 (n % 18446744073709551616 / 4294967296) = BitVec.ofNat 32 (n / 4294967296) :=
    BitVec.eq_of_toNat_eq (by simp; omega)
  simp [hlo, hhi, sysRows, State.sysReg, State.userReg, State.privReg, hb, State.coreOf_eq hb, halfOf, Dword.lo_eq,
    Dword.hi_eq, streamOf, Task.tpc]

theorem streamIdx_lt (j : StreamId) : j.idx < 4 := by cases j <;> decide

/-- An index of the window is a scalar register of a stream (R392). -/
theorem exists_window (h : 0x200 ≤ i.toNat ∧ i.toNat < 0x280) :
    ∃ (j : StreamId) (r : BitVec 5), i.toNat = 0x200 + 32 * j.idx + r.toNat := by
  have hi : ∀ n < 4, (streamOf n).idx = n := by decide
  refine ⟨streamOf ((i.toNat - 0x200) / 32), BitVec.ofNat 5 i.toNat, ?_⟩
  rw [hi _ (by omega), BitVec.toNat_ofNat]
  omega

/-- An index of the window finds that register. -/
theorem State.sysReg_window {n : Nat} {j : StreamId} {r : BitVec 5} (h : n = 0x200 + 32 * j.idx + r.toNat) :
    s.sysReg t k n = some ((t.st j).reg r) := by
  have hj := streamIdx_lt j
  have hr := r.isLt
  have hn : (n - 0x200) / 32 = j.idx := by omega
  have h5 : BitVec.ofNat 5 n = r := BitVec.eq_of_toNat_eq (by rw [BitVec.toNat_ofNat]; omega)
  have hlo : ¬ n < 0x100 := by omega
  have hw : 0x200 ≤ n ∧ n < 0x280 := by omega
  simp only [State.sysReg, if_neg hlo, State.privReg, hw, decide_true, Bool.and_self, if_true, hn, streamOf_idx, h5]

/-- Every listed index finds a register. -/
theorem State.sysReg_of_mapped (hb : s.blockOf t = some b) (h : sysMapped i = true) : ∃ v, s.sysReg t k i.toNat = some v := by
  obtain hi | rfl | rfl | hw := (sysMapped_iff i).1 h
  · rw [← sysRows_indices s t k b] at hi
    obtain ⟨r, hr, rfl⟩ := List.mem_map.1 hi
    exact ⟨_, State.sysReg_of_mem_rows hb r hr⟩
  · exact ⟨_, rfl⟩
  · exact ⟨_, rfl⟩
  · obtain ⟨j, r, e⟩ := exists_window hw
    exact ⟨_, State.sysReg_window e⟩

/-- The trap program counters are listed. -/
theorem sysMapped_trapPcs (h : 0x104 ≤ i.toNat ∧ i.toNat ≤ 0x10B) : sysMapped i = true := by
  have hl : ∀ n < 8, sysMapped (BitVec.ofNat 12 (0x104 + n)) = true := by decide
  have hi := hl (i.toNat - 0x104) (by omega)
  rwa [Nat.add_sub_cancel' h.1, BitVec.ofNat_toNat, BitVec.setWidth_eq] at hi

/-- An index that is not listed finds none. -/
theorem State.sysReg_of_not_mapped (h : sysMapped i = false) : s.sysReg t k i.toNat = none := by
  have ne (n : Nat) (hn : sysMapped (BitVec.ofNat 12 n) = true) : i.toNat ≠ n := by
    rintro rfl
    rw [BitVec.ofNat_toNat, BitVec.setWidth_eq, h] at hn
    exact absurd hn (by decide)
  have hw : ¬ (0x200 ≤ i.toNat ∧ i.toNat < 0x280) := fun hw =>
    absurd ((sysMapped_iff i).2 (.inr (.inr (.inr hw)))) (by simp [h])
  unfold State.sysReg
  split
  · unfold State.userReg
    dsimp only
    split
    case h_22 => rfl
    all_goals exact absurd ‹_› (ne _ (by decide))
  · have hp : ¬ (0x104 ≤ i.toNat ∧ i.toNat ≤ 0x10B) := fun hp =>
      ne i.toNat (by rw [BitVec.ofNat_toNat, BitVec.setWidth_eq]; exact sysMapped_trapPcs hp) rfl
    have hn : ∀ n ∈ [0x100, 0x101, 0x102, 0x103, 0x10C, 0x10D, 0x110, 0x111, 0x112, 0x113, 0x120, 0x121, 0x122, 0x123],
        sysMapped (BitVec.ofNat 12 n) = true := by decide
    replace hn := fun n m => ne n (hn n m)
    simp only [List.forall_mem_cons, ne_eq] at hn
    simp only [State.privReg, Bool.and_eq_true, Bool.or_eq_true, decide_eq_true_eq, if_neg hw, if_neg hp, hn, or_self, if_false]

/-- An index from 0x100 on raises PRIV outside trap mode (R44, R392). -/
theorem State.sysRead_priv (hi : 0x100 ≤ i.toNat) (ht : t.tmode = false) : s.sysRead t k i.toNat = trapWith clsPriv 1 := by
  simp [State.sysRead, hi, ht]

/-- Otherwise an index is read where it is listed, and raises ILLEGAL, OPERAND, where it is not. -/
theorem State.sysRead_eq (h : i.toNat < 0x100 ∨ t.tmode = true) :
    s.sysRead t k i.toNat = match s.sysReg t k i.toNat with
      | some v => .ok v
      | none => trapWith clsIllegal 4 := by
  have hp : (decide (0x100 ≤ i.toNat) && !t.tmode) = false := by
    cases h with
    | inl hi => simp [Nat.not_le.2 hi]
    | inr ht => simp [ht]
  rw [State.sysRead, hp]
  rfl

theorem State.sysRead_of_some (h : i.toNat < 0x100 ∨ t.tmode = true) {v : Word} (hv : s.sysReg t k i.toNat = some v) :
    s.sysRead t k i.toNat = .ok v := by rw [State.sysRead_eq h, hv]

theorem State.sysRead_unlisted (h : i.toNat < 0x100 ∨ t.tmode = true) (hm : sysMapped i = false) :
    s.sysRead t k i.toNat = trapWith clsIllegal 4 := by rw [State.sysRead_eq h, State.sysReg_of_not_mapped hm]

end

/-! ### SYSRD (R44, R48, R167) -/

section
variable {s : State} {t : Task} {k : StreamId} (h : Issues s t k) {d : BitVec 5} {i : BitVec 12}
include h

/-- What stops the read stops the instruction. -/
theorem sysrd_traps (h0 : i ≠ 0x040) (h1 : i ≠ 0x041) {cls sub : Nat} (hr : s.sysRead t k i.toNat = trapWith cls sub)
    (hc : cls ≠ clsStorage) :
    exec (.sysrd d i) s = .next (s.takeTrap t k (t.st k).pc false 0 { cls := cls, sub := sub }) := by
  refine exec_traps h (exec_sysrd d i s) ?_ hc
  simp only [h0, h1, decide_false, Bool.or_self, Bool.false_eq_true, if_false, hr]
  rfl

/-- A read of FPFLAGS in the vector stream waits for the words in flight. -/
theorem sysrd_waits (hk : k = .v) (hs : t.sb ≠ []) : exec (.sysrd d 0x011) s = .next (s.stall t k .score) := by
  refine exec_stalls h (exec_sysrd d 0x011 s) ?_ (by decide)
  subst hk
  have he : (!t.sb.isEmpty) = true := by simp [hs]
  exact if_pos he

/-- Otherwise the destination holds the register. -/
theorem sysrd_next (h0 : i ≠ 0x040) (h1 : i ≠ 0x041) {v : Word} (hr : s.sysRead t k i.toNat = .ok v)
    (hw : k = .v ∧ i = 0x011 → t.sb = []) : exec (.sysrd d i) s = .next (s.retire t k ((t.st k).setReg d v)) := by
  refine exec_completes h (exec_sysrd d i s) ?_
  have hn : (k == .v && i == 0x011 && !t.sb.isEmpty) = false := by
    by_cases hc : k = .v ∧ i = 0x011
    · simp [hw hc]
    · simpa using fun a b => absurd ⟨a, b⟩ hc
  simp only [h0, h1, decide_false, Bool.or_self, Bool.false_eq_true, if_false, hr]
  exact if_neg (Bool.eq_false_iff.1 hn)

/-- A read of CYCLO gives the low half of the counter and keeps the high half for the stream (R48). -/
theorem sysrd_cyclo : let u := s.tickDie t
    exec (.sysrd d 0x040) s =
      .next (u.retire t k (({ t.st k with cyc := some (u.cycleCount t).hi } : StreamSt).setReg d (u.cycleCount t).lo)) := by
  refine exec_completes h (exec_sysrd d 0x040 s) ?_
  exact if_neg (by simp)

/-- A read of CYCHI gives the high half that the stream's last read of CYCLO kept, or the counter's (R48). -/
theorem sysrd_cychi : let u := s.tickDie t
    exec (.sysrd d 0x041) s = .next (u.retire t k ((t.st k).setReg d ((t.st k).cyc.getD (u.cycleCount t).hi))) := by
  refine exec_completes h (exec_sysrd d 0x041 s) ?_
  exact if_neg (by simp)

end

/-- Settles O35: each row of the table is what its index finds in the register file. -/
theorem systemRegisterReads : Obligations.SystemRegisterReads := by
  unfold Obligations.SystemRegisterReads
  intro s t k h b hb d
  refine ⟨fun i hi ht => ?_, fun i hm hn => ?_, fun r hr hn hw => ?_, fun hk hs => sysrd_waits h hk hs, fun ht j r => ?_,
    sysrd_cyclo h, sysrd_cychi h, fun hd => if_pos hd⟩
  · have ne (n : BitVec 12) (hn : n.toNat < 0x100) : i ≠ n := fun e => absurd (e ▸ hi) (Nat.not_le.2 hn)
    exact sysrd_traps h (ne _ (by decide)) (ne _ (by decide)) (State.sysRead_priv hi ht) (by decide)
  · have ne (n : BitVec 12) (hn : sysMapped n = true) : i ≠ n := fun e => Bool.eq_false_iff.1 hm (e ▸ hn)
    exact sysrd_traps h (ne _ (by decide)) (ne _ (by decide)) (State.sysRead_unlisted hn hm) (by decide)
  · have ne (n : BitVec 12) (hn : n ∉ sysIndices) : r.1 ≠ n := fun e =>
      hn (e ▸ sysRows_indices s t k b ▸ List.mem_map_of_mem hr)
    exact sysrd_next h (ne _ (by decide)) (ne _ (by decide)) (State.sysRead_of_some hn (State.sysReg_of_mem_rows hb r hr)) hw
  · have hj := streamIdx_lt j
    have hr := r.isLt
    have hi : (BitVec.ofNat 12 (0x200 + 32 * j.idx + r.toNat)).toNat = 0x200 + 32 * j.idx + r.toNat := by
      rw [BitVec.toNat_ofNat]; omega
    have ne (n : BitVec 12) (hn : n.toNat < 0x200) : BitVec.ofNat 12 (0x200 + 32 * j.idx + r.toNat) ≠ n := fun e => by
      rw [e] at hi; omega
    exact sysrd_next h (ne _ (by decide)) (ne _ (by decide)) (State.sysRead_of_some (.inr ht) (State.sysReg_window hi))
      fun e => absurd e.2 (ne _ (by decide))
end Sys2Proof.Machine

namespace Sys2Proof.Machine

/-! ### What a SYSWR leaves in its task (R44 to R47, R392) -/

/-- The task after a write of a system register that it has itself. -/
def Task.writeSys (t : Task) (k : StreamId) (i : Nat) (w : Word) : Task :=
  if i < 0x100 then t.writeUser k i w else t.writePriv i w

/-- What a write of `w` at a listed index other than SCRWAY's can do to a task: change one register, or nothing where it
is RO. -/
inductive SysWrite (t : Task) (k : StreamId) (w : Word) (i : BitVec 12) : Task → Prop
  | fpmode (h : i = 0x010) : SysWrite t k w i (t.setSt k { t.st k with fpmode := w &&& 0xFF07 })
  | fpflags (h : i = 0x011) : SysWrite t k w i (t.setSt k { t.st k with fpflags := w &&& 0xFF })
  | srseed (h : i = 0x012) : SysWrite t k w i { t with srseed := w }
  | srcnt (h : i = 0x013) : SysWrite t k w i (t.setSt k { t.st k with srcnt := w })
  | chk (h : i = 0x030) : SysWrite t k w i { t with chk := w.getLsbD 0 }
  | tvec (h : i = 0x100 ∨ i = 0x101) : SysWrite t k w i { t with tvec := setHalf t.tvec i.toNat w &&& ~~~0xFFF }
  | ended (h : i = 0x103) : SysWrite t k w i { t with tended := t.tended ||| w.extractLsb' 0 4 }
  | tpc (j : StreamId) (h : i.toNat = 0x104 + 2 * j.idx ∨ i.toNat = 0x105 + 2 * j.idx) :
      SysWrite t k w i (t.setTpc j (setHalf (t.tpc j) i.toNat w &&& ~~~3))
  | save0 (h : i = 0x110) : SysWrite t k w i { t with tsave0 := w }
  | save1 (h : i = 0x111) : SysWrite t k w i { t with tsave1 := w }
  | save2 (h : i = 0x112) : SysWrite t k w i { t with tsave2 := w }
  | save3 (h : i = 0x113) : SysWrite t k w i { t with tsave3 := w }
  | reg (j : StreamId) (r : BitVec 5) (h : i.toNat = 0x200 + 32 * j.idx + r.toNat) :
      SysWrite t k w i (t.setSt j ((t.st j).setReg r w))
  | readOnly (h : i ∈ sysReadOnly) : SysWrite t k w i t

section
variable (t : Task) (k : StreamId) (w : Word) {i : BitVec 12}

theorem Task.writeSys_readOnly : ∀ i ∈ sysReadOnly, t.writeSys k i.toNat w = t := by
  simp only [sysReadOnly, List.forall_mem_cons]
  simp [Task.writeSys, Task.writeUser, Task.writePriv]

theorem Task.writeSys_window {n : Nat} {j : StreamId} {r : BitVec 5} (h : n = 0x200 + 32 * j.idx + r.toNat) :
    t.writeSys k n w = t.setSt j ((t.st j).setReg r w) := by
  have hj := streamIdx_lt j
  have hr := r.isLt
  have hn : (n - 0x200) / 32 = j.idx := by omega
  have h5 : BitVec.ofNat 5 n = r := BitVec.eq_of_toNat_eq (by rw [BitVec.toNat_ofNat]; omega)
  have hlo : ¬ n < 0x100 := by omega
  have hw : 0x200 ≤ n ∧ n < 0x280 := by omega
  simp only [Task.writeSys, if_neg hlo, Task.writePriv, hw, decide_true, Bool.and_self, if_true, hn, streamOf_idx, h5]

/-- The indices of the registers that a task has itself and that are not RO. -/
def taskIndices : List (BitVec 12) :=
  [0x010, 0x011, 0x012, 0x013, 0x030, 0x100, 0x101, 0x103, 0x104, 0x105, 0x106, 0x107, 0x108, 0x109, 0x10A, 0x10B, 0x110, 0x111,
   0x112, 0x113]

theorem sysIndices_split : ∀ i ∈ sysIndices, i ∈ sysReadOnly ∨ i = 0x122 ∨ i ∈ taskIndices := by
  simp [sysIndices, sysReadOnly, taskIndices]

theorem Task.writeSys_taskIndices : ∀ i ∈ taskIndices, SysWrite t k w i (t.writeSys k i.toNat w) := by
  simp only [taskIndices, List.forall_mem_cons, Task.writeSys, Task.writeUser, Task.writePriv, BitVec.reduceToNat, Nat.reduceLT,
    Nat.reduceLeDiff, Nat.reduceEqDiff, decide_false, decide_true, Bool.false_and, Bool.and_false, Bool.and_self, Bool.or_self,
    Bool.or_true, Bool.or_false, Bool.false_eq_true, if_true, if_false, Nat.reduceSub, Nat.reduceDiv]
  exact ⟨.fpmode rfl, .fpflags rfl, .srseed rfl, .srcnt rfl, .chk rfl, .tvec (.inl rfl), .tvec (.inr rfl), .ended rfl,
    .tpc .s (.inl rfl), .tpc .s (.inr rfl), .tpc .v (.inl rfl), .tpc .v (.inr rfl), .tpc .m (.inl rfl), .tpc .m (.inr rfl),
    .tpc .c (.inl rfl), .tpc .c (.inr rfl), .save0 rfl, .save1 rfl, .save2 rfl, .save3 rfl, by simp⟩

theorem Task.writeSys_spec (hm : sysMapped i = true) (hi : i ≠ 0x122) : SysWrite t k w i (t.writeSys k i.toNat w) := by
  have ro (hr : i ∈ sysReadOnly) : SysWrite t k w i (t.writeSys k i.toNat w) := by
    rw [t.writeSys_readOnly k w i hr]
    exact .readOnly hr
  obtain hl | rfl | rfl | hw := (sysMapped_iff i).1 hm
  · obtain hr | rfl | hr := sysIndices_split i hl
    · exact ro hr
    · exact absurd rfl hi
    · exact t.writeSys_taskIndices k w i hr
  · exact ro (by decide)
  · exact ro (by decide)
  · obtain ⟨j, r, e⟩ := exists_window hw
    rw [t.writeSys_window k w e]
    exact .reg j r e
end

end Sys2Proof.Machine

namespace Sys2Proof.Machine

theorem Task.setTpc_tpc (t : Task) (j l : StreamId) (v : Dword) :
    (t.setTpc j v).tpc l = if l = j then v else t.tpc l := by
  cases j <;> cases l <;> rfl

theorem streamIdx_inj {j l : StreamId} (h : j.idx = l.idx) : j = l := by
  rw [← streamOf_idx j, h, streamOf_idx]

/-- Clearing low bits rounds down. -/
theorem and_not_low (v : Dword) (n : Nat) :
    v &&& ~~~(BitVec.ofNat 64 (2 ^ n - 1)) = BitVec.ofNat 64 (v.toNat / 2 ^ n * 2 ^ n) := by
  apply BitVec.eq_of_getLsbD_eq
  intro i hi
  rw [BitVec.getLsbD_and, BitVec.getLsbD_not, BitVec.getLsbD_ofNat, BitVec.getLsbD_ofNat, Nat.testBit_mul_two_pow,
    Nat.testBit_two_pow_sub_one, Nat.testBit_div_two_pow, BitVec.testBit_toNat]
  by_cases h : n ≤ i
  · simp [hi, h, Nat.not_lt.2 h]
  · simp [hi, h, Nat.not_le.1 h]

theorem toNat_setHalf_even (v : Dword) {i : Nat} (h : i % 2 = 0) (w : Word) :
    (setHalf v i w).toNat = v.toNat / 2 ^ 32 * 2 ^ 32 + w.toNat := by
  have := v.isLt
  rw [setHalf, if_pos h, Dword.toNat_mk, Dword.hi_eq, BitVec.toNat_ofNat]
  omega

theorem toNat_setHalf_odd (v : Dword) {i : Nat} (h : i % 2 = 1) (w : Word) :
    (setHalf v i w).toNat = w.toNat * 2 ^ 32 + v.toNat % 2 ^ 32 := by
  rw [setHalf, if_neg (by omega), Dword.toNat_mk, Dword.lo_eq, BitVec.toNat_ofNat]
  omega

section
variable {t u : Task} {k : StreamId} {w : Word} {i : BitVec 12} (h : SysWrite t k w i u)
include h

/-- TVEC is written at its two indices alone. -/
theorem SysWrite.tvec_cases : ((i = 0x100 ∨ i = 0x101) ∧ u.tvec = setHalf t.tvec i.toNat w &&& ~~~0xFFF) ∨
    (i ≠ 0x100 ∧ i ≠ 0x101 ∧ u.tvec = t.tvec) := by
  cases h
  case tvec hi => exact .inl ⟨hi, rfl⟩
  case tpc j hi =>
    have hj := streamIdx_lt j
    exact .inr ⟨by bv_omega, by bv_omega, by cases j <;> rfl⟩
  case reg j r hi => exact .inr ⟨by bv_omega, by bv_omega, rfl⟩
  case readOnly hi => exact .inr ⟨by rintro rfl; simp [sysReadOnly] at hi, by rintro rfl; simp [sysReadOnly] at hi, rfl⟩
  all_goals exact .inr ⟨by subst i; decide, by subst i; decide, rfl⟩

/-- The trap program counters are written at theirs. -/
theorem SysWrite.tpc_cases : (∃ j, (i.toNat = 0x104 + 2 * j.idx ∨ i.toNat = 0x105 + 2 * j.idx) ∧
      u.tpc = (t.setTpc j (setHalf (t.tpc j) i.toNat w &&& ~~~3)).tpc) ∨
    ((i.toNat < 0x104 ∨ 0x10B < i.toNat) ∧ u.tpc = t.tpc) := by
  cases h
  case tpc j hi => exact .inl ⟨j, hi, rfl⟩
  case reg j r hi => exact .inr ⟨.inr (by omega), rfl⟩
  case tvec hi => exact .inr ⟨.inl (by bv_omega), rfl⟩
  case readOnly hi =>
    have ro : ∀ i ∈ sysReadOnly, i.toNat < 0x104 ∨ 0x10B < i.toNat := by simp [sysReadOnly]
    exact .inr ⟨ro i hi, rfl⟩
  all_goals exact .inr ⟨by subst i; decide, rfl⟩

/-- TSTAT.ENDED is written at TSTAT's. -/
theorem SysWrite.tended_cases : (i = 0x103 ∧ u.tended = t.tended ||| w.extractLsb' 0 4) ∨
    (i ≠ 0x103 ∧ u.tended = t.tended) := by
  cases h
  case ended hi => exact .inl ⟨hi, rfl⟩
  case tpc j hi =>
    have hj := streamIdx_lt j
    exact .inr ⟨by bv_omega, by cases j <;> rfl⟩
  case reg j r hi => exact .inr ⟨by bv_omega, rfl⟩
  case tvec hi => exact .inr ⟨by bv_omega, rfl⟩
  case readOnly hi => exact .inr ⟨by rintro rfl; simp [sysReadOnly] at hi, rfl⟩
  all_goals exact .inr ⟨by subst i; decide, rfl⟩

/-- Scalar registers are written in the window alone. -/
theorem SysWrite.regs_cases : (∃ j r, i.toNat = 0x200 + 32 * j.idx + r.toNat ∧ u = t.setSt j ((t.st j).setReg r w)) ∨
    (i.toNat < 0x200 ∧ ∀ j r, (u.st j).reg r = (t.st j).reg r) := by
  have one (st : StreamSt) (hst : ∀ r, st.reg r = (t.st k).reg r) (j : StreamId) (r : BitVec 5) :
      ((t.setSt k st).st j).reg r = (t.st j).reg r := by
    by_cases hj : j = k
    · rw [hj, Task.st_setSt, hst]
    · rw [Task.st_setSt_ne _ _ hj]
  cases h
  case reg j r hi => exact .inl ⟨j, r, hi, rfl⟩
  case tpc j hi =>
    have hj := streamIdx_lt j
    exact .inr ⟨by omega, fun l r => by cases j <;> rfl⟩
  case tvec hi => exact .inr ⟨by bv_omega, fun _ _ => rfl⟩
  case readOnly hi =>
    have ro : ∀ i ∈ sysReadOnly, i.toNat < 0x200 := by simp [sysReadOnly]
    exact .inr ⟨ro i hi, fun _ _ => rfl⟩
  case fpmode | fpflags | srcnt => exact .inr ⟨by subst i; decide, one _ fun _ => rfl⟩
  all_goals exact .inr ⟨by subst i; decide, fun _ _ => rfl⟩

/-- Nothing but these and the special registers changes. -/
theorem SysWrite.kept : (u.tcause, u.tinfo, u.tmode, u.claim, u.sems, u.vregs, u.preds, u.vqs, u.acc, u.wfa) =
    (t.tcause, t.tinfo, t.tmode, t.claim, t.sems, t.vregs, t.preds, t.vqs, t.acc, t.wfa) := by
  cases h
  case tpc j hi => cases j <;> rfl
  all_goals rfl

/-- The row of a register with RW fields holds what was written to them (R45 to R47, R393). -/
theorem SysWrite.value (hi : i ∈ [0x010#12, 0x011, 0x012, 0x013, 0x030, 0x110, 0x111, 0x112, 0x113]) {s : State} {b : Block}
    {v : Word} (hv : (i, v) ∈ sysRows s u k b) :
    v = (if i = 0x010 then w &&& 0xFF07 else if i = 0x011 then w &&& 0xFF
         else if i = 0x030 then BitVec.ofNat 32 (w.toNat % 2 + 2 * t.det.toNat) else w) := by
  have hb : w[0].toNat = w.toNat % 2 := by
    rw [← BitVec.getLsbD_eq_getElem, BitVec.getLsbD, Nat.testBit_zero]
    obtain e | e := Nat.mod_two_eq_zero_or_one w.toNat <;> simp [e]
  cases h
  case tpc j hj =>
    have := streamIdx_lt j
    simp only [List.mem_cons, List.not_mem_nil, or_false] at hi
    bv_omega
  case reg j r hj =>
    simp only [List.mem_cons, List.not_mem_nil, or_false] at hi
    bv_omega
  case tvec hj => obtain rfl | rfl := hj <;> simp at hi
  case ended hj => subst i; simp at hi
  case readOnly hj =>
    have ro : ∀ i ∈ sysReadOnly, i ∉ [0x010#12, 0x011, 0x012, 0x013, 0x030, 0x110, 0x111, 0x112, 0x113] := by
      simp [sysReadOnly]
    exact absurd hi (ro i hj)
  all_goals
    subst i
    simpa [sysRows, hb] using hv

/-- Every row but that of the index, and those of TVEC and the trap program counters, is as before. -/
theorem SysWrite.rows (s : State) (b : Block) :
    List.Forall₂ (fun p q => p.1 = q.1 ∧ (p.1 ≠ i → p.1.toNat < 0x100 ∨ 0x110 ≤ p.1.toNat → p.2 = q.2))
      (sysRows s t k b) (sysRows s u k b) := by
  have fields {l n : StreamId} {r : BitVec 5} :
      ((t.str.set l ((t.str.get l).setReg r w)).get n).fpmode = (t.str.get n).fpmode ∧
      ((t.str.set l ((t.str.get l).setReg r w)).get n).fpflags = (t.str.get n).fpflags ∧
      ((t.str.set l ((t.str.get l).setReg r w)).get n).srcnt = (t.str.get n).srcnt := by
    by_cases e : n = l
    · simp [e]
    · simp [Streams.get_set_ne _ _ e]
  cases h
  case tpc j hj =>
    cases j <;> simp [sysRows, Task.setTpc, Task.st, Task.inUse]
  case tvec hj => simp [sysRows, Task.st, Task.inUse]
  case readOnly hj => simp [sysRows]
  all_goals
    simp_all [sysRows, Task.setSt, Task.st, Task.inUse]

end
end Sys2Proof.Machine

namespace Sys2Proof.Machine

/-- An item of one list has its partner in the other. -/
theorem exists_mem_of_forall₂ {α β : Type} {R : α → β → Prop} {l : List α} {m : List β} (h : List.Forall₂ R l m)
    {p : α} (hp : p ∈ l) : ∃ q ∈ m, R p q := by
  induction h with
  | nil => cases hp
  | cons hr _ ih =>
    obtain rfl | hp := List.mem_cons.1 hp
    · exact ⟨_, List.mem_cons_self, hr⟩
    · obtain ⟨q, hq, hr⟩ := ih hp
      exact ⟨q, List.mem_cons_of_mem _ hq, hr⟩

theorem sysReadOnly_mapped : ∀ i ∈ sysReadOnly, sysMapped i = true ∧ i ≠ 0x122 ∧ i ≠ 0x011 := by
  simp [sysReadOnly, sysMapped_iff, sysIndices]

section
variable {t u : Task} {k : StreamId} {w : Word} {i : BitVec 12} (h : SysWrite t k w i u)
include h

theorem SysWrite.tvec_100 (h0 : i = 0x100) :
    u.tvec = BitVec.ofNat 64 ((t.tvec.toNat / 2 ^ 32 * 2 ^ 32 + w.toNat) / 4096 * 4096) := by
  obtain ⟨-, e⟩ | ⟨hn, -⟩ := h.tvec_cases
  · rw [e, ← toNat_setHalf_even t.tvec (i := i.toNat) (by rw [h0]; rfl)]
    exact and_not_low _ 12
  · exact absurd h0 hn

theorem SysWrite.tvec_101 (h1 : i = 0x101) :
    u.tvec = BitVec.ofNat 64 ((w.toNat * 2 ^ 32 + t.tvec.toNat % 2 ^ 32) / 4096 * 4096) := by
  obtain ⟨-, e⟩ | ⟨-, hn, -⟩ := h.tvec_cases
  · rw [e, ← toNat_setHalf_odd t.tvec (i := i.toNat) (by rw [h1]; rfl)]
    exact and_not_low _ 12
  · exact absurd h1 hn

theorem SysWrite.tvec_ne (h0 : i ≠ 0x100) (h1 : i ≠ 0x101) : u.tvec = t.tvec := by
  obtain ⟨hi, -⟩ | ⟨-, -, e⟩ := h.tvec_cases
  · exact absurd hi (not_or.2 ⟨h0, h1⟩)
  · exact e

theorem SysWrite.tpc_low (j : StreamId) (hj : i.toNat = 0x104 + 2 * j.idx) :
    u.tpc j = BitVec.ofNat 64 (((t.tpc j).toNat / 2 ^ 32 * 2 ^ 32 + w.toNat) / 4 * 4) := by
  have := streamIdx_lt j
  obtain ⟨l, hl, e⟩ | ⟨hn, -⟩ := h.tpc_cases
  · obtain rfl : j = l := streamIdx_inj (by omega)
    rw [e, Task.setTpc_tpc, if_pos rfl, ← toNat_setHalf_even (t.tpc j) (i := i.toNat) (by omega)]
    exact and_not_low _ 2
  · omega

theorem SysWrite.tpc_high (j : StreamId) (hj : i.toNat = 0x105 + 2 * j.idx) :
    u.tpc j = BitVec.ofNat 64 ((w.toNat * 2 ^ 32 + (t.tpc j).toNat % 2 ^ 32) / 4 * 4) := by
  have := streamIdx_lt j
  obtain ⟨l, hl, e⟩ | ⟨hn, -⟩ := h.tpc_cases
  · obtain rfl : j = l := streamIdx_inj (by omega)
    rw [e, Task.setTpc_tpc, if_pos rfl, ← toNat_setHalf_odd (t.tpc j) (i := i.toNat) (by omega)]
    exact and_not_low _ 2
  · omega

theorem SysWrite.tpc_ne (j : StreamId) (h0 : i.toNat ≠ 0x104 + 2 * j.idx) (h1 : i.toNat ≠ 0x105 + 2 * j.idx) :
    u.tpc j = t.tpc j := by
  obtain ⟨l, hl, e⟩ | ⟨-, e⟩ := h.tpc_cases
  · have hne : j ≠ l := fun ej => by
      subst ej
      exact hl.elim h0 h1
    rw [e, Task.setTpc_tpc, if_neg hne]
  · rw [e]

/-- ENDED only gains bits. -/
theorem SysWrite.tended_bit (n : Nat) :
    u.tended.getLsbD n = (t.tended.getLsbD n || (decide (i = 0x103 ∧ n < 4) && w.getLsbD n)) := by
  obtain ⟨hi, e⟩ | ⟨hi, e⟩ := h.tended_cases
  · rw [e, BitVec.getLsbD_or, BitVec.getLsbD_extractLsb', Nat.zero_add]
    simp only [hi, true_and]
  · simp only [e, hi, false_and, decide_false, Bool.false_and, Bool.or_false]

theorem SysWrite.reg_eq (j : StreamId) (r : BitVec 5) :
    (u.st j).reg r = if i.toNat = 0x200 + 32 * j.idx + r.toNat ∧ r ≠ 31 then w else (t.st j).reg r := by
  have hr := r.isLt
  obtain ⟨l, q, hq, e⟩ | ⟨hi, e⟩ := h.regs_cases
  · have := q.isLt
    by_cases hj : j = l
    · subst hj
      have : (i.toNat = 0x200 + 32 * j.idx + r.toNat) ↔ r = q := by bv_omega
      rw [e, Task.st_setSt, StreamSt.reg_setReg]
      simp only [this]
      by_cases hrq : r = q <;> simp [hrq]
    · have : ¬ i.toNat = 0x200 + 32 * j.idx + r.toNat := fun h => hj (streamIdx_inj (by omega))
      rw [e, Task.st_setSt_ne _ _ hj, if_neg fun h => this h.1]
  · rw [e, if_neg (by omega)]

/-- A row reads as before. -/
theorem SysWrite.row_kept {s : State} {b : Block} {x : BitVec 12} {v : Word} (hx : x ≠ i)
    (hr : x.toNat < 0x100 ∨ 0x110 ≤ x.toNat) (hm : (x, v) ∈ sysRows s t k b) : (x, v) ∈ sysRows s u k b := by
  obtain ⟨⟨y, z⟩, hq, rfl, e⟩ := exists_mem_of_forall₂ (h.rows s b) hm
  obtain rfl : v = z := e hx hr
  exact hq

end

/-! ### SYSWR (R88, R167) -/

section
variable {s : State} {t : Task} {k : StreamId} (h : Issues s t k) {a : BitVec 5} {i : BitVec 12}
include h

/-- What stops the read of the index stops the instruction. -/
theorem syswr_traps {cls sub : Nat} (hr : s.sysRead t k i.toNat = trapWith cls sub) (hc : cls ≠ clsStorage) :
    exec (.syswr a i) s = .next (s.takeTrap t k (t.st k).pc false 0 { cls := cls, sub := sub }) := by
  refine exec_traps h (exec_syswr a i s) ?_ hc
  simp only [hr]
  rfl

/-- A write of FPFLAGS in the vector stream waits for the words in flight. -/
theorem syswr_waits (hk : k = .v) (hs : t.sb ≠ []) : exec (.syswr a 0x011) s = .next (s.stall t k .score) := by
  refine exec_stalls h (exec_syswr a 0x011 s) ?_ (by decide)
  subst hk
  have he : (!t.sb.isEmpty) = true := by simp [hs]
  exact if_pos he

/-- Otherwise the task's own register is written and the instruction retires. -/
theorem syswr_next {v : Word} (hr : s.sysRead t k i.toNat = .ok v) (hi : i ≠ 0x122)
    (hw : ¬ (k = .v ∧ i = 0x011 ∧ t.sb ≠ [])) :
    let u := t.writeSys k i.toNat ((t.st k).reg a)
    exec (.syswr a i) s = .next (s.retire u k (u.st k)) := by
  refine exec_completes h (exec_syswr a i s) ?_
  have hn : (k == .v && i == 0x011 && !t.sb.isEmpty) = false := by simpa using hw
  simp only [hr]
  exact (if_neg (Bool.eq_false_iff.1 hn)).trans (if_neg hi)

/-- A write of SCRWAY waits or ends as the write of the core's ways does. -/
theorem syswr_scrway (ht : t.tmode = true) {b : Block} (hb : s.blockOf t = some b) (hi : i = 0x122) :
    (∀ w, s.writeScrway b.core ((t.st k).reg a &&& 0xFFFF) = .error (.wait w) → w ≠ .array →
      exec (.syswr a i) s = .next (s.stall t k w)) ∧
    ∀ s', s.writeScrway b.core ((t.st k).reg a &&& 0xFFFF) = .ok s' →
      exec (.syswr a i) s = .next (s'.retire t k (t.st k)) := by
  have hr : s.sysRead t k i.toNat = .ok (s.core (s.coreOf t)).scrway := by
    subst hi
    exact State.sysRead_of_some (.inr ht) rfl
  have hn : (k == .v && i == 0x011 && !t.sb.isEmpty) = false := by simp [hi]
  rw [← State.coreOf_eq hb]
  refine ⟨fun w hw ha => exec_stalls h (exec_syswr a i s) ?_ ha, fun s' hw => exec_completes h (exec_syswr a i s) ?_⟩
  all_goals
    simp only [hr, hw]
    exact (if_neg (Bool.eq_false_iff.1 hn)).trans (if_pos hi)

end

/-- Footprints in flight on the ways that change make the write wait (R88). -/
theorem State.writeScrway_busy {s : State} {c : Nat} {w : Word} (h : s.waysBusy c w = true) :
    s.writeScrway c w = .error (.wait (.ways w)) := if_pos h

/-- Otherwise it takes effect or is ignored; with no scratch allocated on the core it takes effect, and the lines of L1 that
no way holds any more are gone (R88). -/
theorem State.writeScrway_free {s : State} {c : Nat} {w : Word} (h : s.waysBusy c w = false) :
    ∃ s', s.writeScrway c w = .ok s' ∧ ((s'.core c).scrway = w ∨ s' = s) ∧
      ((∀ x ∈ s.blocks, x.core = c → x.st = .resident → x.size = 0) →
        (s'.core c).scrway = w ∧ (w = 0xFFFF → (s'.core c).l1 = [])) := by
  unfold State.writeScrway
  simp only [h, Bool.false_eq_true, if_false]
  split
  next hp =>
    refine ⟨s, rfl, .inr rfl, fun hx => ?_⟩
    have hnone : s.blocks.filter (fun b => b.core == c && b.st == .resident && b.size != 0) = [] := by
      simp only [List.filter_eq_nil_iff, Bool.and_eq_true, beq_iff_eq, bne_iff_ne, ne_eq, not_and, not_not, and_imp]
      exact hx
    simp [State.wayPinned, hnone] at hp
  next =>
    refine ⟨_, rfl, .inl ?_, fun _ => ⟨?_, fun hw => ?_⟩⟩
    · rw [State.core_setCore]
    · rw [State.core_setCore]
    · rw [State.core_setCore]
      exact if_pos hw

/-- Settles O36: SYSWR reads its index as SYSRD does, and what it then writes is one register of the task, or SCRWAY. -/
theorem systemRegisterWrites : Obligations.SystemRegisterWrites := by
  unfold Obligations.SystemRegisterWrites
  intro s t k h b hb a w awaits
  have listed {i : BitVec 12} (hm : sysMapped i = true) (hn : i.toNat < 0x100 ∨ t.tmode = true) :
      ∃ v, s.sysRead t k i.toNat = .ok v := by
    obtain ⟨v, hv⟩ := State.sysReg_of_mapped hb hm
    exact ⟨v, State.sysRead_of_some hn hv⟩
  refine ⟨?_, fun i hi hn => ?_, fun i hi ht => syswr_traps h (State.sysRead_priv hi ht) (by decide),
    fun i hm hn => syswr_traps h (State.sysRead_unlisted hn hm) (by decide), fun i hm hn hi hw => ?_, fun ht => ⟨fun hw => ?_,
      fun hw => ?_⟩⟩
  · rintro i ⟨hk, rfl, hs⟩
    exact syswr_waits h hk hs
  · obtain ⟨hm, h1, h2⟩ := sysReadOnly_mapped i hi
    obtain ⟨v, hv⟩ := listed hm hn
    rw [syswr_next h hv h1 fun e => h2 e.2.1, t.writeSys_readOnly k _ i hi]
  · obtain ⟨v, hv⟩ := listed hm hn
    have hu := t.writeSys_spec k w hm hi
    refine ⟨_, syswr_next h hv hi hw, fun hr => ?_, fun hv v hm => hu.value hv hm, hu.tvec_100, hu.tvec_101, hu.tvec_ne,
      hu.kept, hu.tpc_low, hu.tpc_high, hu.tpc_ne, hu.tended_bit, hu.reg_eq, fun x v hx hr hm => hu.row_kept hx hr hm⟩
    rw [t.writeSys_readOnly k _ i hr]
    exact ⟨rfl, fun _ hv => hv⟩
  · exact (syswr_scrway h ht hb rfl).1 _ (State.writeScrway_busy hw) (by simp)
  · obtain ⟨s', hs, hc⟩ := State.writeScrway_free hw
    exact ⟨s', (syswr_scrway h ht hb rfl).2 s' hs, hc⟩

end Sys2Proof.Machine

namespace Sys2Proof.Machine

/-! ### Vector words of the latency classes (R174 to R176) -/

/-- Each wide word of a latency class runs as the common wide word, with its op9 and what one operation does. -/
theorem exec_wideRows : ∀ r ∈ wideRows, ∀ w s, exec (r.1 w) s = wideRun r.2.1 w r.2.2 s := by
  simp only [wideRows, List.forall_mem_append, List.forall_mem_cons, List.not_mem_nil, false_implies, implies_true, and_true]
  and_intros <;> exact fun _ _ => rfl

/-- Settles O45, by the rules for the common wide word. -/
theorem vectorWordsComplete : Obligations.VectorWordsComplete := by
  unfold Obligations.VectorWordsComplete
  intro r hr w s t h
  rw [exec_wideRows r hr w s]
  exact ⟨fun e he => wideRun_stop h r.2.2 he, fun at_ x hb => ⟨fun b hw => wideRun_rows h hb hw,
    fun u hw => ⟨fun q ha => wideRun_arith h hb hw ha, fun ha => wideRun_next h hb hw ha⟩⟩⟩

end Sys2Proof.Machine

namespace Sys2Proof.Machine

/-! ### Registers under a mask (R36) -/

theorem nth_set_ne {α : Type} (l : List α) {i j : Nat} (h : i ≠ j) (v d : α) : nth (l.set i v) j d = nth l j d := by
  simp [nth, List.getElem?_set_ne h]

theorem set_nth_self {α : Type} (l : List α) (i : Nat) (d : α) : l.set i (nth l i d) = l := by
  by_cases h : i < l.length
  · simp [nth, h]
  · exact List.set_eq_of_length_le (Nat.not_lt.1 h)

theorem nth_upto_map {α : Type} (f : Nat → α) (d : α) {n l : Nat} (h : l < n) : nth ((upto n).map f) l d = f l := by
  simp [nth, upto_eq_range, h]

theorem VReg.nth_lanes (v : VReg) {l : Nat} (h : l < 96) : nth v.lanes l 0 = v.lane l := nth_upto_map v.lane 0 h

theorem lane_mergeLanes (m : Mask) (a b : VReg) {l : Nat} (h : l < 96) :
    (VReg.rows (mergeLanes m a.lanes b.lanes)).lane l = if m.getLsbD l then a.lane l else b.lane l := by
  refine (nth_upto_map _ 0 h).trans ?_
  rw [VReg.nth_lanes a h, VReg.nth_lanes b h]

/-- What a destination becomes holds the result in the lanes of the mask and the old value in the others (R36). -/
theorem lane_maskRule (m : Mask) (old new : VReg) {l : Nat} (h : l < 96) :
    ((maskRule m old new).getD old).lane l = if m.getLsbD l then new.lane l else old.lane l := by
  unfold maskRule
  split
  next hm => rw [hm, BitVec.getLsbD_allOnes, decide_eq_true h, if_pos rfl]; rfl
  next =>
    split
    next hm =>
      subst hm
      exact (if_neg (by simp)).symm
    next =>
      split
      next c c' =>
        split
        next hc => rw [hc]; exact (ite_self _).symm
        next => exact lane_mergeLanes m _ _ h
      next => exact lane_mergeLanes m _ _ h

/-- A register that takes a value holds its lanes. -/
theorem Task.putVreg_eq {t u : Task} {n : Nat} {v : VReg} (h : t.putVreg n v = some u) :
    ∃ v', u = { t with vregs := t.vregs.set n v' } ∧ ∀ l, v'.lane l = v.lane l := by
  unfold Task.putVreg at h
  split at h
  next r ls =>
    obtain ⟨r', -, rfl⟩ := Option.map_eq_some_iff.1 h
    exact ⟨_, rfl, fun l => rfl⟩
  next => exact ⟨v, (Option.some.inj h).symm, fun _ => rfl⟩

/-- One destination register is written, or its bank noted as one without a row. -/
def putReg (m : Mask) (p : Task × Option Nat) (r : Nat × VReg) : Task × Option Nat :=
  match maskRule m (p.1.vreg r.1) r.2 with
  | none => p
  | some v =>
    match p.1.putVreg r.1 v with
    | some t => (t, p.2)
    | none => (p.1, some (match p.2 with
      | none => r.1 % 16
      | some b => Nat.min b (r.1 % 16)))

theorem Task.foldl_putReg_of_putRegs {t u : Task} {m : Mask} {rs : List (Nat × VReg)} (h : t.putRegs m rs = .ok u) :
    rs.foldl (putReg m) (t, none) = (u, none) := by
  unfold Task.putRegs at h
  dsimp only at h
  split at h
  next e => cases h; exact e
  next => cases h

/-- A bank without a row is not forgotten. -/
theorem putReg_snd {m : Mask} {p : Task × Option Nat} {r : Nat × VReg} (h : (putReg m p r).2 = none) : p.2 = none := by
  unfold putReg at h
  split at h
  · exact h
  · split at h
    · exact h
    · cases h

theorem foldl_putReg_snd {m : Mask} : ∀ {rs : List (Nat × VReg)} {p : Task × Option Nat},
    (rs.foldl (putReg m) p).2 = none → p.2 = none
  | [], _, h => h
  | _ :: _, _, h => putReg_snd (foldl_putReg_snd h)

/-- One destination register that is written. -/
theorem putReg_ok {m : Mask} {t u : Task} {r : Nat × VReg} (h : putReg m (t, none) r = (u, none)) :
    ∃ v, u = { t with vregs := t.vregs.set r.1 v } ∧
      ∀ l, l < 96 → v.lane l = if m.getLsbD l then r.2.lane l else (t.vreg r.1).lane l := by
  have lane (l : Nat) (hl : l < 96) := lane_maskRule m (t.vreg r.1) r.2 hl
  unfold putReg at h
  split at h
  next e =>
    cases h
    rw [e] at lane
    exact ⟨t.vreg r.1, by rw [Task.vreg, set_nth_self], lane⟩
  next v e =>
    rw [e] at lane
    split at h
    next hp =>
      cases h
      obtain ⟨v', rfl, hv⟩ := Task.putVreg_eq hp
      exact ⟨v', rfl, fun l hl => (hv l).trans (lane l hl)⟩
    next => cases h

/-- The first of distinct destinations is none of the others. -/
theorem nodup_fst_cons {α β : Type} {r : α × β} {rs : List (α × β)} (h : ((r :: rs).map (·.1)).Nodup) :
    (∀ p ∈ rs, p.1 ≠ r.1) ∧ (rs.map (·.1)).Nodup :=
  ⟨fun p hp e => (List.nodup_cons.1 h).1 (List.mem_map.2 ⟨p, hp, e⟩), (List.nodup_cons.1 h).2⟩

/-- What writing destination registers under a mask leaves. -/
structure RegsWritten (m : Mask) (rs : List (Nat × VReg)) (t u : Task) : Prop where
  eq : ∃ vs, u = { t with vregs := vs }
  length : u.vregs.length = t.vregs.length
  others : ∀ n, (∀ r ∈ rs, r.1 ≠ n) → u.vreg n = t.vreg n
  lanes : (rs.map (·.1)).Nodup → ∀ r ∈ rs, r.1 < t.vregs.length → ∀ l, l < 96 →
    (u.vreg r.1).lane l = if m.getLsbD l then r.2.lane l else (t.vreg r.1).lane l

theorem foldl_putReg_written {m : Mask} : ∀ {rs : List (Nat × VReg)} {t u : Task},
    rs.foldl (putReg m) (t, none) = (u, none) → RegsWritten m rs t u
  | [], t, u, h => by
    cases h
    exact ⟨⟨_, rfl⟩, rfl, fun _ _ => rfl, fun _ _ hr => nomatch hr⟩
  | r :: rs, t, u, h => by
    rw [List.foldl_cons] at h
    have hs : (putReg m (t, none) r).2 = none := foldl_putReg_snd (rs := rs) (by rw [h])
    obtain ⟨v, hp⟩ : ∃ v, putReg m (t, none) r = (v, none) := ⟨_, Prod.ext rfl hs⟩
    rw [hp] at h
    obtain ⟨x, rfl, hx⟩ := putReg_ok hp
    obtain ⟨⟨vs, rfl⟩, length, others, lanes⟩ := foldl_putReg_written h
    have hlen : (t.vregs.set r.1 x).length = t.vregs.length := List.length_set
    refine ⟨⟨vs, rfl⟩, length.trans hlen, fun n hn => ?_, fun hd q hq hlt l hl => ?_⟩
    · exact (others n fun q hq => hn q (List.mem_cons_of_mem _ hq)).trans (nth_set_ne _ (hn r List.mem_cons_self) _ _)
    · obtain ⟨hr, hd⟩ := nodup_fst_cons hd
      obtain rfl | hq := List.mem_cons.1 hq
      · rw [others q.1 hr]
        refine Eq.trans ?_ (hx l hl)
        rw [Task.vreg, nth_set _ _ _ _ _ hlt, if_pos rfl]
      · have hne : r.1 ≠ q.1 := (hr q hq).symm
        rw [lanes hd q hq (hlt.trans_eq hlen.symm) l hl]
        simp only [Task.vreg, nth_set_ne _ hne]

theorem Task.putRegs_written {t u : Task} {m : Mask} {rs : List (Nat × VReg)} (h : t.putRegs m rs = .ok u) :
    RegsWritten m rs t u := foldl_putReg_written (Task.foldl_putReg_of_putRegs h)

/-! ### Predicates under a mask (R174) -/

/-- One destination predicate is written in the lanes of the mask. -/
def putPred (m : Mask) (t : Task) (r : Nat × Mask) : Task := t.setPred r.1 ((r.2 &&& m) ||| (t.pred r.1 &&& ~~~m))

theorem Task.pred_setPred_ne (t : Task) {p n : Nat} (h : p ≠ n) (m : Mask) : (t.setPred p m).pred n = t.pred n := by
  unfold Task.setPred
  split
  · rfl
  · simp only [Task.pred, nth_set_ne _ h]

theorem Task.pred_setPred (t : Task) {p : Nat} (h : p ≠ 31) (hp : p < t.preds.length) (m : Mask) :
    (t.setPred p m).pred p = m := by
  rw [Task.setPred, if_neg h, Task.pred, if_neg h, nth_set _ _ _ _ _ hp, if_pos rfl]

theorem Task.setPred_rest (t : Task) (p : Nat) (m : Mask) : { t.setPred p m with preds := t.preds } = t := by
  unfold Task.setPred; split <;> rfl
theorem Task.setPred_length (t : Task) (p : Nat) (m : Mask) : (t.setPred p m).preds.length = t.preds.length := by
  unfold Task.setPred
  split
  · rfl
  · exact List.length_set

theorem getLsbD_merge (m a b : Mask) (l : Nat) :
    ((a &&& m) ||| (b &&& ~~~m)).getLsbD l = if m.getLsbD l then a.getLsbD l else b.getLsbD l := by
  by_cases hl : l < 96
  · rw [BitVec.getLsbD_or, BitVec.getLsbD_and, BitVec.getLsbD_and, BitVec.getLsbD_not]
    cases m.getLsbD l <;> simp [hl]
  · simp [BitVec.getLsbD_of_ge _ _ (Nat.not_lt.1 hl)]

/-- What writing destination predicates under a mask leaves. -/
structure PredsWritten (m : Mask) (rs : List (Nat × Mask)) (t u : Task) : Prop where
  rest : { u with preds := t.preds } = t
  length : u.preds.length = t.preds.length
  others : ∀ n, (∀ r ∈ rs, r.1 ≠ n) → u.pred n = t.pred n
  lanes : (rs.map (·.1)).Nodup → ∀ r ∈ rs, r.1 ≠ 31 → r.1 < t.preds.length → ∀ l,
    (u.pred r.1).getLsbD l = if m.getLsbD l then r.2.getLsbD l else (t.pred r.1).getLsbD l

theorem foldl_putPred_written (m : Mask) : ∀ (rs : List (Nat × Mask)) (t : Task),
    PredsWritten m rs t (rs.foldl (putPred m) t)
  | [], t => ⟨rfl, rfl, fun _ _ => rfl, fun _ _ hr => nomatch hr⟩
  | r :: rs, t => by
    obtain ⟨rest, length, others, lanes⟩ := foldl_putPred_written m rs (putPred m t r)
    have hlen : (putPred m t r).preds.length = t.preds.length := t.setPred_length _ _
    refine ⟨?_, length.trans hlen, fun n hn => ?_, fun hd q hq h31 hlt l => ?_⟩
    · exact (congrArg (fun v : Task => { v with preds := t.preds }) rest).trans (t.setPred_rest _ _)
    · exact (others n fun q hq => hn q (List.mem_cons_of_mem _ hq)).trans (t.pred_setPred_ne (hn r List.mem_cons_self) _)
    · obtain ⟨hr, hd⟩ := nodup_fst_cons hd
      rw [List.foldl_cons]
      obtain rfl | hq := List.mem_cons.1 hq
      · rw [others q.1 hr, putPred, t.pred_setPred h31 hlt, getLsbD_merge]
      · have hne : r.1 ≠ q.1 := (hr q hq).symm
        rw [lanes hd q hq h31 (hlt.trans_eq hlen.symm) l, putPred, t.pred_setPred_ne hne]


/-- Predicates that are written are all that changes. -/
theorem foldl_putPred_eq (m : Mask) (rs : List (Nat × Mask)) (t : Task) :
    ∃ ps, rs.foldl (putPred m) t = { t with preds := ps } ∧ PredsWritten m rs t { t with preds := ps } := by
  have h := foldl_putPred_written m rs t
  have e : rs.foldl (putPred m) t = { t with preds := (rs.foldl (putPred m) t).preds } :=
    congrArg (fun u : Task => { u with preds := (rs.foldl (putPred m) t).preds }) h.rest
  exact ⟨_, e, e ▸ h⟩

/-! ### A vector write with no word in flight (R132, R174) -/

theorem Task.early_of_no_flights {t : Task} (h : t.flights = []) (at_ : Nat) (d : Dest) : t.early at_ d = none := by
  rw [Task.early, h]
  rfl

/-- What the writes of an operation beside its registers leave: tags, predicates, queues and scalar registers. -/
def Task.writeRest (u : Task) (x : VIn) (o : VOut) : Task :=
  let u := o.preds.foldl (putPred x.mask) { u with vregs := o.tags.foldl (fun l r => l.set r.1 r.2) u.vregs }
  let u := u.moveQueues (x.pops.map (·.1)) ((o.regs.filter fun r => decide (124 ≤ r.1)).map fun r =>
    (r.1 - 124, mergeLanes x.mask r.2.lanes (List.replicate 96 0)))
  u.setSt .v (o.sregs.foldl (fun (st : StreamSt) p => st.setReg p.1 p.2) u.str.v)

/-- With no word in flight every destination of an operation is written: the registers that are no queue, then the rest. -/
theorem State.vecWrite_ok {s : State} {t u : Task} {at_ : Nat} {x : VIn} {o : VOut} (h : s.vecWrite t at_ x o = .ok u)
    (hf : t.flights = []) :
    ∃ v, t.putRegs x.mask (o.regs.filter fun r => decide (r.1 < 124)) = .ok v ∧ u = v.writeRest x o := by
  unfold State.vecWrite at h
  simp only [Task.early_of_no_flights hf, Option.isSome_none, Bool.false_and, Bool.false_eq_true, if_false, Bool.not_false,
    Bool.and_true] at h
  cases hp : t.putRegs x.mask (o.regs.filter fun r => decide (r.1 < 124)) with
  | error b => rw [hp] at h; cases h
  | ok v =>
    rw [hp] at h
    exact ⟨v, rfl, (Except.ok.inj h).symm⟩

theorem nth_foldl_set {l : List (Nat × VReg)} {n : Nat} (h : ∀ r ∈ l, r.1 ≠ n) (vs : List VReg) :
    nth (l.foldl (fun l r => l.set r.1 r.2) vs) n .undef = nth vs n .undef := by
  induction l generalizing vs with
  | nil => rfl
  | cons r l ih =>
    rw [List.foldl_cons, ih (fun q hq => h q (List.mem_cons_of_mem _ hq)), nth_set_ne _ (h r List.mem_cons_self)]

/-- Scalar registers written one by one. -/
def StreamSt.setRegs (st : StreamSt) (l : List (BitVec 5 × Word)) : StreamSt := l.foldl (fun st p => st.setReg p.1 p.2) st

theorem StreamSt.setRegs_reg {l : List (BitVec 5 × Word)} {r : BitVec 5} (h : ∀ p ∈ l, p.1 ≠ r) (st : StreamSt) :
    (st.setRegs l).reg r = st.reg r := by
  induction l generalizing st with
  | nil => rfl
  | cons p l ih =>
    refine (ih (fun q hq => h q (List.mem_cons_of_mem _ hq)) _).trans ?_
    rw [StreamSt.reg_setReg, if_neg fun e => h p List.mem_cons_self e.1.symm]

theorem StreamSt.setRegs_frame (l : List (BitVec 5 × Word)) (st : StreamSt) :
    (st.setRegs l).pc = st.pc ∧ (st.setRegs l).fpmode = st.fpmode ∧ (st.setRegs l).fpflags = st.fpflags := by
  induction l generalizing st with
  | nil => exact ⟨rfl, rfl, rfl⟩
  | cons p l ih =>
    obtain ⟨hpc, hmode, hflags⟩ := ih (st.setReg p.1 p.2)
    exact ⟨hpc.trans (st.setReg_pc _ _), hmode.trans (st.setReg_fpmode _ _), hflags.trans (st.setReg_fpflags _ _)⟩

/-- The rest leaves the registers but for the tags, and everything but predicates, queues and scalar registers. -/
theorem Task.writeRest_eq (v : Task) (x : VIn) (o : VOut) : ∃ ps qs, v.writeRest x o =
    { v with vregs := o.tags.foldl (fun l r => l.set r.1 r.2) v.vregs, preds := ps, vqs := qs,
             str := v.str.set .v (v.str.v.setRegs o.sregs) } ∧
    PredsWritten x.mask o.preds v { v with preds := ps } := by
  obtain ⟨ps, e, -, length, others, lanes⟩ :=
    foldl_putPred_eq x.mask o.preds { v with vregs := o.tags.foldl (fun l r => l.set r.1 r.2) v.vregs }
  unfold Task.writeRest
  rw [e]
  exact ⟨ps, _, rfl, rfl, length, others, lanes⟩

/-- A vector word changes no byte, and no task but its own. -/
theorem State.afterWide_frame (s : State) {t u : Task} (hu : u.uid = t.uid) (at_ op : Nat) (w : VW) (fl : List FFlags) :
    (∀ l, (s.afterWide t u at_ op w fl).byteAt l = s.byteAt l) ∧
      ∀ n, n ≠ t.uid → (s.afterWide t u at_ op w fl).task? n = s.task? n := by
  have core := s.setCore_only (s.coreOf t)
  refine ⟨fun l => (State.setTask_byteAt _ _ l).trans ?_, fun n hn => (State.task?_setTask_ne _ _ (hu ▸ hn)).trans ?_⟩
  · exact Eq.trans (by cases l <;> rfl) ((core _).byteAt l)
  · exact (core _).task? n

/-- Settles O46: the writes of an operation taken apart into those of its registers, its predicates and its scalar
registers. -/
theorem vectorWriteFrame : Obligations.VectorWriteFrame := by
  unfold Obligations.VectorWriteFrame
  refine ⟨fun m old new l hl => lane_maskRule m old new hl, fun s t at_ x o u h hf => ?_⟩
  obtain ⟨v, hv, rfl⟩ := State.vecWrite_ok h hf
  obtain ⟨⟨vs, rfl⟩, length, others, lanes⟩ := Task.putRegs_written hv
  set v : Task := { t with vregs := vs }
  obtain ⟨ps, qs, hu, -, -, pothers, planes⟩ := v.writeRest_eq x o
  have hst (j : StreamId) : (v.writeRest x o).st j = if j = .v then (t.st .v).setRegs o.sregs else t.st j := by
    rw [hu]
    cases j <;> rfl
  have hreg (n : Nat) (hn : ∀ r ∈ o.tags, r.1 ≠ n) : (v.writeRest x o).vreg n = v.vreg n := by
    rw [hu]
    exact nth_foldl_set hn _
  have hpred (n : Nat) : (v.writeRest x o).pred n = ({ v with preds := ps } : Task).pred n := by rw [hu]; rfl
  refine ⟨fun n hr ht => ?_, fun hd ht r hr h124 hlt l hl => ?_, fun p hn => ?_, fun hd r hr h31 hlt l => ?_, fun j r hn => ?_,
    fun j => ?_, ?_, fun op w fl => ?_⟩
  · rw [hreg n ht]
    exact others n fun r h => hr r (List.mem_of_mem_filter h)
  · rw [hreg _ (by simp [ht])]
    exact lanes (hd.sublist (List.filter_sublist.map _)) r (List.mem_filter.2 ⟨hr, decide_eq_true h124⟩) hlt l hl
  · rw [hpred]
    exact pothers p hn
  · rw [hpred]
    exact planes hd r hr h31 hlt l
  · rw [hst]
    by_cases hj : j = .v
    · rw [if_pos hj, hj, StreamSt.setRegs_reg (hn hj)]
    · rw [if_neg hj]
  · rw [hst]
    by_cases hj : j = .v
    · rw [if_pos hj, hj]
      exact StreamSt.setRegs_frame _ _
    · rw [if_neg hj]
      exact ⟨rfl, rfl, rfl⟩
  · rw [hu]
  · have huid : (v.writeRest x o).uid = t.uid := by rw [hu]
    exact s.afterWide_frame huid at_ op w fl

end Sys2Proof.Machine

namespace Sys2Proof.Machine

/-! ### The common lane-by-lane form (R36, R172, R174) -/

/-- What the row of an op9 does, where one has it. -/
def wideFn (op : Nat) : Option VFn := (wideRows.find? fun q => q.2.1 == op).map (·.2.2)

/-- Only the two VMOVS share an op9. -/
theorem wideFn_of_mem : ∀ q ∈ wideRows, q.2.1 ≠ 0x12B → wideFn q.2.1 = some q.2.2 := by
  simp only [wideRows, List.forall_mem_append, List.forall_mem_cons, List.not_mem_nil, false_implies, implies_true,
    and_true, true_and, ne_eq, Nat.reduceEqDiff, not_false_eq_true, not_true_eq_false, forall_const]
  and_intros <;> rfl

theorem orAll_eq_zero {l : List FFlags} (h : ∀ f ∈ l, f = 0) : orAll l = 0 := by
  unfold orAll
  induction l with
  | nil => rfl
  | cons f l ih =>
    rw [List.foldl_cons, h f List.mem_cons_self]
    exact ih fun g hg => h g (List.mem_cons_of_mem _ hg)

theorem VReg.isSome_same (v : VReg) : v.same.isSome = decide (v.tag ≤ 1) := by cases v <;> rfl

theorem VReg.lane_of_tag_le {v : VReg} (h : v.tag ≤ 1) (l : Nat) : v.lane l = v.lane 0 := by
  cases v with
  | undef => rfl
  | uniform c => rfl
  | affine b st => exact absurd h (Nat.not_succ_le_self 1)
  | general r ls => exact absurd h (Nat.not_le.2 (by decide : 1 < 3))

/-- A lane of an operand as a double word. -/
def Opd.pairAt (o : Opd) (l : Nat) : Dword := o.hi.lane l ++ o.lo.lane l

theorem Opd.toNat_pairAt (o : Opd) (l : Nat) : (o.pairAt l).toNat = o.at l := by
  refine (Dword.toNat_mk _ _).trans ?_
  rw [Opd.at, Nat.mul_comm (2 ^ 32)]

theorem Opd.at_of_hi {o : Opd} (h : o.hi = .undef) (l : Nat) : o.at l = (o.lo.lane l).toNat := by
  have h0 : VReg.undef.lane l = 0#32 := rfl
  rw [Opd.at, h, h0, BitVec.toNat_zero, Nat.zero_mul, Nat.add_zero]

theorem Opd.isSame_eq (o : Opd) : o.isSame = decide (o.lo.tag ≤ 1 ∧ o.hi.tag ≤ 1) := by
  rw [Opd.isSame, VReg.isSome_same, VReg.isSome_same, Bool.decide_and]

theorem Opd.at_of_isSame {o : Opd} (h : o.isSame = true) (l : Nat) : o.at l = o.at 0 := by
  rw [Opd.isSame_eq, decide_eq_true_eq] at h
  rw [Opd.at, Opd.at, VReg.lane_of_tag_le h.1, VReg.lane_of_tag_le h.2]

/-- The operands of a word are UNIFORM, all of them. -/
def VIn.flat (x : VIn) (op : Nat) : Bool := (x.a op).isSame && (x.b op).isSame && (x.c op).isSame

/-- The result of a lane. -/
def VIn.laneRes (x : VIn) (op : Nat) (f : LaneFn) (l : Nat) : FRes := f x ((x.a op).at l) ((x.b op).at l) ((x.c op).at l) l

/-- One result for every lane, in the destination that the word's field names. -/
def VIn.flatOut (x : VIn) (op : Nat) (r : FRes) : VOut :=
  let fl := List.replicate 96 r.flags
  if (vfields op x.w).d == .pred then { preds := [(x.w.d.toNat, if r.bits = 1 then BitVec.allOnes 96 else 0)], flags := fl }
  else { regs := outRegs (vfields op x.w).d x.w.d.toNat true [r.bits], flags := fl }

/-- The results of 96 lanes, in the destination that the word's field names. -/
def VIn.lanesOut (x : VIn) (op : Nat) (rs : List FRes) : VOut :=
  let fl := rs.map (·.flags)
  let vs := rs.map (·.bits)
  if (vfields op x.w).d == .pred then { preds := [(x.w.d.toNat, maskOf (vs.map (· == 1)))], flags := fl }
  else { regs := outRegs (vfields op x.w).d x.w.d.toNat false vs, flags := fl }

section
variable {op : Nat} {f : LaneFn} {line : VIn → VReg → VReg → VReg → Option (Word × Word)} {x : VIn}

/-- Below the conversions no result is rounded stochastically by lane. -/
theorem srLanes_eq_false (hop : op < 0x100) : (x.w.rm == 5 && decide (0x100 ≤ op && op ≤ 0x106)) = false := by
  simp [Nat.not_le.2 hop]

theorem stdFn_flat (hop : op < 0x100) (h : x.flat op = true) : stdFn op f line x = x.flatOut op (x.laneRes op f 0) := by
  have hs : ((x.a op).isSame && (x.b op).isSame && (x.c op).isSame) = true := h
  unfold stdFn
  simp only [srLanes_eq_false hop, hs, Bool.not_false, Bool.and_self, if_true]
  rfl

theorem stdFn_line (h : x.flat op = false) {p : Word × Word} (hl : line x (x.a op).lo (x.b op).lo (x.c op).lo = some p) :
    stdFn op f line x = { regs := [(x.w.d.toNat, .affine p.1 p.2)] } := by
  have hs : ((x.a op).isSame && (x.b op).isSame && (x.c op).isSame) = false := h
  unfold stdFn
  simp only [hs, hl, Bool.false_and, Bool.false_eq_true, if_false]

theorem stdFn_lanes (h : x.flat op = false) (hl : line x (x.a op).lo (x.b op).lo (x.c op).lo = none) :
    stdFn op f line x = x.lanesOut op ((upto 96).map (x.laneRes op f)) := by
  have hs : ((x.a op).isSame && (x.b op).isSame && (x.c op).isSame) = false := h
  unfold stdFn
  simp only [hs, hl, Bool.false_and, Bool.false_eq_true, if_false]
  rfl
end

/-! ### One register, one predicate, or a pair -/

/-- The output of a word that leaves one destination register with the tag `tag` and the lanes `g`, and no flag. -/
def VOut.IsReg (o : VOut) (d tag : Nat) (g : Nat → Word) : Prop :=
  orAll o.flags = 0 ∧ o.preds = [] ∧ ∃ v : VReg, o.regs = [(d, v)] ∧ v.tag = tag ∧ ∀ l, l < 96 → v.lane l = g l

/-- The output of a word that leaves one predicate with the lanes `g`, and no flag. -/
def VOut.IsPred (o : VOut) (d : Nat) (g : Nat → Bool) : Prop :=
  orAll o.flags = 0 ∧ o.regs = [] ∧ ∃ m : Mask, o.preds = [(d, m)] ∧ ∀ l, l < 96 → m.getLsbD l = g l

/-- The output of a word that leaves a pair of registers with the tag `tag` and the lanes `g`, and no flag. -/
def VOut.IsPair (o : VOut) (d tag : Nat) (g : Nat → Dword) : Prop :=
  orAll o.flags = 0 ∧ o.preds = [] ∧ ∃ v u : VReg, o.regs = [(d, v), (d + 1, u)] ∧ v.tag = u.tag ∧ v.tag = tag ∧
    ∀ l, l < 96 → u.lane l ++ v.lane l = g l

theorem ofNat_append_halves (n : Nat) : BitVec.ofNat 32 (n / 2 ^ 32) ++ BitVec.ofNat 32 n = BitVec.ofNat 64 n := by
  have h := Dword.toNat_mk (BitVec.ofNat 32 n) (BitVec.ofNat 32 (n / 2 ^ 32))
  refine BitVec.eq_of_toNat_eq (h.trans ?_)
  simp only [BitVec.toNat_ofNat]
  omega

/-- A list of truth values as a mask. -/
theorem getLsbD_maskOf (l : List Bool) (i : Nat) (hi : i < 96) : (maskOf l).getLsbD i = nth l i false := by
  have bit : ∀ (l : List Bool) (i : Nat),
      (l.foldr (fun (b : Bool) (n : Nat) => b.toNat + 2 * n) 0).testBit i = nth l i false := by
    intro l
    induction l with
    | nil => intro i; simp [nth]
    | cons b l ih =>
      intro i
      cases i with
      | zero => cases b <;> simp [nth]
      | succ i =>
        rw [List.foldr_cons, Nat.testBit_succ]
        refine (congrArg (Nat.testBit · i) ?_).trans ((ih i).trans (by simp [nth]))
        cases b with
        | true => simp; omega
        | false => simp
  rw [maskOf, BitVec.getLsbD_ofNat, decide_eq_true hi, Bool.true_and, bit]

section
variable {op : Nat} {x : VIn} {f : LaneFn} (hfl : ∀ l, (x.laneRes op f l).flags = 0)
include hfl

theorem VIn.flatOut_flags : orAll (x.flatOut op (x.laneRes op f 0)).flags = 0 := by
  refine orAll_eq_zero fun g hg => ?_
  have hr : (x.flatOut op (x.laneRes op f 0)).flags = List.replicate 96 (x.laneRes op f 0).flags := by
    unfold VIn.flatOut
    split <;> rfl
  rw [hr, hfl] at hg
  exact List.eq_of_mem_replicate hg

theorem VIn.lanesOut_flags : orAll (x.lanesOut op ((upto 96).map (x.laneRes op f))).flags = 0 := by
  refine orAll_eq_zero fun g hg => ?_
  have hr : (x.lanesOut op ((upto 96).map (x.laneRes op f))).flags = ((upto 96).map (x.laneRes op f)).map (·.flags) := by
    unfold VIn.lanesOut
    split <;> rfl
  rw [hr, List.map_map] at hg
  obtain ⟨l, -, rfl⟩ := List.mem_map.1 hg
  exact hfl l

end

section
variable {op : Nat} (hop : op < 0x100) {x : VIn} {f : LaneFn}
include hop

/-- A word with one destination register: UNIFORM where every operand is, AFFINE where its line is one, GENERAL otherwise. -/
theorem stdFn_isReg {line : VIn → VReg → VReg → VReg → Option (Word × Word)} {g : Nat → Word}
    (hd : (vfields op x.w).d = .v) (hf : ∀ l, (x.laneRes op f l).flags = 0 ∧ BitVec.ofNat 32 (x.laneRes op f l).bits = g l)
    (hs : x.flat op = true → ∀ l, g l = g 0)
    (hl : ∀ p, line x (x.a op).lo (x.b op).lo (x.c op).lo = some p → ∀ l, p.1 + BitVec.ofNat 32 l * p.2 = g l) :
    (stdFn op f line x).IsReg x.w.d.toNat
      (if x.flat op then 1 else if (line x (x.a op).lo (x.b op).lo (x.c op).lo).isSome then 2 else 3) g := by
  have hfl (l : Nat) := (hf l).1
  cases h : x.flat op with
  | true =>
    rw [stdFn_flat hop h]
    refine ⟨VIn.flatOut_flags hfl, ?_, .uniform (g 0), ?_, rfl, fun l _ => (hs h l).symm⟩
    · simp [VIn.flatOut, hd]
    · simp [VIn.flatOut, hd, outRegs, (hf 0).2]
  | false =>
    cases e : line x (x.a op).lo (x.b op).lo (x.c op).lo with
    | some p =>
      rw [stdFn_line h e]
      exact ⟨rfl, rfl, _, rfl, rfl, fun l _ => hl p e l⟩
    | none =>
      rw [stdFn_lanes h e]
      refine ⟨VIn.lanesOut_flags hfl, by simp [VIn.lanesOut, hd], .rows ((upto 96).map g), ?_, rfl,
        fun l hl => nth_upto_map g 0 hl⟩
      simp [VIn.lanesOut, hd, outRegs, Function.comp_def, hf]

/-- A word with a pair of destination registers. -/
theorem fpFn_isPair {g : Nat → Dword} (hd : (vfields op x.w).d = .v64)
    (hf : ∀ l, (x.laneRes op f l).flags = 0 ∧ BitVec.ofNat 64 (x.laneRes op f l).bits = g l)
    (hs : x.flat op = true → ∀ l, g l = g 0) :
    (fpFn op f x).IsPair x.w.d.toNat (if x.flat op then 1 else 3) g := by
  have hfl (l : Nat) := (hf l).1
  unfold fpFn
  cases h : x.flat op with
  | true =>
    rw [stdFn_flat hop h]
    refine ⟨VIn.flatOut_flags hfl, by simp [VIn.flatOut, hd], .uniform (BitVec.ofNat 32 (x.laneRes op f 0).bits),
      .uniform (BitVec.ofNat 32 ((x.laneRes op f 0).bits / 2 ^ 32)), by simp [VIn.flatOut, hd, outRegs], rfl, rfl,
      fun l _ => ?_⟩
    rw [hs h l, ← (hf 0).2]
    exact ofNat_append_halves _
  | false =>
    rw [stdFn_lanes h rfl]
    refine ⟨VIn.lanesOut_flags hfl, by simp [VIn.lanesOut, hd],
      .rows ((upto 96).map fun l => BitVec.ofNat 32 (x.laneRes op f l).bits),
      .rows ((upto 96).map fun l => BitVec.ofNat 32 ((x.laneRes op f l).bits / 2 ^ 32)), ?_, rfl, rfl, fun l hl => ?_⟩
    · simp [VIn.lanesOut, hd, outRegs, Function.comp_def]
    · rw [← (hf l).2, ← ofNat_append_halves]
      exact congrArg₂ (fun a b : Word => a ++ b) (nth_upto_map _ 0 hl) (nth_upto_map _ 0 hl)

/-- A compare. -/
theorem fpFn_isPred {g : Nat → Bool} (hd : (vfields op x.w).d = .pred) (hf : ∀ l, x.laneRes op f l = plain (g l).toNat)
    (hs : x.flat op = true → ∀ l, g l = g 0) : (fpFn op f x).IsPred x.w.d.toNat g := by
  have hfl (l : Nat) : (x.laneRes op f l).flags = 0 := by rw [hf]; rfl
  unfold fpFn
  cases h : x.flat op with
  | true =>
    rw [stdFn_flat hop h]
    refine ⟨VIn.flatOut_flags hfl, by simp [VIn.flatOut, hd], _, by simp [VIn.flatOut, hd]; rfl, fun l hl => ?_⟩
    rw [hs h l, hf]
    cases g 0 with
    | true => exact (BitVec.getLsbD_allOnes).trans (decide_eq_true hl)
    | false => exact BitVec.getLsbD_zero
  | false =>
    rw [stdFn_lanes h rfl]
    refine ⟨VIn.lanesOut_flags hfl, by simp [VIn.lanesOut, hd], maskOf ((upto 96).map g), ?_, fun l hl => ?_⟩
    · have hb (l : Nat) : ((x.laneRes op f l).bits == 1) = g l := by rw [hf]; cases g l <;> rfl
      simp [VIn.lanesOut, hd, Function.comp_def, hb]
    · rw [getLsbD_maskOf _ _ hl, nth_upto_map g false hl]

end

end Sys2Proof.Machine

namespace Sys2Proof.Machine

/-! ### Integer lanes as 32-bit words (R185 to R188) -/

/-- What a lane function does to lanes that are words: no flag, and the word `g` of them. -/
def LaneIs (f : LaneFn) (x : VIn) (g : Word → Word → Word → Word) : Prop :=
  ∀ (a b c : Word) (l : Nat), (f x a.toNat b.toNat c.toNat l).flags = 0 ∧
    BitVec.ofNat 32 (f x a.toNat b.toNat c.toNat l).bits = g a b c

theorem ofNat_mod_word (n : Nat) : BitVec.ofNat 32 (n % 2 ^ 32) = BitVec.ofNat 32 n :=
  BitVec.eq_of_toNat_eq (by simp)

theorem ofNat_wrap (v : Int) : BitVec.ofNat 32 (wrap v).bits = BitVec.ofInt 32 v :=
  BitVec.eq_of_toNat_eq (by rw [BitVec.toNat_ofInt]; simp [wrap, plain]; omega)

theorem sgnOf_toNat (a : Word) : sgnOf 32 a.toNat = a.toInt := by rw [sgnOf, BitVec.ofNat_toNat, BitVec.setWidth_eq]

theorem int_eq (x : VIn) (a : Word) : x.int a.toNat = if x.x0 then (a.toNat : Int) else a.toInt := by
  rw [VIn.int, sgnOf_toNat]

theorem ofInt_toNat (a : Word) : BitVec.ofInt 32 (a.toNat : Int) = a := by simp

section
variable (x : VIn)

theorem laneIadd_is : LaneIs laneIadd x fun a b _ => a + b := fun _ _ _ _ =>
  ⟨rfl, (ofNat_mod_word _).trans (by rw [BitVec.ofNat_add]; simp)⟩
theorem laneIsub_is : LaneIs laneIsub x fun a b _ => a - b := fun _ _ _ _ =>
  ⟨rfl, (ofNat_wrap _).trans (by
    rw [Int.sub_eq_add_neg, BitVec.ofInt_add, BitVec.ofInt_neg, ofInt_toNat, ofInt_toNat]
    exact (sub_eq_add_neg _ _).symm)⟩
theorem laneImul_is : LaneIs laneImul x fun a b _ => a * b := fun _ _ _ _ =>
  ⟨rfl, (ofNat_mod_word _).trans (by rw [BitVec.ofNat_mul]; simp)⟩
theorem laneImad_is : LaneIs laneImad x fun a b c => a * b + c := fun _ _ _ _ =>
  ⟨rfl, (ofNat_mod_word _).trans (by rw [BitVec.ofNat_add, BitVec.ofNat_mul]; simp)⟩
theorem laneImulh_is : LaneIs laneImulh x fun a b _ => if x.x0 then BitVec.ofNat 32 (a.toNat * b.toNat / 2 ^ 32)
    else BitVec.ofInt 32 (a.toInt * b.toInt / 2 ^ 32) := fun _ _ _ _ => by
  refine ⟨rfl, (ofNat_wrap _).trans ?_⟩
  rw [int_eq, int_eq]
  cases x.x0 with
  | true => exact BitVec.ofInt_natCast ..
  | false => rfl
theorem int_le_iff (a b : Word) :
    x.int a.toNat ≤ x.int b.toNat ↔ if x.x0 then a.toNat ≤ b.toNat else a.toInt ≤ b.toInt := by
  rw [int_eq, int_eq]
  cases x.x0 with
  | true => exact Int.ofNat_le
  | false => exact Iff.rfl
theorem ofNat_ite {p q : Prop} [Decidable p] [Decidable q] (h : p ↔ q) (a b : Word) :
    BitVec.ofNat 32 (if p then a.toNat else b.toNat) = if q then a else b := by
  simp only [if_congr h rfl rfl, apply_ite (BitVec.ofNat 32), BitVec.ofNat_toNat, BitVec.setWidth_eq]
theorem laneImin_is : LaneIs laneImin x fun a b _ =>
    if (if x.x0 then a.toNat ≤ b.toNat else a.toInt ≤ b.toInt) then a else b :=
  fun _ _ _ _ => ⟨rfl, ofNat_ite (int_le_iff x _ _) _ _⟩
theorem laneImax_is : LaneIs laneImax x fun a b _ =>
    if (if x.x0 then a.toNat ≤ b.toNat else a.toInt ≤ b.toInt) then b else a :=
  fun _ _ _ _ => ⟨rfl, ofNat_ite (int_le_iff x _ _) _ _⟩
theorem laneIabs_is : LaneIs laneIabs x fun a _ _ => BitVec.ofNat 32 a.toInt.natAbs := fun _ _ _ _ =>
  ⟨rfl, (ofNat_mod_word _).trans (by rw [sgnOf_toNat])⟩
theorem laneIshl_is : LaneIs laneIshl x fun a b _ => BitVec.ofNat 32 (a.toNat * 2 ^ (b.toNat % 32)) := fun _ _ _ _ =>
  ⟨rfl, ofNat_mod_word _⟩
theorem laneIshr_is : LaneIs laneIshr x fun a b _ => BitVec.ofNat 32 (a.toNat / 2 ^ (b.toNat % 32)) :=
  fun _ _ _ _ => ⟨rfl, rfl⟩
theorem laneIsra_is : LaneIs laneIsra x fun a b _ => BitVec.ofInt 32 (a.toInt / 2 ^ (b.toNat % 32)) := fun _ _ _ _ =>
  ⟨rfl, (ofNat_wrap _).trans (by rw [sgnOf_toNat])⟩
theorem laneIsum3_is : LaneIs laneIsum3 x fun a b c => a + (if x.x0 then -b else b) + (if x.x1 then -c else c) :=
  fun _ _ _ _ => by
  have neg (p : Bool) (v : Word) : BitVec.ofInt 32 (if p then -(v.toNat : Int) else v.toNat) = if p then -v else v := by
    cases p with
    | true => exact (BitVec.ofInt_neg ..).trans (congrArg _ (ofInt_toNat v))
    | false => exact ofInt_toNat v
  refine ⟨rfl, (ofNat_wrap _).trans ?_⟩
  rw [BitVec.ofInt_add, BitVec.ofInt_add, neg, neg, ofInt_toNat]

/-! ### Bits of a lane -/

theorem foldl_add_eq_sum (l : List Nat) : l.foldl (· + ·) 0 = l.sum := List.sum_eq_foldl.symm

theorem bit_eq (a : Word) (k : Nat) : a.toNat / 2 ^ k % 2 = (a.getLsbD k).toNat := by
  rw [BitVec.getLsbD, Nat.testBit_eq_decide_div_mod_eq]
  obtain h | h := Nat.mod_two_eq_zero_or_one (a.toNat / 2 ^ k) <;> simp [h]

/-- A number given by its bits has those bits. -/
theorem testBit_sum_bits (bit : Nat → Bool) (n : Nat) :
    ((List.range n).map fun k => if bit k then 2 ^ k else 0).sum < 2 ^ n ∧
    ∀ k, ((List.range n).map fun k => if bit k then 2 ^ k else 0).sum.testBit k = (decide (k < n) && bit k) := by
  induction n with
  | zero => simp
  | succ n ih =>
    obtain ⟨hlt, hbit⟩ := ih
    rw [List.range_succ, List.map_append, List.sum_append, List.map_singleton, List.sum_singleton]
    generalize ((List.range n).map fun k => if bit k then 2 ^ k else 0).sum = m at hlt hbit
    cases hn : bit n with
    | false =>
      refine ⟨by simp; omega, fun k => ?_⟩
      rw [if_neg Bool.false_ne_true, Nat.add_zero, hbit]
      by_cases hk : k = n
      · simp [hk, hn]
      · rw [decide_eq_decide.2 (by omega : k < n ↔ k < n + 1)]
    | true =>
      refine ⟨by simp; omega, fun k => ?_⟩
      rw [if_pos rfl, Nat.add_comm]
      obtain hk | rfl | hk := Nat.lt_trichotomy k n
      · rw [Nat.testBit_two_pow_add_gt hk, hbit, decide_eq_true hk, decide_eq_true (by omega : k < n + 1)]
      · rw [Nat.testBit_two_pow_add_eq, hbit]
        simp [hn]
      · have h2 : 2 ^ n + m < 2 ^ k := by
          have := Nat.pow_le_pow_right (by decide : 0 < 2) (by omega : n + 1 ≤ k)
          omega
        rw [Nat.testBit_lt_two_pow h2, decide_eq_false (by omega : ¬ k < n + 1), Bool.false_and]

theorem getLsbD_wordOf (bit : Nat → Bool) {k : Nat} (hk : k < 32) : (wordOf bit).getLsbD k = bit k := by
  rw [wordOf, BitVec.getLsbD_ofNat, (testBit_sum_bits bit 32).2 k, decide_eq_true hk, Bool.true_and, Bool.true_and]

/-- A word by its bits. -/
theorem eq_wordOf {v : Word} {bit : Nat → Bool} (h : ∀ k, k < 32 → v.getLsbD k = bit k) : v = wordOf bit :=
  BitVec.eq_of_getLsbD_eq fun k hk => (h k hk).trans (getLsbD_wordOf bit hk).symm

theorem laneVpopc_is : LaneIs laneVpopc x fun a _ _ => BitVec.ofNat 32 ((List.range 32).filter fun i => a.getLsbD i).length :=
  fun a _ _ _ => by
  refine ⟨rfl, congrArg (BitVec.ofNat 32) ((foldl_add_eq_sum _).trans ?_)⟩
  have count (l : List Nat) : (l.map fun k => a.toNat / 2 ^ k % 2).sum = (l.filter fun k => a.getLsbD k).length := by
    induction l with
    | nil => rfl
    | cons k l ih => rw [List.map_cons, List.sum_cons, ih, bit_eq, List.filter_cons]; cases a.getLsbD k <;> simp [Nat.add_comm]
  rw [upto_eq_range, count]

theorem laneBrev_is : LaneIs laneBrev x fun a _ _ => a.reverse := fun a _ _ _ => by
  refine ⟨rfl, ?_⟩
  have rev : (List.range 32).map (fun k => a.toNat / 2 ^ k % 2 * 2 ^ (31 - k)) =
      ((List.range 32).map fun k => if a.getLsbD (31 - k) then 2 ^ k else 0).reverse := by
    rw [← List.map_reverse]
    have hr : (List.range 32).reverse = (List.range 32).map (31 - ·) := by decide
    rw [hr, List.map_map]
    refine List.map_congr_left fun k hk => ?_
    have hk := List.mem_range.1 hk
    rw [bit_eq, Function.comp_apply, Nat.sub_sub_self (by omega)]
    cases a.getLsbD k <;> simp
  have e : BitVec.ofNat 32 (laneBrev x a.toNat 0 0 0).bits = wordOf fun k => a.getLsbD (31 - k) := by
    refine congrArg (BitVec.ofNat 32) ((foldl_add_eq_sum _).trans ?_)
    rw [upto_eq_range, rev, List.sum_reverse]
  refine e.trans (Eq.symm (eq_wordOf fun k hk => ?_))
  rw [BitVec.getLsbD_reverse, BitVec.getMsbD]
  simp [hk]

theorem toNat_mul_eq (p : Bool) (n : Nat) : p.toNat * n = if p then n else 0 := by
  cases p with
  | true => exact Nat.one_mul n
  | false => exact Nat.zero_mul n

theorem laneVlut_is : LaneIs laneVlut x fun a b c => wordOf fun k =>
    x.w.imm.getLsbD ((a.getLsbD k).toNat + 2 * (b.getLsbD k).toNat + 4 * (c.getLsbD k).toNat) != x.x0 := fun a b c _ => by
  refine ⟨rfl, congrArg (BitVec.ofNat 32) ((foldl_add_eq_sum _).trans ?_)⟩
  rw [upto_eq_range]
  refine congrArg List.sum (List.map_congr_left fun k _ => ?_)
  simp only [bit_eq, tblBit]
  exact toNat_mul_eq _ _

/-- The number of zeros above the highest bit. -/
theorem find_highest_bit {a : Word} (h : a.toNat ≠ 0) :
    (List.range 32).find? (fun i => a.getLsbD (31 - i)) = some (31 - a.toNat.log2) := by
  have hlog : a.toNat.log2 < 32 := (Nat.log2_lt h).2 a.isLt
  rw [List.find?_range_eq_some]
  refine ⟨?_, List.mem_range.2 (by omega), fun j hj => ?_⟩
  · rw [Nat.sub_sub_self (by omega), BitVec.getLsbD]
    exact Nat.testBit_log2 h
  · rw [BitVec.getLsbD, Nat.testBit_lt_two_pow]
    · rfl
    · exact (Nat.log2_lt h).1 (by omega)

theorem laneVclz_is : LaneIs laneVclz x fun a _ _ =>
    BitVec.ofNat 32 (((List.range 32).find? fun i => a.getLsbD (31 - i)).getD 32) := fun a _ _ _ => by
  refine ⟨rfl, congrArg (BitVec.ofNat 32) ?_⟩
  by_cases h : a.toNat = 0
  · obtain rfl : a = 0 := BitVec.eq_of_toNat_eq h
    rfl
  · rw [find_highest_bit h]
    exact if_neg h


/-! ### Bit fields (R188) -/

theorem bitField_eq (imm : Word) : bitField imm = fieldAt imm := rfl

/-- A field ends at bit 31 or below. -/
theorem fieldAt_le (imm : Word) : (fieldAt imm).1 + (fieldAt imm).2 ≤ 32 := by
  simp only [fieldAt]
  omega

theorem testBit_field (a : Word) (s w k : Nat) :
    (a.toNat / 2 ^ s % 2 ^ w).testBit k = (decide (k < w) && a.getLsbD (s + k)) := by
  rw [Nat.testBit_mod_two_pow, Nat.testBit_div_two_pow, BitVec.getLsbD, Nat.add_comm]

theorem laneBfx_is : LaneIs laneBfx x fun a _ _ => wordOf fun k =>
    let s := (fieldAt x.w.imm).1
    let w := (fieldAt x.w.imm).2
    if k < w then a.getLsbD (s + k) else !x.x0 && decide (0 < w) && a.getLsbD (s + w - 1) := fun a _ _ _ => by
  obtain ⟨s, w, e⟩ : ∃ s w, fieldAt x.w.imm = (s, w) := ⟨_, _, rfl⟩
  have hle := fieldAt_le x.w.imm
  simp only [laneBfx, bitField_eq, e] at hle ⊢
  by_cases h0 : w = 0
  · rw [if_pos h0]
    refine ⟨rfl, eq_wordOf fun k hk => ?_⟩
    simp [plain, h0]
  · rw [if_neg h0]
    cases hx : x.x0 with
    | true =>
      refine ⟨rfl, eq_wordOf fun k hk => ?_⟩
      simp only [if_true, plain]
      rw [BitVec.getLsbD_ofNat, testBit_field, decide_eq_true hk]
      by_cases hkw : k < w <;> simp [hkw]
    | false =>
      refine ⟨rfl, (ofNat_wrap _).trans (eq_wordOf fun k hk => ?_)⟩
      have bit (i : Nat) (hi : i < w) :
          (BitVec.ofNat w (a.toNat / 2 ^ s % 2 ^ w)).getLsbD i = a.getLsbD (s + i) := by
        rw [BitVec.getLsbD_ofNat, testBit_field, decide_eq_true hi, Bool.true_and, Bool.true_and]
      refine (BitVec.getLsbD_signExtend (BitVec.ofNat w (a.toNat / 2 ^ s % 2 ^ w))).trans ?_
      rw [decide_eq_true hk, Bool.true_and, BitVec.msb_eq_getLsbD_last]
      by_cases hkw : k < w
      · rw [if_pos hkw, if_pos hkw, bit k hkw]
      · rw [if_neg hkw, if_neg hkw, bit (w - 1) (by omega), decide_eq_true (by omega : 0 < w), Bool.not_false, Bool.true_and,
          Bool.true_and, Nat.add_sub_assoc (by omega)]

theorem laneBfi_is : LaneIs laneBfi x fun a b _ => wordOf fun k =>
    let s := (fieldAt x.w.imm).1
    let w := (fieldAt x.w.imm).2
    if s ≤ k ∧ k < s + w then a.getLsbD (k - s) else b.getLsbD k := fun a b _ _ => by
  obtain ⟨s, w, e⟩ : ∃ s w, fieldAt x.w.imm = (s, w) := ⟨_, _, rfl⟩
  have hle := fieldAt_le x.w.imm
  simp only [laneBfi, bitField_eq, e] at hle ⊢
  refine ⟨rfl, eq_wordOf fun k hk => ?_⟩
  have hm : ((2 ^ w - 1) * 2 ^ s).testBit k = decide (s ≤ k ∧ k < s + w) := by
    rw [Nat.testBit_mul_two_pow, Nat.testBit_two_pow_sub_one, ← Bool.decide_and]
    exact decide_eq_decide.2 (by omega)
  have hlt : (2 ^ w - 1) * 2 ^ s < 2 ^ 32 := by
    have h1 : (2 ^ w - 1) * 2 ^ s < 2 ^ w * 2 ^ s :=
      Nat.mul_lt_mul_of_pos_right (Nat.sub_lt (Nat.two_pow_pos w) (by decide)) (Nat.two_pow_pos s)
    rw [← Nat.pow_add] at h1
    exact h1.trans_le (Nat.pow_le_pow_right (by decide) (by omega))
  simp only [plain]
  rw [BitVec.getLsbD_ofNat, decide_eq_true hk, Bool.true_and, Nat.testBit_or, Nat.testBit_and, Nat.testBit_and, Nat.sub_sub,
    Nat.add_comm 1, Nat.testBit_two_pow_sub_succ hlt, hm, Nat.testBit_mul_two_pow, decide_eq_true hk]
  by_cases h : s ≤ k ∧ k < s + w
  · simp [h, BitVec.getLsbD]
  · simp only [decide_eq_false h, if_neg h]
    simp [BitVec.getLsbD]

end
end Sys2Proof.Machine

namespace Sys2Proof.Machine

/-! ### Integer words on 32-bit operands -/

theorem bKind_v_ne (w : VW) : bKind w .v ≠ .v64 := by
  unfold bKind
  split <;> nofun

/-- An op9 whose operands are single registers. -/
structure WordOp (op : Nat) : Prop where
  lt : op < 0x100
  a : ∀ w, (vfields op w).a ≠ .v64
  b : ∀ w, (vfields op w).b ≠ .v64
  c : ∀ w, (vfields op w).c ≠ .v64
  imm : ¬ (0x040 ≤ op ∧ op < 0x070) ∧ op ≠ 0x0D8

/-- One whose row of the field table names single registers as operands. -/
theorem wordOp_of_vfields {op : Nat} {kd ka kc : FieldKind} {kb : VW → FieldKind} {q : Bool}
    (hv : ∀ w, vfields op w = ⟨kd, ka, kb w, kc, q⟩) (ho : 0x0C0 ≤ op ∧ op < 0x0D8) (ha : ka ≠ .v64)
    (hb : ∀ w, kb w ≠ .v64) (hc : kc ≠ .v64) : WordOp op where
  lt := by omega
  a w := by rw [hv]; exact ha
  b w := by rw [hv]; exact hb w
  c w := by rw [hv]; exact hc
  imm := by omega

theorem VIn.field_hi (x : VIn) {k : FieldKind} (h : k ≠ .v64) (f : BitVec 7) : (x.field k f).hi = .undef := by
  cases k with
  | v64 => exact absurd rfl h
  | _ => rfl

/-- Operand b, as a register or an immediate, is no pair but in a word of 64 bits. -/
theorem VIn.b_hi (x : VIn) {op : Nat} (himm : ¬ (0x040 ≤ op ∧ op < 0x070) ∧ op ≠ 0x0D8)
    (hb : (vfields op x.w).b ≠ .v64) : (x.b op).hi = .undef := by
  unfold VIn.b
  split
  · have h0 : (decide (0x040 ≤ op) && decide (op < 0x070)) = false := by
      simpa using fun h1 => Nat.not_lt.1 fun h2 => himm.1 ⟨h1, h2⟩
    rw [if_neg (Bool.eq_false_iff.1 h0), if_neg himm.2]
  · exact x.field_hi hb _

/-- The tag of a word's result: by its AFFINE rows, `line`, where not every operand is UNIFORM (R36). -/
def lineTag (line : Option (Word × Word)) (a b c : VReg) : Nat :=
  if a.tag ≤ 1 ∧ b.tag ≤ 1 ∧ c.tag ≤ 1 then 1 else if line.isSome then 2 else 3

section
variable {op : Nat} (h : WordOp op) (x : VIn)
include h

theorem WordOp.hi : (x.a op).hi = .undef ∧ (x.b op).hi = .undef ∧ (x.c op).hi = .undef :=
  ⟨x.field_hi (h.a _) _, x.b_hi h.imm (h.b _), x.field_hi (h.c _) _⟩

theorem WordOp.flat : x.flat op = decide ((x.a op).lo.tag ≤ 1 ∧ (x.b op).lo.tag ≤ 1 ∧ (x.c op).lo.tag ≤ 1) := by
  obtain ⟨ha, hb, hc⟩ := h.hi x
  have h0 : VReg.undef.tag ≤ 1 := by decide
  simp only [VIn.flat, Opd.isSame_eq, ha, hb, hc, h0, and_true, ← Bool.decide_and, and_assoc]

theorem WordOp.laneRes (f : LaneFn) (l : Nat) : x.laneRes op f l =
    f x ((x.a op).lo.lane l).toNat ((x.b op).lo.lane l).toNat ((x.c op).lo.lane l).toNat l := by
  obtain ⟨ha, hb, hc⟩ := h.hi x
  rw [VIn.laneRes, Opd.at_of_hi ha, Opd.at_of_hi hb, Opd.at_of_hi hc]

/-- An integer word on single registers. -/
theorem WordOp.isReg {f : LaneFn} {line : VIn → VReg → VReg → VReg → Option (Word × Word)}
    {g : Word → Word → Word → Word} (hd : ∀ w, (vfields op w).d = .v) (hf : LaneIs f x g)
    (hl : ∀ a b c p, line x a b c = some p → ∀ l, p.1 + BitVec.ofNat 32 l * p.2 = g (a.lane l) (b.lane l) (c.lane l)) :
    (stdFn op f line x).IsReg x.w.d.toNat
      (lineTag (line x (x.a op).lo (x.b op).lo (x.c op).lo) (x.a op).lo (x.b op).lo (x.c op).lo)
      (fun l => g ((x.a op).lo.lane l) ((x.b op).lo.lane l) ((x.c op).lo.lane l)) := by
  have e := stdFn_isReg h.lt (x := x) (f := f) (line := line)
    (g := fun l => g ((x.a op).lo.lane l) ((x.b op).lo.lane l) ((x.c op).lo.lane l)) (hd _) (fun l => ?_) (fun hs l => ?_)
    (fun p hp => hl _ _ _ p hp)
  · simp only [h.flat, decide_eq_true_eq] at e
    exact e
  · rw [h.laneRes]
    exact hf _ _ _ l
  · rw [h.flat, decide_eq_true_eq] at hs
    obtain ⟨ha, hb, hc⟩ := hs
    simp only [VReg.lane_of_tag_le ha l, VReg.lane_of_tag_le hb l, VReg.lane_of_tag_le hc l]

/-- One without AFFINE rows. -/
theorem WordOp.isReg_noLine {f : LaneFn} {g : Word → Word → Word → Word} (hd : ∀ w, (vfields op w).d = .v)
    (hf : LaneIs f x g) :
    (fpFn op f x).IsReg x.w.d.toNat
      (if (x.a op).lo.tag ≤ 1 ∧ (x.b op).lo.tag ≤ 1 ∧ (x.c op).lo.tag ≤ 1 then 1 else 3)
      (fun l => g ((x.a op).lo.lane l) ((x.b op).lo.lane l) ((x.c op).lo.lane l)) :=
  h.isReg x hd hf nofun

end

/-! ### The AFFINE rows (R36) -/

theorem VReg.lane_of_line {v : VReg} {b s : Word} (h : v.line = some (b, s)) (l : Nat) :
    v.lane l = b + BitVec.ofNat 32 l * s := by
  cases v with
  | undef => cases h; exact (by simp : (0 : Word) = 0 + BitVec.ofNat 32 l * 0)
  | uniform => cases h; exact (by simp : b = b + BitVec.ofNat 32 l * 0)
  | affine => cases h; rfl
  | general => cases h

theorem VReg.lane_of_same {v : VReg} {c : Word} (h : v.same = some c) (l : Nat) : v.lane l = c := by
  cases v with
  | undef => cases h; rfl
  | uniform => cases h; rfl
  | affine => cases h
  | general => cases h

section
variable {x : VIn} {a b c : VReg} {p : Word × Word}

theorem lineSum_lane {neg : Bool} (h : lineSum neg x a b c = some p) (l : Nat) :
    p.1 + BitVec.ofNat 32 l * p.2 = if neg then a.lane l - b.lane l else a.lane l + b.lane l := by
  simp only [lineSum, bind, Option.bind_eq_some_iff, Prod.exists] at h
  obtain ⟨ab, as, ha, bb, bs, hb, h⟩ := h
  rw [VReg.lane_of_line ha, VReg.lane_of_line hb]
  split at h
  next =>
    cases neg with
    | true => cases h; simp only [if_true]; ring
    | false => cases h; simp only [Bool.false_eq_true, if_false]; ring
  next => cases h

theorem lineMul_lane (h : lineMul x a b c = some p) (l : Nat) : p.1 + BitVec.ofNat 32 l * p.2 = a.lane l * b.lane l := by
  unfold lineMul at h
  split at h
  next ab as k hb =>
    cases h
    rw [VReg.lane_of_same hb, VReg.lane]
    ring
  next k bb bs ha _ =>
    cases h
    rw [VReg.lane_of_same ha, VReg.lane]
    ring
  next => cases h

/-- A product with base `pb` and stride `ps`, and an addend. -/
theorem addLine_lane {pb ps y : Word} {q : Bool} {l : Nat} (hy : pb + BitVec.ofNat 32 l * ps = y)
    (h : (c.line.bind fun r => if q then some (pb + r.1, ps + r.2) else none) = some p) :
    p.1 + BitVec.ofNat 32 l * p.2 = y + c.lane l := by
  obtain ⟨⟨cb, cs⟩, hc, h⟩ := Option.bind_eq_some_iff.1 h
  rw [← hy, VReg.lane_of_line hc]
  split at h
  next => cases h; ring
  next => cases h

theorem lineMad_lane (h : lineMad x a b c = some p) (l : Nat) :
    p.1 + BitVec.ofNat 32 l * p.2 = a.lane l * b.lane l + c.lane l := by
  unfold lineMad at h
  dsimp only [bind] at h
  split at h
  next u v ha hb =>
    refine addLine_lane (ps := 0) ?_ h
    rw [VReg.lane_of_same ha, VReg.lane_of_same hb]
    ring
  next =>
    obtain ⟨r, hr, h⟩ := Option.bind_eq_some_iff.1 h
    exact addLine_lane (lineMul_lane hr l) h

theorem ofNat_mul_two_pow (v : Word) (n : Nat) : BitVec.ofNat 32 (v.toNat * 2 ^ n) = v * BitVec.ofNat 32 (2 ^ n) := by
  rw [BitVec.ofNat_mul, BitVec.ofNat_toNat, BitVec.setWidth_eq]

theorem shiftLeft_eq_mul (v : Word) (n : Nat) : v <<< n = v * BitVec.ofNat 32 (2 ^ n) :=
  BitVec.eq_of_toNat_eq (by simp [Nat.shiftLeft_eq])

theorem lineShl_lane (h : lineShl x a b c = some p) (l : Nat) :
    p.1 + BitVec.ofNat 32 l * p.2 = BitVec.ofNat 32 ((a.lane l).toNat * 2 ^ ((b.lane l).toNat % 32)) := by
  unfold lineShl at h
  split at h
  next ab as k hb =>
    cases h
    rw [VReg.lane_of_same hb, VReg.lane, ofNat_mul_two_pow, shiftLeft_eq_mul, shiftLeft_eq_mul]
    ring
  next => cases h

theorem lineSum3_lane (h : lineSum3 x a b c = some p) (l : Nat) : p.1 + BitVec.ofNat 32 l * p.2 =
    a.lane l + (if x.x0 then -b.lane l else b.lane l) + (if x.x1 then -c.lane l else c.lane l) := by
  simp only [lineSum3, bind, Option.bind_eq_some_iff, Prod.exists] at h
  obtain ⟨ab, as, ha, bb, bs, hb, cb, cs, hc, h⟩ := h
  rw [VReg.lane_of_line ha, VReg.lane_of_line hb, VReg.lane_of_line hc]
  split at h
  next =>
    cases h
    cases x.x0 <;> cases x.x1 <;> (simp only [if_true, Bool.false_eq_true, if_false]; ring)
  next => cases h

end

/-! ### The tags by table (R36) -/

theorem lineTag_sum (neg : Bool) (x : VIn) (a b : VReg) : lineTag (lineSum neg x a b .undef) a b .undef =
    if 3 ∈ [a.tag, b.tag] then 3 else if 2 ∈ [a.tag, b.tag] then 2 else 1 := by
  cases neg <;> cases a <;> cases b <;> rfl

theorem lineTag_sum3 (x : VIn) (a b c : VReg) : lineTag (lineSum3 x a b c) a b c =
    if 3 ∈ [a.tag, b.tag, c.tag] then 3 else if 2 ∈ [a.tag, b.tag, c.tag] then 2 else 1 := by
  cases a <;> cases b <;> cases c <;> rfl

/-- The tag of IMUL's product. -/
def mulTag (a b : Nat) : Nat := if a ≤ 1 ∧ b ≤ 1 then 1 else if (a = 2 ∧ b ≤ 1) ∨ (a ≤ 1 ∧ b = 2) then 2 else 3

theorem lineTag_mul (x : VIn) (a b : VReg) : lineTag (lineMul x a b .undef) a b .undef = mulTag a.tag b.tag := by
  cases a <;> cases b <;> rfl

theorem lineTag_mad (x : VIn) (a b c : VReg) : lineTag (lineMad x a b c) a b c =
    if 3 ∈ [mulTag a.tag b.tag, c.tag] then 3 else if 2 ∈ [mulTag a.tag b.tag, c.tag] then 2 else 1 := by
  cases a <;> cases b <;> cases c <;> rfl

theorem lineTag_shl (x : VIn) (a b : VReg) : lineTag (lineShl x a b .undef) a b .undef =
    if a.tag ≤ 1 ∧ b.tag ≤ 1 then 1 else if a.tag = 2 ∧ b.tag ≤ 1 then 2 else 3 := by
  cases a <;> cases b <;> rfl

/-! ### The rows of the integer words -/

/-- A row of `intLanes` or `bitLanes` says what its op9 leaves. -/
def RowIs (x : VIn) (r : Nat × (Bool → Bool → Word → Word → Word → Word) × (Nat → Nat → Nat → Nat)) : Prop :=
  r.1 < 0x100 ∧ ∃ F, wideFn r.1 = some F ∧
    (F x).IsReg x.w.d.toNat (r.2.2 (x.a r.1).lo.tag (x.b r.1).lo.tag (x.c r.1).lo.tag)
      (fun l => r.2.1 x.x0 x.x1 ((x.a r.1).lo.lane l) ((x.b r.1).lo.lane l) ((x.c r.1).lo.lane l))

section
variable {op : Nat} {x : VIn} {f : LaneFn} {G : Bool → Bool → Word → Word → Word → Word} (h : WordOp op)
  (hd : ∀ w, (vfields op w).d = .v) (hf : LaneIs f x (G x.x0 x.x1))
include h hd hf

theorem RowIs.of_noLine (hF : wideFn op = some (fpFn op f)) :
    RowIs x (op, G, fun a b c => if a ≤ 1 ∧ b ≤ 1 ∧ c ≤ 1 then 1 else 3) :=
  ⟨h.lt, _, hF, h.isReg_noLine x hd hf⟩

theorem RowIs.of_line {line : VIn → VReg → VReg → VReg → Option (Word × Word)} {T : Nat → Nat → Nat → Nat}
    (hF : wideFn op = some (stdFn op f line))
    (hl : ∀ a b c p, line x a b c = some p → ∀ l,
      p.1 + BitVec.ofNat 32 l * p.2 = G x.x0 x.x1 (a.lane l) (b.lane l) (c.lane l))
    (hT : lineTag (line x (x.a op).lo (x.b op).lo (x.c op).lo) (x.a op).lo (x.b op).lo (x.c op).lo =
      T (x.a op).lo.tag (x.b op).lo.tag (x.c op).lo.tag) : RowIs x (op, G, T) := by
  refine ⟨h.lt, _, hF, ?_⟩
  dsimp only
  rw [← hT]
  exact h.isReg x hd hf hl

end

/-- Words of one operand, of two and of three. -/
theorem wordOp_one {op : Nat} (hv : ∀ w, vfields op w = ⟨.v, .v, .unused, .unused, true⟩)
    (ho : 0x0C0 ≤ op ∧ op < 0x0D8) : WordOp op := wordOp_of_vfields (kb := fun _ => .unused) hv ho nofun nofun nofun
theorem wordOp_two {op : Nat} (hv : ∀ w, vfields op w = ⟨.v, .v, bKind w .v, .unused, true⟩)
    (ho : 0x0C0 ≤ op ∧ op < 0x0D8) : WordOp op := wordOp_of_vfields hv ho nofun bKind_v_ne nofun
theorem wordOp_three {op : Nat} (hv : ∀ w, vfields op w = ⟨.v, .v, bKind w .v, .v, true⟩)
    (ho : 0x0C0 ≤ op ∧ op < 0x0D8) : WordOp op := wordOp_of_vfields hv ho nofun bKind_v_ne nofun

theorem intLanes_rows (x : VIn) : ∀ r ∈ intLanes, RowIs x r := by
  simp only [intLanes, List.forall_mem_cons]
  refine ⟨?_, ?_, ?_, ?_, ?_, ?_, ?_, ?_, ?_, ?_, ?_, ?_, ?_, ?_, nofun⟩
  · exact .of_line (wordOp_two (fun _ => rfl) (by decide)) (fun _ => rfl) (laneIadd_is x) rfl
      (fun _ _ _ _ h l => lineSum_lane (neg := false) h l) (lineTag_sum false x _ _)
  · exact .of_line (wordOp_two (fun _ => rfl) (by decide)) (fun _ => rfl) (laneIsub_is x) rfl
      (fun _ _ _ _ h l => lineSum_lane (neg := true) h l) (lineTag_sum true x _ _)
  · exact .of_line (wordOp_two (fun _ => rfl) (by decide)) (fun _ => rfl) (laneImul_is x) rfl
      (fun _ _ _ _ h => lineMul_lane h) (lineTag_mul x _ _)
  · exact .of_line (wordOp_three (fun _ => rfl) (by decide)) (fun _ => rfl) (laneImad_is x) rfl
      (fun _ _ _ _ h => lineMad_lane h) (lineTag_mad x _ _ _)
  · exact .of_noLine (wordOp_two (fun _ => rfl) (by decide)) (fun _ => rfl) (laneImulh_is x) rfl
  · exact .of_noLine (wordOp_two (fun _ => rfl) (by decide)) (fun _ => rfl) (laneImin_is x) rfl
  · exact .of_noLine (wordOp_two (fun _ => rfl) (by decide)) (fun _ => rfl) (laneImax_is x) rfl
  · exact .of_noLine (wordOp_one (fun _ => rfl) (by decide)) (fun _ => rfl) (laneIabs_is x) rfl
  · exact .of_line (wordOp_two (fun _ => rfl) (by decide)) (fun _ => rfl) (laneIshl_is x) rfl
      (fun _ _ _ _ h => lineShl_lane h) (lineTag_shl x _ _)
  · exact .of_noLine (wordOp_two (fun _ => rfl) (by decide)) (fun _ => rfl) (laneIshr_is x) rfl
  · exact .of_noLine (wordOp_two (fun _ => rfl) (by decide)) (fun _ => rfl) (laneIsra_is x) rfl
  · exact .of_line (wordOp_three (fun _ => rfl) (by decide)) (fun _ => rfl) (laneIsum3_is x) rfl
      (fun _ _ _ _ h => lineSum3_lane h) (lineTag_sum3 x _ _ _)
  · exact .of_noLine (wordOp_one (fun _ => rfl) (by decide)) (fun _ => rfl) (laneVpopc_is x) rfl
  · exact .of_noLine (wordOp_one (fun _ => rfl) (by decide)) (fun _ => rfl) (laneBrev_is x) rfl

theorem bitLanes_rows (x : VIn) : ∀ r ∈ bitLanes x.w.imm, RowIs x r := by
  simp only [bitLanes, List.forall_mem_cons]
  refine ⟨?_, ?_, ?_, ?_, nofun⟩
  · exact .of_noLine (wordOp_of_vfields (kb := fun _ => .v) (fun _ => rfl) (by decide) nofun nofun nofun) (fun _ => rfl)
      (laneVlut_is x) rfl
  · exact .of_noLine (wordOp_one (fun _ => rfl) (by decide)) (fun _ => rfl) (laneVclz_is x) rfl
  · exact .of_noLine (wordOp_one (fun _ => rfl) (by decide)) (fun _ => rfl) (laneBfx_is x) rfl
  · exact .of_noLine (wordOp_of_vfields (kb := fun _ => .v) (fun _ => rfl) (by decide) nofun nofun nofun) (fun _ => rfl)
      (laneBfi_is x) rfl

/-! ### Compares and words of 64 bits (R187, R189) -/

theorem toInt_beq (a b : Word) : (a.toInt == b.toInt) = (a == b) := by
  rw [Bool.eq_iff_iff, beq_iff_eq, beq_iff_eq]
  exact BitVec.toInt_inj

section
variable {op : Nat} {x : VIn} (h : WordOp op)
include h

theorem VIn.lanes_of_flat (hs : x.flat op = true) (l : Nat) : (x.a op).lo.lane l = (x.a op).lo.lane 0 ∧
    (x.b op).lo.lane l = (x.b op).lo.lane 0 := by
  rw [h.flat, decide_eq_true_eq] at hs
  exact ⟨VReg.lane_of_tag_le hs.1 l, VReg.lane_of_tag_le hs.2.1 l⟩

/-- A compare of the operands, read as signed numbers or not. -/
theorem WordOp.isPred {r : Int → Int → Bool} {sgn : Bool} {g : Word → Word → Bool}
    (hd : ∀ w, (vfields op w).d = .pred)
    (hg : ∀ a b : Word, r (if sgn then a.toInt else a.toNat) (if sgn then b.toInt else b.toNat) = g a b) :
    (fpFn op (laneIcmp r sgn) x).IsPred x.w.d.toNat fun l => g ((x.a op).lo.lane l) ((x.b op).lo.lane l) := by
  refine fpFn_isPred h.lt (hd _) (fun l => ?_) fun hs l => ?_
  · rw [h.laneRes, laneIcmp, ← hg]
    simp only [sgnOf_toNat]
  · obtain ⟨ha, hb⟩ := VIn.lanes_of_flat h hs l
    rw [ha, hb]

end

/-- A row of `cmpLanes` says what its op9 leaves. -/
def CmpRowIs (x : VIn) (r : Nat × (Word → Word → Bool)) : Prop :=
  r.1 < 0x100 ∧ ∃ F, wideFn r.1 = some F ∧
    (F x).IsPred x.w.d.toNat fun l => r.2 ((x.a r.1).lo.lane l) ((x.b r.1).lo.lane l)

theorem CmpRowIs.of_icmp {op : Nat} {x : VIn} {r : Int → Int → Bool} {sgn : Bool} {g : Word → Word → Bool}
    (hv : ∀ w, vfields op w = ⟨.pred, .v, bKind w .v, .unused, true⟩) (ho : 0x0C0 ≤ op ∧ op < 0x0D8)
    (hF : wideFn op = some (fpFn op (laneIcmp r sgn)))
    (hg : ∀ a b : Word, r (if sgn then a.toInt else a.toNat) (if sgn then b.toInt else b.toNat) = g a b) :
    CmpRowIs x (op, g) := by
  have h : WordOp op := wordOp_of_vfields hv ho nofun bKind_v_ne nofun
  exact ⟨h.lt, _, hF, h.isPred (fun w => by rw [hv]) hg⟩

theorem cmpLanes_rows (x : VIn) : ∀ r ∈ cmpLanes, CmpRowIs x r := by
  simp only [cmpLanes, List.forall_mem_cons]
  refine ⟨?_, ?_, ?_, ?_, ?_, ?_, nofun⟩
  · exact .of_icmp (fun _ => rfl) (by decide) rfl fun a b => toInt_beq a b
  · exact .of_icmp (fun _ => rfl) (by decide) rfl fun a b => congrArg not (toInt_beq a b)
  · exact .of_icmp (fun _ => rfl) (by decide) rfl fun a b => rfl
  · exact .of_icmp (fun _ => rfl) (by decide) rfl fun a b => rfl
  · exact .of_icmp (fun _ => rfl) (by decide) rfl fun a b => decide_eq_decide.2 Int.ofNat_lt
  · exact .of_icmp (fun _ => rfl) (by decide) rfl fun a b => decide_eq_decide.2 Int.ofNat_le

section
variable {x : VIn} {op : Nat}

theorem VIn.flat_iff : x.flat op = true ↔ ∀ p ∈ [x.a op, x.b op, x.c op], p.lo.tag ≤ 1 ∧ p.hi.tag ≤ 1 := by
  simp [VIn.flat, Opd.isSame_eq, and_assoc]

theorem Opd.pairAt_of_isSame {o : Opd} (h : o.lo.tag ≤ 1 ∧ o.hi.tag ≤ 1) (l : Nat) : o.pairAt l = o.pairAt 0 := by
  rw [Opd.pairAt, Opd.pairAt, VReg.lane_of_tag_le h.1, VReg.lane_of_tag_le h.2]

/-- An integer word of 64 bits. -/
theorem fpFn_isPair_of {f : LaneFn} {g : Dword → Dword → Dword → Dword} (hop : op < 0x100)
    (hd : ∀ w, (vfields op w).d = .v64)
    (hf : ∀ l, (x.laneRes op f l).flags = 0 ∧
      BitVec.ofNat 64 (x.laneRes op f l).bits = g ((x.a op).pairAt l) ((x.b op).pairAt l) ((x.c op).pairAt l)) :
    (fpFn op f x).IsPair x.w.d.toNat
      (if ∀ p ∈ [x.a op, x.b op, x.c op], p.lo.tag ≤ 1 ∧ p.hi.tag ≤ 1 then 1 else 3)
      fun l => g ((x.a op).pairAt l) ((x.b op).pairAt l) ((x.c op).pairAt l) := by
  have e := fpFn_isPair hop (hd _) hf fun hs l => by
    have hs := VIn.flat_iff.1 hs
    simp only [List.forall_mem_cons] at hs
    obtain ⟨ha, hb, hc, -⟩ := hs
    rw [Opd.pairAt_of_isSame ha l, Opd.pairAt_of_isSame hb l, Opd.pairAt_of_isSame hc l]
  simpa only [VIn.flat_iff] using e

theorem Opd.ofNat_at (o : Opd) (l : Nat) : BitVec.ofNat 64 (o.at l) = o.pairAt l := by
  rw [← Opd.toNat_pairAt, BitVec.ofNat_toNat, BitVec.setWidth_eq]

theorem ofNat_mod_dword (n : Nat) : BitVec.ofNat 64 (n % 2 ^ 64) = BitVec.ofNat 64 n :=
  BitVec.eq_of_toNat_eq (by simp)

theorem ofNat_wrap_dword (v : Int) : BitVec.ofNat 64 (v % 2 ^ 64).toNat = BitVec.ofInt 64 v :=
  BitVec.eq_of_toNat_eq (by rw [BitVec.toNat_ofInt]; simp; omega)

/-- A factor of IMAD64: the low word of its operand, signed or not. -/
theorem ofInt_factor {o : Opd} (h : o.hi = .undef) (l : Nat) : BitVec.ofInt 64 (x.int (o.at l)) =
    if x.x0 then ((o.pairAt l).extractLsb' 0 32).zeroExtend 64 else ((o.pairAt l).extractLsb' 0 32).signExtend 64 := by
  have e : (o.pairAt l).extractLsb' 0 32 = o.lo.lane l := by
    have := (o.lo.lane l).isLt
    refine BitVec.eq_of_toNat_eq ?_
    rw [BitVec.extractLsb'_toNat, Opd.toNat_pairAt, Opd.at, Nat.shiftRight_zero]
    omega
  rw [e, Opd.at_of_hi h, int_eq]
  cases x.x0 with
  | true => exact (BitVec.ofInt_natCast ..).trans (BitVec.eq_of_toNat_eq (by simp))
  | false => rfl
end

/-- A row of `pairLanes` says what its op9 leaves. -/
def PairRowIs (x : VIn) (r : Nat × (Bool → Dword → Dword → Dword → Dword)) : Prop :=
  r.1 < 0x100 ∧ ∃ F, wideFn r.1 = some F ∧ (F x).IsPair x.w.d.toNat
    (if ∀ p ∈ [x.a r.1, x.b r.1, x.c r.1], p.lo.tag ≤ 1 ∧ p.hi.tag ≤ 1 then 1 else 3)
    fun l => r.2 x.x0 ((x.a r.1).pairAt l) ((x.b r.1).pairAt l) ((x.c r.1).pairAt l)

theorem pairLanes_rows (x : VIn) : ∀ r ∈ pairLanes, PairRowIs x r := by
  simp only [pairLanes, List.forall_mem_cons]
  refine ⟨⟨by decide, _, rfl, fpFn_isPair_of (by decide) (fun _ => rfl) fun l => ⟨rfl, ?_⟩⟩,
    ⟨by decide, _, rfl, fpFn_isPair_of (by decide) (fun _ => rfl) fun l => ⟨rfl, ?_⟩⟩, nofun⟩
  · change BitVec.ofNat 64 (((x.a 0x0D8).at l + (x.b 0x0D8).at l) % 2 ^ 64) = _
    rw [ofNat_mod_dword, BitVec.ofNat_add, Opd.ofNat_at, Opd.ofNat_at]
  · change BitVec.ofNat 64
      ((x.int ((x.a 0x0D9).at l) * x.int ((x.b 0x0D9).at l) + ((x.c 0x0D9).at l : Nat)) % 2 ^ 64).toNat = _
    have ha : (x.a 0x0D9).hi = .undef := rfl
    have hb : (x.b 0x0D9).hi = .undef := x.b_hi (by decide) (bKind_v_ne _)
    rw [ofNat_wrap_dword, BitVec.ofInt_add, BitVec.ofInt_mul, ofInt_factor ha, ofInt_factor hb, BitVec.ofInt_natCast,
      Opd.ofNat_at]

/-- What the row of an op9 leaves holds of the wide word with that op9. -/
theorem row_of_wideRows {q : (VW → Instr) × Nat × VFn} (hq : q ∈ wideRows) {P : VFn → Prop} {op : Nat} (hop : op = q.2.1)
    (h : op < 0x100 ∧ ∃ F, wideFn op = some F ∧ P F) : P q.2.2 := by
  obtain ⟨hlt, F, hF, hP⟩ := h
  have e := wideFn_of_mem q hq (by omega)
  rw [← hop, hF] at e
  exact Option.some.inj e ▸ hP

/-- Settles O47: the lane functions as arithmetic on words, in the three forms of an output. -/
theorem integerLanesAndTags : Obligations.IntegerLanesAndTags := by
  unfold Obligations.IntegerLanesAndTags
  intro q hq x
  refine ⟨fun r hr e => ?_, fun r hr e => ?_, fun r hr e => ?_⟩
  · have h := row_of_wideRows hq e ((List.mem_append.1 hr).elim (intLanes_rows x r) (bitLanes_rows x r))
    rw [e] at h
    exact h
  · have h := row_of_wideRows hq e (cmpLanes_rows x r hr)
    rw [e] at h
    exact h
  · have h := row_of_wideRows hq e (pairLanes_rows x r hr)
    rw [e] at h
    exact h

end Sys2Proof.Machine

namespace Sys2Proof.Machine

/-! ### Addresses and rows of the scalar accesses (R144, R147) -/

theorem StreamSt.ea_eq (st : StreamSt) (a : BitVec 4) (i : BitVec 14) : st.ea a i = addressOf st a i := by
  rw [StreamSt.ea, addressOf, BitVec.ofInt_add, BitVec.ofInt_natCast, BitVec.ofNat_toNat, BitVec.setWidth_eq]
  rfl

/-- Every load of the table is a load of its size that extends what it read as the table says (R144). -/
theorem exec_loadRows : ∀ r ∈ loadRows, ∀ d a i s,
    exec (r.1 d a i) s = loadOp a i r.2.1 false (fun st v => st.setReg d (r.2.2 v)) s := by
  simp only [loadRows, List.forall_mem_cons]
  exact ⟨fun _ _ _ _ => rfl, fun _ _ _ _ => rfl, fun _ _ _ _ => rfl, fun _ _ _ _ => rfl, fun _ _ _ _ => rfl, nofun⟩

theorem exec_storeRows (a : BitVec 4) (i : BitVec 14) (d : BitVec 5) (D : BitVec 4) :
    ∀ r ∈ storeRows a i d D, ∀ s, exec r.1 s = storeOp a i r.2.1 r.2.2 s := by
  simp only [storeRows, List.forall_mem_cons]
  exact ⟨fun _ => rfl, fun _ => rfl, fun _ => rfl, fun _ => rfl, nofun⟩

theorem exec_atomRows : ∀ r ∈ atomRows, ∀ d a b ret scope wide s,
    exec (r.1 d a b ret scope wide) s = atomOp r.2.1 d a b ret scope wide s := by
  simp only [atomRows, List.forall_mem_cons]
  refine ⟨?_, ?_, ?_, ?_, ?_, ?_, ?_, ?_, ?_, nofun⟩ <;> exact fun _ _ _ _ _ _ _ => rfl

/-- The value that a read-modify-write of the table leaves (R147). -/
theorem atomVal_atomRows : ∀ r ∈ atomRows, ∀ n old v, atomVal r.2.1 n old v = r.2.2 n old v := by
  simp only [atomRows, List.forall_mem_cons]
  refine ⟨fun n old v => ?_, ?_, ?_, ?_, ?_, ?_, ?_, ?_, ?_, nofun⟩
  · exact congrArg ((old + v) % ·) (Nat.pow_mul 2 8 n)
  all_goals exact fun _ _ _ => rfl

/-! ### Loads and stores as they issue (R144 to R146) -/

section
variable {s : State} {t : Task} {k : StreamId} (h : Issues s t k) {a : BitVec 4} {i : BitVec 14} {n : Nat}
include h

/-- A load off the read-only path completes with what the stream sees (R96, R144). -/
theorem loadOp_ok {ro : Bool} (hr : (ro && !inWindow (addressOf (t.st k) a i)) = false)
    (hc : s.check t k (addressOf (t.st k) a i) n n true false = .ok ()) (put : StreamSt → Nat → StreamSt) :
    let ls := s.locs (t.accessor s) (addressOf (t.st k) a i) n false
    let u := s.afterLoad t k (addressOf (t.st k) a i) n ls
    loadOp a i n ro put s = .next (u.1.retire u.2 k (put (u.2.st k) (leNat (s.loadBytes t k ls)))) := by
  refine issue_next h (runsOn_scalar k) ?_
  simp only [StreamSt.ea_eq, hr, hc]
  rfl

/-- A load on the read-only path completes with what that path may return (R105, R146). -/
theorem loadOp_readOnly (hw : inWindow (addressOf (t.st k) a i) = false)
    (hc : s.check t k (addressOf (t.st k) a i) n n true false true = .ok ()) (put : StreamSt → Nat → StreamSt) :
    loadOp a i n true put s = .next ((s.tlbFillRange (t.accessor s) (addressOf (t.st k) a i) n).retire t k
      (put (t.st k) (leNat ((s.locs (t.accessor s) (addressOf (t.st k) a i) n false).map (s.roByte t k))))) := by
  refine issue_next h (runsOn_scalar k) ?_
  simp only [StreamSt.ea_eq, hw, Bool.not_false, Bool.and_true, hc]
  rfl

/-- In a window a read-only load is the ordinary one (R146). -/
theorem loadOp_window (hw : inWindow (addressOf (t.st k) a i) = true) (put : StreamSt → Nat → StreamSt) :
    loadOp a i n true put s = loadOp a i n false put s := by
  simp only [loadOp, issue, h.focus, h.task, h.can, runsOn_scalar, Bool.not_true, Bool.false_eq_true, if_false,
    StreamSt.ea_eq, hw, Bool.and_false]

theorem loadOp_stop {ro : Bool} {e : Stop}
    (hc : s.check t k (addressOf (t.st k) a i) n n true false (ro && !inWindow (addressOf (t.st k) a i)) = .error e)
    (put : StreamSt → Nat → StreamSt) : loadOp a i n ro put s = .next (s.stopped t k e) := by
  refine issue_stop h (runsOn_scalar k) ?_
  simp only [StreamSt.ea_eq, hc]
  rfl

/-- A store completes by entering its stream's queue (R96, R144). -/
theorem storeOp_ok {val : StreamSt → Nat} (hc : s.check t k (addressOf (t.st k) a i) n n false true = .ok ()) :
    let u := (s.tlbFillRange (t.accessor s) (addressOf (t.st k) a i) n).push t k (t.st k).pc
      (.store [queuedStore s t k a i n (val (t.st k))])
    storeOp a i n val s = .next (u.1.retire u.2 k (u.2.st k)) := by
  refine issue_next h (runsOn_scalar k) ?_
  simp only [StreamSt.ea_eq, hc]
  rfl

theorem storeOp_stop {val : StreamSt → Nat} {e : Stop}
    (hc : s.check t k (addressOf (t.st k) a i) n n false true = .error e) :
    storeOp a i n val s = .next (s.stopped t k e) := by
  refine issue_stop h (runsOn_scalar k) ?_
  simp only [StreamSt.ea_eq, hc]
  rfl

end

/-- Settles O20: each load by whether it takes the read-only path. -/
theorem loadResults : Obligations.LoadResults := by
  intro s t k h a i va places value after
  refine ⟨fun r hr hc d => ?_, fun hc d => ?_, fun hw d e => ?_, fun hw => ⟨fun hc d => ?_, fun hc d => ?_⟩⟩
  · rw [exec_loadRows r hr]
    exact loadOp_ok h rfl hc _
  · rw [exec_ldD]
    exact loadOp_ok h rfl hc _
  · rw [exec_ldroW, exec_ldW, exec_ldroD, exec_ldD]
    exact ⟨loadOp_window h hw _, loadOp_window h hw _⟩
  · rw [exec_ldroW]
    exact loadOp_readOnly h hw hc _
  · rw [exec_ldroD]
    exact loadOp_readOnly h hw hc _

/-- Settles O23: the stop of the access is the trap, whose class is never STORAGE. -/
theorem faultingAccessTraps : Obligations.FaultingAccessTraps := by
  intro s t k h a i d D sub ad e hcls _
  have ht : s.stopped t k (.trap e) = s.takeTrap t k (t.st k).pc false 0 e :=
    s.stopped_trap t k e (by rcases hcls with hc | hc <;> rw [hc] <;> decide)
  simp only [exec_ldD, exec_ldroW, exec_ldroD, ← ht]
  refine ⟨fun r hr hc => ?_, fun hc => loadOp_stop (ro := false) h hc _, fun hc => loadOp_stop (ro := true) h hc _,
    fun hc => loadOp_stop (ro := true) h hc _, fun r hr hc => ?_⟩
  · rw [exec_loadRows r hr]
    exact loadOp_stop (ro := false) h hc _
  · rw [exec_storeRows a i d D r hr]
    exact storeOp_stop h hc

end Sys2Proof.Machine

namespace Sys2Proof.Machine

/-! ### Read-modify-writes as they issue (R102, R147, R148) -/

section
variable {s : State}

theorem State.OnlyCores.lanesPending {u : State} (h : s.OnlyCores u) (t : Task) (k : StreamId) :
    u.lanesPending t k = s.lanesPending t k := by
  obtain ⟨_, _, _, rfl⟩ := h
  rfl

/-- With no pixel lane of the stream pending, a release performs its stores (R219). -/
theorem State.release_ok {t : Task} {k : StreamId} (h : s.lanesPending t k = false) (scope : Scope) :
    s.release t k scope = .ok (s.perform t k scope) := by
  rw [State.release, h]
  rfl

/-- With one pending it waits for it (R219). -/
theorem State.release_waits {t : Task} {k : StreamId} (h : s.lanesPending t k = true) (scope : Scope) :
    s.release t k scope = .error (.wait .lanes) := by
  rw [State.release, h]
  rfl

variable {t : Task} {k : StreamId} (h : Issues s t k) {a : BitVec 4} {n : Nat}
include h

/-- An ATOM in a deterministic launch enters the buffer (R300, R301). -/
theorem atomOp_buffered {op : AtomOp} {d : BitVec 5} {b : BitVec 5} {ret : Bool} {scope : Scope} {wide : Bool}
    (hn : n = if wide then 8 else 4) (hc : s.check t k ((t.st k).pair a).toNat n n true true = .ok ()) (hd : t.det = true) :
    atomOp op d a b ret scope wide s = .next ((s.tlbFillRange (t.accessor s) ((t.st k).pair a).toNat n).buffer t k
      (.atom [{ locs := s.locs (t.accessor s) ((t.st k).pair a).toNat n true, op := op, val := (t.st k).wideVal b wide,
                ret := atomDest d ret wide }]) ret) := by
  subst hn
  refine issue_next h (runsOn_scalar k) ?_
  simp only [hc, hd]
  rfl

/-- Elsewhere it is one step at its home (R102, R147). -/
theorem atomOp_performed {op : AtomOp} {d : BitVec 5} {b : BitVec 5} {ret : Bool} {scope : Scope} {wide : Bool}
    (hp : s.lanesPending t k = false) (hn : n = if wide then 8 else 4)
    (hc : s.check t k ((t.st k).pair a).toNat n n true true = .ok ()) (hd : t.det = false)
    (hl : (s.locs (t.accessor s) ((t.st k).pair a).toNat n true).length = n) :
    atomOp op d a b ret scope wide s = .next (s.afterAtomic t k ((t.st k).pair a).toNat n scope (atomDest d ret wide)
      fun old => some (atomVal op n old ((t.st k).wideVal b wide))) := by
  subst hn
  refine issue_next h (runsOn_scalar k) ?_
  simp only [hc, hd, State.release_ok ((State.tlbFillRange_only s _ _ _).lanesPending t k ▸ hp), State.afterAtomic,
    State.applyRmw, hl]
  rfl

/-- An ATOMCAS in a deterministic launch enters the buffer and ends its stream's quantum (R300, R301). -/
theorem casOp_buffered {ret : RetTo} {cmp new : StreamSt → Nat} {scope : Scope}
    (hc : s.check t k ((t.st k).pair a).toNat n n true true = .ok ()) (hd : t.det = true) :
    casOp ret a n cmp new scope s = .next ((s.tlbFillRange (t.accessor s) ((t.st k).pair a).toNat n).buffer t k
      (.cas [{ locs := s.locs (t.accessor s) ((t.st k).pair a).toNat n true, cmp := cmp (t.st k), new := new (t.st k),
               ret := ret }]) true) := by
  refine issue_next h (runsOn_scalar k) ?_
  simp only [hc, hd]
  rfl

/-- Elsewhere it is one step at its home, which writes where the old value is the one compared with (R148). -/
theorem casOp_performed {ret : RetTo} {cmp new : StreamSt → Nat} {scope : Scope} (hp : s.lanesPending t k = false)
    (hc : s.check t k ((t.st k).pair a).toNat n n true true = .ok ()) (hd : t.det = false)
    (hl : (s.locs (t.accessor s) ((t.st k).pair a).toNat n true).length = n) :
    casOp ret a n cmp new scope s = .next (s.afterAtomic t k ((t.st k).pair a).toNat n scope ret
      fun old => if old = cmp (t.st k) then some (new (t.st k)) else none) := by
  refine issue_next h (runsOn_scalar k) ?_
  simp only [hc, hd, State.release_ok ((State.tlbFillRange_only s _ _ _).lanesPending t k ▸ hp), State.afterAtomic,
    State.applyCas, hl, bind, Except.bind, Bool.false_eq_true, if_false]
  split <;> rfl

end

/-- Settles O24: each form by whether its launch is deterministic. -/
theorem atomicResults : Obligations.AtomicResults := by
  intro s t k h hp a scope
  refine ⟨fun r hr d b ret wide hc => ?_, fun d b ret hc => ?_, fun d b hc => ?_, fun d b hc => ?_⟩
  · simp only [exec_atomRows r hr, ← atomVal_atomRows r hr]
    exact ⟨atomOp_performed h hp rfl hc, atomOp_buffered h rfl hc⟩
  · rw [exec_atomAddF32]
    exact ⟨atomOp_performed h hp rfl hc, atomOp_buffered h rfl hc⟩
  · rw [exec_atomcasB32]
    exact ⟨casOp_performed h hp hc, casOp_buffered h hc⟩
  · rw [exec_atomcasB64]
    exact ⟨casOp_performed h hp hc, casOp_buffered h hc⟩

end Sys2Proof.Machine

namespace Sys2Proof.Machine

/-! ### The last byte that a list of stores gives a place (R96, R97) -/

/-- The byte that the last of some writes to a place gives it. -/
def lastByte (bs : List (Loc × Byte)) (l : Loc) : Option Byte := bs.foldl (fun r p => if p.1 = l then some p.2 else r) none

theorem queueByte_eq (q : List QEntry) (l : Loc) : queueByte q l = lastByte (q.flatMap fun e => e.eff.bytes) l := rfl
theorem State.pathByte_eq (s : State) (core : Nat) (l : Loc) : s.pathByte core l = lastByte (s.core core).out.flatten l := rfl

theorem lastByte_append (as bs : List (Loc × Byte)) (l : Loc) : lastByte (as ++ bs) l = (lastByte bs l).or (lastByte as l) := by
  have from_any : ∀ (bs : List (Loc × Byte)) (r : Option Byte),
      bs.foldl (fun r p => if p.1 = l then some p.2 else r) r = (lastByte bs l).or r := by
    intro bs
    induction bs using List.reverseRecOn with
    | nil => exact fun _ => rfl
    | append_singleton bs p ih =>
      intro r
      simp only [lastByte, List.foldl_append, List.foldl_cons, List.foldl_nil] at ih ⊢
      split
      · rfl
      · exact ih r
  rw [lastByte, List.foldl_append]
  exact from_any bs _

/-- Where every write to a place gives the same byte, that is what the place holds. -/
theorem lastByte_some {bs : List (Loc × Byte)} {l : Loc} {b : Byte} (hb : (l, b) ∈ bs) (h : ∀ p ∈ bs, p.1 = l → p.2 = b) :
    lastByte bs l = some b := by
  induction bs using List.reverseRecOn with
  | nil => cases hb
  | append_singleton bs p ih =>
    rw [lastByte_append]
    by_cases hp : p.1 = l
    · have : lastByte [p] l = some p.2 := if_pos hp
      rw [this, h p (by simp) hp]
      rfl
    · have : lastByte [p] l = none := if_neg hp
      rw [this]
      refine ih ?_ fun q hq => h q (by simp [hq])
      rcases List.mem_append.1 hb with hb | hb
      · exact hb
      · exact absurd (congrArg Prod.fst (List.mem_singleton.1 hb)).symm hp

/-- Writes to distinct places, read back. -/
theorem lastByte_of_nodup {bs : List (Loc × Byte)} (hn : (bs.map (·.1)).Nodup) {l : Loc} {b : Byte} (hb : (l, b) ∈ bs) :
    lastByte bs l = some b :=
  lastByte_some hb fun _ hp e => congrArg Prod.snd (List.inj_on_of_nodup_map hn hp hb e)

theorem lastByte_zip {ls : List Loc} {bs : List Byte} (hn : ls.Nodup) (hl : ls.length = bs.length) {i : Nat}
    (hi : i < ls.length) : lastByte (ls.zip bs) ls[i] = some (bs[i]'(hl ▸ hi)) := by
  have hk : (ls.zip bs).map (·.1) = ls := List.map_fst_zip (Nat.le_of_eq hl)
  refine lastByte_of_nodup (hk.symm ▸ hn) ?_
  have := List.getElem_mem (l := ls.zip bs) (n := i) (by simp [hi, hl ▸ hi])
  rwa [List.getElem_zip] at this

/-! ### A store enters its queue (R96, R300) -/

section
variable {e : QEntry} {l m : List QEntry}

theorem mem_insertSeq {x : QEntry} : ∀ {l : List QEntry}, x ∈ insertSeq e l ↔ x = e ∨ x ∈ l
  | [] => by simp [insertSeq]
  | y :: ys => by
    rw [insertSeq]
    split
    · exact List.mem_cons
    · rw [List.mem_cons, mem_insertSeq, List.mem_cons]
      exact or_left_comm

/-- An entry later than all others goes last. -/
theorem insertSeq_last : ∀ {l : List QEntry}, (∀ x ∈ l, x.seq < e.seq) → insertSeq e l = l ++ [e]
  | [], _ => rfl
  | y :: ys, h => by
    rw [insertSeq, if_neg (Nat.lt_asymm (h y (List.mem_cons_self ..))), insertSeq_last fun x hx => h x (List.mem_cons_of_mem _ hx)]
    rfl

/-- An earlier entry goes before the last. -/
theorem insertSeq_append {x : QEntry} (h : x.seq < e.seq) : ∀ l : List QEntry, insertSeq x (l ++ [e]) = insertSeq x l ++ [e]
  | [] => if_pos h
  | y :: ys => by
    rw [List.cons_append, insertSeq, insertSeq]
    split
    · rfl
    · rw [insertSeq_append h ys]
      rfl

/-- Entries in the order in which they issued. -/
def bySeq (l : List QEntry) : List QEntry := l.foldl (fun l e => insertSeq e l) []

theorem bySeq_concat (l : List QEntry) (x : QEntry) : bySeq (l ++ [x]) = insertSeq x (bySeq l) := by
  rw [bySeq, List.foldl_append]
  rfl

theorem mem_bySeq {x : QEntry} : x ∈ bySeq l ↔ x ∈ l := by
  induction l using List.reverseRecOn with
  | nil => rfl
  | append_singleton l y ih => rw [bySeq_concat, mem_insertSeq, ih, List.mem_append, List.mem_singleton, or_comm]

/-- The latest of some entries comes last, wherever it stands. -/
theorem bySeq_latest (h : ∀ x ∈ l ++ m, x.seq < e.seq) : bySeq (l ++ e :: m) = bySeq (l ++ m) ++ [e] := by
  induction m using List.reverseRecOn with
  | nil =>
    rw [bySeq_concat, List.append_nil]
    exact insertSeq_last fun x hx => h x (List.mem_append_left _ (mem_bySeq.1 hx))
  | append_singleton m y ih =>
    have hm : ∀ x ∈ l ++ m, x.seq < e.seq := fun x hx => h x (by rw [← List.append_assoc]; exact List.mem_append_left _ hx)
    rw [← List.cons_append, ← List.append_assoc, ← List.append_assoc, bySeq_concat, bySeq_concat, ih hm,
      insertSeq_append (h y (by simp))]

end

/-- The entries of a task's queues, stream by stream. -/
def Task.queued (t : Task) : List QEntry := allStreams.flatMap fun k => (t.st k).queue

theorem Task.allQueued_eq (t : Task) : t.allQueued = bySeq t.queued := rfl

/-- A new entry of a stream stands somewhere among those that the task has queued. -/
theorem Task.queued_concat (t : Task) (k : StreamId) (e : QEntry) : ∃ l m, t.queued = l ++ m ∧
    (t.setSt k { t.st k with queue := (t.st k).queue ++ [e] }).queued = l ++ e :: m := by
  let q := fun j => (t.st j).queue
  have all (u : Task) : u.queued = (u.st .s).queue ++ ((u.st .v).queue ++ ((u.st .m).queue ++ (u.st .c).queue)) := by
    simp [Task.queued, allStreams]
  rw [all, all]
  cases k with
  | s => exact ⟨q .s, q .v ++ (q .m ++ q .c), rfl, List.append_assoc (q .s) [e] _⟩
  | v => exact ⟨q .s ++ q .v, q .m ++ q .c, by simp [q], by simp [q, Task.st, Task.setSt, Streams.get, Streams.set]⟩
  | m => exact ⟨q .s ++ (q .v ++ q .m), q .c, by simp [q], by simp [q, Task.st, Task.setSt, Streams.get, Streams.set]⟩
  | c => exact ⟨q .s ++ (q .v ++ (q .m ++ q .c)), [], by simp [q], by simp [q, Task.st, Task.setSt, Streams.get, Streams.set]⟩

/-- A stream's new entry, later than all that the task has queued, is the task's youngest (R300). -/
theorem Task.allQueued_concat {t : Task} {k : StreamId} {e : QEntry} (h : ∀ x ∈ t.allQueued, x.seq < e.seq) :
    (t.setSt k { t.st k with queue := (t.st k).queue ++ [e] }).allQueued = t.allQueued ++ [e] := by
  obtain ⟨l, m, ht, hu⟩ := t.queued_concat k e
  rw [t.allQueued_eq, ht] at h ⊢
  rw [Task.allQueued_eq, hu]
  exact bySeq_latest fun x hx => h x (mem_bySeq.2 hx)

/-- The bytes of a queue's youngest entry are what the queue gives their places, whatever stands behind it. -/
theorem queueByte_concat {ls : List Loc} {bs : List Byte} (hn : ls.Nodup) (hl : ls.length = bs.length) (q : List QEntry)
    {e : QEntry} (he : e.eff.bytes = ls.zip bs) (f : Loc → Option Byte) (d : Loc → Byte) :
    (ls.map fun l => ((queueByte (q ++ [e]) l).or (f l)).getD (d l)) = bs := by
  refine List.ext_getElem (by simp [hl]) fun i hi hj => ?_
  rw [List.length_map] at hi
  rw [List.getElem_map, queueByte_eq, List.flatMap_append, List.flatMap_singleton, he, lastByte_append,
    lastByte_zip hn hl hi]
  rfl

/-- A stream sees its own youngest store, in a deterministic launch every stream of its task (R96, R300). -/
theorem State.loadBytes_push {s : State} {t : Task} {k : StreamId} {pc : Dword} {ls : List Loc} {bs : List Byte}
    (hn : ls.Nodup) (hl : ls.length = bs.length) (hq : ∀ e ∈ t.allQueued, e.seq < s.seq) {us : List (List (Loc × Byte))}
    (hu : us.flatten = ls.zip bs) {j : StreamId} (hj : t.det = true ∨ j = k) :
    (s.push t k pc (.store us)).1.loadBytes (s.push t k pc (.store us)).2 j ls = bs := by
  unfold State.push State.loadBytes
  dsimp only
  cases hd : t.det
  · obtain rfl : j = k := hj.resolve_left (by simp [hd])
    rw [if_neg (by simp [hd])]
    simp only [Task.st_setSt]
    exact queueByte_concat hn hl _ (e := ⟨s.seq, pc, .store us⟩) hu _ _
  · rw [if_pos (by simp [hd]), Task.allQueued_concat hq]
    simpa using queueByte_concat hn hl t.allQueued (e := ⟨s.seq, pc, .store us⟩) hu (fun _ => none) _

/-! ### What a memory access leaves of its task -/

/-- A task that one stream's new state differs from in the registers `dst` at most. -/
theorem TaskFrame.setSt {t : Task} {k : StreamId} {st : StreamSt} {dst : List (BitVec 5)}
    (hr : ∀ r, r ∉ dst → st.reg r = (t.st k).reg r) (hm : st.fpmode = (t.st k).fpmode)
    (hf : st.fpflags = (t.st k).fpflags) : TaskFrame t (t.setSt k st) k dst where
  regs := fun j r hj => by
    by_cases e : j = k
    · subst e
      rw [Task.st_setSt]
      exact hr r (hj rfl)
    · rw [Task.st_setSt_ne t st e]
  fpmode := fun j => by
    by_cases e : j = k
    · subst e
      rwa [Task.st_setSt]
    · rw [Task.st_setSt_ne t st e]
  fpflags := fun j => by
    by_cases e : j = k
    · subst e
      rwa [Task.st_setSt]
    · rw [Task.st_setSt_ne t st e]
  pcs := fun j hj => by rw [Task.st_setSt_ne t st hj]
  vregs := rfl
  preds := rfl
  vqs := rfl
  sems := rfl
  acc := rfl
  wfa := rfl
  claim := rfl
  srseed := rfl
  traps := rfl
  saves := rfl

theorem State.task?_retire {s : State} {t : Task} (k : StreamId) (st : StreamSt) (n : Nat) (h : (s.task? t.uid).isSome) :
    (s.retire t k st n).task? t.uid = some (t.setSt k (t.advance st n)) :=
  State.task?_setTask s (t.setSt k _) h

theorem State.task?_retire_ne (s : State) (t : Task) (k : StreamId) (st : StreamSt) (n : Nat) {u : Nat} (h : u ≠ t.uid) :
    (s.retire t k st n).task? u = s.task? u :=
  State.task?_setTask_ne s (t.setSt k _) h

theorem State.byteAt_retire (s : State) (t : Task) (k : StreamId) (st : StreamSt) (n : Nat) (l : Loc) :
    (s.retire t k st n).byteAt l = s.byteAt l := State.setTask_byteAt s _ l

/-- Settles O21: what one entry at the youngest end of a queue leaves, and what a load then finds there. -/
theorem storesEnterQueueAndForward : Obligations.StoresEnterQueueAndForward := by
  refine ⟨fun s t k h a i d D r hr hc => ?_, fun s t k pc ls bs hn hl hq us hu =>
    ⟨State.loadBytes_push hn hl hq hu (.inr rfl), fun hd j => State.loadBytes_push hn hl hq hu (.inl hd)⟩⟩
  have hf := State.tlbFillRange_only s (t.accessor s) (addressOf (t.st k) a i) r.2.1
  let u := (s.tlbFillRange (t.accessor s) (addressOf (t.st k) a i) r.2.1).push t k (t.st k).pc
    (.store [queuedStore s t k a i r.2.1 (r.2.2 (t.st k))])
  have htask : ∀ n, u.1.task? n = s.task? n := hf.task?
  refine ⟨u.1.retire u.2 k (u.2.st k), u.2.setSt k (u.2.advance (u.2.st k) 1), ?_,
    State.task?_retire (t := u.2) k _ 1 ((htask t.uid).trans h.task ▸ rfl), ?_, ?_, ?_, fun l => ?_, fun n hne => ?_⟩
  · rw [exec_storeRows a i d D r hr]
    exact storeOp_ok h hc
  · simp [u, State.push, hf.seq]
  · simp [u, State.push]
  · rw [show u.2 = t.setSt k _ from rfl, Task.setSt_setSt]
    exact TaskFrame.setSt (fun _ _ => by simp [StreamSt.reg]) (by simp) (by simp)
  · rw [State.byteAt_retire]
    exact (by cases l <;> rfl : u.1.byteAt l = _).trans (hf.byteAt l)
  · rw [State.task?_retire_ne u.1 u.2 k _ 1 hne, htask]

end Sys2Proof.Machine

namespace Sys2Proof.Machine

/-! ### Where the operations of a core's path leave its tasks' cores (R11) -/

section
variable {s u : State}

theorem State.coreOf_of_blocks (h : u.blocks = s.blocks) (t : Task) : u.coreOf t = s.coreOf t := by
  rw [State.coreOf, State.block?, h]
  rfl

theorem State.OnlyCores.coreOf (h : s.OnlyCores u) (t : Task) : u.coreOf t = s.coreOf t := State.coreOf_of_blocks h.blocks t

theorem State.coreOf_applyStore (s : State) (c : Nat) (bs : List (Loc × Byte)) (t : Task) :
    (s.applyStore c bs).coreOf t = s.coreOf t :=
  ((State.l1Store_only _ c bs).coreOf t).trans ((State.applyBytes_only s bs).coreOf t)

theorem State.coreOf_land (s : State) (c : Nat) (bs : List (Loc × Byte)) (t : Task) : (s.land c bs).coreOf t = s.coreOf t := by
  unfold State.land
  dsimp only
  split
  · exact s.coreOf_applyStore c bs t
  · exact s.coreOf_applyStore c bs t

theorem State.coreOf_landIf (s : State) (c : Nat) (p : List (Loc × Byte) → Bool) (t : Task) :
    (s.landIf c p).coreOf t = s.coreOf t := by
  unfold State.landIf
  dsimp only
  split
  · rfl
  · refine (List.foldlRecOn (motive := fun u : State => u.coreOf t = _) _ _ rfl fun u hu v _ => ?_).trans
      ((State.setCore_only s c _).coreOf t)
    exact (u.coreOf_land c v t).trans hu

end

/-! ### What joins a core's path (R97, R103) -/

theorem mem_dedup_of_mem {α : Type} [DecidableEq α] {x : α} : ∀ {l : List α}, x ∈ l → x ∈ dedup l
  | y :: ys, h => by
    rw [dedup, List.mem_cons, List.mem_filter]
    by_cases e : x = y
    · exact .inl e
    · exact .inr ⟨mem_dedup_of_mem ((List.mem_cons.1 h).resolve_left e), by simpa using e⟩

theorem mem_unitsOf {bs u : List (Loc × Byte)} (hu : u ∈ unitsOf bs) {p : Loc × Byte} (hp : p ∈ u) : p ∈ bs := by
  obtain ⟨g, -, rfl⟩ := List.mem_map.1 hu
  exact List.mem_of_mem_filter hp

theorem exists_unitsOf {bs : List (Loc × Byte)} {p : Loc × Byte} (hp : p ∈ bs) : ∃ u ∈ unitsOf bs, p ∈ u :=
  ⟨_, List.mem_map_of_mem (mem_dedup_of_mem (List.mem_map_of_mem hp)), List.mem_filter.2 ⟨hp, beq_self_eq_true _⟩⟩

/-- A byte that a store of these parts puts at its home at once (R97). -/
def atHomeAtOnce (block : Nat) (us : List (List (Loc × Byte))) (p : Loc × Byte) : Bool :=
  decide (us.length ≤ 1) && p.1.within block

/-- The parts in which the rest of the store joins the path: slot by slot, and whole granules that were poisoned. -/
def State.farParts (s : State) (block : Nat) (us : List (List (Loc × Byte))) : List (List (Loc × Byte)) :=
  let whole := (wholeGranules us.flatten).filter s.granPoison
  (us.flatMap fun u => Machine.unitsOf (u.filter fun p => !atHomeAtOnce block us p && !(whole.contains (granule p.1)))) ++
    (whole.map fun g => us.flatten.filter fun p => granule p.1 == g && !atHomeAtOnce block us p).filter fun u => !u.isEmpty

/-- What a store puts at its home at once, behind what the path holds for its slots. -/
def State.putHome (s : State) (core block : Nat) (us : List (List (Loc × Byte))) : State :=
  let near := us.flatten.filter (atHomeAtOnce block us)
  if near.isEmpty then s else (s.landAt core (near.map (·.1))).applyStore core near

theorem State.leaveQueue_eq (s : State) (core block : Nat) (us : List (List (Loc × Byte))) :
    s.leaveQueue core block us = (s.putHome core block us).join core (s.farParts block us) := rfl

section
variable {s : State} {block : Nat} {us : List (List (Loc × Byte))}

theorem State.mem_farParts {u : List (Loc × Byte)} (hu : u ∈ s.farParts block us) {p : Loc × Byte} (hp : p ∈ u) :
    p ∈ us.flatten := by
  rcases List.mem_append.1 hu with hu | hu
  · obtain ⟨v, hv, hu⟩ := List.mem_flatMap.1 hu
    exact List.mem_flatten.2 ⟨v, hv, List.mem_of_mem_filter (mem_unitsOf hu hp)⟩
  · obtain ⟨g, -, rfl⟩ := List.mem_map.1 (List.mem_of_mem_filter hu)
    exact List.mem_of_mem_filter hp

/-- Every byte that is not put at its home at once is in a part that joins the path. -/
theorem State.exists_farParts {p : Loc × Byte} (hp : p ∈ us.flatten) (hh : atHomeAtOnce block us p = false) :
    ∃ u ∈ s.farParts block us, p ∈ u := by
  by_cases hw : granule p.1 ∈ (wholeGranules us.flatten).filter s.granPoison
  · have hm : p ∈ us.flatten.filter fun q => granule q.1 == granule p.1 && !atHomeAtOnce block us q :=
      List.mem_filter.2 ⟨hp, by rw [hh, beq_self_eq_true]; rfl⟩
    refine ⟨_, List.mem_append_right _ (List.mem_filter.2 ⟨List.mem_map_of_mem hw, ?_⟩), hm⟩
    simpa using List.ne_nil_of_mem hm
  · obtain ⟨v, hv, hp⟩ := List.mem_flatten.1 hp
    obtain ⟨u, hu, hpu⟩ := exists_unitsOf (bs := v.filter fun p => !atHomeAtOnce block us p &&
      !(((wholeGranules us.flatten).filter s.granPoison).contains (granule p.1)))
      (List.mem_filter.2 ⟨hp, by rw [hh, List.contains_eq_mem, decide_eq_false hw]; rfl⟩)
    exact ⟨u, List.mem_append_left _ (List.mem_flatMap.2 ⟨v, hv, hu⟩), hpu⟩

theorem State.out_join (s : State) (c : Nat) (us : List (List (Loc × Byte))) :
    ((s.join c us).core c).out = (s.core c).out ++ us := by
  unfold State.join
  split
  · rename_i h
    rw [List.isEmpty_iff.1 h, List.append_nil]
  · rw [State.core_setCore]

theorem State.join_only (s : State) (c : Nat) (us : List (List (Loc × Byte))) : s.OnlyCores (s.join c us) := by
  unfold State.join
  split
  · exact .refl s
  · exact State.setCore_only s c _

/-- What lands leaves nothing new on the path. -/
theorem State.pathLocs_landIf {c : Nat} {p : List (Loc × Byte) → Bool} {l : Loc} (h : l ∈ (s.landIf c p).pathLocs c) :
    l ∈ s.pathLocs c := by
  obtain ⟨q, hq, rfl⟩ := List.mem_map.1 h
  obtain ⟨u, hu, hq⟩ := List.mem_flatten.1 hq
  rw [State.landIf_out] at hu
  exact State.mem_pathLocs (List.mem_of_mem_filter hu) hq

theorem State.pathLocs_applyStore (s : State) (c : Nat) (bs : List (Loc × Byte)) :
    (s.applyStore c bs).pathLocs c = s.pathLocs c := by
  rw [State.pathLocs, State.applyStore_out]
  rfl

theorem State.pathLocs_putHome {c : Nat} {l : Loc} (h : l ∈ (s.putHome c block us).pathLocs c) : l ∈ s.pathLocs c := by
  unfold State.putHome at h
  dsimp only at h
  split at h
  · exact h
  · rw [State.pathLocs_applyStore] at h
    exact State.pathLocs_landIf h

theorem State.coreOf_putHome (s : State) (c : Nat) (t : Task) : (s.putHome c block us).coreOf t = s.coreOf t := by
  unfold State.putHome
  dsimp only
  split
  · rfl
  · exact (State.coreOf_applyStore _ c _ t).trans (s.coreOf_landIf c _ t)

end

/-! ### Stores on their way home: what they change together (R97, R99) -/

/-- `u` differs from `s` as stores do that travel from a core: in their own places `ls`, in cores and poison; they leave
every task on its core, and nothing but their places on the path. -/
structure State.Travels (s u : State) (c : Nat) (ls : List Loc) : Prop where
  carries : s.Carries u ls
  coreOf : ∀ t, u.coreOf t = s.coreOf t
  path : ∀ l ∈ u.pathLocs c, l ∈ ls

section
variable {s u v : State} {c : Nat} {ls : List Loc}

theorem State.Travels.refl (hp : ∀ l ∈ s.pathLocs c, l ∈ ls) : s.Travels s c ls := ⟨.refl s ls, fun _ => rfl, hp⟩

theorem State.Travels.trans (h : s.Travels u c ls) (h' : u.Travels v c ls) : s.Travels v c ls :=
  ⟨h.carries.trans h'.carries, fun t => (h'.coreOf t).trans (h.coreOf t), h'.path⟩

theorem State.OnlyCores.carries (h : s.OnlyCores u) (ls : List Loc) : s.Carries u ls := by
  obtain ⟨_, _, _, rfl⟩ := h
  exact ⟨rfl, rfl, id, fun _ l _ _ => by cases l <;> rfl⟩

theorem State.landIf_travels (hp : ∀ l ∈ s.pathLocs c, l ∈ ls) (p : List (Loc × Byte) → Bool) : s.Travels (s.landIf c p) c ls :=
  ⟨(s.landIf_carries c p).mono hp, s.coreOf_landIf c p, fun l hl => hp l (State.pathLocs_landIf hl)⟩

theorem State.leaveQueue_travels (hp : ∀ l ∈ s.pathLocs c, l ∈ ls) {us : List (List (Loc × Byte))}
    (hu : ∀ p ∈ us.flatten, p.1 ∈ ls) (b : Nat) : s.Travels (s.leaveQueue c b us) c ls where
  carries := (s.leaveQueue_carries c b us).mono fun l hl => by
    rcases List.mem_append.1 hl with hl | hl
    · obtain ⟨p, hm, rfl⟩ := List.mem_map.1 hl
      exact hu p hm
    · exact hp l hl
  coreOf := fun t => ((State.join_only _ c _).coreOf t).trans (s.coreOf_putHome c t)
  path := fun l hl => by
    rw [State.leaveQueue_eq, State.pathLocs, State.out_join, List.flatten_append, List.map_append] at hl
    rcases List.mem_append.1 hl with hl | hl
    · exact hp l (State.pathLocs_putHome hl)
    · obtain ⟨p, hm, rfl⟩ := List.mem_map.1 hl
      obtain ⟨w, hw, hm⟩ := List.mem_flatten.1 hm
      exact hu p (State.mem_farParts hw hm)

theorem State.leaveAll_travels (b : Nat) : ∀ {q : List QEntry} {s : State}, (∀ l ∈ s.pathLocs c, l ∈ ls) →
    (∀ e ∈ q, ∀ p ∈ e.eff.bytes, p.1 ∈ ls) → s.Travels (s.leaveAll c b q) c ls
  | [], _, hp, _ => .refl hp
  | e :: _, _, hp, hq =>
    have h := State.leaveQueue_travels hp (hq e (List.mem_cons_self ..)) b
    h.trans (State.leaveAll_travels b h.path fun x hx => hq x (List.mem_cons_of_mem _ hx))

variable {t : Task} {k : StreamId}

theorem State.drain_travels (hp : ∀ l ∈ s.pathLocs (s.coreOf t), l ∈ ls)
    (hq : ∀ e ∈ (t.st k).queue, ∀ p ∈ e.eff.bytes, p.1 ∈ ls) : s.Travels (s.drain t k).1 (s.coreOf t) ls := by
  unfold State.drain
  split
  · exact .refl hp
  · exact State.leaveAll_travels t.block hp hq

/-- A drain leaves every task on its core. -/
theorem State.coreOf_drain (s : State) (t : Task) (k : StreamId) (x : Task) : (s.drain t k).1.coreOf x = s.coreOf x :=
  (State.drain_travels (ls := s.pathLocs (s.coreOf t) ++ (t.st k).queue.flatMap fun e => e.eff.bytes.map (·.1))
    (fun _ hl => List.mem_append_left _ hl)
    fun e he _ hm => List.mem_append_right _ (List.mem_flatMap.2 ⟨e, he, List.mem_map_of_mem hm⟩)).coreOf x

/-- Outside deterministic launches stores that are performed at a scope leave their stream's queue empty, and the rest of
the task as it was (R99). -/
theorem State.perform_task (s : State) (hd : t.det = false) (scope : Scope) :
    (s.perform t k scope).2 = t.setSt k { t.st k with queue := [] } := by
  unfold State.perform
  dsimp only
  split <;> exact s.drain_task k hd

/-- At .span scope or wider they land (R97, R99). -/
theorem State.perform_wide (hd : t.det = false) {scope : Scope} (hs : 2 ≤ scope.code) :
    (s.perform t k scope).1 = (s.drain t k).1.landAll (s.coreOf t) := by
  unfold State.perform
  dsimp only
  rw [s.drain_task k hd, Task.setSt_det, hd, Bool.false_or, if_neg (by simpa using Nat.lt_of_succ_le hs)]
  exact congrArg (s.drain t k).1.landAll (s.coreOf_drain t k t)

theorem State.perform_narrow (s : State) (t : Task) (k : StreamId) {scope : Scope} (hs : scope.code < 2) :
    s.perform t k scope = s.drain t k := by
  unfold State.perform
  dsimp only
  rw [decide_eq_true hs, Bool.or_true, if_pos rfl]

theorem State.perform_travels (hd : t.det = false) (hp : ∀ l ∈ s.pathLocs (s.coreOf t), l ∈ ls)
    (hq : ∀ e ∈ (t.st k).queue, ∀ p ∈ e.eff.bytes, p.1 ∈ ls) (scope : Scope) :
    s.Travels (s.perform t k scope).1 (s.coreOf t) ls := by
  have h := State.drain_travels hp hq
  by_cases hs : scope.code < 2
  · rwa [State.perform_narrow s t k hs]
  · rw [State.perform_wide hd (Nat.le_of_not_lt hs)]
    exact h.trans (State.landIf_travels h.path _)

end

/-! ### Fences (R99, R105) -/

/-- The count that a CWAIT leaves outstanding. -/
theorem toNat_cwaitCount (x : Word) (i : BitVec 13) : (x + i.zeroExtend 32).toNat = (x.toNat + i.toNat) % 2 ^ 32 := by
  rw [BitVec.toNat_add, BitVec.toNat_setWidth, Nat.mod_eq_of_lt (a := i.toNat) (by omega)]

theorem scope_wide : ∀ sc ∈ [Scope.span, .pkg, .fab], 2 ≤ sc.code := by decide

/-- An acquire at .span scope or wider leaves the core's L1 empty (R90). -/
theorem State.l1_acquire {s : State} {t : Task} (hd : t.det = false) {sc : Scope} (hs : 2 ≤ sc.code) :
    ((s.acquire t sc).core (s.coreOf t)).l1 = [] := by
  unfold State.acquire State.l1Clear
  dsimp only
  rw [hd, if_neg Bool.false_ne_true, if_neg (Nat.not_lt.2 hs)]
  split
  · exact List.isEmpty_iff.1 ‹_›
  · rw [State.core_setCore]

section
variable {s : State} {t : Task} {k : StreamId} (h : Issues s t k)
include h

theorem exec_fenceRel_free (hp : s.lanesPending t k = false) (sc : Scope) : let u := s.perform t k sc
    exec (.fenceRel sc) s = .next (u.1.retire u.2 k (u.2.st k)) := by
  refine exec_completes h (exec_fenceRel sc s) ?_
  rw [State.release_ok hp]
  rfl

theorem exec_fenceAr_free (hp : s.lanesPending t k = false) (sc : Scope) : let u := s.perform t k sc
    exec (.fenceAr sc) s = .next ((u.1.acquire u.2 sc).retire u.2 k (u.2.st k)) := by
  refine exec_completes h (exec_fenceAr sc s) ?_
  rw [State.release_ok hp]
  rfl

theorem exec_release_waits (hp : s.lanesPending t k = true) (sc : Scope) :
    exec (.fenceRel sc) s = .next (s.stall t k .lanes) ∧ exec (.fenceAr sc) s = .next (s.stall t k .lanes) := by
  refine ⟨exec_stalls h (exec_fenceRel sc s) ?_ nofun, exec_stalls h (exec_fenceAr sc s) ?_ nofun⟩ <;>
    rw [State.release_waits hp] <;> rfl

/-! ### CWAIT (R156) -/

/-- A CWAIT that begins waits for the copies but the `n` most recent, if one of them is outstanding. -/
theorem exec_cwait_begins (hw : ∀ ops, (t.st k).status ≠ .waiting (.cwait ops)) (a : BitVec 5) (i : BitVec 13) :
    let ops := t.cwaitSet ((((t.st k).reg a).toNat + i.toNat) % 2 ^ 32)
    (ops = [] → exec (.cwait a i) s = .next (s.retire t k (t.st k))) ∧
    (ops ≠ [] → exec (.cwait a i) s = .next (s.stall t k (.cwait ops))) := by
  intro ops
  refine ⟨fun h0 => exec_completes h (exec_cwait a i s) ?_, fun h0 => exec_stalls h (exec_cwait a i s) ?_ nofun⟩ <;>
    simp only [toNat_cwaitCount]
  · exact if_pos (List.isEmpty_iff.2 h0)
  · exact if_neg (mt List.isEmpty_iff.1 h0)

end

theorem Task.cwaitSet_eq_nil {t : Task} {n : Nat} : t.cwaitSet n = [] ↔ ∀ o ∈ t.cops, t.copies ≤ o.num + n := by
  simp [Task.cwaitSet, List.filter_eq_nil_iff]

/-- Settles O28: the fences by what a release performs and an acquire empties, CWAIT by the copies that it counts. -/
theorem fenceAndCopyWaitResults : Obligations.FenceAndCopyWaitResults := by
  refine ⟨fun s t k h => ⟨fun hp sc => ⟨exec_fenceRel_free h hp sc, exec_fenceAr_free h hp sc⟩, fun hp sc => exec_release_waits h hp sc,
    fun sc => exec_completes h (exec_fenceAcq sc s) rfl, exec_completes h (exec_fenceRo s) rfl, fun hd sc => ?_,
    fun hd sc hs => ?_, fun hd sc hs => State.l1_acquire hd (scope_wide sc hs)⟩, fun s t k h hw a i => ⟨fun hc => ?_, fun hc => ?_⟩⟩
  · rw [State.perform_task s hd, s.drain_task k hd, Task.st_setSt]
    exact ⟨rfl, rfl, fun j hj => Task.st_setSt_ne t _ hj⟩
  · rw [State.perform_wide hd (scope_wide sc hs)]
    exact State.landAll_out _ _
  · exact (exec_cwait_begins h hw a i).1 (Task.cwaitSet_eq_nil.2 hc)
  · refine (exec_cwait_begins h hw a i).2 fun e => ?_
    obtain ⟨o, ho, hn⟩ := hc
    exact Nat.not_le.2 hn (Task.cwaitSet_eq_nil.1 e o ho)

end Sys2Proof.Machine

namespace Sys2Proof.Machine

/-! ### What a store leaves at its home (R97, R108) -/

section
variable {s : State}

/-- Bytes put at distinct places are there. -/
theorem State.byteAt_putBytes_same {bs : List (Loc × Byte)} (h : s.bytesOk = true) (hn : (bs.map (·.1)).Nodup) {pa : Nat}
    {b : Byte} (hb : (Loc.mem pa, b) ∈ bs) : (s.putBytes bs).byteAt (.mem pa) = b := by
  induction bs generalizing s with
  | nil => cases hb
  | cons p bs ih =>
    rw [List.map_cons, List.nodup_cons] at hn
    rcases List.mem_cons.1 hb with rfl | hb
    · refine (State.byteAt_putBytes bs (State.putByte_ok h (.mem pa) b) hn.1).trans ?_
      exact (Memory.read_write (State.bytesOk_mem h) pa b pa).trans (if_pos rfl)
    · exact ih (State.putByte_ok h p.1 p.2) hn.2 hb

/-- Clearing the poison of a granule touches the record of its frame alone (R384). -/
theorem State.byteAt_clearPoison (h : s.bytesOk = true) {ls : List Loc} {l : Loc} (hl : l ∈ ls) {x : Loc}
    (hx : ¬ s.frameByte ls x) : (s.clearPoison (granule l)).byteAt x = s.byteAt x := by
  cases l with
  | mem pb =>
    simp only [granule, State.clearPoison]
    split
    · refine State.frameFlag_kept (s := { s with poison := s.poison.filter (· != pb / 32) }) h _ fun p i hp e => hx ?_
      exact ⟨pb, p, i, hl, (State.frameOf_page s (a := 32 * (pb / 32)) (b := pb) (by omega)).symm.trans hp, e⟩
    · rfl
  | scr b o =>
    simp only [granule, State.clearPoison]
    split
    · rename_i y hy
      cases x with
      | mem pa => rfl
      | scr v o' =>
        simp only [State.byteAt, State.block?_setBlock, Option.map_map]
        by_cases hv : v = b
        · subst hv
          simp [hy, State.block?_uid hy]
        · cases s.block? v <;> simp [State.block?_uid hy, hv]
    · rfl

/-- A store to distinct places that are no records of frames leaves its bytes at home. -/
theorem State.byteAt_applyBytes (h : s.bytesOk = true) {bs : List (Loc × Byte)} (hn : (bs.map (·.1)).Nodup)
    (hf : ∀ l ∈ bs.map (·.1), ¬ s.frameByte (bs.map (·.1)) l) {pa : Nat} {b : Byte} (hb : (Loc.mem pa, b) ∈ bs) :
    (s.applyBytes bs).byteAt (.mem pa) = b := by
  have hd := State.dirtyAll_ok (State.keepPast_ok h bs) bs
  have ho := ((State.keepPast_only s bs).trans (State.dirtyAll_only _ bs)).trans (State.putBytes_only _ bs)
  refine (State.foldl_kept State.clearPoison (fun u => u.bytesOk = true ∧ s.OnlyBytes u) _ _ ?_ _
    ⟨State.putBytes_ok hd bs, ho⟩).trans (State.byteAt_putBytes_same hd hn hb)
  intro u g ⟨hu, hs⟩ hg
  obtain ⟨l, hl, rfl⟩ := wholeGranules_mem hg
  refine ⟨⟨State.clearPoison_ok hu _, hs.trans (State.clearPoison_only u _)⟩, State.byteAt_clearPoison hu hl fun hx => ?_⟩
  exact hf _ (List.mem_map_of_mem hb) ((State.frameByte_congr hs.mgmt _ _).1 hx)

theorem State.mem_land (s : State) (c : Nat) (u : List (Loc × Byte)) : (s.land c u).mem = (s.applyBytes u).mem := by
  unfold State.land
  dsimp only
  split <;> exact State.l1Store_mem _ c u

/-! ### A store leaves its queue (R97) -/

section
variable {t : Task} {k : StreamId}

theorem atHomeAtOnce_mem (block : Nat) (us : List (List (Loc × Byte))) (pa : Nat) (b : Byte) :
    atHomeAtOnce block us (.mem pa, b) = false := Bool.and_false _

/-- The parties on a core see the bytes of memory that a store has just put on its path. -/
theorem State.seenByte_leaveQueue (s : State) (c block : Nat) {us : List (List (Loc × Byte))}
    (hn : (us.flatten.map (·.1)).Nodup) {pa : Nat} {b : Byte} (hb : (Loc.mem pa, b) ∈ us.flatten) :
    (s.leaveQueue c block us).seenByte c (.mem pa) = b := by
  obtain ⟨u, hu, hp⟩ := State.exists_farParts (s := s) hb (atHomeAtOnce_mem block us pa b)
  have hl : lastByte (s.farParts block us).flatten (.mem pa) = some b := by
    refine lastByte_some (List.mem_flatten.2 ⟨u, hu, hp⟩) fun q hq e => ?_
    obtain ⟨v, hv, hq⟩ := List.mem_flatten.1 hq
    exact congrArg Prod.snd (List.inj_on_of_nodup_map hn (State.mem_farParts hv hq) hb e)
  rw [State.seenByte, State.pathByte_eq, State.leaveQueue_eq, State.out_join, List.flatten_append, lastByte_append, hl]
  rfl

/-- A store to memory alone leaves every byte at its home as it was. -/
theorem State.leaveQueue_memory (s : State) (c block : Nat) {us : List (List (Loc × Byte))}
    (hm : ∀ l ∈ us.flatten.map (·.1), ∃ pa, l = .mem pa) : s.OnlyCores (s.leaveQueue c block us) := by
  have hnear : us.flatten.filter (atHomeAtOnce block us) = [] := by
    refine List.filter_eq_nil_iff.2 fun p hp => ?_
    obtain ⟨pa, e⟩ := hm _ (List.mem_map_of_mem hp)
    rw [atHomeAtOnce, e]
    exact Bool.not_eq_true _ ▸ Bool.and_false _
  rw [State.leaveQueue_eq, State.putHome, hnear]
  exact State.join_only s c _

/-- STORE_QUEUE_DRAIN of a stream with queued stores (R97). -/
theorem exec_storeQueueDrain_queued (ht : s.task? t.uid = some t) (hd : t.det = false) {e : QEntry} {es : List QEntry}
    (hq : (t.st k).queue = e :: es) : exec (.storeQueueDrain t.uid k) s =
      .next ((s.leaveQueue (s.coreOf t) t.block e.eff.parts).setTask (t.setSt k { t.st k with queue := es })) := by
  rw [exec_storeQueueDrain, execStoreQueueDrain, ht]
  simp only [hd, hq, State.drainOne, List.isEmpty_cons, Bool.false_eq_true, if_false]

/-- STORE_QUEUE_DRAIN of a stream with none: a part of its core's path reaches its home (R97). -/
theorem exec_storeQueueDrain_empty (ht : s.task? t.uid = some t) (hd : t.det = false) (hq : (t.st k).queue = []) :
    exec (.storeQueueDrain t.uid k) s = .next (s.landOne (s.coreOf t)) := by
  rw [exec_storeQueueDrain, execStoreQueueDrain, ht]
  simp only [hd, hq, List.isEmpty_nil, Bool.false_eq_true, if_false, if_true]

end

/-! ### A part leaves the path (R97, R98) -/

theorem partsMeet_eq_false {u v : List (Loc × Byte)} (h : partsMeet u v = false) : ∀ p ∈ u, ∀ q ∈ v, p.1 ≠ q.1 :=
  fun p hp q hq e => Bool.false_ne_true
    (h.symm.trans (List.any_eq_true.2 ⟨p, hp, List.any_eq_true.2 ⟨q, hq, beq_iff_eq.2 e⟩⟩))

/-- Of the parts equal to one that stands behind none that shares a byte with it, the first stands so too, and it is the one
that is taken out. -/
theorem erase_unmet {us pre post : List (List (Loc × Byte))} {u : List (Loc × Byte)} (he : us = pre ++ u :: post)
    (hp : ∀ v ∈ pre, partsMeet v u = false) :
    ∃ pre post, us = pre ++ u :: post ∧ us.erase u = pre ++ post ∧ ∀ v ∈ pre, partsMeet v u = false := by
  obtain ⟨pre', post', he', hn, hp'⟩ : ∃ pre post, us = pre ++ u :: post ∧ u ∉ pre ∧ ∀ v ∈ pre, partsMeet v u = false := by
    cases u with
    | nil =>
      obtain ⟨pre, post, he, hn⟩ := List.eq_append_cons_of_mem (he ▸ List.mem_append_right _ (List.mem_cons_self ..) : [] ∈ us)
      exact ⟨pre, post, he, hn, fun v _ => by simp [partsMeet]⟩
    | cons p u => exact ⟨pre, post, he, fun hm => by simpa [partsMeet] using hp _ hm, hp⟩
  exact ⟨pre', post', he', by rw [he', List.erase_append_right _ hn, List.erase_cons_head], hp'⟩

/-- The part that lands in the place of the one at `i` stands behind none that shares a byte with it. -/
theorem frontOf_take {us : List (List (Loc × Byte))} {i : Nat} (hi : i < us.length) (d : List (Loc × Byte)) :
    ∃ pre post, us = pre ++ frontOf (nth us i d) (us.take i).reverse :: post ∧
      ∀ v ∈ pre, partsMeet v (frontOf (nth us i d) (us.take i).reverse) = false := by
  obtain ⟨pre, post, he, hp⟩ := frontOf_split (us.take i).reverse (nth us i d)
  refine ⟨pre, post ++ us.drop (i + 1), ?_, hp⟩
  have hn : nth us i d = us[i] := by rw [nth, List.getElem?_eq_getElem hi, Option.getD_some]
  rw [← List.cons_append, ← List.append_assoc, ← he, List.reverse_reverse, hn, List.take_append_getElem,
    List.take_append_drop]

/-- The part that lands is one of the path that shares no byte with what stands before it. -/
theorem State.landOne_eq {c : Nat} (ho : (s.core c).out ≠ []) : ∃ pre u post, (s.core c).out = pre ++ u :: post ∧
    (∀ v ∈ pre, partsMeet v u = false) ∧
    s.landOne c = (s.setCore c { s.core c with out := pre ++ post }).land c u := by
  obtain ⟨w, ws, hw⟩ := List.exists_cons_of_ne_nil ho
  obtain ⟨pre, post, he, hp⟩ := frontOf_take (us := w :: ws)
    (i := (Config.freeWord s.fresh 6000000).toNat % (ws.length + 1)) (Nat.mod_lt _ (Nat.succ_pos _)) w
  obtain ⟨pre, post, he, herase, hp⟩ := erase_unmet he hp
  refine ⟨pre, _, post, hw.trans he, hp, ?_⟩
  rw [← herase]
  unfold State.landOne
  simp only [hw]

end

/-- Settles O22: a store that leaves its queue, and a part that leaves the path. -/
theorem storesDrainToTheirHomes : Obligations.StoresDrainToTheirHomes := by
  intro s t k hs ht hd core
  refine ⟨fun e es hq => ?_, fun hq ho => ?_⟩
  · intro ls hn _
    have hc := s.leaveQueue_carries core t.block e.eff.parts
    refine ⟨_, exec_storeQueueDrain_queued ht hd hq, State.task?_setTask _ (t.setSt k _) ?_, fun pa b hb => ?_, fun hm => ?_,
      fun l hl hfr => ?_, hc.ok hs⟩
    · rw [Task.setSt_uid, State.task?_of_tasks hc.tasks, ht]
      rfl
    · exact s.seenByte_leaveQueue core t.block hn hb
    · have ho := s.leaveQueue_memory core t.block hm
      exact ⟨ho.mem, fun l => (State.setTask_byteAt _ _ l).trans (ho.byteAt l)⟩
    · exact (State.setTask_byteAt _ _ l).trans (hc.kept hs l hl hfr)
  · obtain ⟨pre, u, post, he, hp, hl⟩ := State.landOne_eq ho
    let v := s.setCore core { s.core core with out := pre ++ post }
    have hv : s.Carries v (u.map (·.1)) := s.setCore_carries core _ _
    have hc := hv.trans (v.land_carries core u)
    refine ⟨v.land core u, pre, u, post, (exec_storeQueueDrain_empty ht hd hq).trans (congrArg _ hl), he, ?_,
      fun w hw => partsMeet_eq_false (hp w hw),
      fun hn hf pa b hb => ?_, hc.kept hs, hc.ok hs⟩
    · rw [State.land_out, State.core_setCore]
    · rw [State.mem_land]
      exact State.byteAt_applyBytes (hv.ok hs) hn (fun l hl hx => hf l hl ((State.frameByte_congr hv.mgmt _ _).1 hx)) hb

end Sys2Proof.Machine

namespace Sys2Proof.Machine

/-! ### What a load leaves (R90, R96, R144) -/

section
variable {s : State} {t : Task} {k : StreamId}

theorem State.core_caches (s : State) (d : List (Nat × TlbEnt)) (w : List WalkEnt) (c : Nat) :
    ({ s with dieTlbs := d, walks := w } : State).core c = s.core c := rfl

theorem State.out_tlbFill (s : State) (a : Accessor) (va : Nat) :
    ((s.tlbFill a va).core a.core).out = (s.core a.core).out := by
  unfold State.tlbFill
  split
  · rfl
  · split
    · dsimp only
      split
      · rfl
      · rw [State.core_caches, State.core_setCore]
    · rfl

theorem State.pathLocs_tlbFillRange (s : State) (a : Accessor) (va n : Nat) :
    (s.tlbFillRange a va n).pathLocs a.core = s.pathLocs a.core :=
  List.foldlRecOn (motive := fun u : State => u.pathLocs a.core = s.pathLocs a.core) _ _ rfl fun u hu p _ => by
    split
    · exact hu
    · exact (congrArg (fun o => o.flatten.map (·.1)) (u.out_tlbFill a p.1)).trans hu

/-- The translations that an access uses leave the path and every byte as they were. -/
theorem State.tlbFillRange_travels {ls : List Loc} (hp : ∀ l ∈ s.pathLocs (s.coreOf t), l ∈ ls) (va n : Nat) :
    s.Travels (s.tlbFillRange (t.accessor s) va n) (s.coreOf t) ls where
  carries := (State.tlbFillRange_only s _ va n).carries ls
  coreOf := (State.tlbFillRange_only s _ va n).coreOf
  path := (s.pathLocs_tlbFillRange (t.accessor s) va n).symm ▸ hp

/-- A load changes only the places of the stores that it waits for and of those on its core's path. -/
theorem State.afterLoad_carries {ls : List Loc} (hp : ∀ l ∈ s.pathLocs (s.coreOf t), l ∈ ls)
    (hq : ∀ e ∈ (t.st k).queue, ∀ p ∈ e.eff.bytes, p.1 ∈ ls) (va n : Nat) (at_ : List Loc) :
    s.Carries (s.afterLoad t k va n at_).1 ls := by
  have hv := State.tlbFillRange_travels hp va n
  have hd : s.Carries ((s.tlbFillRange (t.accessor s) va n).drain t k).1 ls :=
    hv.carries.trans (State.drain_travels (by rw [hv.coreOf]; exact hv.path) hq).carries
  have hf : ∀ u : State, s.Carries u ls → ∀ c, s.Carries (u.l1Fill c at_) ls :=
    fun u hu c => hu.trans ((u.l1Fill_only c at_).carries ls)
  unfold State.afterLoad
  dsimp only
  split
  · exact hv.carries
  · split <;> split <;> first | exact hv.carries | exact hd | exact hf _ hv.carries _ | exact hf _ hd _

/-- Of its task it changes at most its stream's queue. -/
theorem State.afterLoad_task (s : State) (t : Task) (k : StreamId) (va n : Nat) (at_ : List Loc) :
    ∃ q, (s.afterLoad t k va n at_).2 = t.setSt k { t.st k with queue := q } := by
  have same : t = t.setSt k { t.st k with queue := (t.st k).queue } := (t.setSt_st k).symm
  unfold State.afterLoad
  dsimp only
  split
  · exact ⟨_, same⟩
  · rename_i hd
    have hdrain := State.drain_task (s.tlbFillRange (t.accessor s) va n) k (Bool.not_eq_true _ ▸ hd)
    split <;> split <;> first | exact ⟨_, same⟩ | exact ⟨_, hdrain⟩

/-- Of a stream with no queued store it changes the caches alone. -/
theorem State.afterLoad_only (hq : (t.st k).queue = []) (va n : Nat) (at_ : List Loc) :
    s.OnlyCores (s.afterLoad t k va n at_).1 := by
  have hv := State.tlbFillRange_only s (t.accessor s) va n
  have hnone : (at_.filter fun l => (queueByte (t.st k).queue l).isSome).isEmpty = true := by
    rw [hq]
    exact List.isEmpty_iff.2 (List.filter_eq_nil_iff.2 fun _ _ => by simp [queueByte])
  unfold State.afterLoad
  dsimp only
  rw [hnone, Bool.true_or, if_pos rfl]
  split
  · exact hv
  · split
    · exact hv
    · exact hv.trans (State.l1Fill_only _ _ _)

/-- With no queued store, no line in L1 and nothing on the path a load returns what memory and scratch hold. -/
theorem State.loadBytes_home (hq : (t.st k).queue = []) (hd : t.det = false) (hl : (s.core (s.coreOf t)).l1 = [])
    (ho : (s.core (s.coreOf t)).out = []) (ls : List Loc) : s.loadBytes t k ls = ls.map s.byteAt := by
  have hp : ∀ l, s.pathByte (s.coreOf t) l = none := fun l => by rw [State.pathByte, ho]; rfl
  unfold State.loadBytes
  rw [hd, hq, if_neg Bool.false_ne_true]
  refine List.map_congr_left fun l _ => ?_
  rw [hp]
  cases l with
  | mem pa =>
    simp only [State.l1Byte, hl]
    rfl
  | scr b o => rfl

/-! ### What an atomic leaves (R102, R147, R148) -/

theorem State.applyBytes_carries (s : State) (bs : List (Loc × Byte)) : s.Carries (s.applyBytes bs) (bs.map (·.1)) :=
  ⟨(s.applyBytes_only bs).mgmt, (s.applyBytes_only bs).tasks, fun h => State.applyBytes_ok h bs,
    fun h => State.applyBytes_kept h bs⟩

/-- An atomic changes its own places, those of its stream's queued stores and those on its core's path, before its stream
retires. -/
theorem State.afterAtomic_carries {ls : List Loc} (hd : t.det = false) (hp : ∀ l ∈ s.pathLocs (s.coreOf t), l ∈ ls)
    (hq : ∀ e ∈ (t.st k).queue, ∀ p ∈ e.eff.bytes, p.1 ∈ ls) {va n : Nat}
    (hl : ∀ l ∈ s.locs (t.accessor s) va n true, l ∈ ls) (scope : Scope) (ret : RetTo) (new : Nat → Option Nat) :
    ∃ u old, s.Carries u ls ∧ s.afterAtomic t k va n scope ret new =
      u.retire (t.setSt k { t.st k with queue := [] }) k (StreamSt.putRet { t.st k with queue := [] } ret old) := by
  have hv := State.tlbFillRange_travels hp va n
  have hu : s.Travels ((s.tlbFillRange (t.accessor s) va n).perform t k scope).1 (s.coreOf t) ls :=
    hv.trans (hv.coreOf t ▸ State.perform_travels hd (by rw [hv.coreOf]; exact hv.path) hq scope)
  have hh := hu.carries.trans (State.landIf_travels hu.path
    fun u => u.any fun p => (s.locs (t.accessor s) va n true).any fun l => slotAt l == slotAt p.1).carries
  have hw : ∀ {w : State}, s.Carries w ls → ∀ c x,
      s.Carries ((w.l1Drop c (s.locs (t.accessor s) va n true)).acquire x scope) ls := fun hw c x =>
    hw.trans (((State.l1Drop_only _ _ _).trans (State.acquire_only _ _ _)).carries ls)
  unfold State.afterAtomic
  dsimp only
  rw [State.perform_task _ hd, Task.st_setSt]
  refine ⟨_, _, hw ?_ _ _, rfl⟩
  split
  · refine hh.trans ((State.applyBytes_carries _ _).mono fun l hm => ?_)
    obtain ⟨p, hp, rfl⟩ := List.mem_map.1 hm
    exact hl _ (List.of_mem_zip (a := p.1) (b := p.2) hp).1
  · exact hh

/-- A destination of 32 bits, or none, is all that a returning operation changes of its stream. -/
theorem StreamSt.putRet_cases {d : BitVec 5} {ret : RetTo} (hr : ret = .none ∨ ret = .sreg d) (st : StreamSt) (v : Nat) :
    st.putRet ret v = st ∨ ∃ w, st.putRet ret v = st.setReg d w := by
  rcases hr with rfl | rfl
  · exact .inl rfl
  · exact .inr ⟨_, rfl⟩

/-- A stream that retires after its stores have travelled leaves its task but for the register `d`, every other task, and
every byte but theirs. -/
theorem State.Carries.retire {u : State} {ls : List Loc} (hc : s.Carries u ls) (hs : s.bytesOk = true)
    (ht : s.task? t.uid = some t) {x st : StreamSt} {q : List QEntry} (hx : x = { t.st k with queue := q }) {d : BitVec 5}
    (hst : st = x ∨ ∃ w, st = x.setReg d w) :
    let s' := u.retire (t.setSt k x) k st
    ∃ t', s'.task? t.uid = some t' ∧ TaskFrame t t' k [d] ∧ (t'.st k).pc = (t.st k).pc + 4 ∧
      (∀ r, (t'.st k).reg r = st.reg r) ∧ (∀ n, n ≠ t.uid → s'.task? n = s.task? n) ∧ BytesKept s s' ls := by
  have htask := State.task?_of_tasks hc.tasks
  have hreg : ∀ r, r ∉ [d] → st.reg r = x.reg r := fun r hr => by
    rcases hst with e | ⟨w, e⟩
    · rw [e]
    · rw [e, StreamSt.reg_setReg, if_neg fun h => hr (List.mem_singleton.2 h.1)]
  have hrest : st.pc = x.pc ∧ st.fpmode = x.fpmode ∧ st.fpflags = x.fpflags := by
    rcases hst with e | ⟨w, e⟩ <;> simp [e]
  subst hx
  obtain ⟨hpc, hmode, hflags⟩ := hrest
  refine ⟨_, State.task?_retire (t := t.setSt k _) k st 1 ?_, ?_, ?_, fun r => ?_, fun n hn => ?_, fun l hl hfr => ?_⟩
  · rw [Task.setSt_uid, htask, ht]
    rfl
  · rw [Task.setSt_setSt]
    exact TaskFrame.setSt hreg hmode hflags
  · rw [Task.st_setSt, Task.advance_pc, hpc]
    rfl
  · rw [Task.st_setSt, Task.advance_reg]
  · exact (State.task?_retire_ne u (t.setSt k _) k st 1 hn).trans (htask n)
  · exact (State.byteAt_retire u _ k st 1 l).trans (hc.kept hs l hl hfr)

end

/-- The places of the stores that a stream has queued. -/
def StreamSt.queueLocs (st : StreamSt) : List Loc := st.queue.flatMap fun e => e.eff.bytes.map (·.1)

theorem StreamSt.mem_queueLocs {st : StreamSt} {e : QEntry} (he : e ∈ st.queue) {p : Loc × Byte} (hp : p ∈ e.eff.bytes) :
    p.1 ∈ st.queueLocs := List.mem_flatMap.2 ⟨e, he, List.mem_map_of_mem hp⟩

/-- Settles O25: a load by what it drains and reads, an atomic by what it performs and writes. -/
theorem loadAndAtomicFrame : Obligations.LoadAndAtomicFrame := by
  refine ⟨fun s t k h hs a i r hr d => ?_, fun s t k hs ht hd va n scope d new ret hret => ?_⟩
  · intro va hc
    have he := (exec_loadRows r hr d a i s).trans (loadOp_ok (ro := false) h rfl hc _)
    have hcar := State.afterLoad_carries (s := s) (t := t) (k := k) (ls := (t.st k).queueLocs ++ s.pathLocs (s.coreOf t))
      (fun _ hl => List.mem_append_right _ hl) (fun e he p hp => List.mem_append_left _ (StreamSt.mem_queueLocs he hp)) va
      r.2.1 (s.locs (t.accessor s) va r.2.1 false)
    obtain ⟨q, hu⟩ := s.afterLoad_task t k va r.2.1 (s.locs (t.accessor s) va r.2.1 false)
    rw [hu, Task.st_setSt] at he
    obtain ⟨t', ht', hframe, -, hreg, -, hbytes⟩ := hcar.retire hs h.task rfl (.inr ⟨_, rfl⟩)
    refine ⟨_, t', he, ht', hframe, hbytes, fun hq hd hl ho => ⟨fun l => ?_, fun hne => ?_⟩⟩
    · exact (State.byteAt_retire _ _ k _ 1 l).trans ((State.afterLoad_only hq va r.2.1 _).byteAt l)
    · rw [hreg, StreamSt.reg_setReg, if_pos ⟨rfl, hne⟩, State.loadBytes_home hq hd hl ho]
  · obtain ⟨u, old, hcar, he⟩ := State.afterAtomic_carries (s := s) (t := t) (k := k)
      (ls := s.locs (t.accessor s) va n true ++ (t.st k).queueLocs ++ s.pathLocs (s.coreOf t)) hd
      (fun _ hl => List.mem_append_right _ hl)
      (fun e he p hp => List.mem_append_left _ (List.mem_append_right _ (StreamSt.mem_queueLocs he hp)))
      (fun _ hl => List.mem_append_left _ (List.mem_append_left _ hl)) scope ret new
    intro s'
    rw [show s' = _ from he]
    obtain ⟨t', ht', hframe, hpc, -, hothers, hbytes⟩ := hcar.retire (k := k) hs ht rfl (StreamSt.putRet_cases hret _ old)
    exact ⟨t', ht', hframe, hpc, hothers, hbytes⟩

end Sys2Proof.Machine

namespace Sys2Proof.Machine

/-! ### Channels, places and counters (R369, R373, R427, R428) -/

section
variable {s : State}

theorem exec_selfRefreshEntry_idle {ch : Channel} (hi : s.mfield 0x188 0 16 ≠ 0) (hd : Channel.dieNo ch < 4)
    (hm : ch ∉ s.selfRefresh) :
    exec (.selfRefreshEntry ch) s = .next { s with selfRefresh := s.selfRefresh ++ [ch] } := by
  rw [exec_selfRefreshEntry, execSelfRefreshEntry, if_neg]
  simp [hi, hd, hm]

theorem exec_selfRefreshExit_awake {ch : Channel} (hp : s.byder.power ≠ .sleep) :
    ∃ s', exec (.selfRefreshExit ch) s = .next s' ∧ ch ∉ s'.selfRefresh :=
  ⟨s.wakeChannel ch, congrArg _ (if_neg hp), by simp [State.wakeChannel]⟩

/-- What stands at a place that software's addresses reach is its own sector. -/
theorem State.dramAt_own {sector : Nat} {x : Nat × Nat × Bool} (h : physDie s.byder.cacheMode (32 * sector) = some x) :
    s.dramAt sector = some (x.1, x.2.2, some sector) := by
  rw [State.dramAt, h]

/-- What stands elsewhere stands in HBM (R372). -/
theorem State.dramAt_hbm {sector : Nat} (h : physDie s.byder.cacheMode (32 * sector) = none) :
    (s.dramAt sector).all (fun y => y.2.1) = true := by
  rw [State.dramAt, h]
  cases physDie false (32 * sector) <;> rfl

theorem State.scrubAt_own {sector : Nat} {x : Nat × Nat × Bool} (h : physDie s.byder.cacheMode (32 * sector) = some x)
    (hs : inShadow (32 * sector) = true → s.shadowHeld x.1 = true) : s.scrubAt sector = some (x.1, x.2.2, some sector) := by
  rw [State.scrubAt, State.dramAt_own h, Option.bind_some, if_neg]
  cases hi : inShadow (32 * sector)
  · simp
  · simp [hs hi]

/-- What a scrub of a place does to the memory that it reached, by what it found there (R428). -/
def State.scrubbed (s : State) (die : Nat) (hbm : Bool) (place : Option Nat) : ScrubFound → State
  | .clean => s
  | .correctable => s.countMreg (sectorReg die hbm) 0
  | .uncorrectable => (place.elim s fun g => s.setPoison (.mem g)).countMreg (sectorReg die hbm) 32

/-- A scrub of a place wakes its channel, and then does what it found, unless a write was first (R373, R428). -/
theorem exec_scrubRead_at {sector die : Nat} {hbm : Bool} {place : Option Nat} {ch : Channel}
    (hx : s.scrubAt sector = some (die, hbm, place)) (hm : s.mgmtOpen = true) (hc : channelOf false (32 * sector) = some ch)
    (hi : s.mfield (0x3230 + 0x80 * die) 0 16 ≠ 0) (f : ScrubFound) (raced : Bool) :
    exec (.scrubRead sector f raced) s =
      .next (if raced then s.wakeChannel ch else (s.wakeChannel ch).scrubbed die hbm place f) := by
  have hr : dieRegs die + 0x30 = 0x3230 + 0x80 * die := by unfold dieRegs; omega
  rw [exec_scrubRead, execScrubRead, hx]
  simp only [hr, hi, hm, hc, decide_false, Bool.not_true, Bool.or_false, Bool.false_eq_true, if_false]
  cases f with
  | clean => rfl
  | correctable => rfl
  | uncorrectable => cases place <;> rfl

/-- A saturating counter counts one more (R427). -/
theorem State.mfield_countMreg (s : State) (off : Nat) {lo : Nat} (h : lo + 32 ≤ 64) :
    (s.countMreg off lo).mfield off lo 32 = Nat.min 0xFFFFFFFF (s.mfield off lo 32 + 1) := by
  rw [State.countMreg, State.mfield_setMfield s off _ h]
  exact Nat.mod_eq_of_lt (Nat.lt_of_le_of_lt (Nat.min_le_left _ _) (by decide))

/-- A register after others have been cleared, one by one. -/
theorem State.mreg_foldl_clear (off : Nat → Nat) (o : Nat) : ∀ (l : List Nat) (s : State),
    (l.foldl (fun s i => s.setMreg (off i) 0) s).mreg o = if ∃ i ∈ l, o = off i then 0 else s.mreg o
  | [], s => by simp
  | i :: l, s => by
    rw [List.foldl_cons, State.mreg_foldl_clear off o l, State.mreg_setMreg]
    by_cases h : ∃ j ∈ l, o = off j <;> by_cases hi : o = off i <;> simp [h, hi]

/-- CLR clears the five counters of its die, and no other register (R427). -/
theorem exec_clr_open (hm : s.mgmtOpen = true) {die : Nat} (hd : die < 4) : ∃ s', exec (.clr die) s = .next s' ∧
    (∀ i, i < 5 → s'.mreg (0x3200 + 0x80 * die + 8 * i) = 0) ∧
    ∀ off, (∀ i, i < 5 → off ≠ 0x3200 + 0x80 * die + 8 * i) → s'.mreg off = s.mreg off := by
  have hu : ∀ {i}, i ∈ upto 5 ↔ i < 5 := by simp [upto_eq_range]
  refine ⟨_, (exec_clr die s).trans ((State.command_open hm _).trans (congrArg _ (if_pos hd))), fun i hi => ?_, fun off ho => ?_⟩
  · rw [State.mreg_foldl_clear, if_pos ⟨i, hu.2 hi, rfl⟩]
  · rw [State.mreg_foldl_clear, if_neg, State.wakeIdle_mreg]
    rintro ⟨i, hi, he⟩
    exact ho i (hu.1 hi) he

end

/-! ### Retiring a slice (R431, R432) -/

theorem getLsbD_retired (m : BitVec 16) (k j : BitVec 4) :
    (m ||| (1 <<< k.toNat)).getLsbD j.toNat = (m.getLsbD j.toNat || j == k) := by
  rw [BitVec.getLsbD_or]
  congr 1
  revert k j
  decide

/-- A slice that has not retired, where one has not, is the one that a bucket moves to. -/
theorem leastSlice_free {retired : BitVec 16} (h : ∃ k, k < 16 ∧ retired.getLsbD k = false) (tbl : List Nat) :
    leastSlice tbl retired < 16 ∧ retired.getLsbD (leastSlice tbl retired) = false := by
  have hfree : ∀ {k}, k ∈ (upto 16).filter (fun k => !(retired.getLsbD k)) ↔ k < 16 ∧ retired.getLsbD k = false := by
    simp [upto_eq_range]
  unfold leastSlice
  dsimp only
  split
  · rename_i e
    obtain ⟨k, hk⟩ := h
    exact absurd (hfree.2 hk) (e ▸ List.not_mem_nil)
  · rename_i k ks e
    rw [← hfree, e]
    refine List.foldlRecOn (motive := (· ∈ k :: ks)) ks _ (List.mem_cons_self ..) fun b hb x hx => ?_
    split
    · exact List.mem_cons_of_mem _ hx
    · exact hb

/-- A bucket of the slice `k` has moved to a slice that has not retired, any other has stayed. -/
def Moved (retired : BitVec 16) (k old new : Nat) : Prop :=
  (old ≠ k → new = old) ∧ (old = k → new < 16 ∧ retired.getLsbD new = false)

/-- The table after the first `n` buckets have had their turn (R432 step 1). -/
def moveFirst (retired : BitVec 16) (k : Nat) (tbl : List Nat) (n : Nat) : List Nat :=
  (List.range n).foldl (fun t b => if nth t b 0 = k then t.set b (leastSlice (t.set b 99) retired) else t) tbl

theorem moveBuckets_eq (retired : BitVec 16) (k : Nat) (tbl : List Nat) :
    moveBuckets retired k tbl = moveFirst retired k tbl 64 := by
  rw [moveBuckets, upto_eq_range, moveFirst]

theorem moveFirst_succ (retired : BitVec 16) (k : Nat) (tbl : List Nat) (n : Nat) :
    moveFirst retired k tbl (n + 1) = if nth (moveFirst retired k tbl n) n 0 = k
      then (moveFirst retired k tbl n).set n (leastSlice ((moveFirst retired k tbl n).set n 99) retired)
      else moveFirst retired k tbl n := by
  rw [moveFirst, List.range_succ, List.foldl_append]
  rfl

/-- Buckets move in ascending order: after the first `n`, those have moved and the rest stand as they stood (R432). -/
theorem moveFirst_moved {retired : BitVec 16} (h : ∃ k, k < 16 ∧ retired.getLsbD k = false) (k : Nat) {tbl : List Nat} :
    ∀ n, n ≤ tbl.length → (moveFirst retired k tbl n).length = tbl.length ∧
      ∀ b, (b < n → Moved retired k (nth tbl b 0) (nth (moveFirst retired k tbl n) b 0)) ∧
        (n ≤ b → nth (moveFirst retired k tbl n) b 0 = nth tbl b 0)
  | 0, _ => ⟨rfl, fun b => ⟨nofun, fun _ => rfl⟩⟩
  | n + 1, hn => by
    obtain ⟨hlen, hb⟩ := moveFirst_moved h k (tbl := tbl) n (by omega)
    have hold := (hb n).2 (Nat.le_refl n)
    rw [moveFirst_succ, hold]
    by_cases hk : nth tbl n 0 = k
    · rw [if_pos hk]
      refine ⟨(List.length_set ..).trans hlen, fun b => ?_⟩
      rw [nth_set (moveFirst retired k tbl n) n b _ 0 (by omega)]
      by_cases hbn : b = n
      · subst hbn
        rw [if_pos rfl]
        exact ⟨fun _ => ⟨fun hne => absurd hk hne, fun _ => leastSlice_free h _⟩, fun hle => by omega⟩
      · rw [if_neg hbn]
        exact ⟨fun hlt => (hb b).1 (by omega), fun hle => (hb b).2 (by omega)⟩
    · rw [if_neg hk]
      refine ⟨hlen, fun b => ⟨fun hlt => ?_, fun hle => (hb b).2 (by omega)⟩⟩
      by_cases hbn : b = n
      · subst hbn
        exact ⟨fun _ => hold, fun he => absurd he hk⟩
      · exact (hb b).1 (by omega)

theorem moveBuckets_moved {retired : BitVec 16} (h : ∃ k, k < 16 ∧ retired.getLsbD k = false) (k : Nat) {tbl : List Nat}
    (hl : tbl.length = 64) {b : Nat} (hb : b < 64) : Moved retired k (nth tbl b 0) (nth (moveBuckets retired k tbl) b 0) := by
  rw [moveBuckets_eq]
  exact ((moveFirst_moved h k 64 (Nat.le_of_eq hl.symm)).2 b).1 hb

section
variable {s : State}

theorem State.retiredMask_setMfield_low (s : State) (die : Nat) {lo len x : Nat} (h : lo + len ≤ 16) :
    (s.setMfield (sliceRegs die) lo len x).retiredMask die = s.retiredMask die := by
  rw [State.retiredMask, State.mfield_setMfield_ne s _ x (by omega) (.inr h)]
  rfl

/-- RETIRED of a die with a slice added. -/
def State.retiredWith (s : State) (die : Nat) (k : BitVec 4) : BitVec 16 := s.retiredMask die ||| (1 <<< k.toNat)

theorem State.retiredMask_retireSlice (s : State) (die : Nat) (k : BitVec 4) :
    (s.retireSlice die k).retiredMask die = s.retiredWith die k := by
  have h : (s.retireSlice die k).mfield (sliceRegs die) 16 16 = (s.retiredWith die k).toNat :=
    (s.mfield_setMfield (sliceRegs die) _ (by omega)).trans (Nat.mod_eq_of_lt (BitVec.isLt _))
  rw [State.retiredMask, h, BitVec.ofNat_toNat, BitVec.setWidth_eq]

/-- With fewer than four slices of its die retired, one more leaves some that have not (R431). -/
theorem State.exists_unretired {die : Nat} (h : s.retiredCount die < 4) (k : BitVec 4) :
    ∃ j, j < 16 ∧ (s.retiredWith die k).getLsbD j = false := by
  have hothers : ∀ k : BitVec 4, 4 ≤ (upto 16).countP (fun j => j != k.toNat) := by decide
  by_contra hall
  have hset : ∀ j ∈ upto 16, (j != k.toNat) = true → (s.retiredMask die).getLsbD j = true := fun j hj hne => by
    have hlt : j < 16 := by simpa [upto_eq_range] using hj
    have hj' := getLsbD_retired (s.retiredMask die) k (BitVec.ofNat 4 j)
    rw [BitVec.toNat_ofNat, Nat.mod_eq_of_lt (by omega : j < 2 ^ 4)] at hj'
    have hnk : (BitVec.ofNat 4 j == k) = false := by
      refine beq_eq_false_iff_ne.2 fun e => ?_
      simp [← e, Nat.mod_eq_of_lt hlt] at hne
    rw [hnk, Bool.or_false] at hj'
    exact hj' ▸ Bool.of_not_eq_false fun hf => hall ⟨j, hlt, hf⟩
  rw [State.retiredCount, ← List.countP_eq_length_filter] at h
  exact absurd (Nat.le_trans (hothers k) (List.countP_mono_left hset)) (Nat.not_le.2 h)

/-! #### The command (R431) -/

/-- The answer of RETIRE stands in RESULT and leaves the rest. -/
theorem exec_retire_open (hm : s.mgmtOpen = true) {die : Nat} (hd : die < 4) {k : BitVec 4} {c : State}
    (hc : c = s.wakeIdle.setMfield (sliceRegs die) 0 4 k.toNat) :
    exec (.retire die k) s = .next (if (c.retiredMask die).getLsbD k.toNat then c.setMfield (sliceRegs die) 8 4 1
      else if 4 ≤ c.retiredCount die then c.setMfield (sliceRegs die) 8 4 2
      else (c.retireSlice die k).setMfield (sliceRegs die) 8 4 0) := by
  rw [exec_retire, execRetire, State.command_open hm, if_neg (Nat.not_le.2 hd), hc]

/-- A slice that retires gives its buckets to slices that have not (R432). -/
theorem State.retireSlice_moves (s : State) {die : Nat} (hd : die < s.buckets.length)
    (hl : (nth s.buckets die []).length = 64) (hn : s.retiredCount die < 4) (k : BitVec 4) {b : Nat} (hb : b < 64) :
    Moved ((s.retireSlice die k).retiredMask die) k.toNat (nth (nth s.buckets die []) b 0)
      (nth (nth (s.retireSlice die k).buckets die []) b 0) := by
  have hbk : nth (s.retireSlice die k).buckets die [] =
      moveBuckets (s.retiredWith die k) k.toNat (nth s.buckets die []) := by
    refine (nth_set s.buckets die die _ [] hd).trans (if_pos rfl)
  rw [hbk, State.retiredMask_retireSlice]
  exact moveBuckets_moved (s.exists_unretired hn k) k.toNat hl hb

/-! #### Byder's own retirement (R431) -/

/-- THRESH of a die's slices. -/
theorem threshReg (die : Nat) : 0x3408 + 0x40 * die = sliceRegs die + 8 := by unfold sliceRegs; omega

/-- A slice whose corrected errors have not reached THRESH, or that has retired, or whose die has lost four slices, stays. -/
def State.SliceQuiet (s : State) (die : Nat) (k : BitVec 4) : Prop :=
  s.mfield (sliceRegs die + 8) 0 16 = 0 ∨
    s.mfield (sliceCe die k).1 (sliceCe die k).2 16 < s.mfield (sliceRegs die + 8) 0 16 ∨
    (s.retiredMask die).getLsbD k.toNat = true ∨ 4 ≤ s.retiredCount die

theorem State.autoRetire_quiet {die : Nat} {k : BitVec 4} (h : s.SliceQuiet die k) : s.autoRetire die k = s := by
  refine if_pos ?_
  obtain h | h | h | h := h <;> simp [h]

theorem State.autoRetire_reached {die : Nat} {k : BitVec 4} (h : ¬ s.SliceQuiet die k) (hm : s.byder.mode = .normal) :
    s.autoRetire die k = s.retireSlice die k := by
  simp only [State.SliceQuiet, not_or] at h
  obtain ⟨hz, hlt, hr, hn⟩ := h
  exact if_neg (by simp [hz, hlt, hr, hn, hm])

/-- The count of a slice lies in a register of its own, apart from THRESH and from the die's counters. -/
theorem sliceCe_place {die : Nat} (hd : die < 4) (k : BitVec 4) : (sliceCe die k).2 + 16 ≤ 64 ∧
    (sliceCe die k).1 ≠ dieRegs die + 0x10 ∧ sliceRegs die + 8 ≠ (sliceCe die k).1 ∧
    sliceRegs die + 8 ≠ dieRegs die + 0x10 := by
  unfold sliceCe sliceRegs dieRegs
  dsimp only
  omega

theorem State.mfield_countSlice (s : State) {die : Nat} (hd : die < 4) (k : BitVec 4) (n : Nat) :
    (s.countSlice die k n).mfield (sliceCe die k).1 (sliceCe die k).2 16 =
      Nat.min 0xFFFF (s.mfield (sliceCe die k).1 (sliceCe die k).2 16 + n) := by
  obtain ⟨hlo, hreg, -, -⟩ := sliceCe_place hd k
  refine (State.mfield_setMfield_off _ _ _ _ _ _ hreg).trans ((State.mfield_setMfield _ _ _ hlo).trans (Nat.mod_eq_of_lt ?_))
  exact Nat.lt_of_le_of_lt (Nat.min_le_left _ _) (by decide)

theorem State.thresh_countSlice (s : State) {die : Nat} (hd : die < 4) (k : BitVec 4) (n : Nat) :
    (s.countSlice die k n).mfield (sliceRegs die + 8) 0 16 = s.mfield (sliceRegs die + 8) 0 16 := by
  obtain ⟨-, -, hce, hdie⟩ := sliceCe_place hd k
  exact (State.mfield_setMfield_off _ _ _ _ _ _ hdie).trans (State.mfield_setMfield_off _ _ _ _ _ _ hce)

/-- Corrected errors up to THRESH bring the count to THRESH, and leave a count beyond it (log 40). -/
theorem State.mfield_countSlice_thresh (s : State) {die : Nat} (hd : die < 4) (k : BitVec 4) :
    (s.countSlice die k (s.mfield (sliceRegs die + 8) 0 16 - s.mfield (sliceCe die k).1 (sliceCe die k).2 16)).mfield
      (sliceCe die k).1 (sliceCe die k).2 16 =
      Nat.max (s.mfield (sliceRegs die + 8) 0 16) (s.mfield (sliceCe die k).1 (sliceCe die k).2 16) := by
  rw [State.mfield_countSlice s hd]
  have ht := s.mfield_lt (sliceRegs die + 8) 0 16
  have hc := s.mfield_lt (sliceCe die k).1 (sliceCe die k).2 16
  simp only [Nat.min_def, Nat.max_def]
  split <;> split <;> omega

theorem exec_sliceAutoRetire_normal {die : Nat} (hd : die < 4) (k : BitVec 4) (hm : s.byder.mode = .normal)
    (ht : s.mfield (sliceRegs die + 8) 0 16 ≠ 0) {c : State} (hc : c = s.countSlice die k
      (s.mfield (sliceRegs die + 8) 0 16 - s.mfield (sliceCe die k).1 (sliceCe die k).2 16)) :
    exec (.sliceAutoRetire die k) s =
      .next (if (c.retiredMask die).getLsbD k.toNat = true ∨ 4 ≤ c.retiredCount die then c else c.retireSlice die k) := by
  have hexec : exec (.sliceAutoRetire die k) s = .next (c.autoRetire die k) := by
    rw [exec_sliceAutoRetire, execSliceAutoRetire, hc]
    exact congrArg _ (if_neg (by simp [ht, hm, hd]))
  have hthr : c.mfield (sliceRegs die + 8) 0 16 = s.mfield (sliceRegs die + 8) 0 16 := hc ▸ s.thresh_countSlice hd k _
  have hmax := s.mfield_countSlice_thresh hd k
  rw [← hc] at hmax
  rw [hexec]
  congr 1
  split
  · rename_i hq
    exact State.autoRetire_quiet (.inr (.inr hq))
  · rename_i hq
    refine State.autoRetire_reached ?_ (hc ▸ hm)
    rintro (h | h | h)
    · exact ht (hthr ▸ h)
    · rw [hmax, hthr] at h
      exact absurd (Nat.le_max_left _ _) (Nat.not_le.2 h)
    · exact hq h

end

/-! ### Soft errors (R429, R430) -/

section
variable {s : State} {site : ErrSite} {d : Nat}

theorem sectorReg_getD (die : Nat) (o : Option Bool) :
    sectorReg die (o.getD false) = 0x3200 + 0x80 * die + (if o = some true then 0 else 8) := by
  rcases o with _ | _ | _ <;> rfl

theorem exec_softError_hard (h : s.siteDie site = some d) :
    exec (.softError site true) s = .next ((s.countMreg (s.siteReg site d) 32).hardError site) := by
  rw [exec_softError, execSoftError, h]
  rfl

theorem exec_softError_soft (h : s.siteDie site = some d) (hs : ∀ g, site ≠ .l2 g) :
    exec (.softError site false) s = .next (s.countMreg (s.siteReg site d) 0) := by
  rw [exec_softError, execSoftError, h]
  cases site with
  | l2 g => exact absurd rfl (hs g)
  | _ => rfl

/-- A corrected error of an L2 sector counts for its home slice, which may retire (R431). -/
theorem exec_softError_l2 {g x k : Nat} (h : s.siteDie (.l2 g) = some d) (hk : s.homeSlice (32 * g) = some (x, k)) :
    exec (.softError (.l2 g) false) s = .next ((s.countSlice d (BitVec.ofNat 4 k) 1).autoRetire d (BitVec.ofNat 4 k)) := by
  rw [exec_softError, execSoftError, h]
  simp only [hk, Bool.false_eq_true, if_false]
  rfl

/-- A DRAM error poisons the sector whose data stand there, if there is one (R108, R372). -/
theorem State.hardError_dram (s : State) (off lo g : Nat) : (s.countMreg off lo).hardError (.dram g) =
    ((s.dramAt g).bind (·.2.2)).elim (s.countMreg off lo) fun x => (s.countMreg off lo).setPoison (.mem x) := by
  have hd : (s.countMreg off lo).dramAt g = s.dramAt g := rfl
  rw [State.hardError, hd]
  cases (s.dramAt g).bind (·.2.2) <;> rfl

theorem State.hardError_slot (s : State) (x i : Nat) : i ∈ ((s.hardError (.slot x i)).core x).slotPoison := by
  rw [State.hardError, State.core_setCore]
  exact mem_dedup_of_mem (List.mem_cons_self ..)

/-- A task that an error hits ends now where its block is resident, and else when it is restored (R430). -/
theorem State.hardError_taskState {u : Nat} {t : Task} (ht : s.task? u = some t) : s.hardError (.taskState u) =
    if (s.blockOf t).any (fun b => b.st == .resident) = true then s.killByError t else s.setTask { t with doomed := true } := by
  rw [State.hardError, ht]

end

/-! ### O57 -/

/-- Settles O57: each step is evaluated by its own lemma; for RETIRE, the buckets move one by one to slices that have not
retired, of which there is one as long as fewer than four had retired before. -/
theorem memoryMaintenance : Obligations.MemoryMaintenance := by
  unfold Obligations.MemoryMaintenance
  refine ⟨fun s ch => exec_selfRefreshEntry_idle, fun s ch => exec_selfRefreshExit_awake, fun s sector x => State.scrubAt_own,
    fun s sector die hbm at_ ch hx hm hc hi => ?_, fun s site d hd => ?_, fun s off lo hlo => ?_, fun s die k hm hd => ?_,
    fun s die k => ?_, fun s die k hd hm => ?_,
    fun s die hm hd => exec_clr_open hm hd⟩
  · have hscrub := exec_scrubRead_at hx hm hc hi
    refine ⟨hscrub .clean false, hscrub .correctable false, ?_, ?_, fun f => hscrub f true⟩
    · rintro g rfl
      exact hscrub .uncorrectable false
    · rintro rfl
      exact hscrub .uncorrectable false
  · intro reg
    have hreg : reg = s.siteReg site d := by
      cases site with
      | dram g => exact (sectorReg_getD d _).symm
      | _ => rfl
    clear_value reg
    subst hreg
    have hhard := exec_softError_hard hd
    refine ⟨exec_softError_soft hd, ?_, ?_, ?_, fun g x => State.dramAt_own, fun g => State.dramAt_hbm, ?_, ?_, ?_, ?_⟩
    · rintro g x k rfl hk
      exact exec_softError_l2 hd hk
    · rintro g rfl
      exact hhard.trans (congrArg _ (State.hardError_dram s _ _ g))
    · rintro g rfl
      exact hhard
    · rintro b w rfl
      exact hhard
    · rintro x l rfl
      exact hhard
    · rintro x i rfl
      exact ⟨_, hhard, State.hardError_slot _ x i⟩
    · rintro u t rfl ht
      have htask := hhard.trans (congrArg _ (State.hardError_taskState (s := s.countMreg _ 32) ht))
      exact ⟨fun hr => htask.trans (congrArg _ (if_pos hr)),
        fun hr => htask.trans (congrArg _ (if_neg (Bool.not_eq_true _ ▸ hr)))⟩
  · exact s.mfield_countMreg off (by omega)
  · have hexec := exec_retire_open hm hd (k := k) rfl
    refine ⟨fun j => ?_, fun hr => hexec.trans (congrArg _ (if_pos hr)), fun hr hn => ?_, fun hr hn hl hlen => ?_⟩
    · rw [State.retiredMask_retireSlice]
      exact getLsbD_retired _ k j
    · exact hexec.trans (congrArg _ ((if_neg (Bool.not_eq_true _ ▸ hr)).trans (if_pos hn)))
    · have hdone := hexec.trans (congrArg _ ((if_neg (Bool.not_eq_true _ ▸ hr)).trans (if_neg (Nat.not_le.2 hn))))
      have hbk : (s.wakeIdle.setMfield (sliceRegs die) 0 4 k.toNat).buckets = s.buckets := s.wakeIdle_buckets
      refine ⟨_, hdone, State.mfield_setMfield _ _ _ (by decide), fun b hb => ?_⟩
      rw [State.retiredMask_setMfield_low _ _ (by decide), ← hbk]
      exact State.retireSlice_moves _ (hbk ▸ hl ▸ hd) (hbk ▸ hlen) hn k hb
  · rw [threshReg]
    exact ⟨State.autoRetire_quiet, State.autoRetire_reached⟩
  · rw [threshReg]
    exact fun ht => ⟨s.mfield_countSlice_thresh hd k, exec_sliceAutoRetire_normal hd k hm ht rfl⟩

end Sys2Proof.Machine

namespace Sys2Proof.Laws.RoundTrip

/-! ### Decoding what was encoded (R110 to R130) -/

/-- Every instruction reads back from its parcels: each constructor by its own form of encoding. -/
theorem roundTrip : ∀ i, Statement i
  | .add _ _ _ => add _ _ _ | .sub _ _ _ => sub _ _ _ | .and _ _ _ => and _ _ _ | .or _ _ _ => or _ _ _
  | .xor _ _ _ => xor _ _ _ | .shl _ _ _ => shl _ _ _ | .shr _ _ _ => shr _ _ _ | .sra _ _ _ => sra _ _ _
  | .mul _ _ _ => mul _ _ _ | .mulhI32 _ _ _ => mulhI32 _ _ _ | .mulhB32 _ _ _ => mulhB32 _ _ _
  | .divI32 _ _ _ => divI32 _ _ _ | .divB32 _ _ _ => divB32 _ _ _ | .remI32 _ _ _ => remI32 _ _ _
  | .remB32 _ _ _ => remB32 _ _ _ | .minI32 _ _ _ => minI32 _ _ _ | .maxI32 _ _ _ => maxI32 _ _ _
  | .minB32 _ _ _ => minB32 _ _ _ | .maxB32 _ _ _ => maxB32 _ _ _ | .slt _ _ _ => slt _ _ _ | .sltb _ _ _ => sltb _ _ _
  | .seq _ _ _ => seq _ _ _ | .clz _ _ => clz _ _ | .popc _ _ => popc _ _ | .add64 _ _ _ => add64 _ _ _
  | .sub64 _ _ _ => sub64 _ _ _ | .shl64 _ _ _ => shl64 _ _ _ | .shr64 _ _ _ => shr64 _ _ _
  | .mul64 _ _ _ => mul64 _ _ _ | .sel _ _ _ => sel _ _ _ | .addi _ _ _ => addi _ _ _ | .andi _ _ _ => andi _ _ _
  | .ori _ _ _ => ori _ _ _ | .xori _ _ _ => xori _ _ _ | .shli _ _ _ => shli _ _ _ | .shri _ _ _ => shri _ _ _
  | .srai _ _ _ => srai _ _ _ | .slti _ _ _ => slti _ _ _ | .addi64 _ _ _ => addi64 _ _ _ | .lui _ _ => lui _ _
  | .addpc _ _ => addpc _ _ | .beq _ _ _ => beq _ _ _ | .bne _ _ _ => bne _ _ _ | .blt _ _ _ => blt _ _ _
  | .bge _ _ _ => bge _ _ _ | .bltb _ _ _ => bltb _ _ _ | .bgeb _ _ _ => bgeb _ _ _ | .jal _ _ => jal _ _
  | .jalr _ _ _ => jalr _ _ _ | .loopn _ _ => loopn _ _ | .ldB8 _ _ _ => ldB8 _ _ _ | .ldI8 _ _ _ => ldI8 _ _ _
  | .ldB16 _ _ _ => ldB16 _ _ _ | .ldI16 _ _ _ => ldI16 _ _ _ | .ldW _ _ _ => ldW _ _ _ | .ldD _ _ _ => ldD _ _ _
  | .stB8 _ _ _ => stB8 _ _ _ | .stB16 _ _ _ => stB16 _ _ _ | .stW _ _ _ => stW _ _ _ | .stD _ _ _ => stD _ _ _
  | .ldroW _ _ _ => ldroW _ _ _ | .ldroD _ _ _ => ldroD _ _ _ | .atomAdd _ _ _ _ _ _ => atomAdd _ _ _ _ _ _
  | .atomMinI _ _ _ _ _ _ => atomMinI _ _ _ _ _ _ | .atomMaxI _ _ _ _ _ _ => atomMaxI _ _ _ _ _ _
  | .atomMinB _ _ _ _ _ _ => atomMinB _ _ _ _ _ _ | .atomMaxB _ _ _ _ _ _ => atomMaxB _ _ _ _ _ _
  | .atomAnd _ _ _ _ _ _ => atomAnd _ _ _ _ _ _ | .atomOr _ _ _ _ _ _ => atomOr _ _ _ _ _ _
  | .atomXor _ _ _ _ _ _ => atomXor _ _ _ _ _ _ | .atomExch _ _ _ _ _ _ => atomExch _ _ _ _ _ _
  | .atomAddF32 _ _ _ _ _ => atomAddF32 _ _ _ _ _ | .atomcasB32 _ _ _ _ => atomcasB32 _ _ _ _
  | .atomcasB64 _ _ _ _ => atomcasB64 _ _ _ _ | .sig _ _ => sig _ _ | .wait _ _ => wait _ _ | .bara _ => bara _
  | .barw _ _ _ => barw _ _ _ | .bare _ _ => bare _ _ | .sbara _ => sbara _ | .sbarw _ _ _ => sbarw _ _ _
  | .fenceRel _ => fenceRel _ | .fenceAcq _ => fenceAcq _ | .fenceAr _ => fenceAr _ | .cwait _ _ => cwait _ _
  | .fres _ _ => fres _ _ | .fflt _ _ => fflt _ _ | .ftry _ _ _ => ftry _ _ _ | .fstat _ _ => fstat _ _
  | .tlaunch _ _ => tlaunch _ _ | .tjoin _ _ => tjoin _ _ | .grec _ _ => grec _ _ | .mif _ _ => mif _ _
  | .melse _ => melse _ | .mjoin _ => mjoin _ | .msave _ => msave _ | .mbreak _ => mbreak _ | .bmany _ => bmany _
  | .bmnone _ => bmnone _ | .pmovs _ _ => pmovs _ _ | .smovp _ _ => smovp _ _ | .sysrd _ _ => sysrd _ _
  | .syswr _ _ => syswr _ _ | .trap _ => trap _ | .cycles _ _ => cycles _ _ | .oclm _ _ => oclm _ _
  | .mold _ _ _ _ _ => mold _ _ _ _ _ | .mma _ _ _ _ _ _ _ _ _ => mma _ _ _ _ _ _ _ _ _
  | .mmap _ _ _ _ _ _ _ _ _ => mmap _ _ _ _ _ _ _ _ _ | .mmasFull _ _ _ _ _ _ => mmasFull _ _ _ _ _ _
  | .mmasTri _ _ _ _ _ _ => mmasTri _ _ _ _ _ _ | .mwclr _ => mwclr _ | .mwst _ _ _ _ _ => mwst _ _ _ _ _
  | .macz _ _ _ => macz _ _ _ | .macld _ _ _ _ _ _ => macld _ _ _ _ _ _
  | .macst _ _ _ _ _ _ _ _ _ => macst _ _ _ _ _ _ _ _ _ | .rboard _ _ _ _ _ _ => rboard _ _ _ _ _ _
  | .mseed _ => mseed _ | .cpy _ _ _ _ => cpy _ _ _ _ | .tcopy _ _ _ _ => tcopy _ _ _ _
  | .tcopySt _ _ _ _ => tcopySt _ _ _ _ | .tcopyo _ _ _ _ => tcopyo _ _ _ _ | .osliceA _ _ _ _ _ => osliceA _ _ _ _ _
  | .osliceB _ _ _ _ _ => osliceB _ _ _ _ _ | .gather _ _ _ _ _ _ _ => gather _ _ _ _ _ _ _
  | .scatter _ _ _ _ _ _ _ => scatter _ _ _ _ _ _ _ | .cpyred _ _ _ _ _ _ => cpyred _ _ _ _ _ _
  | .qfill _ _ _ _ _ _ => qfill _ _ _ _ _ _ | .qsink _ _ _ _ _ _ => qsink _ _ _ _ _ _
  | .collred _ _ _ _ _ _ _ _ => collred _ _ _ _ _ _ _ _ | .collbc _ _ _ _ => collbc _ _ _ _
  | .collsendSend _ _ _ _ _ => collsendSend _ _ _ _ _ | .collsendRecv _ _ _ _ _ => collsendRecv _ _ _ _ _
  | .spref _ _ _ => spref _ _ _ | .cstat _ => cstat _ | .fadd _ => fadd _ | .fsub _ => fsub _ | .fmul _ => fmul _
  | .ffma _ => ffma _ | .ffnma _ => ffnma _ | .fmin _ => fmin _ | .fmax _ => fmax _ | .fceq _ => fceq _
  | .fcne _ => fcne _ | .fclt _ => fclt _ | .fcle _ => fcle _ | .fcun _ => fcun _ | .fclass _ => fclass _
  | .frnd _ => frnd _ | .dadd _ => dadd _ | .dsub _ => dsub _ | .dmul _ => dmul _ | .dfma _ => dfma _
  | .dfnma _ => dfnma _ | .dmin _ => dmin _ | .dmax _ => dmax _ | .dceq _ => dceq _ | .dcne _ => dcne _
  | .dclt _ => dclt _ | .dcle _ => dcle _ | .dcun _ => dcun _ | .drnd _ => drnd _ | .hadd2 _ => hadd2 _
  | .hsub2 _ => hsub2 _ | .hmul2 _ => hmul2 _ | .hfma2 _ => hfma2 _ | .hmin2 _ => hmin2 _ | .hmax2 _ => hmax2 _
  | .dot2 _ => dot2 _ | .dot4 _ => dot4 _ | .idot4 _ => idot4 _ | .rcp _ => rcp _ | .rsq _ => rsq _ | .sqrt _ => sqrt _
  | .exp2 _ => exp2 _ | .log2 _ => log2 _ | .sinpi _ => sinpi _ | .cospi _ => cospi _ | .tanh _ => tanh _
  | .drcp _ => drcp _ | .dsqrt _ => dsqrt _ | .iadd _ => iadd _ | .isub _ => isub _ | .imul _ => imul _
  | .imad _ => imad _ | .imulh _ => imulh _ | .imin _ => imin _ | .imax _ => imax _ | .iabs _ => iabs _
  | .ishl _ => ishl _ | .ishr _ => ishr _ | .isra _ => isra _ | .vlut _ => vlut _ | .isum3 _ => isum3 _
  | .iceq _ => iceq _ | .icne _ => icne _ | .iclt _ => iclt _ | .icle _ => icle _ | .icltb _ => icltb _
  | .icleb _ => icleb _ | .vpopc _ => vpopc _ | .vclz _ => vclz _ | .brev _ => brev _ | .bfx _ => bfx _
  | .bfi _ => bfi _ | .iadd64 _ => iadd64 _ | .imad64 _ => imad64 _ | .cvt _ => cvt _ | .cvti _ => cvti _
  | .pk2 _ => pk2 _ | .pk4 _ => pk4 _ | .unpk2 _ => unpk2 _ | .unpk4 _ => unpk4 _ | .mxq _ => mxq _ | .mxdq _ => mxdq _
  | .vmov _ => vmov _ | .vmovi _ => vmovi _ | .vsel _ => vsel _ | .viota _ => viota _ | .vperm _ => vperm _
  | .bcast _ => bcast _ | .redux _ => redux _ | .scan _ => scan _ | .vtag _ => vtag _ | .vunif _ => vunif _
  | .vdef _ => vdef _ | .vmovsToVector _ => vmovsToVector _ | .vmovsToScalar _ => vmovsToScalar _
  | .vreadl _ => vreadl _ | .plut _ => plut _ | .pmov _ => pmov _ | .vld _ => vld _ | .vst _ => vst _
  | .vldro _ => vldro _ | .vatom _ => vatom _ | .vatomcas _ => vatomcas _ | .vfadd _ => vfadd _ | .vquad _ => vquad _
  | .vpref _ => vpref _ | .pxw _ => pxw _ | .vxm _ => vxm _ | .xbox _ => xbox _ | .xtri _ => xtri _
  | .xstep _ => xstep _ | .fenceRo => fenceRo | .eret => eret | .yield => yield | .nop => nop | .bkpt => bkpt
  | .endStream => endStream | .kill => kill | .orls => orls | .xstepPop => xstepPop | .xtile => xtile
  | .pairedWord => pairedWord | .cyclesExpiry _ _ => cyclesExpiry _ _ | .stallExpiry _ => stallExpiry _
  | .runGrant _ _ => runGrant _ _ | .matrixOpCompletion _ _ => matrixOpCompletion _ _
  | .copyCompletion _ _ => copyCompletion _ _ | .tilePassage _ _ => tilePassage _ _ | .layerStart => layerStart
  | .pxwLanePerform _ _ => pxwLanePerform _ _ | .trapEntry _ => trapEntry _ | .taskRetire _ => taskRetire _
  | .placeBlock _ _ => placeBlock _ _ | .blockEviction _ => blockEviction _
  | .blockResumption _ _ _ => blockResumption _ _ _ | .commit _ => commit _ | .dispatch _ => dispatch _
  | .join _ => join _ | .joinRelease _ => joinRelease _ | .graph _ => graph _ | .marker _ => marker _
  | .markerResolve _ => markerResolve _ | .batchFlushTimeout _ => batchFlushTimeout _ | .notify _ _ => notify _ _
  | .mapQueue _ => mapQueue _ | .unmapQueue _ => unmapQueue _ | .send _ _ => send _ _
  | .rdmaWrite _ _ _ _ => rdmaWrite _ _ _ _ | .rdmaRead _ _ _ _ => rdmaRead _ _ _ _
  | .refusedOperation _ => refusedOperation _ | .cnp _ => cnp _ | .connectionRequest _ _ => connectionRequest _ _
  | .create _ => create _ | .destroy => destroy | .rgninv _ => rgninv _ | .flaoriRequest _ => flaoriRequest _
  | .flaoriChunk _ _ _ _ _ _ => flaoriChunk _ _ _ _ _ _ | .flaoriSilenceTimeout _ => flaoriSilenceTimeout _
  | .linkDown _ => linkDown _ | .linkUp _ => linkUp _ | .tlbicmdPartition _ => tlbicmdPartition _
  | .tlbicmdRange _ => tlbicmdRange _ | .pageReadDone _ _ => pageReadDone _ _ | .evict _ _ => evict _ _
  | .writeBackDone _ _ => writeBackDone _ _ | .nvmeCommandTimeout _ => nvmeCommandTimeout _
  | .admaddr _ _ => admaddr _ _ | .ssdReset _ => ssdReset _ | .healthPoll _ _ => healthPoll _ _
  | .selfRefreshEntry _ => selfRefreshEntry _ | .scrubRead _ _ _ => scrubRead _ _ _ | .softError _ _ => softError _ _
  | .retire _ _ => retire _ _ | .sliceAutoRetire _ _ => sliceAutoRetire _ _ | .clr _ => clr _ | .apply _ => apply _
  | .swap _ => swap _ | .boot _ => boot _ | .stageTimeout _ => stageTimeout _ | .recover _ => recover _
  | .update _ => update _ | .getMeasurements _ _ => getMeasurements _ _ | .load => load | .speedWrite _ => speedWrite _
  | .pwrcmdNap => pwrcmdNap | .pwrcmdSleep => pwrcmdSleep | .pwrcmdWake => pwrcmdWake | .pwrcmdOff => pwrcmdOff
  | .idleEntry => idleEntry | .idleWake => idleWake | .napWake => napWake | .powerLoss => powerLoss
  | .debugHaltRequest _ => debugHaltRequest _ | .debugResume _ => debugResume _
  | .registerWrite _ _ => registerWrite _ _ | .storeQueueDrain _ _ => storeQueueDrain _ _
  | .scoreboardedWordCompletion _ => scoreboardedWordCompletion _ | .badpacket _ => badpacket _
  | .ringfault _ => ringfault _ | .droppedFrame _ _ => droppedFrame _ _ | .selfRefreshExit _ => selfRefreshExit _
  | .adminCompletion _ _ => adminCompletion _ _ | .ssdReady _ => ssdReady _ | .ssdLinkDown _ => ssdLinkDown _
  | .localAckTimeout _ => localAckTimeout _ | .flaoriKeepalive _ => flaoriKeepalive _
  | .flaoriLostChunk _ _ _ _ => flaoriLostChunk _ _ _ _ | .debugRequest _ _ _ => debugRequest _ _ _
  | .fuseCommand _ _ => fuseCommand _ _

/-- Settles O2, by the lemma on each instruction's form; what lies in the latch, and an event, has no parcels. -/
theorem decodeInvertsEncode : Obligations.DecodeInvertsEncode := roundTrip

end Sys2Proof.Laws.RoundTrip

namespace Sys2Proof

/-- Settles O1: the decoder evaluated on the words. -/
theorem decodeWordsOfEachFamily : Obligations.DecodeWordsOfEachFamily := by
  unfold Obligations.DecodeWordsOfEachFamily
  and_intros <;> rfl

/-! ### What decodes is well-formed (R114, R115, R126, R130) -/

/-- A result of the decoder that gives no instruction but a well-formed one. -/
structure Dec.Sound (x : Dec) : Prop where
  wf : ∀ i, x = .ok i → i.wf = true

section
variable {k : Dec} {i : Instr} {c : Bool}

theorem Dec.sound_ok (h : i.wf = true) : Dec.Sound (.ok i) := ⟨fun _ e => Except.ok.inj e ▸ h⟩
theorem Dec.sound_error {n : Nat} : Dec.Sound (.error n) := ⟨fun _ e => nomatch e⟩
theorem Dec.sound_opcode : Dec.opcode.Sound := sound_error
theorem sound_resv_of (h : c = true → k.Sound) : (resv c k).Sound := by
  cases c with
  | false => exact Dec.sound_error
  | true => exact h rfl
theorem sound_need_of (h : c = true → k.Sound) : (need c k).Sound := by
  cases c with
  | false => exact Dec.sound_error
  | true => exact h rfl
theorem sound_resv (h : k.Sound) : (resv c k).Sound := sound_resv_of fun _ => h
theorem sound_need (h : k.Sound) : (need c k).Sound := sound_need_of fun _ => h
theorem sound_accept : (accept i).Sound := by
  unfold accept
  split
  next h => exact Dec.sound_ok (beq_iff_eq.2 h)
  next => exact Dec.sound_error
theorem sound_withScope {n : Nat} {f : Scope → Dec} (h : ∀ s, (f s).Sound) : (withScope n f).Sound := by
  unfold withScope
  split
  · exact h _
  · exact Dec.sound_error
theorem sound_engine {p : Nat} {z e : Bool} : (engine p z e i).Sound := sound_resv (sound_need sound_accept)

end

theorem decIntR_sound (p : Nat) : (decIntR p).Sound := by
  unfold decIntR
  split <;> apply_rules [Dec.sound_opcode, Dec.sound_ok, sound_resv, sound_need, rfl]

theorem decMatrix_sound (p q : Nat) : (decMatrix p q).Sound := by
  unfold decMatrix
  dsimp only
  split <;> apply_rules [Dec.sound_opcode, sound_engine, Dec.sound_ok, sound_resv, sound_accept, rfl]

theorem decCopy_sound (p q : Nat) : (decCopy p q).Sound := by
  unfold decCopy
  dsimp only
  split <;> apply_rules [Dec.sound_opcode, sound_engine, Dec.sound_ok, sound_resv, rfl]

theorem evD_eq_even (p : Nat) : evD p = ((fD p).toNat % 2 == 0) := by
  simp only [evD, fD, fbv, fld, BitVec.toNat_ofNat, Bool.beq_eq_decide_eq]
  exact decide_eq_decide.2 (by omega)
theorem evB_eq_even (p : Nat) : evB p = ((fB p).toNat % 2 == 0) := by
  simp only [evB, fB, fbv, fld, BitVec.toNat_ofNat, Bool.beq_eq_decide_eq]
  exact decide_eq_decide.2 (by omega)

/-- The limits of ATOM that the decoder checks are those of the instruction (R117). -/
theorem sound_atom {p : Nat} {f : BitVec 5 → BitVec 4 → BitVec 5 → Bool → Scope → Bool → Instr}
    (hf : ∀ d a b ret s w, (f d a b ret s w).illegal = if !(ret || d == 0) then some 2
      else if !(!w || (d.toNat % 2 == 0 && b.toNat % 2 == 0)) then some 4 else none) :
    (resv (fld p 8 1 == 1 || fD p == 0) (need (evA p && (!(fld p 4 1 == 1) || (evD p && evB p)))
      (withScope (fld p 5 3) fun s => .ok (f (fD p) (fAp p) (fB p) (fld p 8 1 == 1) s (fld p 4 1 == 1))))).Sound := by
  refine sound_resv_of fun hr => sound_need_of fun hn => sound_withScope fun s => Dec.sound_ok ?_
  rw [Bool.and_eq_true, evD_eq_even, evB_eq_even] at hn
  simp only [Instr.wf, hf, hr, hn.2, Bool.not_true, Bool.false_eq_true, if_false]
  rfl

theorem decAtom_sound (p : Nat) : (decAtom p).Sound := by
  unfold decAtom
  dsimp only
  split
  case h_11 => exact Dec.sound_opcode
  case h_10 =>
    refine sound_resv_of fun hr => sound_need (sound_withScope fun s => Dec.sound_ok ?_)
    simp only [Instr.wf, Instr.illegal, hr, Bool.not_true, Bool.false_eq_true, if_false]
    rfl
  all_goals exact sound_atom fun _ _ _ _ _ _ => rfl

theorem dec32_sound (p : Nat) : (dec32 p).Sound := by
  unfold dec32
  split
  case h_35 =>
    refine sound_resv ?_
    split <;> exact sound_need (sound_withScope fun _ => Dec.sound_ok rfl)
  case h_43 =>
    refine sound_resv (sound_withScope fun _ => Dec.sound_ok ?_)
    split_ifs <;> rfl
  all_goals
    apply_rules [Dec.sound_opcode, decIntR_sound, decAtom_sound, sound_accept, Dec.sound_ok, sound_resv, sound_need, rfl]

/-- The limits of a wide word are those of the instruction that its op9 gives (R127). -/
theorem vecInstr_wf {op : Nat} {w : VW} {i : Instr} (hi : vecInstr op w = some i) (hw : wideIllegal op w = none) :
    i.wf = true := by
  refine beq_iff_eq.2 ?_
  unfold vecInstr at hi
  split at hi
  case h_107 => cases hi; rfl
  case h_108 =>
    cases hi
    cases hb : w.mod7.getLsbD 0 with
    | false => exact (if_neg (by rw [hb]; decide)).trans hw
    | true => exact (if_neg (by rw [hb]; decide)).trans hw
  case h_109 =>
    cases hi
    cases hb : w.mod7.getLsbD 0 with
    | false => exact (if_neg (by rw [hb]; decide)).trans hw
    | true => rfl
  all_goals cases hi
  all_goals exact hw

theorem decWide_sound (p q r : Nat) : (decWide p q r).Sound := by
  unfold decWide
  split
  next => exact Dec.sound_opcode
  next i hi =>
    refine sound_resv ?_
    split
    next hw => exact Dec.sound_ok (vecInstr_wf hi hw)
    next => exact Dec.sound_error

theorem decPaired_sound (p q r : Nat) : (decPaired p q r).Sound := by
  unfold decPaired
  dsimp only
  split
  next => exact Dec.sound_opcode
  next =>
    refine sound_resv ?_
    split
    next => exact Dec.sound_ok rfl
    next => exact Dec.sound_error

/-- Every class of word decodes to well-formed instructions alone (R112). -/
theorem decode_sound (p0 p1 p2 : Word) : (decode p0 p1 p2).Sound := by
  unfold decode
  dsimp only
  split_ifs
  · exact decPaired_sound _ _ _
  · exact decWide_sound _ _ _
  · exact decMatrix_sound _ _
  · exact decCopy_sound _ _
  · exact Dec.sound_opcode
  · exact dec32_sound _

/-- Settles O3, table by table of the decoder. -/
theorem decodedInstructionsWellFormed : Obligations.DecodedInstructionsWellFormed :=
  fun p0 p1 p2 => (decode_sound p0 p1 p2).wf

/-! ### Words whose operands lie in the latch (R123 to R129) -/

/-- The fields of a slot read back (R125). -/
theorem decSlot_enc (x : PSlot) : decSlot (slotHi x) (slotLo x) = x := by
  obtain ⟨op9, pred, d, a, b, c⟩ := x
  have := op9.isLt; have := pred.isLt; have := d.isLt; have := a.isLt; have := b.isLt; have := c.isLt
  simp only [decSlot, PSlot.mk.injEq]
  refine ⟨?_, BitVec.eq_of_toNat_eq ?_, ?_, ?_, ?_, ?_⟩
  · apply fbv_of; simp only [fld, slotHi]; omega
  · simp only [fld, slotHi, slotLo, BitVec.toNat_ofNat]; omega
  all_goals apply fbv_of; simp only [fld, slotLo]; omega

theorem slotHi_lt (x : PSlot) : slotHi x < 2 ^ 10 := by
  have := x.op9.isLt; have := x.pred.isLt
  unfold slotHi; omega
theorem slotLo_lt (x : PSlot) : slotLo x < 2 ^ 32 := by
  have := x.pred.isLt; have := x.d.isLt; have := x.a.isLt; have := x.b.isLt; have := x.c.isLt
  unfold slotLo; omega

/-- Both operations of a paired word without ILLEGAL are assigned (R127). -/
theorem opAssigned_of_pairIllegal {h : PHead} {sa sb : PSlot} (hp : pairIllegal h sa sb = none) :
    (opAssigned sa.op9.toNat && opAssigned sb.op9.toNat) = true := by
  by_contra hn
  rw [pairIllegal, if_pos (by rw [Bool.eq_false_iff.2 hn]; rfl)] at hp
  cases hp

/-- An encoded paired word decodes, and its parcels hold its header and both slots (R123, R125). -/
theorem decode_encPaired {h : PHead} {sa sb : PSlot} (hp : pairIllegal h sa sb = none) {a b c : Nat}
    (he : encPaired h sa sb = [a, b, c]) :
    decode (BitVec.ofNat 32 a) (BitVec.ofNat 32 b) (BitVec.ofNat 32 c) = .ok .pairedWord ∧
      pairHead a = h ∧ decSlot (fld a 0 10) b = sa ∧ decSlot (fld a 10 10) c = sb := by
  simp only [encPaired, List.cons.injEq, and_true] at he
  obtain ⟨ha, rfl, rfl⟩ := he
  have := h.stall.isLt; have := h.e.isLt; have := slotHi_lt sa; have := slotHi_lt sb
  have hsa : fld a 0 10 = slotHi sa := by unfold fld; omega
  have hsb : fld a 10 10 = slotHi sb := by unfold fld; omega
  have hz : fld a 20 4 = 0 := by unfold fld; omega
  have hpaired : fbit a 24 = true := by
    have : fld a 24 1 = 1 := by unfold fld; omega
    simp [fbit, this]
  have hh : pairHead a = h := by
    obtain ⟨stall, e⟩ := h
    simp only [pairHead, PHead.mk.injEq]
    constructor <;> (apply fbv_of; simp only [fld] at *; omega)
  refine ⟨?_, hh, by rw [hsa, decSlot_enc], by rw [hsb, decSlot_enc]⟩
  rw [decode_vector (by omega) (by omega) (slotLo_lt sa) (slotLo_lt sb), if_pos hpaired]
  simp only [decPaired, hsa, hsb, decSlot_enc, opAssigned_of_pairIllegal hp, hz, hh, hp, Bool.not_true, Bool.false_eq_true,
    if_false, beq_self_eq_true, resv_true]

/-- An encoded wide word decodes to its instruction, and its parcels hold all its fields (R123, R124). -/
theorem decode_encWide_fields {op : Nat} {w : VW} {i : Instr} (ho : op < 512) (hv : vecInstr op w = some i)
    (hw : wideIllegal op w = none) {a b c : Nat} (he : encWide op w = [a, b, c]) :
    decode (BitVec.ofNat 32 a) (BitVec.ofNat 32 b) (BitVec.ofNat 32 c) = .ok i ∧ wideFields a b c = w := by
  refine ⟨decode_encWide op w ho hv hw a b c he, ?_⟩
  simp only [encWide, List.cons.injEq, and_true] at he
  obtain ⟨rfl, rfl, rfl⟩ := he
  exact wideFields_enc op w ho

/-- Settles O5: the parcels of each of the three words read back field by field. -/
theorem latchedWordsDecode : Obligations.LatchedWordsDecode := by
  refine ⟨fun h sa sb hp a b c he => decode_encPaired hp he,
    fun w hw a b c he => decode_encWide_fields (by decide) rfl hw he,
    fun w hm hw a b c he => decode_encWide_fields (by decide) ?_ hw he⟩
  simp only [vecInstr, hm, if_true]

end Sys2Proof

namespace Sys2Proof.Machine

/-! ### What the next step is (R110, R112, R133 to R135, R238) -/

section
variable {s : State} {t : Task} {k : StreamId} {p0 p1 p2 : Word} (hf : s.fetch t k (t.st k).pc = .ok (p0, p1, p2))
include hf

/-- Parcels that decode to an instruction of the stream's class are run, where no run boundary falls before it and it awaits
no status word (R110, R133, R238). -/
theorem State.planFetch_run {c : InstrClass} (hc : classOf p0 = some c) (hr : c.runsOn k = true) {i : Instr}
    (hd : decode p0 p1 p2 = .ok i) (he : runEndsBefore t (t.st k) c = false) (hw : t.statWaits k i = []) :
    s.planFetch t k = .run i (if c = .vector then s.setTask { t with word := (p0, p1, p2) } else s) := by
  simp only [State.planFetch, hf, hd, hc, hr, he, hw, Bool.not_true, Bool.false_eq_true, if_false, Option.getD_some,
    Option.some.injEq]

/-- A paired word that breaks only R129 is left to its meaning. -/
theorem State.planFetch_pair {c : InstrClass} (hc : classOf p0 = some c) (hr : c.runsOn k = true)
    (hd : decode p0 p1 p2 = .error 5) :
    s.planFetch t k = .run .pairedWord (s.setTask { t with word := (p0, p1, p2) }) := by
  simp only [State.planFetch, hf, hd, hc, hr, decide_true, Bool.and_self, if_true]

/-- Parcels that decode to nothing are ILLEGAL, CLASS going before OPERAND and PAIR (R134). -/
theorem State.planFetch_illegal {sub : Nat} (hd : decode p0 p1 p2 = .error sub) {runs : Bool}
    (hr : ((classOf p0).map fun c => c.runsOn k).getD true = runs) (h5 : sub = 5 → runs = false) :
    s.planFetch t k = .done (s.takeTrap t k (t.st k).pc false 0
      { cls := 0, sub := if runs = false ∧ 3 < sub then 3 else sub }) := by
  have htrap (q : TrapReq) (hq : q.cls = 0) : s.stopped t k (.trap q) = s.takeTrap t k (t.st k).pc false 0 q :=
    s.stopped_trap t k q (by rw [hq]; decide)
  have hpair : (decide (sub = 5) && runs) = false := by
    by_cases h : sub = 5
    · rw [h5 h, Bool.and_false]
    · rw [decide_eq_false h, Bool.false_and]
  have hsub : (if (!runs && decide (3 < sub)) = true then 3 else sub) = if runs = false ∧ 3 < sub then 3 else sub := by
    simp only [Bool.and_eq_true, Bool.not_eq_true', decide_eq_true_eq]
  simp only [State.planFetch, hf, hd]
  have htraps := (htrap _ rfl).trans
    (congrArg (fun n => s.takeTrap t k (t.st k).pc false 0 { cls := clsIllegal, sub := n }) hsub)
  cases hc : classOf p0 <;> rw [hc] at hr <;> cases hr <;>
    exact (if_neg (Bool.eq_false_iff.1 hpair)).trans (congrArg Plan.done htraps)

end

/-- Settles O6: what the plan runs, the step runs; an event of the agenda is the plan. -/
theorem stepRunsDecodedInstruction : Obligations.StepRunsDecodedInstruction := by
  refine ⟨fun s t k p0 p1 p2 h hf c hc hr => ⟨fun i hd he hw => ?_, fun hd => ?_⟩, fun s i rest ha hi => ?_⟩
  · rw [step, State.plan_of_inRun h, State.planFetch_run hf hc hr hd he hw]
  · rw [step, State.plan_of_inRun h, State.planFetch_pair hf hc hr hd]
  · have hp : s.bump.plan = .run i { s.bump with agenda := rest } := by
      have hb : s.bump.agenda = i :: rest := ha
      simp only [State.plan, hb, hi, if_true]
    rw [step, hp]

/-- Settles O7: the next step fetches the parcels, and ILLEGAL is its plan. -/
theorem undecodableParcelsTrapIllegal : Obligations.UndecodableParcelsTrapIllegal := by
  intro s t k p0 p1 p2 sub h hf hd runs h5
  rw [step, State.plan_of_inRun h, State.planFetch_illegal hf hd rfl h5]

/-! ### The end of an instruction (R110, R133, R294, R298) -/

/-- The quantum of a stream ends where it had ended or where this instruction, outside trap mode, completes the quarter of a
deterministic task (R298, R395). -/
theorem Task.advance_qend (t : Task) (st : StreamSt) (len : Nat) : (t.advance st len).qend = true ↔
    st.qend = true ∨ t.det = true ∧ t.tmode = false ∧ t.quantum / 4 ≤ st.retired + 1 := by
  unfold Task.advance Task.quarter
  cases t.tmode <;> simp

/-- The run goes on up to 8 instructions, and not past the quantum's end (R133, R294). -/
theorem Task.advance_granted (t : Task) (st : StreamSt) (len : Nat) : (t.advance st len).granted = true ↔
    st.granted = true ∧ st.run + 1 < 8 ∧ (t.advance st len).qend = false := by
  change (st.granted && decide (st.run + 1 < 8) && !(t.advance st len).qend) = true ↔ _
  simp only [Bool.and_eq_true, decide_eq_true_eq, Bool.not_eq_true', and_assoc]

/-- Settles O13: the stream's new state is the advanced one, and one task is replaced. -/
theorem retiringMovesTheStreamOn : Obligations.RetiringMovesTheStreamOn := fun s t k st len ht =>
  ⟨t.advance st len, State.task?_setTask s (t.setSt k (t.advance st len)) (by rw [Task.setSt_uid, ht]; rfl),
    rfl, rfl, rfl, rfl, rfl, rfl, rfl, rfl, rfl, rfl, rfl, t.advance_qend st len, t.advance_granted st len,
    fun _ hu => State.task?_setTask_ne s (t.setSt k (t.advance st len)) hu, State.setTask_rest s _⟩

end Sys2Proof.Machine

namespace Sys2Proof

/-! ### The class of an encoded instruction (R112) -/

section
variable {n : Nat}

/-- An instruction of one parcel is of the mask class by its opcode, or of the scalar class. -/
theorem classOf_32 (h : n < 2 ^ 31) :
    classOf (BitVec.ofNat 32 n) = some (if 0x50 ≤ n / 2 ^ 24 ∧ n / 2 ^ 24 ≤ 0x58 then .mask else .scalar) := by
  have hop : fld n 24 7 = n / 2 ^ 24 := Nat.mod_eq_of_lt (by omega)
  unfold classOf
  simp only [bit31_of_lt h, toNat_ofNat32 (Nat.lt_trans h (by decide)), hop, Bool.false_eq_true, if_false, Bool.and_eq_true,
    decide_eq_true_eq]
  split_ifs <;> rfl

theorem classOf_engine (h : 2 ^ 31 ≤ n) (h' : n < 2 ^ 31 + 2 ^ 30) : classOf (BitVec.ofNat 32 n) =
    if fld n 26 4 = 0 then some .matrix else if fld n 26 4 = 1 then some .copy else none := by
  unfold classOf
  simp only [bit31_of_ge h (by omega), bit30_of_lt h h', toNat_ofNat32 (show n < 2 ^ 32 by omega), Bool.false_eq_true,
    if_false, if_true]

theorem classOf_vector (h : 2 ^ 31 + 2 ^ 30 ≤ n) (h' : n < 2 ^ 32) : classOf (BitVec.ofNat 32 n) = some .vector := by
  unfold classOf
  simp only [bit31_of_ge (show 2 ^ 31 ≤ n by omega) h', bit30_of_ge h h', if_true]

end

/-- Every stream but those that R112 names leaves a class alone. -/
theorem runsOn_eq_false {c : InstrClass} {k : StreamId}
    (h : ¬ (c = .scalar ∨ ((c = .mask ∨ c = .vector) ∧ k = .v) ∨ (c = .matrix ∧ k = .m) ∨ (c = .copy ∧ k = .c))) :
    c.runsOn k = false := by
  cases c <;> cases k <;> simp_all [InstrClass.runsOn]

/-- The class whose streams execute an instruction (R112). -/
def Instr.ownClass : Instr → InstrClass
  | .mif .. | .melse .. | .mjoin .. | .msave .. | .mbreak .. | .bmany .. | .bmnone .. | .pmovs ..
  | .smovp .. => .mask
  | .orls .. | .oclm .. | .mold .. | .mma .. | .mmap .. | .mmasFull .. | .mmasTri .. | .mwclr .. | .mwst ..
  | .macz .. | .macld .. | .macst .. | .rboard .. | .mseed .. => .matrix
  | .cpy .. | .tcopy .. | .tcopySt .. | .tcopyo .. | .osliceA .. | .osliceB .. | .gather .. | .scatter ..
  | .cpyred .. | .qfill .. | .qsink .. | .collred .. | .collbc .. | .collsendSend .. | .collsendRecv ..
  | .spref .. | .cstat .. => .copy
  | .xtile | .xstepPop | .pairedWord => .vector
  | i => if i.vec?.isSome then .vector else .scalar

/-- The class that an instruction's first parcel shows, where it has parcels of its own. -/
def Instr.ShowsClass (i : Instr) (c : InstrClass) : Prop := ∀ w ps, encode i = w :: ps → classOf w = some c

section
variable {c : InstrClass} {i : Instr} {op d a b f n q : Nat}

theorem showsClass_none (he : encodeNat i = []) : i.ShowsClass c := fun _ _ h => by simp [encode, he] at h

theorem showsClass_head {l : List Nat} (he : encodeNat i = n :: l) (hc : classOf (BitVec.ofNat 32 n) = some c) :
    i.ShowsClass c := fun w ps h => by
  rw [encode, he, List.map_cons] at h
  rwa [(List.cons.inj h).1] at hc

theorem showsClass_op (he : encodeNat i = [n]) (ho : op < 128) (hn : n / 2 ^ 24 = op)
    (hc : (if 0x50 ≤ op ∧ op ≤ 0x58 then InstrClass.mask else .scalar) = c) : i.ShowsClass c :=
  showsClass_head he (by rw [classOf_32 (by omega), hn, hc])

theorem fmtSR_op (hd : d < 32) (ha : a < 32) (hb : b < 32) (hf : f < 512) : fmtSR op d a b f / 2 ^ 24 = op := by
  unfold fmtSR; omega
theorem fmtSI_op (hd : d < 32) (ha : a < 32) (hb : b < 2 ^ 14) : fmtSI op d a b / 2 ^ 24 = op := by
  unfold fmtSI; omega
theorem fmtSJ_op (hd : d < 32) (ha : a < 2 ^ 19) : fmtSJ op d a / 2 ^ 24 = op := by
  unfold fmtSJ; omega

theorem showsClass_wide {w : VW} (he : encodeNat i = encWide op w) (ho : op < 512) : i.ShowsClass .vector := by
  have := w.stall.isLt; have := w.e.isLt; have := w.pred.isLt; have := w.neg.isLt; have := w.mod7.isLt
  exact showsClass_head he (classOf_vector (by omega) (by omega))

theorem showsClass_matrix (he : encodeNat i = [n, q]) (h : 2 ^ 31 ≤ n) (h' : n < 2 ^ 31 + 2 ^ 30)
    (hn : fld n 26 4 = 0) : i.ShowsClass .matrix :=
  showsClass_head he ((classOf_engine h h').trans (if_pos hn))

theorem showsClass_copy (he : encodeNat i = [n, q]) (h : 2 ^ 31 ≤ n) (h' : n < 2 ^ 31 + 2 ^ 30)
    (hn : fld n 26 4 = 1) : i.ShowsClass .copy :=
  showsClass_head he ((classOf_engine h h').trans ((if_neg (by omega)).trans (if_pos hn)))

end

/-- The first parcel of an instruction shows its class, by its format and its opcode or engine. -/
theorem showsClass_own (i : Instr) : i.ShowsClass i.ownClass := by
  cases i
  case add | sub | and | or | xor | shl | shr | sra | mul | mulhI32 | mulhB32 | divI32 | divB32 | remI32 | remB32 |
    minI32 | maxI32 | minB32 | maxB32 | slt | sltb | seq | clz | popc | add64 | sub64 | shl64 | shr64 | mul64 |
    sel | fres | fflt | ftry | fstat | tlaunch | tjoin | grec =>
    exact showsClass_op rfl (by decide) (fmtSR_op (by omega) (by omega) (by omega) (by decide)) rfl
  case addi | andi | ori | xori | shli | shri | srai | slti | addi64 | beq | bne | blt | bge | bltb | bgeb | jalr |
    loopn | ldB8 | ldI8 | ldB16 | ldI16 | ldW | ldD | stB8 | stB16 | stW | stD | ldroW | ldroD | sig | wait |
    bara | barw | bare | sbara | sbarw | cwait | sysrd | syswr | trap | cycles =>
    exact showsClass_op rfl (by decide) (fmtSI_op (by omega) (by omega) (by omega)) rfl
  case lui | addpc | jal =>
    exact showsClass_op rfl (by decide) (fmtSJ_op (by omega) (by omega)) rfl
  case atomAdd | atomMinI | atomMaxI | atomMinB | atomMaxB | atomAnd | atomOr | atomXor | atomExch | atomAddF32 |
    atomcasB32 | atomcasB64 =>
    exact showsClass_op rfl (by decide) (fmtSR_op (by omega) (by omega) (by omega) (fmtAtom_lt _ _ _ (by decide))) rfl
  case fenceRel | fenceAcq | fenceAr =>
    rename_i sc
    cases sc <;> exact showsClass_op rfl (by decide) rfl rfl
  case fenceRo | eret | yield | nop | bkpt | endStream | kill =>
    exact showsClass_op rfl (by decide) rfl rfl
  case mif | melse | mjoin | msave | mbreak | pmovs | smovp =>
    exact showsClass_op rfl (by decide) (fmtSR_op (by omega) (by omega) (by omega) (by omega)) rfl
  case bmany | bmnone =>
    exact showsClass_op rfl (by decide) (fmtSI_op (by omega) (by omega) (by omega)) rfl
  case fadd | fsub | fmul | ffma | ffnma | fmin | fmax | fceq | fcne | fclt | fcle | fcun | fclass | frnd | dadd |
    dsub | dmul | dfma | dfnma | dmin | dmax | dceq | dcne | dclt | dcle | dcun | drnd | hadd2 | hsub2 | hmul2 |
    hfma2 | hmin2 | hmax2 | dot2 | dot4 | idot4 | rcp | rsq | sqrt | exp2 | log2 | sinpi | cospi | tanh | drcp |
    dsqrt | iadd | isub | imul | imad | imulh | imin | imax | iabs | ishl | ishr | isra | vlut | isum3 | iceq |
    icne | iclt | icle | icltb | icleb | vpopc | vclz | brev | bfx | bfi | iadd64 | imad64 | cvt | cvti | pk2 |
    pk4 | unpk2 | unpk4 | mxq | mxdq | vmov | vmovi | vsel | viota | vperm | bcast | redux | scan | vtag | vunif |
    vdef | vmovsToVector | vmovsToScalar | vreadl | plut | pmov | vld | vst | vldro | vatom | vatomcas | vfadd |
    vquad | vpref | pxw | vxm | xbox | xtri | xstep =>
    exact showsClass_wide rfl (by decide)
  case oclm | orls | mseed =>
    exact showsClass_matrix rfl fmtEng0_ge (fmtEng0_lt (by decide) (by decide)) (eng0_eng (by decide) (by decide))
  case mold | mma | mmap | mmasFull | mmasTri | mwclr | mwst | macz | macld | macst | rboard =>
    exact showsClass_matrix rfl fmtEng_ge (fmtEng_lt (by decide) (by decide)) (eng_eng (by decide) (by decide))
  case cstat =>
    exact showsClass_copy rfl fmtEng0_ge (fmtEng0_lt (by decide) (by decide)) (eng0_eng (by decide) (by decide))
  case cpy | tcopy | tcopySt | tcopyo | osliceA | osliceB | gather | scatter | cpyred | qfill | qsink | collred |
    collbc | collsendSend | collsendRecv | spref =>
    exact showsClass_copy rfl fmtEng_ge (fmtEng_lt (by decide) (by decide)) (eng_eng (by decide) (by decide))
  all_goals exact showsClass_none rfl

end Sys2Proof

namespace Sys2Proof.Machine

/-! ### Instructions in a stream that does not execute their class (R112, R134) -/

/-- Where the stream in focus does not execute the class, the outcome is ILLEGAL, CLASS, and nothing else. -/
def TrapsElsewhere (c : InstrClass) (s : State) (o : Host.Outcome State Fault Refusal) : Prop :=
  ∀ t k, Issues s t k → c.runsOn k = false → o = .next (s.takeTrap t k (t.st k).pc false 0 { cls := 0, sub := 3 })

section
variable {c : InstrClass} {s : State} {i : Instr} {w : VW}

theorem issue_elsewhere {f : Task → StreamId → Except Stop State} : TrapsElsewhere c s (issue c s f) :=
  fun _ _ h hk => issue_class h hk f
theorem scalar_elsewhere {o : Host.Outcome State Fault Refusal} : TrapsElsewhere .scalar s o :=
  fun _ k _ hk => nomatch (runsOn_scalar k).symm.trans hk
theorem maskOp_elsewhere {p : Option (BitVec 5)} {f : Task → StreamSt → StreamSt} : TrapsElsewhere .mask s (maskOp p f s) :=
  issue_elsewhere
theorem maskBranch_elsewhere {o : BitVec 14} {f : Mask → Bool} : TrapsElsewhere .mask s (maskBranch o f s) := issue_elsewhere
theorem vecRun_elsewhere {ps : List Piece} {stall : BitVec 4} {e : BitVec 1} :
    TrapsElsewhere .vector s (vecRun ps stall e s) := issue_elsewhere
theorem wideRun_elsewhere {op : Nat} {f : VFn} : TrapsElsewhere .vector s (wideRun op w f s) := vecRun_elsewhere
theorem memWord_elsewhere {op : Nat} {body : State → Task → VIn → Except Stop (State × Task × VOut)} :
    TrapsElsewhere .vector s (memWord op w body s) := issue_elsewhere
theorem pairedWord_elsewhere : TrapsElsewhere .vector s (execPairedWord s) := fun t k h hk => by
  unfold execPairedWord
  simp only [h.focus, Option.bind_some, h.task]
  split
  · exact issue_elsewhere t k h hk
  · exact vecRun_elsewhere t k h hk
theorem mmasOp_elsewhere {a : Act} {x y n : Nat} : TrapsElsewhere .matrix s (mmasOp i a x y n s) := issue_elsewhere
theorem tcopyOp_elsewhere {a : Act} {r : BitVec 4} {x y : BitVec 5} {b : Bool} :
    TrapsElsewhere .copy s (tcopyOp i a r x y b s) := issue_elsewhere
theorem osliceOp_elsewhere {a : Act} {x : BitVec 5} {l m n : Nat} {b : Bool} :
    TrapsElsewhere .copy s (osliceOp i a x l m n b s) := issue_elsewhere
theorem indexedOp_elsewhere {a : Act} {d n x y : BitVec 5} {p q : BitVec 4} {b : Bool} :
    TrapsElsewhere .copy s (indexedOp i a d p q n x y b s) := issue_elsewhere
theorem queueOp_elsewhere {a : Act} {q : Nat} {p : BitVec 4} {x y z : BitVec 5} {b : Bool} :
    TrapsElsewhere .copy s (queueOp i a q p x y z b s) := issue_elsewhere
theorem collsendOp_elsewhere {a : Act} {g : BitVec 4} {x y z : BitVec 5} {m : CollKind} :
    TrapsElsewhere .copy s (collsendOp i a g x y z m s) := issue_elsewhere

end

/-- What every instruction does in a stream that does not execute its class: it issues through that class. -/
theorem exec_elsewhere (i : Instr) (s : State) : TrapsElsewhere i.ownClass s (exec i s) := by
  cases i
  case mif | melse | mjoin | msave | mbreak | pmovs =>
    rw [exec]; exact maskOp_elsewhere
  case bmany | bmnone =>
    rw [exec]; exact maskBranch_elsewhere
  case fadd | fsub | fmul | ffma | ffnma | fmin | fmax | fceq | fcne | fclt | fcle | fcun | fclass | frnd | dadd |
    dsub | dmul | dfma | dfnma | dmin | dmax | dceq | dcne | dclt | dcle | dcun | drnd | hadd2 | hsub2 | hmul2 |
    hfma2 | hmin2 | hmax2 | dot2 | dot4 | idot4 | rcp | rsq | sqrt | exp2 | log2 | sinpi | cospi | tanh | drcp |
    dsqrt | iadd | isub | imul | imad | imulh | imin | imax | iabs | ishl | ishr | isra | vlut | isum3 | iceq |
    icne | iclt | icle | icltb | icleb | vpopc | vclz | brev | bfx | bfi | iadd64 | imad64 | cvt | cvti | pk2 |
    pk4 | unpk2 | unpk4 | mxq | mxdq | vmov | vmovi | vsel | viota | vperm | bcast | redux | scan | vtag | vunif |
    vdef | vmovsToVector | vmovsToScalar | vreadl | plut | pmov =>
    rw [exec]; exact wideRun_elsewhere
  case vld | vst | vldro | vatom | vfadd | vquad | vpref | pxw | vxm | xbox | xtri | xstep | xtile | xstepPop =>
    rw [exec]; exact memWord_elsewhere
  case vatomcas =>
    rw [exec, execVatomcas]; exact memWord_elsewhere
  case pairedWord =>
    exact pairedWord_elsewhere
  case mmasFull | mmasTri =>
    rw [exec]; exact mmasOp_elsewhere
  case tcopy | tcopySt =>
    rw [exec]; exact tcopyOp_elsewhere
  case osliceA | osliceB =>
    rw [exec]; exact osliceOp_elsewhere
  case gather | scatter =>
    rw [exec]; exact indexedOp_elsewhere
  case qfill | qsink =>
    rw [exec]; exact queueOp_elsewhere
  case collsendSend | collsendRecv =>
    rw [exec]; exact collsendOp_elsewhere
  case smovp | oclm | orls | mseed | mold | mma | mmap | mwclr | mwst | macz | macld | macst | rboard | cpy |
    tcopyo | cpyred | collred | collbc | spref | cstat =>
    rw [exec]; exact issue_elsewhere
  all_goals exact scalar_elsewhere

/-- Settles O40: what has parcels by the class that they show, and the words of the latch as vector words. -/
theorem wrongClassTraps : Obligations.WrongClassTraps := by
  rintro i s t k h (⟨w, ps, c, he, hc, hk⟩ | ⟨hi, hk⟩)
  · obtain rfl := Option.some.inj (hc.symm.trans (showsClass_own i w ps he))
    exact exec_elsewhere i s t k h (runsOn_eq_false hk)
  · have hv : i.ownClass = .vector := by
      simp only [List.mem_cons, List.not_mem_nil, or_false] at hi
      rcases hi with rfl | rfl | rfl <;> rfl
    exact exec_elsewhere i s t k h (hv ▸ runsOn_eq_false (by simp [hk]))

end Sys2Proof.Machine

namespace Sys2Proof.Machine

/-! ### Vector memory words (R207 to R232) -/

/-- Each scoreboarded word runs in the common frame, with its op9, its fields and its effect. -/
theorem exec_memRows (w : VW) (s : State) :
    ∀ r ∈ memRows w s.latched, exec r.1 s = memWord r.2.1 r.2.2.1 r.2.2.2 s := by
  simp only [memRows, List.forall_mem_cons, List.not_mem_nil, false_implies, implies_true, and_true]
  and_intros <;> rfl

/-- A lane's effective address is the one that the fields give (R208). -/
theorem VIn.ea_eq_laneAddress (x : VIn) (op l : Nat) : x.ea op x.w.am x.w.sc l = laneAddress x op l := rfl

/-! #### Loaded values (R210, R211) -/

theorem sum_pieces_le : ∀ f va n, ((pieces f va n).map Prod.snd).sum ≤ n
  | 0, _, n => Nat.zero_le n
  | f + 1, va, n => by
    unfold pieces
    split
    · exact Nat.zero_le n
    · have hk : Nat.min n (4096 - va % 4096) ≤ n := Nat.min_le_left _ _
      have := sum_pieces_le f ((va + Nat.min n (4096 - va % 4096)) % 2 ^ 64) (n - Nat.min n (4096 - va % 4096))
      simp only [List.map_cons, List.sum_cons]
      omega

/-- A range leads to no more places than it has bytes. -/
theorem State.length_locs_le (s : State) (a : Accessor) (va n : Nat) (wr : Bool) : (s.locs a va n wr).length ≤ n := by
  refine Nat.le_trans ?_ (sum_pieces_le (n / 4096 + 2) va n)
  rw [State.locs, List.length_flatMap]
  refine List.sum_le_sum fun p _ => ?_
  split <;> simp [idxFrom_eq_range']

theorem State.length_vload_le (s : State) (t : Task) (va n : Nat) : (s.vload t va n).length ≤ n := by
  refine Nat.le_trans (Nat.le_of_eq ?_) (s.length_locs_le (t.accessor s) va n false)
  unfold State.vload State.loadBytes
  split <;> exact List.length_map _

/-- A loaded value of at most four bytes, extended, is a word's (R210). -/
theorem szExtend_lt {sz v : Nat} (hs : sz < 5) (hv : v < 256 ^ szBytes sz) : szExtend sz v < 2 ^ 32 := by
  have hle : szBytes sz ≤ 4 := by unfold szBytes; split_ifs <;> omega
  have hv4 : v < 256 ^ 4 := Nat.lt_of_lt_of_le hv (Nat.pow_le_pow_right (by decide) hle)
  unfold szExtend
  split_ifs <;> omega

/-- The value that a load gives a lane (R210). -/
def VIn.loaded (x : VIn) (s : State) (t : Task) (l : Nat) : Nat :=
  szExtend x.w.sz (leNat (s.vload t (laneAddress x 0x160 l) (szBytes x.w.sz)))

theorem VIn.loaded_lt {x : VIn} (hs : x.w.sz < 5) (s : State) (t : Task) (l : Nat) : x.loaded s t l < 2 ^ 32 :=
  szExtend_lt hs (Nat.lt_of_lt_of_le (leNat_lt _) (Nat.pow_le_pow_right (by decide) (s.length_vload_le t _ _)))

/-- Where the address is UNIFORM, every lane loads the same value (R211). -/
theorem VIn.loaded_of_flat {x : VIn} (h : x.flatAddr 0x160 = true) (s : State) (t : Task) (l : Nat) :
    x.loaded s t l = x.loaded s t 0 := by
  rw [VIn.flatAddr, Bool.and_eq_true] at h
  simp only [VIn.loaded, ← VIn.ea_eq_laneAddress, VIn.ea, Opd.at_of_isSame h.1 l]

/-- What a load leaves: its destination, from the values of its lanes. -/
theorem loadBody_result {s s' : State} {t t' : Task} {x : VIn} {o : VOut}
    (h : loadBody 0x160 false s t x = .ok (s', t', o)) :
    let flat := x.flatAddr 0x160 && x.mask == BitVec.allOnes 96
    o = { regs := outRegs (szKind (x.w.sz == 5)) x.w.d.toNat flat ((if flat then [0] else upto 96).map fun l =>
      if x.mask.getLsbD l then x.loaded s t l else 0) } := by
  simp only [loadBody, bind, Except.bind] at h
  split at h
  · cases h
  · cases h
    rfl

/-- Each active lane of a 32-bit load has the value at its address. -/
theorem loadBody_lanes {s s' : State} {t t' : Task} {x : VIn} {o : VOut}
    (h : loadBody 0x160 false s t x = .ok (s', t', o)) (hs : x.w.sz < 5) : ∃ v : VReg, o.regs = [(x.w.d.toNat, v)] ∧
      o.flags = [] ∧ ∀ l, l < 96 → x.mask.getLsbD l = true → (v.lane l).toNat = x.loaded s t l := by
  have hk : szKind (x.w.sz == 5) = .v := by simp [szKind, show x.w.sz ≠ 5 by omega]
  rw [loadBody_result h, hk]
  refine ⟨_, rfl, rfl, fun l hl hm => ?_⟩
  cases hf : x.flatAddr 0x160 && x.mask == BitVec.allOnes 96
  case true =>
    rw [Bool.and_eq_true, beq_iff_eq] at hf
    have h0 : x.mask.getLsbD 0 = true := by rw [hf.2]; decide
    simp only [if_true, List.map_cons, List.headD_cons, h0, id, VReg.lane, BitVec.toNat_ofNat,
      Nat.mod_eq_of_lt (VIn.loaded_lt hs s t 0), VIn.loaded_of_flat hf.1 s t l]
  case false =>
    simp only [Bool.false_eq_true, if_false, VReg.rows, VReg.lane, List.map_map]
    rw [nth_upto_map _ _ hl]
    simp only [Function.comp_apply, hm, if_true, id, BitVec.toNat_ofNat, Nat.mod_eq_of_lt (VIn.loaded_lt hs s t l)]

/-! #### Stores (R103, R212) -/

/-- A store adds one entry to its stream's queue, its lanes in ascending order, and no byte has changed yet. -/
theorem storeBody_queue {s s' : State} {t t' : Task} {x : VIn} {o : VOut} (h : storeBody s t x = .ok (s', t', o))
    (hm : x.mask ≠ 0) : o.regs = [] ∧ (∀ l, s'.byteAt l = s.byteAt l) ∧
      (t'.st .v).queue = (t.st .v).queue ++ [{ seq := s.seq, pc := x.st.pc, eff := .store ((activeList x.mask).map fun l =>
        (s.locs (t.accessor s) (laneAddress x 0x161 l) (szBytes x.w.sz) true).zip
          (natLe (szBytes x.w.sz) ((x.c 0x161).at l))) }] := by
  simp only [storeBody, bind, Except.bind, hm, if_false] at h
  split at h
  · cases h
  · cases h
    have hf := State.foldl_only (fun u l => u.tlbFillRange (t.accessor s) (x.ea 0x161 x.w.am x.w.sc l) (szBytes x.w.sz))
      (fun u l => u.tlbFillRange_only _ _ _) (activeList x.mask) s
    refine ⟨rfl, fun l => ?_, ?_⟩
    · exact Eq.trans (by cases l <;> rfl) (hf.byteAt l)
    · simp only [State.push, hf.seq]
      rfl

/-! #### A vector write beside words in flight (R132, R174) -/

/-- `u` is `t` but for registers, predicates, queues and the vector stream's scalar registers. -/
def Task.VecWritten (t u : Task) : Prop :=
  ∃ vs ps qs l, u = { t with vregs := vs, preds := ps, vqs := qs, str := t.str.set .v (t.str.v.setRegs l) }

theorem Task.VecWritten.uid {t u : Task} (h : t.VecWritten u) : u.uid = t.uid := by
  obtain ⟨_, _, _, _, rfl⟩ := h; rfl
theorem Task.VecWritten.pc {t u : Task} (h : t.VecWritten u) : (u.st .v).pc = (t.st .v).pc := by
  obtain ⟨_, _, _, l, rfl⟩ := h
  exact (StreamSt.setRegs_frame l (t.st .v)).1

/-- Writes that each change predicates alone change predicates alone. -/
theorem foldl_preds {α : Type} {f : Task → α → Task} (hf : ∀ t a, ∃ ps, f t a = { t with preds := ps }) :
    ∀ (l : List α) (t : Task), ∃ ps, l.foldl f t = { t with preds := ps }
  | [], t => ⟨t.preds, rfl⟩
  | a :: l, t => by
    obtain ⟨ps, h⟩ := hf t a
    obtain ⟨qs, h'⟩ := foldl_preds hf l (f t a)
    exact ⟨qs, h'.trans (by rw [h])⟩

theorem Task.setPred_preds (t : Task) (n : Nat) (m : Mask) : ∃ ps, t.setPred n m = { t with preds := ps } := by
  unfold Task.setPred
  split
  · exact ⟨t.preds, rfl⟩
  · exact ⟨_, rfl⟩

/-- Predicates, then queues, then scalar registers: the writes that follow those of the registers. -/
theorem Task.VecWritten.of_preds {t : Task} {vs : List VReg} {f : Task → Nat × Mask → Task}
    (hf : ∀ t r, ∃ ps, f t r = { t with preds := ps }) (rs : List (Nat × Mask)) (pops : List Nat)
    (pushes : List (Nat × Lanes)) (l : List (BitVec 5 × Word)) :
    let u := (rs.foldl f { t with vregs := vs }).moveQueues pops pushes
    t.VecWritten (u.setSt .v (u.str.v.setRegs l)) := by
  obtain ⟨ps, h⟩ := foldl_preds hf rs { t with vregs := vs }
  rw [h]
  exact ⟨_, _, _, _, rfl⟩

/-- A vector write, whatever of it an early access keeps back (R132), changes nothing else. -/
theorem State.vecWrite_written {s : State} {t u : Task} {at_ : Nat} {x : VIn} {o : VOut}
    (h : s.vecWrite t at_ x o = .ok u) : t.VecWritten u := by
  simp only [State.vecWrite, bind, Except.bind] at h
  split at h
  · cases h
  next v hv =>
    obtain ⟨vs, rfl⟩ := (Task.putRegs_written hv).eq
    cases h
    refine Task.VecWritten.of_preds (fun t r => ?_) o.preds _ _ o.sregs
    split
    · exact ⟨t.preds, rfl⟩
    · exact t.setPred_preds _ _

/-! #### Paired words (R129, R174) -/

/-- The task after a vector word of the latency classes: `u` holds the results of all its operations. -/
def State.taskAfterWords (s : State) (t u : Task) (at_ : Nat) (ws : List (Nat × VW)) (stall : BitVec 4) (e : BitVec 1)
    (fl : List FFlags) : Task :=
  let sr := ws.any fun p => p.2.rm == 5 && (p.1 == 0x100 || p.1 == 0x102 || p.1 == 0x103 || p.1 == 0x106)
  let st := u.str.v.orFlags (orAll fl)
  let st := if sr then { st with srcnt := st.srcnt + 1 } else st
  let old := u.flights.filter fun f => decide (at_ < f.issued + f.lat)
  let v := { u with flights := flightsOf t at_ ws ++ old, vready := at_ + 1 + stall.toNat, sb := u.sb ++ heldDests ws }
  let v := v.countDroop (s.bubbles t ws)
  v.setSt .v (v.advanceVec st e)

/-- The state after a vector word of the latency classes. -/
def State.afterWords (s : State) (t u : Task) (at_ : Nat) (ws : List (Nat × VW)) (stall : BitVec 4) (e : BitVec 1)
    (fl : List FFlags) : State :=
  ({ s.takePipes t at_ (ws.map (·.1)) with now := at_ + 1 } : State).setTask (s.taskAfterWords t u at_ ws stall e fl)

/-- The flags of the lanes of a paired word: of either operation (R175). -/
def pairFlags (x y : VIn) (a b : VOut) : List FFlags :=
  (upto 96).map fun l => nth (activeFlags x.mask a.flags) l 0 ||| nth (activeFlags y.mask b.flags) l 0

theorem orAll_two (x y : FFlags) : orAll [x, y] = x ||| y := by simp [orAll]

/-- A word of two operations completes: both are read, then the first writes and the second after it. -/
theorem vecRun_pair_next {s : State} {t u v : Task} {p q : Piece} {stall : BitVec 4} {e : BitVec 1} {at_ : Nat} {x y : VIn}
    (h : Issues s t .v) (hb : s.vecBegin t [(p.op, p.w), (q.op, q.w)] = .ok (at_, [x, y]))
    (hu : s.vecWrite t at_ x (p.fn x) = .ok u) (hv : s.vecWrite u at_ y (q.fn y) = .ok v)
    (ha : arithTrap (t.st .v).fpmode (pairFlags x y (p.fn x) (q.fn y)) = none) :
    vecRun [p, q] stall e s =
      .next (s.afterWords t v at_ [(p.op, p.w), (q.op, q.w)] stall e (pairFlags x y (p.fn x) (q.fn y))) := by
  unfold vecRun
  refine issue_next h rfl ?_
  simp only [List.map_cons, List.map_nil, hb, bind, Except.bind, List.zip_cons_cons, List.zip_nil_right, List.foldl_cons,
    List.foldl_nil, hu, hv, orAll_two]
  rw [show t.str.v = t.st .v from rfl]
  unfold pairFlags at ha
  simp only [ha]
  rfl

/-- A vector word keeps the results that were written, and moves the program counter on. -/
theorem State.taskAfterWords_frame (s : State) (t u : Task) (at_ : Nat) (ws : List (Nat × VW)) (stall : BitVec 4) (e : BitVec 1)
    (fl : List FFlags) : let v := s.taskAfterWords t u at_ ws stall e fl
    v.uid = u.uid ∧ v.vregs = u.vregs ∧ v.preds = u.preds ∧ v.vqs = u.vqs ∧ (v.st .v).regs = (u.st .v).regs ∧
      (v.st .v).pc = (u.st .v).pc + 12 := by
  refine ⟨rfl, rfl, rfl, rfl, ?_⟩
  unfold State.taskAfterWords
  dsimp only
  split <;> exact ⟨rfl, rfl⟩

theorem State.afterWords_task? {s : State} {t u : Task} (ht : s.task? t.uid = some t) (hu : u.uid = t.uid) (at_ : Nat)
    (ws : List (Nat × VW)) (stall : BitVec 4) (e : BitVec 1) (fl : List FFlags) :
    (s.afterWords t u at_ ws stall e fl).task? t.uid = some (s.taskAfterWords t u at_ ws stall e fl) := by
  have huid : (s.taskAfterWords t u at_ ws stall e fl).uid = t.uid := hu
  rw [State.afterWords, ← huid]
  refine State.task?_setTask _ _ ?_
  rw [huid]
  exact Option.isSome_of_eq_some (((s.setCore_only (s.coreOf t) _).task? t.uid).trans ht)

theorem State.afterWords_byteAt (s : State) (t u : Task) (at_ : Nat) (ws : List (Nat × VW)) (stall : BitVec 4) (e : BitVec 1)
    (fl : List FFlags) (l : Loc) : (s.afterWords t u at_ ws stall e fl).byteAt l = s.byteAt l :=
  (State.setTask_byteAt _ _ l).trans (Eq.trans (by cases l <;> rfl) ((s.setCore_only (s.coreOf t) _).byteAt l))

/-- A paired word that breaks no rule of R129 is the word of its two operations. -/
theorem exec_pairedWord_legal {s : State} {t : Task} (h : Issues s t .v)
    (hi : pairIllegal (pairHead t.word.1.toNat) (decSlot (fld t.word.1.toNat 0 10) t.word.2.1.toNat)
      (decSlot (fld t.word.1.toNat 10 10) t.word.2.2.toNat) = none) :
    exec .pairedWord s = vecRun ([decSlot (fld t.word.1.toNat 0 10) t.word.2.1.toNat,
        decSlot (fld t.word.1.toNat 10 10) t.word.2.2.toNat].map fun p =>
      { op := p.op9.toNat, w := p.toVW (pairHead t.word.1.toNat), fn := pairFn p.op9.toNat : Piece })
      (pairHead t.word.1.toNat).stall (pairHead t.word.1.toNat).e s := by
  change execPairedWord s = _
  unfold execPairedWord
  simp only [h.focus, Option.bind_some, h.task, hi, List.map_cons, List.map_nil]

/-- Settles O48: the common frame of the scoreboarded words, what a load and a store leave, and the paired word as its two
operations. -/
theorem vectorMemoryWordsComplete : Obligations.VectorMemoryWordsComplete := by
  refine ⟨fun s t h w r hr => ?_, fun s t x s' t' o hl hs => loadBody_lanes hl hs, fun s t x s' t' o hst hm => ?_, ?_⟩
  · rw [exec_memRows w s r hr]
    exact ⟨fun e he => memWord_stop h _ he, fun at_ x hb => ⟨fun e he => memWord_check h hb he,
      fun s' t' o ho => ⟨fun b hw => memWord_rows h hb ho hw, fun u hw => memWord_next h hb ho hw⟩⟩⟩
  · obtain ⟨hregs, hbytes, hqueue⟩ := storeBody_queue hst hm
    refine ⟨hregs, hbytes, ?_⟩
    rw [hqueue, activeList, upto_eq_range]
  · intro s t h hd sa sb ps hi
    refine ⟨exec_pairedWord_legal h hi, ?_⟩
    intro at_ x y hb a b u v hu hv ha
    have hw := State.vecWrite_written hu
    have hw' := State.vecWrite_written hv
    have ht := State.afterWords_task? h.task (hw'.uid.trans hw.uid) at_ (ps.map fun p => (p.op, p.w)) hd.stall hd.e
      (pairFlags x y a b)
    obtain ⟨-, hregs, hpreds, hqs, hsregs, hpc⟩ := s.taskAfterWords_frame t v at_ (ps.map fun p => (p.op, p.w)) hd.stall hd.e
      (pairFlags x y a b)
    exact ⟨_, _, (exec_pairedWord_legal h hi).trans (vecRun_pair_next h hb hu hv ha), ht, hregs, hpreds, hqs, hsregs,
      hpc.trans (by rw [hw'.pc, hw.pc]), s.afterWords_byteAt t v at_ _ _ _ _⟩

end Sys2Proof.Machine

namespace Sys2Proof.Machine
set_option Elab.async false

/-! ### Machine arithmetic as integer arithmetic (R137 to R143) -/

section
variable {w : Nat} (x y : BitVec w)

theorem and_eq_ofNat : x &&& y = BitVec.ofNat w (x.toNat &&& y.toNat) := BitVec.eq_of_toNat_eq (by simp)
theorem or_eq_ofNat : x ||| y = BitVec.ofNat w (x.toNat ||| y.toNat) := BitVec.eq_of_toNat_eq (by simp)
theorem xor_eq_ofNat : x ^^^ y = BitVec.ofNat w (x.toNat ^^^ y.toNat) := BitVec.eq_of_toNat_eq (by simp)
theorem shiftLeft_eq_ofNat (n : Nat) : x <<< n = BitVec.ofNat w (x.toNat * 2 ^ n) := by
  rw [← Nat.shiftLeft_eq]; rfl
theorem ushiftRight_eq_ofNat (n : Nat) : x >>> n = BitVec.ofNat w (x.toNat / 2 ^ n) := by
  rw [← Nat.shiftRight_eq_div_pow, ← BitVec.toNat_ushiftRight, BitVec.ofNat_toNat, BitVec.setWidth_eq]
theorem sshiftRight_eq_ofInt (n : Nat) : x.sshiftRight n = BitVec.ofInt w (x.toInt / 2 ^ n) :=
  congrArg (BitVec.ofInt w) (Int.shiftRight_eq_div_pow _ _)

/-- The sum with a sign-extended constant, the word taken unsigned. -/
theorem add_signExtend {n : Nat} (i : BitVec n) : x + i.signExtend w = BitVec.ofInt w ((x.toNat : Int) + i.toInt) := by
  rw [BitVec.ofInt_add, BitVec.ofInt_natCast, BitVec.ofNat_toNat, BitVec.setWidth_eq]; rfl
/-- The same, the word taken signed. -/
theorem add_signExtend_toInt {n : Nat} (i : BitVec n) : x + i.signExtend w = BitVec.ofInt w (x.toInt + i.toInt) := by
  rw [BitVec.ofInt_add, BitVec.ofInt_toInt]; rfl

theorem sub_eq_ofInt : x - y = BitVec.ofInt w ((x.toNat : Int) - y.toNat) := by
  rw [Int.sub_eq_add_neg, BitVec.ofInt_add, BitVec.ofInt_neg, BitVec.ofInt_natCast, BitVec.ofInt_natCast, BitVec.ofNat_toNat,
    BitVec.ofNat_toNat, BitVec.setWidth_eq, BitVec.setWidth_eq]
  exact sub_eq_add_neg x y

theorem ite_ofNat (p : Prop) [Decidable p] (n : Nat) (h : n = if p then x.toNat else y.toNat) :
    (if p then x else y) = BitVec.ofNat w n := by
  rw [h]; split <;> simp
theorem ite_ofInt (p : Prop) [Decidable p] (n : Int) (h : n = if p then x.toInt else y.toInt) :
    (if p then x else y) = BitVec.ofInt w n := by
  rw [h]; split <;> simp

end

theorem minS_eq (x y : Word) : minS x y = BitVec.ofInt 32 (min x.toInt y.toInt) := ite_ofInt _ _ _ _ (by omega)
theorem maxS_eq (x y : Word) : maxS x y = BitVec.ofInt 32 (max x.toInt y.toInt) := ite_ofInt _ _ _ _ (by omega)
theorem minU_eq (x y : Word) : minU x y = BitVec.ofNat 32 (min x.toNat y.toNat) :=
  ite_ofNat _ _ _ _ (by split <;> omega)
theorem maxU_eq (x y : Word) : maxU x y = BitVec.ofNat 32 (max x.toNat y.toNat) :=
  ite_ofNat _ _ _ _ (by split <;> omega)

theorem ofBool_decide (p : Prop) [Decidable p] : Word.ofBool (decide p) = if p then 1 else 0 := by
  simp [Word.ofBool]

/-- The remainder of a division that truncates toward zero (R138). -/
theorem remS_eq (x y : Word) : remS x y = if y = 0 then x else if x = 0x80000000 ∧ y = 0xFFFFFFFF then 0
    else BitVec.ofInt 32 (x.toInt.tmod y.toInt) := by
  rw [Int.tmod_def]; rfl

/-- With `c` leading zeros in its low `n` bits, a number lies below `2 ^ (n - c)`, and it reaches half of that. -/
theorem clzFrom_bounds (x : Word) (n : Nat) : clzFrom x n ≤ n ∧ x.toNat % 2 ^ n < 2 ^ (n - clzFrom x n) ∧
    (clzFrom x n < n → 2 ^ (n - 1 - clzFrom x n) ≤ x.toNat % 2 ^ n) := by
  induction n with
  | zero => simp [clzFrom, Nat.mod_one]
  | succ n ih =>
    obtain ⟨hle, hlt, hge⟩ := ih
    rw [clzFrom, Nat.mod_pow_succ, bit_eq]
    cases x.getLsbD n with
    | true =>
      have := Nat.mod_lt x.toNat (Nat.two_pow_pos n)
      simp [Nat.pow_succ]
      omega
    | false =>
      have e : n - (clzFrom x n + 1) = n - 1 - clzFrom x n := by omega
      simpa [Nat.add_comm 1, hle, hlt, e] using hge

theorem popFrom_eq (x : Word) (n : Nat) : popFrom x n = ((List.range n).filter fun i => x.getLsbD i).length := by
  induction n with
  | zero => rfl
  | succ n ih =>
    rw [popFrom, ih, List.range_succ, List.filter_append, List.length_append, Nat.add_comm]
    cases h : x.getLsbD n <;> simp [h]

/-! ### Instructions whose whole effect is one register or pair (R137 to R140) -/

section
variable {i : Instr} {d : BitVec 5} {p : BitVec 4}

theorem setsReg_of_streamOp {f : StreamSt → StreamSt} {v : StreamSt → Word} (he : ∀ s, exec i s = streamOp .scalar f s)
    (hv : ∀ st, f st = st.setReg d (v st)) : setsReg i d v := fun s t k h =>
  (he s).trans ((streamOp_next h (runsOn_scalar k) f).trans (by rw [hv]))

theorem setsPair_of_streamOp {f : StreamSt → StreamSt} {v : StreamSt → Dword} (he : ∀ s, exec i s = streamOp .scalar f s)
    (hv : ∀ st, f st = st.setPair p (v st)) : setsPair i p v := fun s t k h =>
  (he s).trans ((streamOp_next h (runsOn_scalar k) f).trans (by rw [hv]))

section
variable {v : StreamSt → Word}

theorem setsReg_of_opR {a b : BitVec 5} {f : Word → Word → Word} (he : ∀ s, exec i s = opR d a b f s)
    (hf : ∀ st, f (st.reg a) (st.reg b) = v st) : setsReg i d v :=
  setsReg_of_streamOp he fun st => by rw [hf]

theorem setsReg_of_opI {a : BitVec 5} {n : BitVec 14} {f : Word → Word → Word} (he : ∀ s, exec i s = opI d a n f s)
    (hf : ∀ st, f (st.reg a) (n.signExtend 32) = v st) : setsReg i d v :=
  setsReg_of_streamOp he fun st => by rw [hf]

theorem setsReg_of_opC {a n : BitVec 5} {f : Word → Nat → Word} (he : ∀ s, exec i s = opC d a n f s)
    (hf : ∀ st, f (st.reg a) n.toNat = v st) : setsReg i d v :=
  setsReg_of_streamOp he fun st => by rw [hf]

end

section
variable {v : StreamSt → Dword}

theorem setsPair_of_opP {a b : BitVec 4} {f : Dword → Dword → Dword} (he : ∀ s, exec i s = opP p a b f s)
    (hf : ∀ st, f (st.pair a) (st.pair b) = v st) : setsPair i p v :=
  setsPair_of_streamOp he fun st => by rw [hf]

theorem setsPair_of_opPR {a : BitVec 4} {b : BitVec 5} {f : Dword → Word → Dword} (he : ∀ s, exec i s = opPR p a b f s)
    (hf : ∀ st, f (st.pair a) (st.reg b) = v st) : setsPair i p v :=
  setsPair_of_streamOp he fun st => by rw [hf]

end

end

/-- Each row of the table is the arithmetic of its instruction (R137). -/
theorem intRows_results : ∀ r ∈ intRows, ∀ d a b, setsReg (r.1 d a b) d fun st => r.2 (st.reg a) (st.reg b) := by
  simp only [intRows, List.forall_mem_cons]
  refine ⟨fun d a b => ?_, fun d a b => ?_, fun d a b => ?_, fun d a b => ?_, fun d a b => ?_, fun d a b => ?_,
    fun d a b => ?_, fun d a b => ?_, fun d a b => ?_, fun d a b => ?_, fun d a b => ?_, fun d a b => ?_, fun d a b => ?_,
    fun d a b => ?_, fun d a b => ?_, fun d a b => ?_, fun d a b => ?_, fun d a b => ?_, nofun⟩
  · exact setsReg_of_opR (exec_add d a b) fun _ => BitVec.add_def _ _
  · exact setsReg_of_opR (exec_sub d a b) fun _ => sub_eq_ofInt _ _
  · exact setsReg_of_opR (exec_and d a b) fun _ => and_eq_ofNat _ _
  · exact setsReg_of_opR (exec_or d a b) fun _ => or_eq_ofNat _ _
  · exact setsReg_of_opR (exec_xor d a b) fun _ => xor_eq_ofNat _ _
  · exact setsReg_of_opR (exec_shl d a b) fun _ => shiftLeft_eq_ofNat _ _
  · exact setsReg_of_opR (exec_shr d a b) fun _ => ushiftRight_eq_ofNat _ _
  · exact setsReg_of_opR (exec_sra d a b) fun _ => sshiftRight_eq_ofInt _ _
  · exact setsReg_of_opR (exec_mul d a b) fun _ => rfl
  · exact setsReg_of_opR (exec_mulhI32 d a b) fun _ => rfl
  · exact setsReg_of_opR (exec_mulhB32 d a b) fun _ => rfl
  · exact setsReg_of_opR (exec_minI32 d a b) fun _ => minS_eq _ _
  · exact setsReg_of_opR (exec_maxI32 d a b) fun _ => maxS_eq _ _
  · exact setsReg_of_opR (exec_minB32 d a b) fun _ => minU_eq _ _
  · exact setsReg_of_opR (exec_maxB32 d a b) fun _ => maxU_eq _ _
  · exact setsReg_of_opR (exec_slt d a b) fun _ => ofBool_decide _
  · exact setsReg_of_opR (exec_sltb d a b) fun _ => ofBool_decide _
  · exact setsReg_of_opR (exec_seq d a b) fun _ => ofBool_decide _

/-- Settles O14, row by row; CLZ by the bounds that its count of zeros keeps. -/
theorem integerRegisterResults : Obligations.IntegerRegisterResults := by
  refine ⟨intRows_results, fun d a => ⟨fun x => clzFrom x 32, setsReg_of_opR (exec_clz d a) fun _ => rfl, fun x => ?_⟩,
    fun d a => setsReg_of_opR (exec_popc d a) fun _ => congrArg (BitVec.ofNat 32) (popFrom_eq _ _),
    fun d a b => setsReg_of_streamOp (exec_sel d a b) fun _ => rfl,
    fun d a b => setsPair_of_opP (exec_add64 d a b) fun _ => BitVec.add_def _ _,
    fun d a b => setsPair_of_opP (exec_sub64 d a b) fun _ => sub_eq_ofInt _ _,
    fun d a b => setsPair_of_opP (exec_mul64 d a b) fun _ => rfl,
    fun d a b => setsPair_of_opPR (exec_shl64 d a b) fun _ => shiftLeft_eq_ofNat _ _,
    fun d a b => setsPair_of_opPR (exec_shr64 d a b) fun _ => ushiftRight_eq_ofNat _ _⟩
  have h := clzFrom_bounds x 32
  rwa [Nat.mod_eq_of_lt x.isLt] at h

/-- Settles O15: the model's division by its definition, and its remainder as that of truncation. -/
theorem divisionResults : Obligations.DivisionResults :=
  ⟨fun d a b => setsReg_of_opR (exec_divI32 d a b) fun _ => rfl,
    fun d a b => setsReg_of_opR (exec_remI32 d a b) fun _ => remS_eq _ _,
    fun d a b => setsReg_of_opR (exec_divB32 d a b) fun _ => rfl,
    fun d a b => setsReg_of_opR (exec_remB32 d a b) fun _ => rfl⟩

/-- Settles O16: a count of five bits is below 32, and the constant is its sign-extension. -/
theorem immediateResults : Obligations.ImmediateResults := by
  have small (n : BitVec 5) : n.toNat % 32 = n.toNat := Nat.mod_eq_of_lt n.isLt
  refine ⟨fun d a i => setsReg_of_opI (exec_addi d a i) fun _ => add_signExtend_toInt _ i,
    fun d a i => setsReg_of_opI (exec_andi d a i) fun _ => rfl, fun d a i => setsReg_of_opI (exec_ori d a i) fun _ => rfl,
    fun d a i => setsReg_of_opI (exec_xori d a i) fun _ => rfl,
    fun d a i => setsReg_of_opI (exec_slti d a i) fun _ => ?_,
    fun d a i => setsReg_of_opC (exec_shli d a i) fun _ => ?_, fun d a i => setsReg_of_opC (exec_shri d a i) fun _ => ?_,
    fun d a i => setsReg_of_opC (exec_srai d a i) fun _ => ?_,
    fun d a i => setsPair_of_streamOp (exec_addi64 d a i) fun _ => by rw [add_signExtend_toInt]⟩
  · rw [← BitVec.toInt_signExtend_of_le (by decide : 14 ≤ 32)]
    exact ofBool_decide _
  · rw [shlW, small, shiftLeft_eq_ofNat]
  · rw [shrW, small, ushiftRight_eq_ofNat]
  · rw [sraW, small, sshiftRight_eq_ofInt]

end Sys2Proof.Machine

namespace Sys2Proof.Machine
set_option Elab.async false

/-! ### Constants, branches and jumps (R140 to R142) -/

/-- The target of a branch, modulo 2^64. -/
theorem pcRel_eq {n : Nat} (pc : Dword) (off : BitVec n) : pcRel pc off = parcelsFrom pc off := by
  have four : (4 : Dword) = BitVec.ofInt 64 4 := rfl
  rw [pcRel, parcelsFrom, BitVec.ofInt_add, BitVec.ofInt_mul, BitVec.ofInt_natCast, BitVec.ofNat_toNat, BitVec.setWidth_eq,
    four, BitVec.signExtend]

theorem zeroExtend_shiftLeft_eq_ofNat (i : BitVec 19) : (i.zeroExtend 32 <<< 13 : Word) = BitVec.ofNat 32 (i.toNat * 2 ^ 13) := by
  rw [shiftLeft_eq_ofNat, BitVec.toNat_setWidth, Nat.mod_eq_of_lt (a := i.toNat) (by omega)]

theorem branchesWhen_of_opB {i : Instr} {a b : BitVec 5} {o : BitVec 14} {f : Word → Word → Bool} {c : StreamSt → Prop}
    [∀ st, Decidable (c st)] (he : ∀ s, exec i s = opB a b o f s) (hc : ∀ st, f (st.reg a) (st.reg b) = true ↔ c st) :
    branchesWhen i o c := fun s t k h => by
  refine exec_completes h (he s) (congrArg Except.ok ?_)
  rw [pcRel_eq]
  exact if_congr (hc _) rfl rfl

theorem not_ltS_iff (x y : Word) : (!ltS x y) = true ↔ y.toInt ≤ x.toInt := by simp [ltS]
theorem not_ltU_iff (x y : Word) : (!ltU x y) = true ↔ y.toNat ≤ x.toNat := by simp [ltU]

section
variable {s : State} {t : Task} {k : StreamId} (h : Issues s t k)
include h

theorem exec_jal_issued (d : BitVec 4) (i : BitVec 19) : let st := t.st k
    exec (.jal d i) s = .next (s.branch t k (st.link d) (parcelsFrom st.pc i)) := by
  intro st
  rw [← pcRel_eq]
  exact exec_completes h (exec_jal d i s) rfl

theorem exec_jalr_aligned {d a : BitVec 4} {i : BitVec 14} (ha : ((t.st k).pair a + i.signExtend 64).toNat % 4 = 0) :
    exec (.jalr d a i) s = .next (s.branch t k ((t.st k).link d) ((t.st k).pair a + i.signExtend 64)) :=
  exec_completes h (exec_jalr d a i s) (if_neg (not_not.2 ha))

/-- A misaligned target is reported in TINFO (R142). -/
theorem exec_jalr_misaligned {d a : BitVec 4} {i : BitVec 14} (ha : ((t.st k).pair a + i.signExtend 64).toNat % 4 ≠ 0) :
    exec (.jalr d a i) s = .next (s.takeTrap t k (t.st k).pc false 0
      { cls := 1, sub := 5, info := (t.st k).pair a + i.signExtend 64 }) := by
  refine (exec_jalr d a i s).trans ((issue_stop h (runsOn_scalar k) (if_pos ha)).trans (congrArg _ ?_))
  rw [BitVec.ofNat_toNat, BitVec.setWidth_eq]
  exact State.stopped_trap s t k _ (by decide : clsMemory ≠ clsStorage)

end

/-- Settles O17: constants and branches by their forms, the jumps by whether the target is aligned. -/
theorem controlFlowResults : Obligations.ControlFlowResults := by
  refine ⟨fun d i => setsReg_of_streamOp (exec_lui d i) fun _ => by rw [zeroExtend_shiftLeft_eq_ofNat],
    fun d i => setsPair_of_streamOp (exec_addpc d i) fun _ => by rw [pcRel_eq],
    fun a b o => branchesWhen_of_opB (exec_beq a b o) fun _ => beq_iff_eq.trans BitVec.toNat_inj.symm,
    fun a b o => branchesWhen_of_opB (exec_bne a b o) fun _ => bne_iff_ne.trans (not_congr BitVec.toNat_inj.symm),
    fun a b o => branchesWhen_of_opB (exec_blt a b o) fun _ => decide_eq_true_iff,
    fun a b o => branchesWhen_of_opB (exec_bge a b o) fun _ => not_ltS_iff _ _,
    fun a b o => branchesWhen_of_opB (exec_bltb a b o) fun _ => decide_eq_true_iff,
    fun a b o => branchesWhen_of_opB (exec_bgeb a b o) fun _ => not_ltU_iff _ _,
    fun s t k h d => ⟨fun i => exec_jal_issued h d i, fun a i => ?_⟩⟩
  rw [← add_signExtend]
  exact ⟨exec_jalr_aligned h, exec_jalr_misaligned h⟩

/-! ### Counted loops (R143) -/

theorem sub_one_eq_ofNat {x : Word} (h : 1 ≤ x.toNat) : x - 1 = BitVec.ofNat 32 (x.toNat - 1) := by
  rw [← BitVec.ofNat_sub_ofNat_of_le x.toNat 1 (by decide) h, BitVec.ofNat_toNat, BitVec.setWidth_eq]
  rfl

section
variable {s : State} {t : Task} {k : StreamId} (h : Issues s t k) {a : BitVec 5}
include h

theorem exec_loopn_repeats (ha : 1 < ((t.st k).reg a).toNat) (o : BitVec 14) : let st := t.st k
    exec (.loopn a o) s =
      .next (s.branch t k (st.setReg a (BitVec.ofNat 32 ((st.reg a).toNat - 1))) (parcelsFrom st.pc o)) := by
  intro st
  rw [← pcRel_eq, ← sub_one_eq_ofNat (Nat.le_of_lt ha)]
  exact exec_completes h (exec_loopn a o s) (congrArg Except.ok (if_pos ha))

theorem exec_loopn_ends (ha : ((t.st k).reg a).toNat ≤ 1) (o : BitVec 14) :
    exec (.loopn a o) s = .next (s.retire t k ((t.st k).setReg a 0)) :=
  exec_completes h (exec_loopn a o s) (congrArg Except.ok (if_neg (Nat.not_lt.2 ha)))

end

end Sys2Proof.Machine

namespace Sys2Proof

/-! ### Words written out in their fields (R113) -/

/-- A word of formats SI, SM and SB by its fields. -/
theorem toNat_siFields (op : BitVec 8) (d a : BitVec 5) (i : BitVec 14) :
    (op ++ d ++ a ++ i).toNat = fmtSI op.toNat d.toNat a.toNat i.toNat := by
  simp only [BitVec.toNat_append, fmtSI]
  rw [← Nat.shiftLeft_add_eq_or_of_lt d.isLt, ← Nat.shiftLeft_add_eq_or_of_lt a.isLt,
    ← Nat.shiftLeft_add_eq_or_of_lt i.isLt]
  simp only [Nat.shiftLeft_eq]
  omega

/-- An instruction of one parcel decodes from any word of that number. -/
theorem decode_of_toNat {i : Instr} (hi : i.wf = true) {w : Word} (he : encodeNat i = [w.toNat]) : decode w 0 0 = .ok i :=
  Laws.RoundTrip.roundTrip i hi w [] (by rw [encode, he, List.map_singleton, BitVec.ofNat_toNat, BitVec.setWidth_eq])

theorem decode_loopnFields (a : BitVec 5) (o : BitVec 14) : decode (0x18#8 ++ a ++ 0#5 ++ o) 0 0 = .ok (.loopn a o) :=
  decode_of_toNat rfl (by rw [toNat_siFields]; rfl)

end Sys2Proof

namespace Sys2Proof.Machine

/-- Settles O18: LOOPN by its count, and its word as the encoder's. -/
theorem countedLoop : Obligations.CountedLoop :=
  ⟨decode_loopnFields, fun _ _ _ h _ o => ⟨fun ha => exec_loopn_repeats h ha o, fun ha => exec_loopn_ends h ha o⟩⟩

end Sys2Proof.Machine

namespace Sys2Proof.Machine
set_option Elab.async false

/-! ### Register triples and the activity mask (R33, R34) -/

theorem append_mask_parts (m : Mask) : m.extractLsb' 64 32 ++ m.extractLsb' 32 32 ++ m.extractLsb' 0 32 = m := by
  rw [BitVec.extractLsb'_append_extractLsb'_eq_extractLsb' (start₁ := 32) (len₁ := 32) rfl,
    BitVec.extractLsb'_append_extractLsb'_eq_extractLsb' (start₁ := 0) (len₁ := 32) rfl]
  exact BitVec.extractLsb'_eq_self

/-- Up to s28 a triple holds none of its registers twice and ends below s31. -/
theorem triple_distinct : ∀ j : BitVec 5, j.toNat ≤ 28 →
    (j ≠ 31 ∧ j + 1 ≠ 31 ∧ j + 2 ≠ 31) ∧ j ≠ j + 1 ∧ j ≠ j + 2 ∧ j + 1 ≠ j + 2 := by decide

theorem StreamSt.triple_setTriple (st : StreamSt) {j : BitVec 5} (hj : j.toNat ≤ 28) (m : Mask) :
    (st.setTriple j m).triple j = m := by
  obtain ⟨⟨h0, h1, h2⟩, h01, h02, h12⟩ := triple_distinct j hj
  simp only [StreamSt.triple, StreamSt.setTriple, StreamSt.reg_setReg, h0, h1, h2, h01, h02, h12, ne_eq, not_false_eq_true,
    and_true, if_true, if_false]
  exact append_mask_parts m

theorem StreamSt.reg_setTriple_of_ne (st : StreamSt) {j r : BitVec 5} (m : Mask) (hr : r ∉ [j, j + 1, j + 2]) :
    (st.setTriple j m).reg r = st.reg r := by
  simp only [List.mem_cons, List.not_mem_nil, or_false, not_or] at hr
  simp only [StreamSt.setTriple, StreamSt.reg_setReg, hr, false_and, if_false]

theorem StreamSt.triple_setTriple_of_disjoint (st : StreamSt) {i j : BitVec 5} (m : Mask)
    (h : ∀ r ∈ [j, j + 1, j + 2], r ∉ [i, i + 1, i + 2]) : (st.setTriple i m).triple j = st.triple j := by
  simp only [List.forall_mem_cons] at h
  rw [StreamSt.triple, st.reg_setTriple_of_ne m h.1, st.reg_setTriple_of_ne m h.2.1, st.reg_setTriple_of_ne m h.2.2.1]
  rfl

/-- A rejoin triple and the activity mask have no register in common (R34). -/
theorem rejoin_disjoint : ∀ j : BitVec 5, j.toNat ≤ 25 →
    (∀ r ∈ [j, j + 1, j + 2], r ∉ [(28 : BitVec 5), 28 + 1, 28 + 2]) ∧
    ∀ r ∈ [(28 : BitVec 5), 28 + 1, 28 + 2], r ∉ [j, j + 1, j + 2] := by decide

section
variable (st : StreamSt) {j : BitVec 5}

theorem StreamSt.am_setAm (m : Mask) : (st.setAm m).am = m := st.triple_setTriple (by decide) m

variable (hj : j.toNat ≤ 25) (m : Mask)
include hj

theorem StreamSt.triple_setAm : (st.setAm m).triple j = st.triple j :=
  st.triple_setTriple_of_disjoint m (rejoin_disjoint j hj).1
theorem StreamSt.am_setTriple : (st.setTriple j m).am = st.am :=
  st.triple_setTriple_of_disjoint m (rejoin_disjoint j hj).2
theorem StreamSt.triple_setRejoin : (st.setTriple j m).triple j = m := st.triple_setTriple (Nat.le_trans hj (by decide)) m

end

theorem StreamSt.toNat_triple (st : StreamSt) (j : BitVec 5) : (st.triple j).toNat =
    (st.reg j).toNat + 2 ^ 32 * (st.reg (j + 1)).toNat + 2 ^ 64 * (st.reg (j + 2)).toNat := by
  rw [StreamSt.triple, BitVec.toNat_append, BitVec.toNat_append, ← Nat.shiftLeft_add_eq_or_of_lt (st.reg j).isLt,
    ← Nat.shiftLeft_add_eq_or_of_lt (st.reg (j + 1)).isLt, Nat.shiftLeft_eq, Nat.shiftLeft_eq]
  omega

/-- No lane is in the activity mask when its three registers are zero. -/
theorem StreamSt.am_eq_zero (st : StreamSt) : st.am = 0 ↔ st.reg 28 = 0 ∧ st.reg 29 = 0 ∧ st.reg 30 = 0 := by
  have e : st.am.toNat = (st.reg 28).toNat + 2 ^ 32 * (st.reg 29).toNat + 2 ^ 64 * (st.reg 30).toNat := st.toNat_triple 28
  simp only [← BitVec.toNat_inj, e, BitVec.ofNat_eq_ofNat, BitVec.toNat_ofNat, Nat.zero_mod]
  omega

/-! ### Mask instructions (R163) -/

theorem Task.predHeld_iff (t : Task) (p : Nat) : t.predHeld p = true ↔ ∃ l ∈ t.sb, Dest.pred p ∈ l := by
  simp [Task.predHeld]

theorem le_foldl_max {α : Type} (f : α → Nat) : ∀ (l : List α) (n : Nat),
    n ≤ l.foldl (fun n x => Nat.max n (f x)) n ∧ ∀ x ∈ l, f x ≤ l.foldl (fun n x => Nat.max n (f x)) n
  | [], _ => ⟨Nat.le_refl _, nofun⟩
  | y :: l, n => by
    obtain ⟨hn, hl⟩ := le_foldl_max f l (Nat.max n (f y))
    refine ⟨Nat.le_trans (Nat.le_max_left ..) hn, List.forall_mem_cons.2 ⟨Nat.le_trans (Nat.le_max_right ..) hn, hl⟩⟩

/-- From that cycle on every word in flight that writes the predicate has completed (R132). -/
theorem Task.le_predReady {t : Task} {p : Nat} {x : Flight} (hx : x ∈ t.flights) (hd : x.dest = .pred p) :
    x.issued + x.lat ≤ t.predReady p :=
  (le_foldl_max (fun f : Flight => f.issued + f.lat) _ 0).2 x (List.mem_filter.2 ⟨hx, beq_iff_eq.2 hd⟩)

/-- A stop that is a wait, but for the array, leaves its stream WAITING (R15). -/
theorem State.stopped_wait (s : State) (t : Task) (k : StreamId) {w : Wait} (hw : w ≠ .array) :
    s.stopped t k (.wait w) = s.stall t k w := if_neg hw

section
variable {s : State} {t : Task} (h : Issues s t .v) {i : Instr} {p : BitVec 5} {f : Task → StreamSt → StreamSt}
include h

theorem exec_maskOp_plain (he : ∀ s, exec i s = maskOp none f s) :
    exec i s = .next (s.retire t .v (f t (t.st .v))) :=
  (he s).trans (issue_next h rfl rfl)

theorem exec_maskOp_held (he : ∀ s, exec i s = maskOp (some p) f s) (hp : t.predHeld p.toNat = true) :
    exec i s = .next (s.stall t .v .score) :=
  (he s).trans ((issue_stop h rfl (e := .wait .score) (if_pos hp)).trans (congrArg _ (s.stopped_wait t .v nofun)))

theorem exec_maskOp_ready (he : ∀ s, exec i s = maskOp (some p) f s) (hp : t.predHeld p.toNat = false) :
    exec i s = .next (({ s with now := Nat.max s.now (t.predReady p.toNat) } : State).retire t .v (f t (t.st .v))) :=
  (he s).trans (issue_next h rfl (if_neg (Bool.eq_false_iff.1 hp)))

end

section
variable {i : Instr} {j : BitVec 5} {f : Task → StreamSt → StreamSt} {g : Task → Mask → Mask → Mask × Mask}

theorem setsMasks_plain (he : ∀ s, exec i s = maskOp none f s)
    (hg : ∀ t st, (f t st).triple j = (g t (st.triple j) st.am).1 ∧ (f t st).am = (g t (st.triple j) st.am).2) :
    setsMasks i none j g := fun s t h => by
  exact ⟨fun ⟨_, hn, _⟩ => (nomatch hn), fun _ => ⟨f t (t.st .v), s.now, exec_maskOp_plain h he, Nat.le_refl _,
    fun _ => rfl, nofun, hg t (t.st .v)⟩⟩

theorem setsMasks_reading {p : BitVec 5} (he : ∀ s, exec i s = maskOp (some p) f s)
    (hg : ∀ t st, (f t st).triple j = (g t (st.triple j) st.am).1 ∧ (f t st).am = (g t (st.triple j) st.am).2) :
    setsMasks i (some p) j g := fun s t h => by
  refine ⟨fun ⟨n, hn, hl⟩ => ?_, fun hfree => ⟨f t (t.st .v), Nat.max s.now (t.predReady p.toNat), ?_,
    Nat.le_max_left .., nofun, fun n hn x hx hd => ?_, hg t (t.st .v)⟩⟩
  · obtain rfl := Option.some.inj hn
    exact exec_maskOp_held h he ((t.predHeld_iff _).2 hl)
  · exact exec_maskOp_ready h he (Bool.eq_false_iff.2 fun hp => hfree ⟨p, rfl, (t.predHeld_iff _).1 hp⟩)
  · obtain rfl := Option.some.inj hn
    exact Nat.le_trans (t.le_predReady hx hd) (Nat.le_max_right ..)

end

theorem setsMasks_mif {j : BitVec 5} (hj : j.toNat ≤ 25) (n : BitVec 5) :
    setsMasks (.mif j n) (some n) j fun t _ m => (m, m &&& t.pred n.toNat) :=
  setsMasks_reading (exec_mif j n) fun _ st =>
    ⟨(StreamSt.triple_setAm _ hj _).trans (st.triple_setRejoin hj _), StreamSt.am_setAm _ _⟩

theorem setsMasks_melse {j : BitVec 5} (hj : j.toNat ≤ 25) : setsMasks (.melse j) none j fun _ x m => (x, x &&& ~~~m) :=
  setsMasks_plain (exec_melse j) fun _ st => ⟨st.triple_setAm hj _, st.am_setAm _⟩

theorem setsMasks_mjoin {j : BitVec 5} (hj : j.toNat ≤ 25) : setsMasks (.mjoin j) none j fun _ x _ => (x, x) :=
  setsMasks_plain (exec_mjoin j) fun _ st => ⟨st.triple_setAm hj _, st.am_setAm _⟩

theorem setsMasks_msave {j : BitVec 5} (hj : j.toNat ≤ 25) : setsMasks (.msave j) none j fun _ _ m => (m, m) :=
  setsMasks_plain (exec_msave j) fun _ st => ⟨st.triple_setRejoin hj _, st.am_setTriple hj _⟩

theorem setsMasks_mbreak {j : BitVec 5} (hj : j.toNat ≤ 25) (n : BitVec 5) :
    setsMasks (.mbreak n) (some n) j fun t x m => (x, m &&& ~~~t.pred n.toNat) :=
  setsMasks_reading (exec_mbreak n) fun _ st => ⟨st.triple_setAm hj _, st.am_setAm _⟩

theorem setsMasks_pmovs {j : BitVec 5} (hj : j.toNat ≤ 25) (n : BitVec 5) :
    setsMasks (.pmovs j n) (some n) j fun t _ m => (t.pred n.toNat, m) :=
  setsMasks_reading (exec_pmovs j n) fun _ st => ⟨st.triple_setRejoin hj _, st.am_setTriple hj _⟩

end Sys2Proof.Machine

namespace Sys2Proof

/-! ### The words of the mask instructions (R164) -/

/-- A word of format SR whose last two fields are zero. -/
theorem toNat_srFields (op : BitVec 8) (d a : BitVec 5) :
    (op ++ d ++ a ++ 0#14).toNat = fmtSR op.toNat d.toNat a.toNat 0 0 := by
  rw [toNat_siFields, fmtSI, fmtSR, BitVec.toNat_ofNat, Nat.zero_mod, Nat.zero_mul]

/-- The same with one more field zero. -/
theorem toNat_srFirst (op : BitVec 8) (d : BitVec 5) : (op ++ d ++ 0#19).toNat = fmtSR op.toNat d.toNat 0 0 0 := by
  simp only [BitVec.toNat_append, BitVec.toNat_ofNat, Nat.zero_mod, Nat.or_zero, fmtSR]
  rw [← Nat.shiftLeft_add_eq_or_of_lt d.isLt, Nat.shiftLeft_eq, Nat.shiftLeft_eq]
  omega

/-- The mask instructions with a rejoin triple at s25 or below are well-formed. -/
theorem tripleForms_wf {j p : BitVec 5} (hj : j.toNat ≤ 25) {i : Instr} (hi : i ∈ tripleForms j p) : i.wf = true := by
  rw [Instr.wf, illegal_tripleForms j p i hi, if_pos hj]
  rfl

section
variable {j : BitVec 5} (hj : j.toNat ≤ 25)
include hj

theorem decode_mifFields (n : BitVec 5) : decode (0x50#8 ++ j ++ n ++ 0#14) 0 0 = .ok (.mif j n) :=
  decode_of_toNat (tripleForms_wf hj (p := n) (by simp [tripleForms])) (by rw [toNat_srFields]; rfl)
theorem decode_melseFields : decode (0x51#8 ++ j ++ 0#19) 0 0 = .ok (.melse j) :=
  decode_of_toNat (tripleForms_wf hj (p := 0) (by simp [tripleForms])) (by rw [toNat_srFirst]; rfl)
theorem decode_mjoinFields : decode (0x52#8 ++ j ++ 0#19) 0 0 = .ok (.mjoin j) :=
  decode_of_toNat (tripleForms_wf hj (p := 0) (by simp [tripleForms])) (by rw [toNat_srFirst]; rfl)
theorem decode_msaveFields : decode (0x53#8 ++ j ++ 0#19) 0 0 = .ok (.msave j) :=
  decode_of_toNat (tripleForms_wf hj (p := 0) (by simp [tripleForms])) (by rw [toNat_srFirst]; rfl)

end

theorem decode_mbreakFields (n : BitVec 5) : decode (0x54#8 ++ 0#5 ++ n ++ 0#14) 0 0 = .ok (.mbreak n) :=
  decode_of_toNat rfl (by rw [toNat_srFields]; rfl)

end Sys2Proof

namespace Sys2Proof.Machine
set_option Elab.async false

/-- Settles O33, instruction by instruction: what each leaves of the two masks, and its word. -/
theorem maskResults : Obligations.MaskResults := fun _ n hj =>
  ⟨setsMasks_mif hj n, setsMasks_melse hj, setsMasks_mjoin hj, setsMasks_msave hj, setsMasks_mbreak hj n,
    decode_mifFields hj n, decode_melseFields hj, decode_mjoinFields hj, decode_msaveFields hj, decode_mbreakFields n⟩

/-! ### Branches on the activity mask and moves of predicates (R165, R166) -/

section
variable {s : State} {t : Task} (h : Issues s t .v)
include h

theorem exec_maskBranch_issued {i : Instr} {o : BitVec 14} {c : Mask → Bool} (he : ∀ s, exec i s = maskBranch o c s) :
    exec i s = .next (if c (t.st .v).am then s.branch t .v (t.st .v) (parcelsFrom (t.st .v).pc o)
      else s.retire t .v (t.st .v)) := by
  rw [← pcRel_eq]
  exact (he s).trans (issue_next h rfl rfl)

theorem exec_bmany_issued (o : BitVec 14) : exec (.bmany o) s = .next (if (t.st .v).am != 0
    then s.branch t .v (t.st .v) (parcelsFrom (t.st .v).pc o) else s.retire t .v (t.st .v)) :=
  exec_maskBranch_issued h (exec_bmany o)

theorem exec_bmnone_issued (o : BitVec 14) : exec (.bmnone o) s = .next (if (t.st .v).am == 0
    then s.branch t .v (t.st .v) (parcelsFrom (t.st .v).pc o) else s.retire t .v (t.st .v)) :=
  exec_maskBranch_issued h (exec_bmnone o)

end

theorem Task.pred_last (t : Task) : t.pred 31 = BitVec.allOnes 96 := if_pos rfl

/-- Settles O34: the branches by whether the activity mask is empty, the moves by what one triple or predicate written reads
as. -/
theorem maskBranchesAndMoves : Obligations.MaskBranchesAndMoves := by
  refine ⟨fun s t h o => ⟨fun he => ?_, fun he => ?_⟩, fun j n hj => setsMasks_pmovs hj n, fun s t h hl n j => ?_⟩
  · have ham : (t.st .v).am ≠ 0 := mt (t.st .v).am_eq_zero.1 he
    rw [exec_bmany_issued h, exec_bmnone_issued h, if_pos (bne_iff_ne.2 ham),
      if_neg (mt beq_iff_eq.1 ham)]
    exact ⟨rfl, rfl⟩
  · have ham : (t.st .v).am = 0 := (t.st .v).am_eq_zero.2 he
    rw [exec_bmany_issued h, exec_bmnone_issued h, if_neg (mt bne_iff_ne.1 (not_not.2 ham)),
      if_pos (beq_iff_eq.2 ham)]
    exact ⟨rfl, rfl⟩
  · refine ⟨t.setPred n.toNat ((t.st .v).triple j), (exec_smovp n j s).trans (issue_next h rfl rfl), Task.pred_last _,
      fun hn => t.pred_setPred ?_ (Nat.lt_of_lt_of_le n.isLt hl) _, fun m hm => t.pred_setPred_ne hm.symm _,
      t.setPred_rest _ _⟩
    exact fun e => hn (BitVec.eq_of_toNat_eq e)

/-! ### ERET (R169, R395) -/

theorem Task.eret_st (t : Task) (j : StreamId) : (t.eret.st j).pc = t.tpc j ∧
    (t.eret.st j).status = (if t.tended.getLsbD j.idx then .ended else .ready) ∧
    (t.eret.st j).regs = (t.st j).regs ∧ (t.eret.st j).queue = (t.st j).queue ∧ (t.eret.st j).fpmode = (t.st j).fpmode ∧
    (t.eret.st j).fpflags = (t.st j).fpflags ∧ (t.eret.st j).srcnt = (t.st j).srcnt ∧
    (t.eret.st j).retired = (t.st j).retired := by
  cases j <;> exact ⟨rfl, rfl, rfl, rfl, rfl, rfl, rfl, rfl⟩

/-- Settles O38: in trap mode the task returns, outside it the instruction is privileged. -/
theorem eretResumesStreams : Obligations.EretResumesStreams := fun s t k h =>
  ⟨fun hm => exec_traps h (exec_eret s) (if_neg (Bool.eq_false_iff.1 hm)) (by decide), fun hm =>
    ⟨t.eret, exec_completes h (exec_eret s) (if_pos hm), rfl, t.eret_st, rfl⟩⟩

end Sys2Proof.Machine

namespace Sys2Proof.Machine
set_option Elab.async false

/-! ### The frame of the register instructions -/

/-- The instruction goes on in every stream and changes nothing but its own stream's registers `dst`, its program counter,
its state and its counts. -/
def ChangesOnly (i : Instr) (dst : List (BitVec 5)) : Prop :=
  ∀ s t k, Issues s t k → ∃ s', exec i s = .next s' ∧ OnlyStream s s' t k dst

section
variable {i : Instr}

theorem only_of_setsReg {d : BitVec 5} {v : StreamSt → Word} (hi : setsReg i d v) : ChangesOnly i [d] := fun s t k h =>
  ⟨_, hi s t k h, retire_only 1 h.task ((StreamFrame.refl _ _).setReg _ (List.mem_singleton_self d) _)⟩

theorem only_of_setsPair {p : BitVec 4} {v : StreamSt → Dword} (hi : setsPair i p v) : ChangesOnly i (halves p) :=
  fun s t k h => ⟨_, hi s t k h, retire_only 1 h.task ((StreamFrame.refl _ _).setPair _ (fun _ hr => hr) _)⟩

theorem only_of_branchesWhen {o : BitVec 14} {c : StreamSt → Prop} [∀ st, Decidable (c st)] (hi : branchesWhen i o c) :
    ChangesOnly i [] := fun s t k h => ⟨_, hi s t k h, by
  split
  · exact branch_only _ h.task (.refl _ _)
  · exact retire_only 1 h.task (.refl _ _)⟩

end

theorem StreamSt.link_frame (st : StreamSt) (d : BitVec 4) : StreamFrame st (st.link d) (if d = 15 then [] else halves d) := by
  unfold StreamSt.link
  split
  · exact .refl _ _
  · exact (StreamFrame.refl _ _).setPair _ (fun _ hr => hr) _

theorem jal_only (d : BitVec 4) (i : BitVec 19) : ChangesOnly (.jal d i) (if d = 15 then [] else halves d) :=
  fun _ t k h => ⟨_, exec_jal_issued h d i, branch_only _ h.task ((t.st k).link_frame d)⟩

theorem loopn_only (a : BitVec 5) (o : BitVec 14) : ChangesOnly (.loopn a o) [a] := fun s t k h => by
  have hf (v : Word) : StreamFrame (t.st k) ((t.st k).setReg a v) [a] :=
    (StreamFrame.refl _ _).setReg _ (List.mem_singleton_self a) v
  obtain ha | ha := Nat.lt_or_ge 1 ((t.st k).reg a).toNat
  · exact ⟨_, exec_loopn_repeats h ha o, branch_only _ h.task (hf _)⟩
  · exact ⟨_, exec_loopn_ends h ha o, retire_only 1 h.task (hf 0)⟩

theorem nop_only : ChangesOnly .nop [] := fun s _ k h =>
  ⟨_, (exec_nop s).trans (streamOp_next h (runsOn_scalar k) id), retire_only 1 h.task (.refl _ _)⟩

/-- A stream that an instruction has moved on differs in what the frame lets change alone, whatever its state. -/
theorem Task.advance_frame (t : Task) (st : StreamSt) (status : Status) (granted : Bool) (run : Nat) (dst : List (BitVec 5)) :
    StreamFrame st { t.advance st 1 with status := status, granted := granted, run := run } dst :=
  ⟨fun _ _ => rfl, rfl, rfl, rfl, rfl, rfl, rfl, rfl⟩

theorem yield_only : ChangesOnly .yield [] := fun s t k h =>
  ⟨_, exec_completes h (exec_yield s) rfl, setTask_only h.task (t.advance_frame (t.st k) _ false 0 [])⟩

theorem cycles_only (a : BitVec 5) (i : BitVec 14) : ChangesOnly (.cycles a i) [] := fun s t k h => by
  obtain ⟨hz, hp⟩ := exec_cycles_issued h a i
  obtain hn | hn := Nat.eq_zero_or_pos ((((t.st k).reg a).toNat + i.toNat) % 2 ^ 32)
  · exact ⟨_, hz hn, retire_only 1 h.task (.refl _ _)⟩
  · exact ⟨_, hp hn, setTask_only h.task (t.advance_frame (t.st k) _ false 0 [])⟩

/-- The scalar rows: what sets a register or a pair, or branches, has their frame by its result. -/
theorem scalarRows_only (d a b : BitVec 5) (D A B : BitVec 4) (i : BitVec 14) (n : BitVec 5) (j : BitVec 19) :
    ∀ r ∈ scalarRows d a b D A B i n j, ChangesOnly r.1 r.2 := by
  obtain ⟨hint, hclz, hpopc, hsel, hadd64, hsub64, hmul64, hshl64, hshr64⟩ := integerRegisterResults
  obtain ⟨hdivI, hremI, hdivB, hremB⟩ := divisionResults
  obtain ⟨haddi, handi, hori, hxori, hslti, hshli, hshri, hsrai, haddi64⟩ := immediateResults
  obtain ⟨hlui, haddpc, hbeq, hbne, hblt, hbge, hbltb, hbgeb, -⟩ := controlFlowResults
  obtain ⟨f, hclz, -⟩ := hclz d a
  rw [scalarRows, List.forall_mem_append]
  refine ⟨List.forall_mem_map.2 fun r hr => only_of_setsReg (hint r hr d a b), ?_⟩
  simp only [List.forall_mem_cons]
  exact ⟨only_of_setsReg (hdivI d a b), only_of_setsReg (hdivB d a b), only_of_setsReg (hremI d a b),
    only_of_setsReg (hremB d a b), only_of_setsReg (hsel d a b), only_of_setsReg hclz, only_of_setsReg (hpopc d a),
    only_of_setsReg (haddi d a i), only_of_setsReg (handi d a i), only_of_setsReg (hori d a i),
    only_of_setsReg (hxori d a i), only_of_setsReg (hslti d a i), only_of_setsReg (hshli d a n),
    only_of_setsReg (hshri d a n), only_of_setsReg (hsrai d a n), only_of_setsReg (hlui d j),
    only_of_setsPair (hadd64 D A B), only_of_setsPair (hsub64 D A B), only_of_setsPair (hmul64 D A B),
    only_of_setsPair (hshl64 D A b), only_of_setsPair (hshr64 D A b), only_of_setsPair (haddi64 D A i),
    only_of_setsPair (haddpc D j), jal_only D j, loopn_only a i, only_of_branchesWhen (hbeq a b i),
    only_of_branchesWhen (hbne a b i), only_of_branchesWhen (hblt a b i), only_of_branchesWhen (hbge a b i),
    only_of_branchesWhen (hbltb a b i), only_of_branchesWhen (hbgeb a b i), nop_only, yield_only, cycles_only a i,
    List.forall_mem_nil _⟩

/-- The same of a mask instruction, in the vector stream, but that cycles may pass (R132, R163). -/
def MaskChangesOnly (i : Instr) (dst : List (BitVec 5)) : Prop :=
  ∀ s t, Issues s t .v → ∃ s', exec i s = .next s' ∧ s.now ≤ s'.now ∧ OnlyStream { s with now := s'.now } s' t .v dst

section
variable {i : Instr} {dst : List (BitVec 5)}

theorem stall_only {s : State} {t : Task} {k : StreamId} (h : s.task? t.uid = some t) (w : Wait) :
    OnlyStream s (s.stall t k w) t k dst :=
  setTask_only h ⟨fun _ _ => rfl, rfl, rfl, rfl, rfl, rfl, rfl, rfl⟩

theorem maskOp_only {p : Option (BitVec 5)} {f : Task → StreamSt → StreamSt} (he : ∀ s, exec i s = maskOp p f s)
    (hf : ∀ t st, StreamFrame st (f t st) dst) : MaskChangesOnly i dst := fun s t h => by
  cases p with
  | none => exact ⟨_, exec_maskOp_plain h he, Nat.le_refl _, retire_only 1 h.task (hf t _)⟩
  | some p =>
    cases hp : t.predHeld p.toNat with
    | true => exact ⟨_, exec_maskOp_held h he hp, Nat.le_refl _, stall_only h.task _⟩
    | false => exact ⟨_, exec_maskOp_ready h he hp, Nat.le_max_left .., retire_only 1 h.task (hf t _)⟩

theorem maskBranch_only {o : BitVec 14} {c : Mask → Bool} (he : ∀ s, exec i s = maskBranch o c s) : MaskChangesOnly i [] :=
  fun s t h => ⟨_, exec_maskBranch_issued h he, by
    split
    · exact ⟨Nat.le_refl _, branch_only _ h.task (.refl _ _)⟩
    · exact ⟨Nat.le_refl _, retire_only 1 h.task (.refl _ _)⟩⟩

theorem StreamFrame.setAm {a b : StreamSt} (h : StreamFrame a b dst) (hm : ∀ r ∈ [28, 29, 30], r ∈ dst) (m : Mask) :
    StreamFrame a (b.setAm m) dst :=
  h.setTriple a (hm 28 (by simp)) (hm 29 (by simp)) (hm 30 (by simp)) m

end

theorem maskRows_only (j p : BitVec 5) (o : BitVec 14) : ∀ r ∈ maskRows j p o, MaskChangesOnly r.1 r.2 := by
  simp only [maskRows, List.forall_mem_cons]
  have am (st : StreamSt) (m : Mask) : StreamFrame st (st.setAm m) [28, 29, 30] :=
    (StreamFrame.refl _ _).setAm (fun _ hr => hr) m
  have triple (st : StreamSt) (m : Mask) (rest : List (BitVec 5)) :
      StreamFrame st (st.setTriple j m) (j :: (j + 1) :: (j + 2) :: rest) :=
    (StreamFrame.refl _ _).setTriple st (by simp) (by simp) (by simp) m
  exact ⟨maskOp_only (exec_mif j p) fun _ st => (triple st _ _).setAm (by simp) _,
    maskOp_only (exec_melse j) fun _ st => am st _, maskOp_only (exec_mjoin j) fun _ st => am st _,
    maskOp_only (exec_mbreak p) fun _ st => am st _, maskOp_only (exec_msave j) fun _ st => triple st _ [],
    maskOp_only (exec_pmovs j p) fun _ st => triple st _ [], maskBranch_only (exec_bmany o), maskBranch_only (exec_bmnone o),
    List.forall_mem_nil _⟩

/-- Settles O19: the frame of each row, of the scalar class and of the mask class. -/
theorem registerInstructionsFrame : Obligations.RegisterInstructionsFrame :=
  ⟨scalarRows_only, maskRows_only⟩

end Sys2Proof.Machine

namespace Sys2Proof.Machine
set_option Elab.async false

/-! ### Futures (R157 to R159) -/

/-- A future that is done stays as it is and says which it was (R287). -/
theorem State.resolve_done {s : State} {pa f : Nat} (h : s.futState pa = f) (hf : 2 ≤ f) (res : Word) (fault : Bool) :
    s.resolve pa res fault = (s, some f, []) := by
  rw [← h]
  exact if_pos (h ▸ hf)

/-- One that is not finds nothing in its way. -/
theorem State.resolve_live {s : State} {pa : Nat} (h : s.futState pa < 2) (res : Word) (fault : Bool) :
    ∃ v recs, s.resolve pa res fault = (v, none, recs) := ⟨_, _, if_neg (Nat.not_le.2 h)⟩

section
variable {s : State} {t : Task} {k : StreamId} (h : Issues s t k) {a : BitVec 4} {pa : Nat}
include h

section
variable {b : BitVec 5} (hw : s.futCheck t k ((t.st k).pair a).toNat 16 16 true = .ok pa)
include hw

/-! FRES and FFLT (R158): in a deterministic launch, and elsewhere by what the future was. -/

theorem resolveOp_buffered (hd : t.det = true) (fault : Bool) : resolveOp a b fault s =
    .next (s.buffer t k (.fres ((t.st k).pair a) pa ((t.st k).reg b) fault) false) := by
  refine issue_next h (runsOn_scalar k) ?_
  simp only [hw, hd]
  rfl

/-! FTRY (R158), in the same cases. -/

theorem exec_ftry_buffered (hd : t.det = true) (d : BitVec 5) : exec (.ftry d a b) s =
    .next (s.buffer t k (.ftry ((t.st k).pair a) pa ((t.st k).reg b) d) true) := by
  refine exec_completes h (exec_ftry d a b s) ?_
  simp only [hw, hd]
  rfl

variable (hd : t.det = false) {v : State} {x : Task} (hp : s.release t k .pkg = .ok (v, x))
include hd hp

section
variable (hf : v.futState pa < 2)
include hf

theorem resolveOp_live (fault : Bool) : let r := v.resolve pa ((t.st k).reg b) fault
    resolveOp a b fault s = .next (State.settle ((r.1.homeOp x pa).retire x k (x.st k), r.2.2)) := by
  obtain ⟨w, recs, hr⟩ := State.resolve_live hf ((t.st k).reg b) fault
  refine issue_next h (runsOn_scalar k) ?_
  simp only [hw, hd, hp, bind, Except.bind, hr]
  rfl

theorem exec_ftry_live (d : BitVec 5) : let r := v.resolve pa ((t.st k).reg b) false
    exec (.ftry d a b) s = .next (State.settle ((r.1.homeOp x pa).retire x k ((x.st k).setReg d 0), r.2.2)) := by
  obtain ⟨w, recs, hr⟩ := State.resolve_live hf ((t.st k).reg b) false
  refine exec_completes h (exec_ftry d a b s) ?_
  simp only [hw, hd, hp, bind, Except.bind, hr]
  rfl

end

section
variable (hf : v.futState pa = 2)
include hf

theorem resolveOp_resolved (fault : Bool) : resolveOp a b fault s =
    .next (((v.homeOp x pa).acquire x .pkg).takeTrap x k (t.st k).pc false 0 { cls := 6, sub := 1 }) := by
  refine issue_next h (runsOn_scalar k) ?_
  simp only [hw, hd, hp, bind, Except.bind, State.resolve_done hf (by decide)]
  rfl

theorem exec_ftry_resolved (d : BitVec 5) : exec (.ftry d a b) s =
    .next (((v.homeOp x pa).acquire x .pkg).retire x k ((x.st k).setReg d 1)) := by
  refine exec_completes h (exec_ftry d a b s) ?_
  simp only [hw, hd, hp, bind, Except.bind, State.resolve_done hf (by decide)]
  rfl

end

section
variable (hf : v.futState pa = 3)
include hf

theorem resolveOp_faulted (fault : Bool) : resolveOp a b fault s =
    .next (v.takeTrap x k (t.st k).pc false 0 { cls := 6, sub := 2 }) := by
  refine issue_next h (runsOn_scalar k) ?_
  simp only [hw, hd, hp, bind, Except.bind, State.resolve_done hf (by decide)]
  rfl

theorem exec_ftry_faulted (d : BitVec 5) : exec (.ftry d a b) s =
    .next ((v.homeOp x pa).retire x k ((x.st k).setReg d 2)) := by
  refine exec_completes h (exec_ftry d a b s) ?_
  simp only [hw, hd, hp, bind, Except.bind, State.resolve_done hf (by decide)]
  rfl

end

end

section
variable (hr : s.futCheck t k ((t.st k).pair a).toNat 16 16 false = .ok pa) (d : BitVec 4)
include hr

theorem exec_fstat_buffered (hd : t.det = true) : exec (.fstat d a) s = .next (s.buffer t k (.fstat pa d) true) := by
  refine exec_completes h (exec_fstat d a s) ?_
  simp only [hr, hd]
  rfl

theorem exec_fstat_read (hd : t.det = false) {v : State} {x : Task} (hp : s.release t k .pkg = .ok (v, x)) :
    exec (.fstat d a) s = .next (((v.homeOp x pa).acquire x .pkg).retire x k
      ((x.st k).setPair d (BitVec.ofNat 64 (v.mem.field pa 8)))) := by
  refine exec_completes h (exec_fstat d a s) ?_
  simp only [hr, hd, hp]
  rfl

end

end

/-- Settles O30: each instruction in a deterministic launch, and elsewhere by the state of the future that it finds. -/
theorem futureInstructions : Obligations.FutureInstructions := by
  intro s t k h a pa A u
  have hrel (hp : s.lanesPending t k = false) : s.release t k .pkg = .ok (u.1, u.2) := State.release_ok hp .pkg
  refine ⟨fun hw b => ⟨fun hd hp => ⟨fun hf => ?_, fun hf => ?_, fun hf => ?_⟩, fun hd => ?_⟩,
    fun hr d => ⟨fun hd hp => exec_fstat_read h hr d hd (hrel hp), exec_fstat_buffered h hr d⟩⟩
  · exact ⟨resolveOp_live h hw hd (hrel hp) hf false, resolveOp_live h hw hd (hrel hp) hf true,
      exec_ftry_live h hw hd (hrel hp) hf⟩
  · exact ⟨resolveOp_resolved h hw hd (hrel hp) hf false, resolveOp_resolved h hw hd (hrel hp) hf true,
      exec_ftry_resolved h hw hd (hrel hp) hf⟩
  · exact ⟨resolveOp_faulted h hw hd (hrel hp) hf false, resolveOp_faulted h hw hd (hrel hp) hf true,
      exec_ftry_faulted h hw hd (hrel hp) hf⟩
  · exact ⟨resolveOp_buffered h hw hd false, resolveOp_buffered h hw hd true, exec_ftry_buffered h hw hd⟩

/-! ### Launches and graph records (R160 to R162) -/

/-- The page that is away, with its entry, where the PACKET or the GRAPH of the node at `pa` lies on one (R277). -/
def State.nodeAway (s : State) (part pa : Nat) : Option (Nat × Nat × Nat) :=
  (s.devAway part (fieldOf (s.mem.bytes pa 64) 0 8) 64 false).or (s.devAway part (fieldOf (s.mem.bytes pa 64) 8 8) 64 true)

/-- The records in the buffer of the node at `pa`, those of a cut batch included (R291). -/
def State.nodeFill (s : State) (pa : Nat) : Nat := ((s.nodeAt pa).map fun x => x.recs.length + x.held).getD 0

section
variable {s : State} {t : Task} {k : StreamId} (h : Issues s t k) {a : BitVec 4} {pa : Nat} {d : BitVec 5}
include h

section
variable (hr : s.futCheck t k ((t.st k).pair a).toNat 64 64 false = .ok pa)
include hr

theorem exec_tlaunch_free (hd : t.det = false) {v : State} {x : Task} (hp : s.release t k .pkg = .ok (v, x)) :
    let va := ((t.st k).pair a).toNat
    let y := v.launchPkt x (v.readLocs (s.locs (t.accessor s) va 64 false)) va
    exec (.tlaunch d a) s =
      .next (State.settle (y.1.retire y.2.1 k ((y.2.1.st k).setReg d (BitVec.ofNat 32 y.2.2.1)), y.2.2.2)) := by
  refine exec_completes h (exec_tlaunch d a s) ?_
  simp only [hr, hd, hp]
  rfl

theorem exec_tlaunch_buffered (hd : t.det = true) : let A := (t.st k).pair a
    exec (.tlaunch d a) s =
      .next (s.buffer t k (.tlaunch A (s.loadBytes t k (s.locs (t.accessor s) A.toNat 64 false)) d) true) := by
  refine exec_completes h (exec_tlaunch d a s) ?_
  simp only [hr, hd, BitVec.ofNat_toNat, BitVec.setWidth_eq]
  rfl

end

section
variable (hw : s.futCheck t k ((t.st k).pair a).toNat 64 64 true = .ok pa)
include hw

theorem exec_tjoin_free (hd : t.det = false) {v : State} {x : Task} (hp : s.release t k .pkg = .ok (v, x))
    {y : State × Nat × List RecRef} (hy : v.joinRec x k ((t.st k).pair a).toNat = .ok y) :
    exec (.tjoin d a) s = .next (State.settle (y.1.retire x k ((x.st k).setReg d (BitVec.ofNat 32 y.2.1)), y.2.2)) := by
  refine exec_completes h (exec_tjoin d a s) ?_
  simp only [hw, hd, hp, bind, Except.bind, hy]
  rfl

theorem exec_tjoin_buffered (hd : t.det = true) :
    exec (.tjoin d a) s = .next (s.buffer t k (.tjoin ((t.st k).pair a) d) true) := by
  refine exec_completes h (exec_tjoin d a s) ?_
  simp only [hw, hd, BitVec.ofNat_toNat, BitVec.setWidth_eq]
  rfl

/-! GREC (R162, R290), by the descriptor as the stream's stores leave it. -/

theorem exec_grec_away {p : Nat × Nat × Nat} (ha : (s.perform t k .pkg).1.nodeAway t.part pa = some p) (b : BitVec 5) :
    exec (.grec a b) s = .next (s.stopped t k (s.awayStop t p.1 p.2.1 p.2.2)) := by
  unfold State.nodeAway at ha
  refine (exec_grec a b s).trans (issue_stop h (runsOn_scalar k) ?_)
  simp only [hw, bind, Except.bind, ha]

section
variable (ha : (s.perform t k .pkg).1.nodeAway t.part pa = none)
include ha

theorem exec_grec_broken (hn : (s.perform t k .pkg).1.nodeOk t.part ((s.perform t k .pkg).1.mem.bytes pa 64) = none)
    (b : BitVec 5) : exec (.grec a b) s = .next (s.takeTrap t k (t.st k).pc false 0 { cls := 5, sub := 7 }) := by
  unfold State.nodeAway at ha
  refine exec_traps h (exec_grec a b s) ?_ (by decide)
  simp only [hw, bind, Except.bind, ha, hn]
  rfl

variable {g cap : Nat} (hn : (s.perform t k .pkg).1.nodeOk t.part ((s.perform t k .pkg).1.mem.bytes pa 64) = some (g, cap))
include hn

theorem exec_grec_full (hc : cap ≤ s.nodeFill pa) (b : BitVec 5) :
    exec (.grec a b) s = .next (s.stall t k (.record (((s.nodeAt pa).map (·.id)).getD 0) cap)) := by
  unfold State.nodeAway at ha
  unfold State.nodeFill at hc
  refine exec_stalls h (exec_grec a b s) ?_ nofun
  simp only [hw, bind, Except.bind, ha, hn, hc, decide_true, if_true]

variable (hc : s.nodeFill pa < cap) (b : BitVec 5)
include hc

theorem exec_grec_buffered (hd : t.det = true) : exec (.grec a b) s =
    .next (s.buffer { t with recIdx := t.recIdx + 1 } k (.grec ((t.st k).pair a) ((t.st k).reg b) t.recIdx g) false) := by
  unfold State.nodeAway at ha
  unfold State.nodeFill at hc
  refine exec_completes h (exec_grec a b s) ?_
  simp only [hw, bind, Except.bind, ha, hn, Nat.not_le.2 hc, decide_false, Bool.false_eq_true, if_false, hd,
    BitVec.ofNat_toNat, BitVec.setWidth_eq]
  rfl

theorem exec_grec_accepted (hd : t.det = false) {v : State} {x : Task} (hp : s.release t k .pkg = .ok (v, x)) {blk : Block}
    (hb : v.blockOf x = some blk) :
    let y := v.acceptRec x.part g ((t.st k).pair a).toNat pa
      { val := (t.st k).reg b, grid := x.launch, bid := blk.bid, taskId := x.taskId, idx := t.recIdx }
    exec (.grec a b) s = .next (State.settleAll (y.1.retire { x with recIdx := t.recIdx + 1 } k (x.st k), y.2)) := by
  unfold State.nodeAway at ha
  unfold State.nodeFill at hc
  refine exec_completes h (exec_grec a b s) ?_
  simp only [hw, bind, Except.bind, ha, hn, Nat.not_le.2 hc, decide_false, Bool.false_eq_true, if_false, hd, hp, hb]
  rfl

end

end

end

/-- Settles O32: TLAUNCH and TJOIN as they run free or enter the buffer, GREC by its descriptor and the room in its buffer. -/
theorem launchInstructions : Obligations.LaunchInstructions := by
  intro s t k h a pa A u free
  have hrel (hf : free) : s.release t k .pkg = .ok (u.1, u.2) := State.release_ok hf.2 .pkg
  refine ⟨fun hr d => ⟨fun hf => exec_tlaunch_free h hr hf.1 (hrel hf), exec_tlaunch_buffered h hr⟩, fun hw =>
    ⟨fun d x hf => exec_tjoin_free h hw hf.1 (hrel hf), fun d => exec_tjoin_buffered h hw, fun b => ?_⟩⟩
  refine ⟨fun x pte e ha => exec_grec_away h hw ha b, fun ha hn => exec_grec_broken h hw ha hn b, fun g cap ha hn =>
    ⟨fun hc => exec_grec_full h hw ha hn hc b, fun hc hd => exec_grec_buffered h hw ha hn hc b hd,
      fun hc hf blk => exec_grec_accepted h hw ha hn hc b hf.1 (hrel hf)⟩⟩

end Sys2Proof.Machine

namespace Sys2Proof.Machine
set_option Elab.async false

/-! ### Engine instructions that complete, trap or wait (R112, R135) -/

section
variable {s s' : State} {t : Task} {k : StreamId} {i : Instr} {c : InstrClass} {f : Task → StreamId → Except Stop State}

/-- An instruction of a class that its stream executes goes on to the state that its meaning answers. -/
theorem exec_runs (h : Issues s t k) (hk : c.runsOn k = true) (he : exec i s = issue c s f) (hf : f t k = .ok s') :
    exec i s = .next s' := he.trans (issue_next h hk hf)

/-- One whose meaning raises a trap other than STORAGE takes it at its own program counter (R135). -/
theorem exec_raises (h : Issues s t k) (hk : c.runsOn k = true) (he : exec i s = issue c s f) {cls sub : Nat}
    (hf : f t k = trapWith cls sub) (hc : cls ≠ clsStorage) :
    exec i s = .next (s.takeTrap t k (t.st k).pc false 0 { cls := cls, sub := sub }) :=
  he.trans ((issue_stop h hk hf).trans (congrArg _ (State.stopped_trap s t k _ hc)))

/-- One whose meaning waits, for anything but the matrix array, leaves its stream WAITING (R15). -/
theorem exec_waits (h : Issues s t k) (hk : c.runsOn k = true) (he : exec i s = issue c s f) {w : Wait}
    (hf : f t k = .error (.wait w)) (hw : w ≠ .array) : exec i s = .next (s.stall t k w) :=
  he.trans ((issue_stop h hk hf).trans (congrArg _ (if_neg hw)))

end

/-! ### Operand slots (R241, R242, R253) -/

/-- Two ranges of slots share none when one ends before the other begins. -/
theorem slotsMeet_eq_false {x y : Nat × Nat × Nat} :
    slotsMeet x y = false ↔ y.2.1 + y.2.2 ≤ x.2.1 ∨ x.2.1 + x.2.2 ≤ y.2.1 := by
  simp only [slotsMeet, Bool.and_eq_false_iff, decide_eq_false_iff_not, Nat.not_lt]

/-- A range of slots is free where no owner's slot lies in it. -/
theorem CoreSt.slotsFree_iff {x : CoreSt} {b n : Nat} :
    x.slotsFree b n = true ↔ ∀ p ∈ x.owners, ¬ (b ≤ p.1 ∧ p.1 < b + n) := by
  simp [CoreSt.slotsFree]

/-- A claim is served at once where its slots are free and no earlier claim in the queue waits for one of them (R241). -/
theorem oclmRoom_iff {x : CoreSt} {q : List (Nat × Nat × Nat)} {u b n : Nat} :
    (x.slotsFree b n && !(q.any (slotsMeet (u, b, n)))) = true ↔
      (∀ p ∈ x.owners, ¬ (b ≤ p.1 ∧ p.1 < b + n)) ∧ ∀ f ∈ q, f.2.1 + f.2.2 ≤ b ∨ b + n ≤ f.2.1 := by
  rw [Bool.and_eq_true, CoreSt.slotsFree_iff, Bool.not_eq_true', List.any_eq_false]
  simp only [Bool.not_eq_true, slotsMeet_eq_false]

/-- No wait of an OCLM is one for the matrix array. -/
theorem State.oclmWait_ne_array {s : State} {t : Task} {b n : Nat} {w : Wait} (h : s.oclmWait t b n = some w) :
    w ≠ .array := by
  rintro rfl
  unfold State.oclmWait at h
  dsimp only at h
  split at h
  · cases h
  split at h
  · cases h
  split at h
  · cases h
  split at h <;> cases h

section
variable {s : State} {t : Task}

/-- An OCLM that is served leaves its task with the claim and its slots with the task as their owner, and retires. -/
theorem State.takeSlots_retire (h : s.task? t.uid = some t) (b n : Nat) :
    let r := s.takeSlots t b n
    let u := r.1.retire r.2 .m (r.2.st .m) 2
    ∃ t', u.task? t.uid = some t' ∧ t'.claim = some (b, n) ∧ (t'.st .m).pc = (t.st .m).pc + 8 ∧
      (t'.st .m).regs = (t.st .m).regs ∧
      (u.core (s.coreOf t)).owners = (s.core (s.coreOf t)).owners ++ (List.range n).map fun i => (b + i, t.uid) := by
  intro r u
  have hlive : (r.1.task? r.2.uid).isSome :=
    Option.isSome_of_eq_some (((State.setCore_only s _ _).task? t.uid).trans h)
  refine ⟨_, State.task?_retire .m _ 2 hlive, rfl, rfl, rfl, ?_⟩
  refine (congrArg CoreSt.owners (State.core_setCore s (s.coreOf t) _)).trans ?_
  rw [idxFrom_eq_range', List.range'_eq_map_range, List.map_map]
  rfl

variable (h : Issues s t .m)
include h

/-- OCLM by a task that holds a claim raises MATRIX, SLOTHELD (R241). -/
theorem exec_oclm_held (b : BitVec 6) (n : BitVec 7) (hc : t.claim ≠ none) :
    exec (.oclm b n) s = .next (s.takeTrap t .m (t.st .m).pc false 0 { cls := 5, sub := 5 }) :=
  exec_raises h rfl (exec_oclm b n s) (if_pos (Option.isSome_iff_ne_none.2 hc)) (by decide)

/-- OCLM outside a deterministic launch, by whether there is room (R241). -/
theorem exec_oclm_free (b : BitVec 6) (n : BitVec 7) (hc : t.claim = none) (hd : t.det = false) :
    let q := (s.core (s.coreOf t)).oclmQ.filter fun f => f.1 != t.uid
    let r := s.takeSlots t b.toNat n.toNat
    let room := (s.core (s.coreOf t)).slotsFree b.toNat n.toNat && !(q.any (slotsMeet (t.uid, b.toNat, n.toNat)))
    (room = true → exec (.oclm b n) s = .next (r.1.retire r.2 .m (r.2.st .m) 2)) ∧
    (room = false → exec (.oclm b n) s = .next ((s.setCore (s.coreOf t)
      { s.core (s.coreOf t) with oclmQ := q ++ [(t.uid, b.toNat, n.toNat)] }).stall t .m .slots)) := by
  intro q r room
  refine ⟨fun hr => exec_runs h rfl (exec_oclm b n s) ?_, fun hr => exec_runs h rfl (exec_oclm b n s) ?_⟩
  · simp only [hc, hd, Option.isSome_none, Bool.false_eq_true, if_false]
    exact if_pos hr
  · simp only [hc, hd, Option.isSome_none, Bool.false_eq_true, if_false]
    exact if_neg (Bool.eq_false_iff.1 hr)

/-- OCLM in a deterministic launch, by what it waits for (R302). -/
theorem exec_oclm_det (b : BitVec 6) (n : BitVec 7) (hc : t.claim = none) (hd : t.det = true) :
    let q := (s.core (s.coreOf t)).oclmQ.filter fun f => f.1 != t.uid
    let r := s.takeSlots t b.toNat n.toNat
    (s.oclmWait t b.toNat n.toNat = none → exec (.oclm b n) s = .next (r.1.retire r.2 .m (r.2.st .m) 2)) ∧
    (s.oclmWait t b.toNat n.toNat = some .slots → exec (.oclm b n) s = .next ((s.setCore (s.coreOf t)
      { s.core (s.coreOf t) with oclmQ := q ++ [(t.uid, b.toNat, n.toNat)] }).stall t .m .slots)) ∧
    ∀ w, s.oclmWait t b.toNat n.toNat = some w → w ≠ .slots → exec (.oclm b n) s = .next (s.stall t .m w) := by
  intro q r
  refine ⟨fun hw => exec_runs h rfl (exec_oclm b n s) ?_, fun hw => exec_runs h rfl (exec_oclm b n s) ?_, fun w hw hne =>
    exec_waits h rfl (exec_oclm b n s) ?_ (State.oclmWait_ne_array hw)⟩
  all_goals simp only [hc, hd, Option.isSome_none, Bool.false_eq_true, if_false, if_true, hw]
  all_goals rfl

theorem exec_orls_unclaimed (hc : t.claim = none) : exec .orls s = .next (s.retire t .m (t.st .m) 2) :=
  exec_runs h rfl (exec_orls s) (by simp only [hc])

/-- ORLS ends its task's claim, in a deterministic launch at the commit (R242, R302). -/
theorem exec_orls_claimed {b n : Nat} (hc : t.claim = some (b, n)) : let u := { t with claim := none }
    (t.det = false → exec .orls s = .next ((s.retire u .m (t.st .m) 2).passSlots (s.coreOf t))) ∧
    (t.det = true → exec .orls s = .next (s.buffer u .m (.orls b n) false 2)) := by
  intro u
  refine ⟨fun hd => exec_runs h rfl (exec_orls s) ?_, fun hd => exec_runs h rfl (exec_orls s) ?_⟩
  · simp only [hc]
    exact if_neg (Bool.eq_false_iff.1 hd)
  · simp only [hc]
    exact if_pos hd

end

/-- Settles O41: OCLM by the claim that the task holds and by the room that it finds, ORLS by the claim, MSEED. -/
theorem slotInstructions : Obligations.SlotInstructions := by
  intro s t h core
  refine ⟨?_, exec_orls_unclaimed h, fun b n hc => exec_orls_claimed h hc, fun a => exec_runs h rfl (exec_mseed a s) rfl⟩
  intro b n e q waits served room
  obtain ⟨t', ht'⟩ := State.takeSlots_retire h.task b.toNat n.toNat
  refine ⟨exec_oclm_held h b n, fun hc hd => ?_, fun hc hd => ?_⟩
  · obtain ⟨hroom, hfull⟩ := exec_oclm_free h b n hc hd
    exact ⟨fun hr => ⟨_, t', hroom (oclmRoom_iff.2 hr), ht'⟩,
      fun hr => hfull (Bool.eq_false_iff.2 fun hb => hr (oclmRoom_iff.1 hb))⟩
  · obtain ⟨hfree, hslots, hother⟩ := exec_oclm_det h b n hc hd
    exact ⟨fun hw => ⟨_, t', hfree hw, ht'⟩, hslots, hother⟩

/-! ### Conditions of R239 and rows in memory, as the statements write them -/

theorem Task.slotChk_eq (t : Task) (b n : Nat) : t.slotChk b n = codeIf 1 (t.owns b n = false) := by
  unfold Task.slotChk codeIf
  cases t.owns b n <;> rfl

theorem pitchBad_eq (p al : Nat) : pitchBad p al = codeIf 8 (p % al ≠ 0) := (ite_not ..).symm

theorem rowsAt_eq (va pitch m : Nat) : rowsAt va pitch m = (List.range m).map fun i => (va + i * pitch) % 2 ^ 64 := by
  rw [rowsAt, upto_eq_range]

/-! ### A matrix instruction that does more once its operation has started (R62, R233) -/

theorem TaskFrame.trans {t u v : Task} {k : StreamId} {dst : List (BitVec 5)} (h : TaskFrame t u k dst)
    (h' : TaskFrame u v k dst) : TaskFrame t v k dst where
  regs := fun j r hj => (h'.regs j r hj).trans (h.regs j r hj)
  fpmode := fun j => (h'.fpmode j).trans (h.fpmode j)
  fpflags := fun j => (h'.fpflags j).trans (h.fpflags j)
  pcs := fun j hj => (h'.pcs j hj).trans (h.pcs j hj)
  vregs := h'.vregs.trans h.vregs
  preds := h'.preds.trans h.preds
  vqs := h'.vqs.trans h.vqs
  sems := h'.sems.trans h.sems
  acc := h'.acc.trans h.acc
  wfa := h'.wfa.trans h.wfa
  claim := h'.claim.trans h.claim
  srseed := h'.srseed.trans h.srseed
  traps := h'.traps.trans h.traps
  saves := h'.saves.trans h.saves

theorem State.task?_uid {s : State} {n : Nat} {t : Task} (h : s.task? n = some t) : t.uid = n := by
  simpa using List.find?_some h

/-- SRCNT of a stream counts one more (R62). -/
def Task.countSr (t : Task) (k : StreamId) : Task := t.setSt k { t.st k with srcnt := (t.st k).srcnt + 1 }

section
variable {s u : State} {t : Task} {k : StreamId} {i : Instr} {act : Act} {foot : List Fp}

/-- An operation that has started has also where SRCNT counts on. -/
theorem Started.countSr (h : Started s u t k i foot) : Started s (u.mapTask t.uid (·.countSr k)) t k i foot := by
  obtain ⟨⟨o, x, hx, hops, hi, hf, hpc, hseq, hnext, hframe⟩, hbytes, hothers⟩ := h
  have huid : (x.countSr k).uid = t.uid := show x.uid = t.uid from State.task?_uid hx
  have hset : u.mapTask t.uid (·.countSr k) = u.setTask (x.countSr k) := by simp only [State.mapTask, hx]
  rw [hset]
  refine ⟨⟨o, x.countSr k, ?_, hops, hi, hf, hpc, hseq, ?_, hframe.trans (TaskFrame.setSt (fun _ _ => rfl) rfl rfl)⟩,
    fun l => (u.setTask_byteAt _ l).trans (hbytes l), fun n hn => (u.task?_setTask_ne _ (huid ▸ hn)).trans (hothers n hn)⟩
  · rw [← huid]
    exact u.task?_setTask _ (by rw [huid, hx]; rfl)
  · rw [Task.countSr, Task.st_setSt]
    exact hnext

variable {codes : List Nat} {chk : IssueChk} {bytes : Nat} {vals : List Nat} {fill : AsyncOp → AsyncOp}

/-- What `matrixIssue` answers, stop by stop (R233, R234, R239). -/
theorem State.matrixIssue_engine (hl : 8 ≤ t.mops.length) :
    s.matrixIssue t k i act foot bytes codes chk vals fill = .error (.wait .engine) := by
  simp only [State.matrixIssue, if_pos hl]
  rfl

theorem State.matrixIssue_hazard (hl : t.mops.length < 8) (hb : s.blockers t foot ≠ []) :
    s.matrixIssue t k i act foot bytes codes chk vals fill = .error (.wait (.hazard (s.blockers t foot))) := by
  have hb' : (!(s.blockers t foot).isEmpty) = true := by simpa using hb
  simp only [State.matrixIssue, if_neg (Nat.not_le.2 hl), hb', if_true]
  rfl

theorem semRange_bad (hs : act.sige = 1) (hn : t.nsems ≤ act.sem.toNat) : semRange t act = trapWith clsSem 1 := by
  simp [semRange, hs, hn]

theorem State.matrixIssue_sem (hl : t.mops.length < 8) (hb : s.blockers t foot = []) (hs : act.sige = 1)
    (hn : t.nsems ≤ act.sem.toNat) :
    s.matrixIssue t k i act foot bytes codes chk vals fill = trapWith clsSem 1 := by
  simp only [State.matrixIssue, if_neg (Nat.not_le.2 hl), hb, semRange_bad hs hn]
  rfl

theorem State.issueChecks_code {fut : Option Dword} {c : Nat} (hc : c ∈ codes) (hm : ∀ x ∈ codes, c ≤ x) :
    s.issueChecks t codes fut chk = trapWith clsMatrix c := by
  obtain ⟨a, ha⟩ := lowestCond_min codes c hc hm
  simp only [State.issueChecks, ha]

theorem State.matrixIssue_code (hl : t.mops.length < 8) (hb : s.blockers t foot = [])
    (hs : act.sige = 1 → act.sem.toNat < t.nsems) {c : Nat} (hc : c ∈ codes) (hm : ∀ x ∈ codes, c ≤ x) :
    s.matrixIssue t k i act foot bytes codes chk vals fill = trapWith clsMatrix c := by
  simp only [State.matrixIssue, if_neg (Nat.not_le.2 hl), hb, semRange_ok hs, State.issueChecks_code hc hm]
  rfl

theorem State.matrixIssue_started (h : s.task? t.uid = some t) (hl : t.mops.length < 8) (hb : s.blockers t foot = [])
    (hs : act.sige = 1 → act.sem.toNat < t.nsems) (hchk : s.issueChecks t codes (futOf (t.st .m) act) chk = .ok ()) :
    ∃ u, s.matrixIssue t .m i act foot bytes codes chk vals = .ok u ∧ Started s u t .m i foot := by
  have hc := State.foldl_only (fun s (r : Nat × Nat × Bool) => s.tlbFillRange (t.accessor s) r.1 r.2.1)
    (fun s r => State.tlbFillRange_only s _ _ _) chk.ranges s
  have hb' : (!(s.blockers t foot).isEmpty) = false := by simp [hb]
  simp only [State.matrixIssue, if_neg (Nat.not_le.2 hl), hb', semRange_ok hs, hchk, bind, Except.bind, pure, Except.pure]
  exact ⟨_, rfl, startOp_started h hc.byteAt hc.task? ⟨rfl, rfl, rfl, hc.seq⟩ (.inl rfl)⟩

end

/-- A matrix instruction that answers by `matrixIssue` and then changes what leaves its operation started (R233, R239). -/
theorem matrixIssue_then_starts {s : State} {t : Task} (h : Issues s t .m) {i : Instr} {act : Act} {foot : List Fp}
    {codes : List Nat} {chk : IssueChk} {bytes : Nat} {vals : List Nat} {g : State → State}
    (hg : ∀ u, Started s u t .m i foot → Started s (g u) t .m i foot) {f : Task → StreamId → Except Stop State}
    (hf : f t .m = (do let u ← s.matrixIssue t .m i act foot bytes codes chk vals; return g u))
    (he : exec i s = issue .matrix s f) : matrixStarts s t i act foot codes chk := by
  have stops {e : Stop} (hm : s.matrixIssue t .m i act foot bytes codes chk vals = .error e) : f t .m = .error e := by
    rw [hf, hm]
    rfl
  refine ⟨fun hl => exec_waits h rfl he (stops (State.matrixIssue_engine hl)) nofun,
    fun hl hb => exec_waits h rfl he (stops (State.matrixIssue_hazard hl hb)) nofun, fun hl hb =>
    ⟨fun hs hn => exec_raises h rfl he (stops (State.matrixIssue_sem hl hb hs hn)) (by decide), fun hs =>
      ⟨fun c hc hm => exec_raises h rfl he (stops (State.matrixIssue_code hl hb hs hc hm)) (by decide), fun hc hchk => ?_⟩⟩⟩
  subst hc
  obtain ⟨u, hu, hst⟩ := State.matrixIssue_started (i := i) (bytes := bytes) (vals := vals) h.task hl hb hs hchk
  exact ⟨g u, exec_runs h rfl he (by rw [hf, hu]; rfl), hg u hst⟩

/-! ### The matrix stream's operations, one by one (R243 to R252, R254) -/

section
variable {s : State} {t : Task} (h : Issues s t .m)
include h

/-- MMAP (R249). -/
theorem mmap_starts (act : Act) (sa sb : BitVec 6) (c : BitVec 5) (mq nq : BitVec 3) (fa fb : BitVec 4) (z : Bool) :
    let w := mmaW fa.toNat
    matrixStarts s t (.mmap act sa sb c mq nq fa fb z) act
      ([fpSlot sa.toNat w false, fpSlot sb.toNat (2 * w) false, t.fpAcc c.toNat 4 true] ++
        ((s.followerOf t).map fun u => { sp := .acc u, lo := c.toNat, hi := c.toNat + 4, wr := true : Fp }).toList)
      (t.slotChk sa.toNat w ++ t.slotChk sb.toNat (2 * w) ++ t.accRange c.toNat 4 ++ codeIf 6 (s.followerOf t = none))
      { slots := idxFrom sa.toNat w ++ idxFrom sb.toNat (2 * w) } := by
  intro w
  refine matrixIssue_starts h (bytes := 0) (vals := []) (fill := fun o => { o with follower := s.followerOf t })
    (fun _ => ⟨rfl, rfl, rfl, rfl⟩) ?_ (exec_mmap act sa sb c mq nq fa fb z s)
  cases s.followerOf t <;> rfl

/-- MMAS in either pair mode (R250). -/
theorem mmas_starts {i : Instr} {act : Act} {a b n : Nat} (he : exec i s = mmasOp i act a b n s) :
    matrixStarts s t i act ([fpSlot a (2 * n) false, fpSlot b (2 * n) false] ++ [t.fpAcc 0 26 true])
      (t.slotChk a (2 * n) ++ t.slotChk b (2 * n) ++ t.accRange 0 26) { slots := idxFrom a (2 * n) ++ idxFrom b (2 * n) } :=
  matrixIssue_starts h (fill := id) (fun _ => ⟨rfl, rfl, rfl, rfl⟩) rfl he

/-- MACST (R251, R252): with SR it counts SRCNT once its operation has started (R62). -/
theorem macst_starts (act : Act) (D : BitVec 4) (p c : BitVec 5) (mq nq : BitVec 3) (fmt : BitVec 4) (sr : Bool)
    (sc : BitVec 4) :
    let st := t.st .m
    let f := macstFmt fmt.toNat
    let va := (st.pair D).toNat
    let ranges := (rowsAt va (st.reg p).toNat (quad mq)).map (fun v => (v, quad nq * f.1.bits / 8, true)) ++
      (if f.2 then [((st.pair sc).toNat, quad mq * (quad nq / 32), true)] else [])
    matrixStarts s t (.macst act D p c mq nq fmt sr sc) act
      (t.fpAcc c.toNat 4 false :: ranges.flatMap fun r => s.fpVa (t.accessor s) r.1 r.2.1 true)
      (t.accRange c.toNat 4 ++ pitchBad (st.reg p).toNat 16) { bad := alignBad va 16, ranges := ranges } := by
  intro st f va ranges
  refine matrixIssue_then_starts h (g := fun u => if sr then u.mapTask t.uid (·.countSr .m) else u) (fun u hu => ?_) rfl
    (exec_macst act D p c mq nq fmt sr sc s)
  cases sr with
  | false => exact hu
  | true => exact hu.countSr

end

/-- Settles O42: each instruction answers by `matrixIssue`, with the conditions and rows as R239 and R245 name them. -/
theorem matrixOperationsStart : Obligations.MatrixOperationsStart := by
  intro s t h act sa sb c mq nq fa fb z D sc p k l f n m st slot tiles pitch w a b M N va rows reach W ab
  have hslot : slot = t.slotChk := funext₂ fun b n => (t.slotChk_eq b n).symm
  have htiles : tiles = t.accRange := rfl
  have hpitch : pitch = pitchBad (st.reg p).toNat := funext fun al => (pitchBad_eq _ al).symm
  have hrows : rows = rowsAt va (st.reg p).toNat M := (rowsAt_eq ..).symm
  have plain (o : AsyncOp) : (id o).instr = o.instr ∧ (id o).foot = o.foot ∧ (id o).pc = o.pc ∧ (id o).seq = o.seq :=
    ⟨rfl, rfl, rfl, rfl⟩
  rw [hslot, htiles, hpitch, hrows]
  refine ⟨fun cnt side => ?_, ?_, mmap_starts h act sa sb c mq nq fa fb z, fun i hi => ?_, ?_, ?_, ?_, ?_,
    fun sr => macst_starts h act D p c mq nq fa sr sc, ?_⟩
  · exact matrixIssue_starts h plain rfl (exec_mold act sa cnt c side s)
  · exact matrixIssue_starts h plain rfl (exec_mma act sa sb c mq nq fa fb z s)
  · simp only [List.mem_cons, List.not_mem_nil, or_false] at hi
    obtain rfl | rfl := hi
    · exact mmas_starts h (exec_mmasFull act sa sb fa mq nq s)
    · exact mmas_starts h (exec_mmasTri act sa sb fa mq nq s)
  · exact matrixIssue_starts h plain rfl (exec_mwclr act s)
  · exact matrixIssue_starts h plain rfl (exec_mwst act D p mq nq s)
  · exact matrixIssue_starts h plain rfl (exec_macz act c k s)
  · exact matrixIssue_starts h plain rfl (exec_macld act D p c mq nq s)
  · refine matrixIssue_starts h ?_ rfl (exec_rboard act sa l f n m s)
    exact fun _ => ⟨rfl, rfl, rfl, rfl⟩

end Sys2Proof.Machine

namespace Sys2Proof.Machine
set_option Elab.async false

/-! ### Copy instructions that start (R233, R237, R239) -/

theorem copyFirst_ok {t : Task} {act : Act} (hl : t.cops.length < 64) (hs : act.sige = 1 → act.sem.toNat < t.nsems) :
    copyFirst t act = .ok () := by
  simp only [copyFirst, if_neg (Nat.not_le.2 hl), semRange_ok hs]

/-- Bytes of an element of a reduction TYPE (R261). -/
theorem redSize_toNat : ∀ ty : BitVec 2, redSize ty.toNat = if ty = 3 then 2 else 4 := by decide

/-- SHAPE of the bytes of a row of GATHER and SCATTER (R260). -/
theorem rowShape_eq (w : Nat) : (if w = 0 || decide (65536 < w) then [8] else []) = codeIf 8 (w = 0 ∨ 65536 < w) := by
  simp only [codeIf, Bool.or_eq_true, decide_eq_true_eq]

/-- ALIGN of the strides of QFILL and QSINK (R262). -/
theorem strideBad_eq (l e va : Nat) :
    (if l % 4 = 0 && e % 4 = 0 then [] else [(5, va)]) = if l % 4 = 0 ∧ e % 4 = 0 then [] else [(5, va)] := by
  simp only [Bool.and_eq_true, decide_eq_true_eq]

section
variable {s : State} {t : Task} (h : Issues s t .c) {i : Instr} {act : Act}
include h

/-- A copy instruction that answers by `copyIssue` in its own state, whatever its operands are. -/
theorem copyIssue_starts_here {foot : List Fp} {codes : List Nat} {chk : IssueChk} {bytes : Nat} {vals : List Nat}
    {record : List Byte} {f : Task → StreamId → Except Stop State}
    (hf : f t .c = (do copyFirst t act; s.copyIssue t .c i act foot bytes codes chk vals record))
    (he : exec i s = issue .copy s f) : copyStarts s s t i act foot True codes chk :=
  copyIssue_starts h hf (fun _ => rfl) (fun _ => rfl) (fun _ => rfl) rfl he

/-- CPYRED (R261): a floating type is for launches that are not deterministic (R304). -/
theorem cpyred_starts (D : BitVec 4) (a n : BitVec 5) (op : BitVec 3) (ty : BitVec 2) :
    let dst := ((t.st .c).pair D).toNat
    let off := ((t.st .c).reg a).toNat
    let len := ((t.st .c).reg n).toNat
    let es := redSize ty.toNat
    copyStarts s s t (.cpyred act D a n op ty) act (t.fpScr off len false :: s.fpVa (t.accessor s) dst len true)
      (t.det = false ∨ ty.toNat < 2) []
      { bad := (if inWindow dst then [(3, dst)] else s.copyBad (t.accessor s) dst len) ++ s.scrBad t off len es ++
          alignBad dst es ++ (if len % es = 0 then [] else [(5, dst)]) } := by
  intro dst off len es
  refine copyIssue_starts h rfl (bytes := len) (vals := [dst, off, len]) (record := []) (fun hok => ?_) (fun _ => rfl)
    (fun _ => rfl) rfl (exec_cpyred act D a n op ty s)
  refine if_neg fun hdet => ?_
  rw [Bool.and_eq_true, decide_eq_true_eq] at hdet
  exact hok.elim (fun hd => Bool.false_ne_true (hd.symm.trans hdet.1)) (Nat.not_lt.2 hdet.2)

/-- A floating CPYRED of a deterministic launch raises DETERMINISM, FPRED (R304). -/
theorem exec_cpyred_fpred (hl : t.cops.length < 64) (hs : act.sige = 1 → act.sem.toNat < t.nsems) (hd : t.det = true)
    {ty : BitVec 2} (hty : 2 ≤ ty.toNat) (D : BitVec 4) (a n : BitVec 5) (op : BitVec 3) :
    exec (.cpyred act D a n op ty) s = .next (s.takeTrap t .c (t.st .c).pc false 0 { cls := 13, sub := 1 }) := by
  refine exec_raises h rfl (exec_cpyred act D a n op ty s) ?_ (by decide)
  simp only [copyFirst_ok hl hs, hd, hty, decide_true, Bool.and_self, if_true]
  rfl

/-- QFILL and QSINK (R262). -/
theorem queueOp_starts {q : Nat} {A : BitVec 4} {l e n : BitVec 5} {sink : Bool}
    (he : exec i s = queueOp i act q A l e n sink s) :
    let va := ((t.st .c).pair A).toNat
    let ls := ((t.st .c).reg l).toNat
    let es := ((t.st .c).reg e).toNat
    let cnt := ((t.st .c).reg n).toNat
    let size := if cnt = 0 then 0 else (cnt - 1) * es + 95 * ls + 4
    copyStarts s s t i act (if cnt = 0 then [] else fpQueue q true :: s.fpVa (t.accessor s) va size sink) True []
      { bad := alignBad va 4 ++ (if ls % 4 = 0 ∧ es % 4 = 0 then [] else [(5, va)]) ++ s.copyBad (t.accessor s) va size } := by
  intro va ls es cnt size
  rw [← strideBad_eq]
  exact copyIssue_starts_here h rfl he

/-- GATHER and SCATTER (R260). -/
theorem indexedOp_starts {d : BitVec 5} {A ix : BitVec 4} {n w r : BitVec 5} {store : Bool}
    (he : exec i s = indexedOp i act d A ix n w r store s) :
    let ac := t.accessor s
    let off := ((t.st .c).reg d).toNat
    let tbl := ((t.st .c).pair A).toNat
    let idx := ((t.st .c).pair ix).toNat
    let cnt := ((t.st .c).reg n).toNat
    let wid := ((t.st .c).reg w).toNat
    let rows := ((t.st .c).reg r).toNat
    copyStarts s s t i act
      ([t.fpScr off (cnt * wid) (!store)] ++ s.fpVa ac idx (4 * cnt) false ++ s.fpVa ac tbl (rows * wid) store) True
      (codeIf 8 (wid = 0 ∨ 65536 < wid))
      { bad := s.scrBad t off (cnt * wid) 1 ++ alignBad idx 4 ++ s.copyBad ac idx (4 * cnt) ++
          s.copyBad ac tbl (rows * wid) } := by
  intro ac off tbl idx cnt wid rows
  rw [← rowShape_eq]
  exact copyIssue_starts_here h rfl he

/-- OSLICE of an A or a B tile (R258). -/
theorem osliceOp_starts {a : BitVec 5} {b n count : Nat} {opb : Bool} (he : exec i s = osliceOp i act a b n count opb s)
    {size : Nat} (hsize : (if opb then 65536 else 512 * count) = size) :
    let off := ((t.st .c).reg a).toNat
    copyStarts s s t i act [t.fpScr off size false, fpSlot b (2 * n) true] True (codeIf 1 (t.owns b (2 * n) = false))
      { bad := s.scrBad t off size 8 } := by
  intro off
  rw [← t.slotChk_eq, ← hsize]
  exact copyIssue_starts_here h rfl he

/-- CSTAT (R266). -/
theorem exec_cstat_value (d : BitVec 5) :
    exec (.cstat d) s = .next (s.retire t .c ((t.st .c).setReg d (BitVec.ofNat 32
      (min 0xFFFF t.cops.length + if ∃ p ∈ t.pend, p.stream = .c ∧ p.cls = 11 then 0x10000 else 0))) 2) := by
  have hpend : (t.pend.any fun p => p.stream == .c && p.cls == clsAsync).toNat * 65536 =
      if ∃ p ∈ t.pend, p.stream = .c ∧ p.cls = 11 then 0x10000 else 0 := by
    rw [Bool.toNat, Bool.cond_eq_ite]
    simp only [List.any_eq_true, Bool.and_eq_true, beq_iff_eq, clsAsync]
    split <;> rfl
  rw [← hpend]
  exact exec_runs h rfl (exec_cstat d s) rfl

end

/-- Settles O43: each copy answers by `copyIssue` after the checks that every copy makes first. -/
theorem rangeCopiesStart : Obligations.RangeCopiesStart := by
  intro s t h act A D a e n l r st ac P Q off len
  refine ⟨copyIssue_starts_here h rfl (exec_cpy act D A n s), copyIssue_starts_here h rfl (exec_spref act A n s),
    fun op ty => ?_, fun q => ?_, ?_, fun b cnt rq => ?_, exec_cstat_value h n⟩
  · rw [← redSize_toNat]
    exact ⟨cpyred_starts h D a n op ty, fun hl hs hd hty => exec_cpyred_fpred h hl hs hd hty D a n op⟩
  · exact ⟨queueOp_starts h (exec_qfill act q A l e n s), queueOp_starts h (exec_qsink act q A l e n s)⟩
  · exact ⟨indexedOp_starts h (exec_gather act a A D n e r s), indexedOp_starts h (exec_scatter act a A D n e r s)⟩
  · exact ⟨osliceOp_starts h (exec_osliceA act a b cnt rq s) (if_neg Bool.false_ne_true),
      osliceOp_starts h (exec_osliceB act a b cnt rq s) (if_pos rfl)⟩

end Sys2Proof.Machine

namespace Sys2Proof.Machine
set_option Elab.async false

/-! ### Copies that read a tensor record (R255 to R257) -/

section
variable {s : State} {t : Task} (h : Issues s t .c) {i : Instr} {act : Act} {P : BitVec 4} {bs : List Byte}
  (hbs : s.readRecord t ((t.st .c).pair P).toNat = .ok bs)
include h hbs

/-- TCOPY in either direction (R256). -/
theorem tcopyOp_starts {a c : BitVec 5} {store : Bool} (he : exec i s = tcopyOp i act P a c store s) :
    let r := tensorOf bs
    let off := ((t.st .c).reg a).toNat
    let org := coordsOf (t.st .c) c r
    let gs := r.bounds org
    copyStarts s s t i act
      (t.fpScr off r.span (!store) :: gs.flatMap fun g => s.fpVa (t.accessor s) g.1 g.2 store) (r.ok = true)
      (shapeBad r c org)
      { bad := s.scrBad t off r.span 16 ++ gs.flatMap fun g => s.copyBad (t.accessor s) g.1 g.2 } := by
  intro r off org gs
  refine copyIssue_starts h rfl (bytes := r.area + r.scales) (vals := off :: coordVals org) (record := bs) (fun hok => ?_)
    (fun _ => rfl) (fun _ => rfl) rfl he
  rw [hbs]
  exact if_neg (by rw [hok]; decide)

/-- A tensor record that breaks a rule of R255 raises MATRIX, RECORD. -/
theorem tcopyOp_noRecord (hl : t.cops.length < 64) (hs : act.sige = 1 → act.sem.toNat < t.nsems)
    (hbad : (tensorOf bs).ok = false) {a c : BitVec 5} {store : Bool} (he : exec i s = tcopyOp i act P a c store s) :
    exec i s = .next (s.takeTrap t .c (t.st .c).pc false 0 { cls := 5, sub := 7 }) := by
  refine exec_raises h rfl he ?_ (by decide)
  rw [copyFirst_ok hl hs]
  dsimp only
  rw [hbs]
  exact if_pos (by rw [hbad]; decide)

/-- TCOPYO (R257). -/
theorem tcopyo_starts (b : BitVec 6) (c : BitVec 5) :
    let r := tensorOf bs
    let org := coordsOf (t.st .c) c r
    let gs := r.bounds org
    copyStarts s s t (.tcopyo act P b c) act
      (fpSlot b.toNat r.slotCount true :: gs.flatMap fun g => s.fpVa (t.accessor s) g.1 g.2 false)
      (r.ok = true ∧ r.flatBox = true ∧ b.toNat + r.slotCount ≤ 64)
      (codeIf 1 (t.owns b.toNat r.slotCount = false) ++ shapeBad r c org)
      { bad := gs.flatMap fun g => s.copyBad (t.accessor s) g.1 g.2 } := by
  intro r org gs
  rw [← t.slotChk_eq]
  refine copyIssue_starts h rfl (bytes := r.area) (vals := coordVals org) (record := bs) (fun hok => ?_)
    (fun _ => rfl) (fun _ => rfl) rfl (exec_tcopyo act P b c s)
  obtain ⟨hrec, hflat, hroom⟩ := hok
  rw [hbs]
  exact (if_neg (by rw [hrec, hflat]; decide)).trans (if_neg (Nat.not_lt.2 hroom))

theorem exec_tcopyo_noRecord (hl : t.cops.length < 64) (hs : act.sige = 1 → act.sem.toNat < t.nsems)
    (hbad : (tensorOf bs).ok = false) (b : BitVec 6) (c : BitVec 5) :
    exec (.tcopyo act P b c) s = .next (s.takeTrap t .c (t.st .c).pc false 0 { cls := 5, sub := 7 }) := by
  refine exec_raises h rfl (exec_tcopyo act P b c s) ?_ (by decide)
  rw [copyFirst_ok hl hs]
  dsimp only
  rw [hbs]
  exact if_pos (by rw [hbad]; rfl)

end

/-! ### Collectives (R263, R264) -/

/-- The places that a collective takes are all that it changes before its checks (R263; log 29). -/
theorem State.takePlaces_collSeq (s : State) (tag me peer p : Nat) (kind : CollKind) :
    ∃ q, (s.takePlaces tag me peer p kind).1 = { s with collSeq := q } := by
  unfold State.takePlaces
  refine List.foldlRecOn (motive := fun r : State × List Nat => ∃ q, r.1 = { s with collSeq := q }) _ _ ⟨s.collSeq, rfl⟩ ?_
  rintro r ⟨q, hq⟩ key -
  exact ⟨_, (congrArg (fun u : State => (u.takeOrd key).1) hq).trans rfl⟩

/-- The further checks of a reduction (R264) as one list. -/
theorem append_redAlign (l : List (Nat × Nat)) (es d a n : Nat) : l ++ redAlign es d a n =
    l ++ (if n % es = 0 then [] else [(5, winBase + d)]) ++ alignBad (winBase + d) es ++ alignBad (winBase + a) es := by
  simp only [redAlign, List.append_assoc]

section
variable {s : State} {t : Task} (h : Issues s t .c) {i : Instr} {act : Act} {P : BitVec 4} {bs : List Byte} {bc : Bool}
  (hbs : s.readGroup t ((t.st .c).pair P).toNat bc = .ok bs)
include h

/-- A collective whose group record has been read answers by `copyIssue` once it has taken its places (R263, R264). -/
theorem collIssue_starts {foot : List Fp} {ok : Prop} {codes : List Nat} {bad : List (Nat × Nat)} {d a n peer : Nat}
    {kind : CollKind} {f : Task → StreamId → Except Stop State} {g : Except Stop State}
    (hf : f t .c = (do copyFirst t act; g))
    (hg : ok → g = s.collIssue t .c i act bs kind d a n peer foot codes bad) (he : exec i s = issue .copy s f) :
    copyStarts s (s.takePlaces (groupOf bs).tag (groupOf bs).me peer (groupOf bs).p kind).1 t i act foot ok codes
      { bad := bad } := by
  obtain ⟨q, hq⟩ := s.takePlaces_collSeq (groupOf bs).tag (groupOf bs).me peer (groupOf bs).p kind
  refine copyIssue_starts h hf (bytes := n) (record := bs) (fun hok => (hg hok).trans rfl) (fun l => ?_) (fun m => ?_) ?_ he
  · rw [hq]; cases l <;> rfl
  · rw [hq]; rfl
  · rw [hq]

/-- An arrival-mode COLLRED of a deterministic launch raises DETERMINISM, ARRIVAL (R304). -/
theorem exec_collred_arrival (hl : t.cops.length < 64) (hs : act.sige = 1 → act.sem.toNat < t.nsems) (hd : t.det = true)
    (c a n : BitVec 5) (op : BitVec 3) (ty : BitVec 2) :
    exec (.collred act P c a n op ty true) s = .next (s.takeTrap t .c (t.st .c).pc false 0 { cls := 13, sub := 2 }) := by
  refine exec_raises h rfl (exec_collred act P c a n op ty true s) ?_ (by decide)
  rw [copyFirst_ok hl hs]
  exact if_pos (by rw [hd]; rfl)

include hbs

/-- COLLRED (R264): arrival mode is for launches that are not deterministic. -/
theorem collred_starts (hbc : bc = false) (c a n : BitVec 5) (op : BitVec 3) (ty : BitVec 2) (arr : Bool) :
    let g := groupOf bs
    let dst := ((t.st .c).reg c).toNat
    let off := ((t.st .c).reg a).toNat
    let len := ((t.st .c).reg n).toNat
    copyStarts s (s.takePlaces g.tag g.me 0 g.p (.red op ty arr)).1 t (.collred act P c a n op ty arr) act
      [t.fpScr off len false, t.fpScr dst len true] (t.det = false ∨ arr = false) []
      { bad := s.scrBad t off len 1 ++ s.scrBad t dst len 1 ++ redAlign (redSize ty.toNat) dst off len } := by
  intro g dst off len
  refine collIssue_starts h rfl (d := dst) (a := off) (n := len) (fun hok => ?_) (exec_collred act P c a n op ty arr s)
  subst hbc
  refine (if_neg ?_).trans ?_
  · obtain hd | ha := hok
    · rw [hd, Bool.false_and]; decide
    · rw [ha, Bool.and_false]; decide
  · rw [hbs]; rfl

/-- COLLBC (R264). -/
theorem collbc_starts (hbc : bc = true) (c n : BitVec 5) :
    let g := groupOf bs
    let dst := ((t.st .c).reg c).toNat
    let len := ((t.st .c).reg n).toNat
    copyStarts s (s.takePlaces g.tag g.me 0 g.p .bc).1 t (.collbc act P c n) act [t.fpScr dst len (g.root != g.me)] True []
      { bad := s.scrBad t dst len 1 } := by
  intro g dst len
  refine collIssue_starts h rfl (d := dst) (a := dst) (n := len) (fun _ => ?_) (exec_collbc act P c n s)
  subst hbc
  rw [hbs]
  rfl

/-- COLLSEND in either direction (R264). -/
theorem collsendOp_starts (hbc : bc = false) {m a n : BitVec 5} {kind : CollKind}
    (he : exec i s = collsendOp i act P m a n kind s) {wr : Bool} (hwr : (kind == .recv) = wr) :
    let g := groupOf bs
    let peer := ((t.st .c).reg m).toNat
    let off := ((t.st .c).reg a).toNat
    let len := ((t.st .c).reg n).toNat
    copyStarts s (s.takePlaces g.tag g.me peer g.p kind).1 t i act [t.fpScr off len wr] True (codeIf 8 (g.p ≤ peer))
      { bad := s.scrBad t off len 1 } := by
  intro g peer off len
  refine collIssue_starts h rfl (d := off) (a := off) (n := len) (fun _ => ?_) he
  subst hbc hwr
  rw [hbs]
  rfl

end

/-- Settles O44: with its record read, each instruction answers by `copyIssue`, a collective where it has taken its places. -/
theorem recordCopiesStart : Obligations.RecordCopiesStart := by
  intro s t h act P a c n b st ac off dst len free noRecord
  refine ⟨fun bs hbs => ⟨?_, tcopyOp_starts h hbs (exec_tcopy act P a c s), tcopyOp_starts h hbs (exec_tcopySt act P a c s),
    tcopyo_starts h hbs b c⟩, fun bs bc hbs => ⟨fun hbc op ty arr => ?_, fun hbc => collbc_starts h hbs hbc c n,
    fun hbc => ⟨collsendOp_starts h hbs hbc (exec_collsendSend act P c a n s) rfl,
      collsendOp_starts h hbs hbc (exec_collsendRecv act P c a n s) rfl⟩⟩⟩
  · rintro ⟨hl, hs⟩ hbad
    exact ⟨tcopyOp_noRecord h hbs hl hs hbad (exec_tcopy act P a c s),
      tcopyOp_noRecord h hbs hl hs hbad (exec_tcopySt act P a c s), exec_tcopyo_noRecord h hbs hl hs hbad b c⟩
  · intro es
    have hes : es = redSize ty.toNat := (redSize_toNat ty).symm
    rw [hes, ← append_redAlign]
    refine ⟨collred_starts h hbs hbc c a n op ty arr, ?_⟩
    rintro ⟨hl, hs⟩ hd rfl
    exact exec_collred_arrival h hl hs hd c a n op ty

end Sys2Proof.Machine

namespace Sys2Proof.Machine
set_option Elab.async false

/-! ### Announcements (R263, R366) -/

/-- A counter of order that is taken moves on by one, and the others keep their values (R366). -/
theorem State.flaoriNext_takeOrd (s : State) (key : List Nat) (src tag : Nat) :
    (s.takeOrd key).1.flaoriNext src tag =
      if key = [src, tag, 7] then s.flaoriNext src tag + 1 else s.flaoriNext src tag := by
  simp only [State.takeOrd, State.flaoriNext, List.find?_cons]
  by_cases hk : key = [src, tag, 7]
  · rw [if_pos hk, hk, beq_self_eq_true]
    rfl
  · rw [if_neg hk, beq_false_of_ne hk]
    simp only [List.find?_filter]
    congr 3
    funext p
    by_cases hp : p.1 = [src, tag, 7]
    · simp [hp, Ne.symm hk]
    · simp [hp]

/-- The counters of the messages that arrive are none of those of the announcements of a source (R366). -/
theorem ordKey_ne_next (kind : CollKind) (tag me peer src tag' : Nat) : ordKey kind tag me peer 4 ≠ [src, tag', 7] := by
  cases kind <;> simp [ordKey]

/-- The messages that are kept and the next place of every source are as before. -/
structure State.SameHeard (s u : State) : Prop where
  flaori : u.flaori = s.flaori
  next : ∀ src tag, u.flaoriNext src tag = s.flaoriNext src tag

theorem State.SameHeard.refl (s : State) : s.SameHeard s := ⟨rfl, fun _ _ => rfl⟩
theorem State.SameHeard.trans {s u v : State} (h : s.SameHeard u) (h' : u.SameHeard v) : s.SameHeard v :=
  ⟨h'.flaori.trans h.flaori, fun src tag => (h'.next src tag).trans (h.next src tag)⟩

theorem State.noteBad_heard (s : State) (tag m ord : Nat) : s.SameHeard (s.noteBad tag m ord) := by
  unfold State.noteBad
  split <;> exact ⟨rfl, fun _ _ => rfl⟩

theorem State.noteBad_wire (s : State) (tag m ord : Nat) : (s.noteBad tag m ord).wire = s.wire := by
  unfold State.noteBad
  split <;> rfl

/-- The mismatch of an operation is on record where it was told (R263). -/
theorem State.mem_noteBad (s : State) (tag m ord : Nat) : (tag, m, ord) ∈ (s.noteBad tag m ord).collBad := by
  unfold State.noteBad
  split
  · exact List.contains_iff_mem.1 ‹_›
  · exact List.mem_cons_self ..

/-- The place of an announcement that this package makes is no place of one that it hears. -/
theorem State.takeSeq_heard (s : State) (tag dst : Nat) : s.SameHeard (s.takeSeq tag dst).1 :=
  ⟨rfl, fun src tag' => (s.flaoriNext_takeOrd _ src tag').trans (if_neg (by simp))⟩

theorem State.tellMismatch_heard (s : State) (o : AsyncOp) (kind : CollKind) : s.SameHeard (s.tellMismatch o kind) := by
  unfold State.tellMismatch
  split
  · exact .refl s
  · refine List.foldlRecOn (motive := fun u : State => s.SameHeard u) _ _ (.refl s) fun u hu m _ => ?_
    dsimp only
    split
    · exact hu.trans (u.noteBad_heard ..)
    · split
      · exact hu.trans (State.SameHeard.trans (u.takeSeq_heard ..) ⟨rfl, fun _ _ => rfl⟩)
      · exact hu

theorem State.mapTask_heard (s : State) (u : Nat) (f : Task → Task) : s.SameHeard (s.mapTask u f) := by
  unfold State.mapTask
  split <;> exact ⟨rfl, fun _ _ => rfl⟩

theorem State.spoilOp_heard (s : State) (t : Task) (o : AsyncOp) (kind : CollKind) : s.SameHeard (s.spoilOp t o kind) :=
  (s.mapTask_heard ..).trans (State.tellMismatch_heard ..)

/-- The announced operations that a message clashes with (R263; log 29). -/
def State.clashing (s : State) (f : FlaoriIn) : List (Task × AsyncOp × CollKind) :=
  s.tasks.flatMap fun t => t.cops.filterMap fun o =>
    (collKind o.instr).bind fun kind => if o.announced && o.clashes kind f then some (t, o, kind) else none

theorem State.arriveMsg_eq (s : State) (f : FlaoriIn) : s.arriveMsg f = (s.clashing f).foldl
    (fun s h => s.spoilOp h.1 h.2.1 h.2.2)
    { s with flaori := s.flaori ++ [if (s.clashing f).isEmpty then f else { f with fault := some 0xA }] } := rfl

theorem State.clashing_eq_nil {s : State} {f : FlaoriIn} : s.clashing f = [] ↔
    ¬ ∃ t ∈ s.tasks, ∃ o ∈ t.cops, ∃ kind, collKind o.instr = some kind ∧ o.announced = true ∧ o.clashes kind f = true := by
  simp [State.clashing]

/-- A message that arrives is kept, as failed where it clashes with an operation; those that were there stay (R263). -/
theorem State.arriveMsg_heard (s : State) (f : FlaoriIn) :
    State.SameHeard { s with flaori := s.flaori ++ [if (s.clashing f).isEmpty then f else { f with fault := some 0xA }] }
      (s.arriveMsg f) := by
  rw [State.arriveMsg_eq]
  exact List.foldlRecOn (motive := fun u : State => State.SameHeard _ u) _ _ (.refl _) fun u hu x _ =>
    hu.trans (u.spoilOp_heard ..)

theorem State.arriveMsg_of_miss {s : State} {f : FlaoriIn} (h : s.clashing f = []) :
    s.arriveMsg f = { s with flaori := s.flaori ++ [f] } := by
  rw [State.arriveMsg_eq, h]
  rfl

/-- A message as its announcement leaves it, before any of its chunks has arrived. -/
def FlaoriIn.announced (msg : FlaoriMsg) (ord pos : Nat) : FlaoriIn :=
  { msg := msg, ord := ord, pos := pos, data := [], got := [], fails := 0, fault := none }

/-- The state with the next place of an announcement's source taken (R366). -/
def State.hearNext (s : State) (msg : FlaoriMsg) : State := (s.takeOrd [msg.src, msg.tag.toNat, 7]).1

theorem State.hearNext_next (s : State) (msg : FlaoriMsg) :
    (s.hearNext msg).flaoriNext msg.src msg.tag.toNat = s.flaoriNext msg.src msg.tag.toNat + 1 :=
  (s.flaoriNext_takeOrd _ _ _).trans (if_pos rfl)

/-- The state with the place and the ordinal of a message taken, and these (R263; log 29). -/
def State.hearPlace (s : State) (msg : FlaoriMsg) : State × Nat × Nat :=
  let p := s.takeOrd [msg.tag.toNat, msg.member, msg.peer, 4]
  let o := p.1.takeOrd (ordKey msg.kind msg.tag.toNat msg.member msg.peer 4)
  (o.1, o.2, p.2)

theorem State.hearPlace_heard (s : State) (msg : FlaoriMsg) : s.SameHeard (s.hearPlace msg).1 :=
  ⟨rfl, fun src tag => by
    rw [State.hearPlace, State.flaoriNext_takeOrd, if_neg (ordKey_ne_next _ _ _ _ _ _), State.flaoriNext_takeOrd,
      if_neg (by simp)]⟩

/-- An announcement out of the order of its source is not taken (R366). -/
theorem exec_flaoriRequest_early {s : State} {msg : FlaoriMsg} (hseq : msg.seq ≠ s.flaoriNext msg.src msg.tag.toNat) :
    exec (.flaoriRequest msg) s = .next s :=
  (exec_flaoriRequest msg s).trans (congrArg _ (if_pos (by simp [hseq])))

section
variable {s : State} {msg : FlaoriMsg} (hon : s.flaoriOn = true) (hsrc : msg.src ≠ s.rank) (hup : s.peerUp msg.src = true)
  (hseq : msg.seq = s.flaoriNext msg.src msg.tag.toNat)
include hon hsrc hup hseq

/-- One in order is taken: a mismatch of the whole group's operation is noted, or the message arrives and is pulled. -/
theorem exec_flaoriRequest_taken :
    let c := s.hearNext msg
    let h := c.hearPlace msg
    let u := h.1.arriveMsg (.announced msg h.2.1 h.2.2)
    exec (.flaoriRequest msg) s = .next (match msg.bad with
      | some ord => c.noteBad msg.tag.toNat msg.peer ord
      | none => { u with wire := u.wire ++ (chunksOf msg).map fun off => .pull msg.src msg.tag msg.seq off }) := by
  refine (exec_flaoriRequest msg s).trans (congrArg _ ((if_neg ?_).trans rfl))
  simp [hon, hsrc, hup, hseq]

/-- A member learns that its group's operation has met a different kind (R263). -/
theorem flaoriRequest_mismatch {i : Nat} (hbad : msg.bad = some i) : ∃ s', exec (.flaoriRequest msg) s = .next s' ∧
    s'.flaoriNext msg.src msg.tag.toNat = s.flaoriNext msg.src msg.tag.toNat + 1 ∧
    (msg.tag.toNat, msg.peer, i) ∈ s'.collBad ∧ s'.flaori = s.flaori ∧ s'.wire = s.wire := by
  have hrun := exec_flaoriRequest_taken hon hsrc hup hseq
  rw [hbad] at hrun
  have hnote := (s.hearNext msg).noteBad_heard msg.tag.toNat msg.peer i
  exact ⟨_, hrun, (hnote.next _ _).trans (s.hearNext_next msg), State.mem_noteBad .., hnote.flaori, State.noteBad_wire ..⟩

/-- A message that arrives is kept, as failed where it clashes with an operation, and otherwise it is only pulled. -/
theorem flaoriRequest_message (hbad : msg.bad = none) : ∃ s' ord pos, exec (.flaoriRequest msg) s = .next s' ∧
    s'.flaoriNext msg.src msg.tag.toNat = s.flaoriNext msg.src msg.tag.toNat + 1 ∧
    (s.clashing (.announced msg ord pos) ≠ [] →
      s'.flaori = s.flaori ++ [{ FlaoriIn.announced msg ord pos with fault := some 0xA }]) ∧
    (s.clashing (.announced msg ord pos) = [] → s'.flaori = s.flaori ++ [.announced msg ord pos] ∧
      s'.wire = s.wire ++ (chunksOf msg).map fun off => .pull msg.src msg.tag msg.seq off) := by
  have hrun := exec_flaoriRequest_taken hon hsrc hup hseq
  rw [hbad] at hrun
  have hplace := (s.hearNext msg).hearPlace_heard msg
  have hnext := (hplace.next msg.src msg.tag.toNat).trans (s.hearNext_next msg)
  have hheard := ((s.hearNext msg).hearPlace msg).1.arriveMsg_heard
    (.announced msg ((s.hearNext msg).hearPlace msg).2.1 ((s.hearNext msg).hearPlace msg).2.2)
  refine ⟨_, ((s.hearNext msg).hearPlace msg).2.1, ((s.hearNext msg).hearPlace msg).2.2, hrun, (hheard.next _ _).trans hnext,
    fun hhit => ?_, fun hmiss => ?_⟩
  · exact hheard.flaori.trans (congrArg (s.flaori ++ [·]) (if_neg fun he => hhit (List.isEmpty_iff.1 he)))
  · rw [State.arriveMsg_of_miss (s := ((s.hearNext msg).hearPlace msg).1) hmiss]
    exact ⟨rfl, rfl⟩

end

/-! ### Chunks (R366) -/

section
variable {s : State} {src seq off : Nat} {tag : Word} {x : FlaoriIn} (hon : s.flaoriOn = true) (hup : s.peerUp src = true)
  (hx : s.chunkOf src tag seq off = some x)
include hon hup hx

/-- A chunk with a bad FCS is counted and pulled again (R433). -/
theorem exec_flaoriChunk_bad (data : List Byte) : exec (.flaoriChunk src tag seq off data false) s =
    .next ((s.countMreg (portRegs (s.rankPort src)) 0).pullFailed x [off]) := by
  simp only [exec_flaoriChunk, execFlaoriChunk, hx, hon, hup, Bool.not_true, Bool.or_self, Bool.false_eq_true, if_false,
    Bool.not_false, if_true]

/-- A chunk of another length than its own is pulled again. -/
theorem exec_flaoriChunk_short {data : List Byte} (hlen : data.length ≠ Nat.min 4096 (x.msg.len - off)) :
    exec (.flaoriChunk src tag seq off data true) s = .next (s.pullFailed x [off]) := by
  simp only [exec_flaoriChunk, execFlaoriChunk, hx, hon, hup, Bool.not_true, Bool.or_self, Bool.false_eq_true, if_false,
    beq_false_of_ne hlen]

/-- A chunk that is whole is taken. -/
theorem exec_flaoriChunk_whole {data : List Byte} (hlen : data.length = Nat.min 4096 (x.msg.len - off)) :
    exec (.flaoriChunk src tag seq off data true) s = .next (s.chunkIn x off data) := by
  simp only [exec_flaoriChunk, execFlaoriChunk, hx, hon, hup, Bool.not_true, Bool.or_self, Bool.false_eq_true, if_false,
    beq_iff_eq, hlen, if_true]

theorem exec_flaoriLostChunk_pulled : exec (.flaoriLostChunk src tag seq off) s = .next (s.pullFailed x [off]) := by
  simp only [exec_flaoriLostChunk, execFlaoriLostChunk, hx, hon, hup, Bool.and_self, if_true]

end

/-- Whether a message that a chunk makes whole has the CRC-32C that it was announced with. -/
theorem State.chunkIn_cases (s : State) (x : FlaoriIn) (off : Nat) (data : List Byte) :
    let y := { x with data := x.data.writeBytes off data, got := off :: x.got, fails := 0 }
    let wrong := y.whole = true ∧ crc32c (y.data.bytes 0 y.msg.len) ≠ y.msg.crc
    (¬ wrong → s.chunkIn x off data = s.mapMsg x fun _ => y) ∧
    (wrong → s.chunkIn x off data = (s.countMreg (portRegs (s.rankPort x.msg.src)) 32).pullFailed x (chunksOf x.msg)) := by
  intro y wrong
  have hiff : (y.whole && crc32c (y.data.bytes 0 y.msg.len) != y.msg.crc) = true ↔ wrong := by
    rw [Bool.and_eq_true, bne_iff_ne]
  exact ⟨fun h => if_neg (mt hiff.1 h), fun h => if_pos (hiff.2 h)⟩

theorem State.chunkOf_src {s : State} {src seq off : Nat} {tag : Word} {x : FlaoriIn}
    (hx : s.chunkOf src tag seq off = some x) : x.msg.src = src := by
  have h := List.find?_some hx
  simp only [Bool.and_eq_true, beq_iff_eq, and_assoc] at h
  exact h.1

/-- A pull that fails is repeated, and the eighth failure in a row abandons the message (R366). -/
theorem State.pullFailed_cases (s : State) (x : FlaoriIn) (offs : List Nat) :
    (x.fails < 7 → (s.pullFailed x offs).wire = s.wire ++ offs.map (fun off => .pull x.msg.src x.msg.tag x.msg.seq off) ∧
      (s.pullFailed x offs).flaori = (s.mapMsg x fun y =>
        { y with fails := y.fails + 1, got := y.got.filter fun off => !(offs.contains off) }).flaori) ∧
    (7 ≤ x.fails → (s.pullFailed x offs).wire = s.wire ∧
      (s.pullFailed x offs).flaori = (s.mapMsg x fun y => { y with fault := some 9 }).flaori) := by
  refine ⟨fun h => ?_, fun h => ?_⟩
  · rw [State.pullFailed, if_neg (Nat.not_le.2 h)]
    exact ⟨rfl, rfl⟩
  · rw [State.pullFailed, if_pos h]
    exact ⟨rfl, rfl⟩

/-! ### Silence (R366) -/

/-- Messages that are abandoned, one after another, fail, and only counters change besides. -/
theorem State.foldl_abandon : ∀ (l : List FlaoriIn) (s : State), ∃ m, l.foldl State.abandon s = { s with
    mgmt := m, flaori := s.flaori.map fun y => if l.any (fun x => y.msg == x.msg) then { y with fault := some 9 } else y }
  | [], s => ⟨s.mgmt, by simp⟩
  | x :: l, s => by
    obtain ⟨m, hm⟩ := State.foldl_abandon l (s.abandon x)
    refine ⟨m, hm.trans ?_⟩
    have hflaori : (s.abandon x).flaori = s.flaori.map fun y => if y.msg == x.msg then { y with fault := some 9 } else y := rfl
    rw [hflaori, List.map_map]
    refine congrArg (fun q => ({ s with mgmt := m, flaori := q } : State)) (List.map_congr_left fun y _ => ?_)
    by_cases hx : y.msg = x.msg
    · simp [hx]
    · simp [hx]

/-- The unfinished messages of a peer, which its silence abandons (R366). -/
def State.lostFrom (s : State) (peer : Nat) : List FlaoriIn :=
  s.flaori.filter fun x => x.msg.src == peer && !(x.msg.kind == .recv) && !x.whole && x.fault.isNone

/-- Once these are abandoned, an unfinished message of the peer has failed. -/
theorem State.fault_of_lostFrom {s : State} {peer : Nat} {z : FlaoriIn} (hz : z ∈ s.flaori) :
    let y := if (s.lostFrom peer).any (fun x => z.msg == x.msg) then { z with fault := some 9 } else z
    y.msg.src = peer → y.msg.kind ≠ .recv → y.whole = false → y.fault.isSome = true := by
  intro y
  by_cases hlost : (s.lostFrom peer).any (fun x => z.msg == x.msg) = true
  · exact fun _ _ _ => (congrArg (·.fault.isSome) (if_pos hlost : y = { z with fault := some 9 })).trans rfl
  · have hy : y = z := if_neg hlost
    rw [hy]
    intro hsrc hkind hwhole
    by_contra hnone
    refine hlost (List.any_eq_true.2 ⟨z, List.mem_filter.2 ⟨hz, ?_⟩, beq_self_eq_true _⟩)
    simp [hsrc, hkind, hwhole, Option.not_isSome_iff_eq_none.1 hnone]

section
variable {s : State} {peer : Nat} (hon : s.flaoriOn = true)
include hon

/-- A peer's silence abandons its messages that have not arrived whole, the messages for it and the collectives that await
it (R366; log 58). -/
theorem flaoriSilence (hpeer : peer ≠ s.rank) :
    let fails := fun (o : AsyncOp) => if s.awaitsRank o peer then { o with fault := some (0, 9) } else o
    ∃ s', exec (.flaoriSilenceTimeout peer) s = .next s' ∧
      (∀ y ∈ s'.flaori, y.msg.src = peer → y.msg.kind ≠ .recv → y.whole = false → y.fault.isSome = true) ∧
      (∀ x ∈ s'.flaoriOut, x.dst ≠ peer) ∧ s'.tasks = s.tasks.map fun t => { t with cops := t.cops.map fails } := by
  intro fails
  refine ⟨_, (exec_flaoriSilenceTimeout peer s).trans (congrArg Host.Outcome.next (if_neg (by simp [hon, hpeer]))), ?_⟩
  obtain ⟨m, hm⟩ := State.foldl_abandon (s.lostFrom peer)
    { s with tasks := s.tasks.map fun t => { t with cops := t.cops.map fails },
             flaoriOut := s.flaoriOut.filter fun x => x.dst != peer }
  rw [State.lostFrom] at hm
  rw [hm]
  refine ⟨fun y hy => ?_, fun x hx => by simpa using (List.mem_filter.1 hx).2, rfl⟩
  obtain ⟨z, hz, rfl⟩ := List.mem_map.1 hy
  exact State.fault_of_lostFrom hz

/-- A keepalive leaves where a message waits (R366). -/
theorem exec_flaoriKeepalive_cases (hup : s.peerUp peer = true) :
    (s.peerWaits peer = true → exec (.flaoriKeepalive peer) s = .next { s with wire := s.wire ++ [.keepalive peer] }) ∧
    (s.peerWaits peer = false → exec (.flaoriKeepalive peer) s = .next s) := by
  refine ⟨fun h => ?_, fun h => ?_⟩
  all_goals simp [execFlaoriKeepalive, hon, hup, h]

end

/-! ### Links (R354, R433) -/

/-- What the register of a port says of its link and of its role, once both are written (R433). -/
theorem State.mfield_linkRole (s : State) (off : Nat) {link : Nat} (hl : link < 2) (role : Bool) :
    let u := (s.setMfield off 0 1 link).setMfield off 1 1 role.toNat
    u.mfield off 0 1 = link ∧ u.mfield off 1 1 = role.toNat := by
  refine ⟨?_, ?_⟩
  · rw [State.mfield_setMfield_ne _ _ _ (by omega) (by omega), State.mfield_setMfield _ _ _ (by omega)]
    exact Nat.mod_eq_of_lt hl
  · rw [State.mfield_setMfield _ _ _ (by omega)]
    exact Nat.mod_eq_of_lt (Bool.toNat_lt _)

section
variable {s : State} {port : Nat} (hport : port < 16)
include hport

/-- A link that goes down is counted and takes the role of HOSTPORTS (R354). -/
theorem linkDown_role (hlink : s.mfield (portRegs port + 0x18) 0 1 = 1) : ∃ s', exec (.linkDown port) s = .next s' ∧
    s'.mfield (portRegs port + 0x18) 0 1 = 0 ∧ s'.mfield (portRegs port + 0x18) 1 1 = (!(s.hostPort port)).toNat ∧
    s'.mfield (portRegs port + 0x10) 32 32 = Nat.min 0xFFFFFFFF (s.mfield (portRegs port + 0x10) 32 32 + 1) := by
  obtain ⟨hdown, hrole⟩ := (s.countMreg (portRegs port + 0x10) 32).mfield_linkRole (portRegs port + 0x18) Nat.zero_lt_two
    (!(s.hostPort port))
  refine ⟨_, (exec_linkDown port s).trans (congrArg Host.Outcome.next (if_neg ?_)), hdown, hrole, ?_⟩
  · simp [Nat.not_le.2 hport, hlink]
  · rw [State.mfield_setMfield_off _ _ _ _ _ _ (by omega), State.mfield_setMfield_off _ _ _ _ _ _ (by omega),
      State.mfield_countMreg _ _ (by omega)]

/-- A link that firmware does not hold down comes up with the role of HOSTPORTS where its port has power (R354, R367). -/
theorem linkUp_role (hmode : s.byder.mode ≠ .off) (hpower : s.byder.power ≠ .off)
    (hzero : (s.byder.mode = .dawn ∨ s.byder.power = .sleep) → port = 0)
    (hheld : (s.mreg 0x4038).getLsbD (16 + port) = false) : ∃ s', exec (.linkUp port) s = .next s' ∧
    s'.mfield (portRegs port + 0x18) 0 1 = 1 ∧ s'.mfield (portRegs port + 0x18) 1 1 = (!(s.hostPort port)).toNat := by
  refine ⟨_, (exec_linkUp port s).trans (congrArg Host.Outcome.next (if_neg ?_)),
    s.mfield_linkRole (portRegs port + 0x18) Nat.one_lt_two (!(s.hostPort port))⟩
  simpa [Nat.not_le.2 hport, hheld, hmode, hpower] using hzero

/-- A dropped frame is counted by its port and by why it was dropped (R433; log 39). -/
theorem exec_droppedFrame_counts (why : DropWhy) : exec (.droppedFrame port why) s = .next (match why with
    | .fcs => s.countMreg (portRegs port) 0
    | .crc => s.countMreg (portRegs port) 32
    | .protocol => { s with protoDrops := s.protoDrops.set port (nth s.protoDrops port 0 + 1) }) :=
  (exec_droppedFrame port why s).trans (congrArg _ ((if_neg (Nat.not_le.2 hport)).trans (by cases why <;> rfl)))

end

/-- Settles O55: announcements in their order, chunks by how they arrive, a peer's silence, and the links of the ports. -/
theorem messagesAndLinks : Obligations.MessagesAndLinks := by
  refine ⟨fun s msg hon hsrc hup => ⟨exec_flaoriRequest_early, fun hseq => ?_⟩, fun s src tag seq off data x hon hup hx => ?_,
    fun s x offs => s.pullFailed_cases x offs, fun s peer hon hpeer => flaoriSilence hon hpeer,
    fun s peer hon hup => exec_flaoriKeepalive_cases hon hup,
    fun s port hport => ⟨linkDown_role hport, linkUp_role hport, exec_droppedFrame_counts hport .fcs,
      exec_droppedFrame_counts hport .crc, exec_droppedFrame_counts hport .protocol⟩⟩
  · cases hbad : msg.bad with
    | some i =>
      obtain ⟨s', hrun, hnext, htold, hkept⟩ := flaoriRequest_mismatch hon hsrc hup hseq hbad
      exact ⟨s', hrun, hnext, fun j hj => Option.some.inj hj ▸ ⟨htold, hkept⟩, nofun⟩
    | none =>
      obtain ⟨s', ord, pos, hrun, hnext, hhit, hmiss⟩ := flaoriRequest_message hon hsrc hup hseq hbad
      exact ⟨s', hrun, hnext, nofun, fun _ => ⟨ord, pos, fun hit => hhit fun hno => State.clashing_eq_nil.1 hno hit,
        fun hno => hmiss (State.clashing_eq_nil.2 hno)⟩⟩
  · obtain rfl := State.chunkOf_src hx
    obtain ⟨hright, hwrong⟩ := s.chunkIn_cases x off data
    exact ⟨fun hlen h => (exec_flaoriChunk_whole hon hup hx hlen).trans (congrArg _ (hright h)),
      fun hlen h => (exec_flaoriChunk_whole hon hup hx hlen).trans (congrArg _ (hwrong h)),
      exec_flaoriChunk_short hon hup hx, exec_flaoriChunk_bad hon hup hx data, exec_flaoriLostChunk_pulled hon hup hx⟩

end Sys2Proof.Machine

namespace Sys2Proof.Machine
set_option Elab.async false

/-! ### What reset leaves (R268, R367, R370, R420, R425, R427) -/

/-- A register of the management window that nothing has written reads its Reset column. -/
theorem mreg_reset (off : Nat) : State.reset.mreg off = mgmtReset off := rfl

/-- Settles O9: the management registers by their Reset column, the rest as reset lists it. -/
theorem resetStateValues : Obligations.ResetStateValues := by
  have hscrub : ∀ d, d < 4 → mgmtReset (0x3230 + 0x80 * d) = 24 := by decide
  exact ⟨rfl, rfl, rfl, mreg_reset 0x2000, mreg_reset 0x3000, mreg_reset 0x3040,
    fun d hd => (mreg_reset _).trans (hscrub d hd), mreg_reset 0x4038, rfl, rfl, rfl, rfl, rfl, rfl, rfl, rfl⟩

end Sys2Proof.Machine

namespace Sys2Proof.Machine
set_option Elab.async false

/-! ### The passage of a tile (R267, R269, R272) -/

section
variable {s : State}

/-- The loader has read a tile: poisoned source data are reported (R422; log 45). -/
def State.sourceRead (s : State) (src : Nat) : State :=
  if s.loaderPoison src 8704 = true then { s with ring := { s.ring with reports := s.ring.reports + 1 } } else s
theorem State.sourceRead_tasks (s : State) (src : Nat) : (s.sourceRead src).tasks = s.tasks := by
  unfold State.sourceRead; split <;> rfl
theorem State.sourceRead_core (s : State) (src core : Nat) : (s.sourceRead src).core core = s.core core := by
  unfold State.sourceRead; split <;> rfl

/-- A passage that no RBOARD awaits moves the tap alone. -/
theorem State.passTile_unawaited {core : Nat} {ok : Bool} {l : Layer} (hl : s.ring.layers[s.ring.layer]? = some l)
    (hload : s.ring.loaded = true) (hspeed : s.ringSpeed ≠ 3) (hseq : (s.tapOf core).seq < l.dwell)
    (hboard : ∀ t ∈ s.tasks, ∀ o ∈ t.mops, o.board = none) :
    s.passTile core ok = (s.sourceRead (l.src + 8704 * (s.tapOf core).tile)).setCore core
      { s.core core with tap := some ((s.tapOf core).next l) } := by
  have hgo : (!s.ring.loaded || s.ringSpeed == 3 || decide (l.dwell ≤ (s.tapOf core).seq)) = false := by
    simp [hload, hspeed, hseq]
  rw [← s.sourceRead_core (l.src + 8704 * (s.tapOf core).tile)]
  simp only [State.passTile, hl, hgo, Bool.false_eq_true, if_false]
  refine List.foldl_fixed' (fun u => ?_) _
  split
  · rename_i t ht
    have hmem : t ∈ s.tasks := by
      have h := List.mem_of_find?_eq_some ht
      rwa [State.setCore_tasks, ← State.sourceRead, State.sourceRead_tasks] at h
    have hnone : (t.mops.filter fun o => o.board.isSome) = [] :=
      List.filter_eq_nil_iff.2 fun o ho => by simp [hboard t hmem o ho]
    rw [hnone, List.foldl_nil]
  · rfl

theorem exec_tilePassage_open (hm : s.mgmtOpen = true) (core : Nat) (ok : Bool) :
    exec (.tilePassage core ok) s = .next (s.passTile core ok) := by
  rw [exec_tilePassage, execTilePassage, if_pos hm]

/-- A waiting RBOARD captures a good tile of its range that it does not hold yet (R272). -/
theorem State.boardPass_captured {t : Task} {o : AsyncOp} {b : Board} {tile lap : Nat} {bytes : List Byte}
    (ho : o.board = some b) (hfirst : b.first ≤ tile) (hlast : tile - b.first < b.count)
    (hnew : nth b.bitmap (tile - b.first) true = false) (hlap : b.minLap ≤ lap) :
    s.boardPass t o lap b.layer tile true bytes =
      let bits := b.bitmap.set (tile - b.first) true
      let c := s.setCore (s.coreOf t) ((s.core (s.coreOf t)).putTile (b.base + 2 * (tile - b.first)) bytes)
      if bits.all id then c.finishOp t.uid .m o {} else c.setMop t.uid { o with board := some { b with bitmap := bits } } := by
  have hmeets : (b.layer != b.layer || decide (tile < b.first) || decide (b.count ≤ tile - b.first) ||
      decide (lap < b.minLap) || nth b.bitmap (tile - b.first) true) = false := by
    simp [hfirst, hlast, hnew, hlap]
  simp only [State.boardPass, ho, hmeets, Bool.false_eq_true, if_false, if_true]

/-! ### Layer starts and the status record (R268, R271) -/

/-- The status record is bytes of memory. -/
theorem State.ringRecord_only (s : State) : s.OnlyBytes s.ringRecord := by
  unfold State.ringRecord
  dsimp only
  split
  · exact .refl s
  · exact s.engineWrite_only _ _ _

theorem State.startLayer_ring (s : State) (n : Nat) : (s.startLayer n).ring =
    { s.ring with layer := n, lap := if n = 0 then s.ring.lap + 1 else s.ring.lap, starts := s.ring.starts + 1,
                  since := s.seq, snapBad := s.poison } :=
  (State.ringRecord_only _).ring

theorem exec_layerStart_runs (hm : s.mgmtOpen = true) (hload : s.ring.loaded = true) (hspeed : s.ringSpeed ≠ 3)
    (howes : s.ringOwes = false) : exec .layerStart s =
      .next (s.startLayer (if s.ring.layer + 1 < s.ring.layers.length then s.ring.layer + 1 else 0)) := by
  rw [exec_layerStart, execLayerStart, if_pos hm, State.nextLayer, if_neg (by simp [hload, hspeed, howes])]

/-! ### LOAD and the ring control register (R420, R422, R423) -/

/-- The address of the manifest and the count of its entries (R420). -/
def State.manifestBase (s : State) : Nat := s.mfield 0x2010 5 43 * 32
def State.manifestCount (s : State) : Nat := s.mfield 0x2018 0 17

theorem State.loadManifest_refused {r : Nat} (h : s.loadCheck s.manifestBase s.manifestCount = .error r) :
    s.loadManifest = s.setMfield 0x2000 12 4 r := by
  unfold State.manifestBase State.manifestCount at h
  simp only [State.loadManifest, h]

/-- A manifest is installed and started; its RESULT is 0. -/
theorem State.loadManifest_installed {ls : List Layer} (h : s.loadCheck s.manifestBase s.manifestCount = .ok ls) :
    s.loadManifest.ring.layers = ls ∧ s.loadManifest.ring.loaded = true ∧ s.loadManifest.ring.layer = 0 ∧
      s.loadManifest.ring.mgen = s.ring.mgen + 1 ∧ s.loadManifest.ring.lap = s.ring.lap + 1 ∧
      s.loadManifest.mfield 0x2000 12 4 = 0 := by
  unfold State.manifestBase State.manifestCount at h
  simp only [State.loadManifest, h]
  refine ⟨?_, ?_, ?_, ?_, ?_, State.mfield_setMfield _ _ _ (by decide)⟩ <;>
    exact congrArg _ (State.startLayer_ring _ 0)

/-- SPEED and RINGRETRY as a write of the ring control register leaves them, before the status record and LOAD. -/
def State.ringControl (s : State) (v : Nat) : State :=
  let u := s.setMfield 0x2000 0 2 v
  let w := if bitsOf v 4 4 = 0 then u else u.setMfield 0x2000 4 4 (bitsOf v 4 4)
  if bitsOf v 10 1 = 1 then w.setMfield 0x2000 10 1 0 else w
theorem exec_speedWrite_open (hm : s.mgmtOpen = true) (cmd : Dword) : exec (.speedWrite cmd) s =
    .next (if cmd.toNat / 256 % 2 = 1 then (s.wakeIdle.ringControl cmd.toNat).ringRecord.loadManifest
      else (s.wakeIdle.ringControl cmd.toNat).ringRecord) := by
  rw [exec_speedWrite, execSpeedWrite, State.command_open hm]
  rfl
theorem exec_load_open (hm : s.mgmtOpen = true) : exec .load s = .next s.wakeIdle.loadManifest := by
  rw [exec_load, execLoad, State.command_open hm]

theorem State.ringControl_ring (s : State) (v : Nat) : (s.ringControl v).ring = s.ring := by
  unfold State.ringControl
  dsimp only
  split <;> split <;> rfl
theorem State.ringControl_speed (s : State) (v : Nat) : (s.ringControl v).mfield 0x2000 0 2 = v % 4 := by
  have hset := s.mfield_setMfield 0x2000 (lo := 0) (len := 2) v (by decide)
  unfold State.ringControl
  dsimp only
  split <;> split
  all_goals simpa [State.mfield_setMfield_ne] using hset
theorem State.ringControl_retry (s : State) (v : Nat) : (s.ringControl v).mfield 0x2000 4 4 =
    if bitsOf v 4 4 = 0 then s.mfield 0x2000 4 4 else bitsOf v 4 4 := by
  have hv : bitsOf v 4 4 < 16 := bitsOf_lt v 4 4
  unfold State.ringControl
  dsimp only
  split <;> split
  all_goals simp [State.mfield_setMfield_ne, State.mfield_setMfield, Nat.mod_eq_of_lt hv]

/-! ### APPLY (R425, R426) -/

/-- Fields as written take their place among the fields in force; the other registers stay. -/
theorem State.mreg_foldl_inForce (reg o : Nat) {l : List Nat} (hl : ∀ p ∈ l, p < 0x10000) : ∀ s : State,
    (l.foldl (fun (s : State) p => s.setMreg (reg + 0x10000 + p) (s.mreg (reg + p))) s).mreg (reg + 0x10000 + o) =
      if o ∈ l then s.mreg (reg + o) else s.mreg (reg + 0x10000 + o) := by
  induction l with
  | nil => exact fun _ => rfl
  | cons p l ih =>
    intro s
    rw [List.foldl_cons, ih fun q hq => hl q (List.mem_cons_of_mem _ hq)]
    by_cases ho : o ∈ l
    · have := hl o (List.mem_cons_of_mem _ ho)
      rw [if_pos ho, if_pos (List.mem_cons_of_mem _ ho), State.mreg_setMreg_ne _ _ (by omega)]
    · by_cases hp : o = p
      · subst hp
        rw [if_neg ho, if_pos List.mem_cons_self, State.mreg_setMreg_same]
      · rw [if_neg ho, if_neg (by simp [ho, hp]), State.mreg_setMreg_ne _ _ (by omega)]

theorem State.mreg_clearImages (s : State) (moved : BitVec 8) (o : Nat) : (s.clearImages moved).mreg o = s.mreg o := rfl

/-- APPLY puts the fields of its partition in force. -/
theorem State.mreg_applyPart (s : State) (part : Nat) {o : Nat} (ho : o ∈ [0, 0x10, 0x18, 0x20, 0x28, 0x30]) :
    (s.applyPart part).mreg (partRegs part + 0x10000 + o) = s.mreg (partRegs part + o) := by
  have hsmall : ∀ p ∈ [0, 0x10, 0x18, 0x20, 0x28, 0x30], p < 0x10000 := by decide
  have hfold := s.mreg_foldl_inForce (partRegs part) o hsmall
  rw [if_pos ho] at hfold
  unfold State.applyPart State.signPart
  dsimp only
  rw [State.mreg_setMfield_ne _ _ _ _ (by unfold partRegs; omega), State.mreg_setMfield_ne _ _ _ _ (by unfold partRegs; omega),
    State.mreg_clearImages, hfold]

theorem exec_apply_refused (hm : s.mgmtOpen = true) {p : BitVec 3} {r : Nat} (h : s.wakeIdle.applyError p.toNat = some r) :
    exec (.apply p) s = .next (s.wakeIdle.setMfield (partRegs p.toNat + 0x38) 4 4 r) := by
  rw [exec_apply, execApply, State.command_open hm, h]
theorem exec_apply_done (hm : s.mgmtOpen = true) {p : BitVec 3} (h : s.wakeIdle.applyError p.toNat = none) :
    exec (.apply p) s = .next ((s.wakeIdle.applyPart p.toNat).setMfield (partRegs p.toNat + 0x38) 4 4 0) := by
  rw [exec_apply, execApply, State.command_open hm, h]

/-! ### Swaps (R403, R404, R418) -/

theorem exec_swap_open (hm : s.byderOpen = true) (p : BitVec 3) : exec (.swap p) s =
    .next (if s.mfield (0x800 + 0x20 * p.toNat) 1 1 = 1 then s.setMfield (0x800 + 0x20 * p.toNat) 4 4 1
      else if s.dispatching then s.wakeIdle.swap p.toNat else s.setMfield (0x800 + 0x20 * p.toNat) 1 1 1) := by
  simp [execSwap, hm]

end

/-- Settles O58: each command by what it finds; a layer and a manifest start alike, and the status record changes bytes
alone. -/
theorem ringAndPartitionCommands : Obligations.RingAndPartitionCommands := by
  refine ⟨fun s core ok l hm hl hload hspeed hseq hboard => ?_, fun s t o b tile bytes ho hfirst hlast hnew lap hlap => ?_,
    fun s hm hload hspeed howes => ?_, fun s hm => ⟨fun r hr => ?_, fun ls hls => ?_⟩, fun s cmd hm => ?_,
    fun s p hm => ⟨fun r hr => ?_, fun hnone => ?_⟩, fun s p hm => ⟨fun hbusy => ?_, fun hidle => ?_⟩⟩
  · exact (exec_tilePassage_open hm core ok).trans
      (congrArg Host.Outcome.next (State.passTile_unawaited hl hload hspeed hseq hboard))
  · exact State.boardPass_captured ho hfirst hlast hnew hlap
  · refine ⟨_, exec_layerStart_runs hm hload hspeed howes, ?_⟩
    rw [State.startLayer_ring]
    exact ⟨rfl, rfl, rfl⟩
  · exact (exec_load_open hm).trans (congrArg Host.Outcome.next (State.loadManifest_refused hr))
  · have hdone := State.loadManifest_installed hls
    rw [State.wakeIdle_ring] at hdone
    exact ⟨_, exec_load_open hm, hdone⟩
  · have hrec := (s.wakeIdle.ringControl cmd.toNat).ringRecord_only
    refine ⟨_, ?_, ?_, ?_, exec_speedWrite_open hm cmd⟩
    · rw [hrec.mfield, State.ringControl_speed]
    · rw [hrec.ring, State.ringControl_ring, State.wakeIdle_ring]
    · rw [hrec.mfield, State.ringControl_retry, State.wakeIdle_mfield]
      rfl
  · exact exec_apply_refused hm hr
  · refine ⟨_, exec_apply_done hm hnone, State.mfield_setMfield _ _ _ (by decide), fun o ho => ?_⟩
    have hforce := s.wakeIdle.mreg_applyPart p.toNat ho
    rw [State.wakeIdle_mreg] at hforce
    rw [State.mreg_setMfield_ne _ _ _ _ (by unfold partRegs; omega)]
    exact hforce
  · exact (exec_swap_open hm p).trans (congrArg Host.Outcome.next (if_pos hbusy))
  · exact (exec_swap_open hm p).trans (congrArg Host.Outcome.next (if_neg (by omega)))

end Sys2Proof.Machine

namespace Sys2Proof.Machine
set_option Elab.async false

/-! ### Fields of a written double word -/

theorem bitsOf_low (v n : Nat) : bitsOf v 0 n = v % 2 ^ n := by rw [bitsOf, Nat.pow_zero, Nat.div_one]
theorem bitsOf_high (v : Dword) : bitsOf v.toNat 32 32 = v.toNat / 2 ^ 32 :=
  Nat.mod_eq_of_lt (Nat.div_lt_of_lt_mul v.isLt)

/-! ### Bytes that move between a frame and the SSDs (R383, R385) -/

/-- What a memory reads as where only the entries at some addresses are left. -/
theorem Memory.read_filter (P : Nat → Bool) (x : Nat) : ∀ {m : Memory} {lo : Nat}, m.wfFrom lo = true →
    Memory.read (m.filter fun q => P q.1) x = if P x = true then m.read x else 0
  | [], _, _ => by simp [Memory.read]
  | (k, v) :: r, _, w => by
    obtain ⟨-, -, hr⟩ := Memory.wfFrom_cons.1 w
    have ih := Memory.read_filter P x hr
    rw [List.filter_cons]
    by_cases hP : P k = true
    · rw [if_pos hP]
      simp only [Memory.read, ih]
      split
      · next e => rw [if_pos (e ▸ hP)]
      · split <;> simp
    · rw [if_neg hP, ih]
      split
      · next hx =>
        have hk : k ≠ x := fun e => hP (e ▸ hx)
        simp only [Memory.read, if_neg hk]
        split
        · exact Memory.read_below (by omega) hr
        · rfl
      · rfl

/-- What is written last over a memory when the entries of another move from `a` upward to `b` upward. -/
theorem Memory.read_foldl_moved (a b x : Nat) : ∀ {l m : Memory} {lo : Nat}, l.wfFrom lo = true →
    (∀ p ∈ l, a ≤ p.1) → m.wf = true →
    Memory.read (l.foldl (fun (m : Memory) p => Memory.write m (b + (p.1 - a)) p.2) m) x =
      if b ≤ x ∧ l.read (a + (x - b)) ≠ 0 then l.read (a + (x - b)) else m.read x
  | [], _, _, _, _, _ => by simp [Memory.read]
  | (k, v) :: r, m, _, w, ha, hm => by
    obtain ⟨-, hv, hr⟩ := Memory.wfFrom_cons.1 w
    have hk : a ≤ k := ha _ List.mem_cons_self
    rw [List.foldl_cons, Memory.read_foldl_moved a b x hr (fun p hp => ha p (List.mem_cons_of_mem _ hp))
      (Memory.wf_write hm _ _), Memory.read_write (m := m) hm]
    have hcons : Memory.read ((k, v) :: r) (a + (x - b)) =
        if k = a + (x - b) then v else if a + (x - b) < k then 0 else Memory.read r (a + (x - b)) := rfl
    simp only [hcons]
    by_cases hx : x = b + (k - a)
    · have hkx : k = a + (x - b) := by omega
      have hbelow : Memory.read r (a + (x - b)) = 0 := Memory.read_below (hkx ▸ Nat.lt_succ_self k) hr
      rw [if_pos hx, hbelow, if_pos hkx, if_neg (by simp), if_pos ⟨by omega, hv⟩]
    · rw [if_neg hx]
      by_cases hb : b ≤ x
      · simp only [show ¬ k = a + (x - b) by omega, if_false]
        by_cases hlt : a + (x - b) < k
        · have hbelow : Memory.read r (a + (x - b)) = 0 := Memory.read_below (Nat.lt_succ_of_lt hlt) hr
          simp [hlt, hbelow]
        · simp only [hlt, if_false]
      · simp [hb]

/-- A range that moves reads as its source; the rest of the memory stays. -/
theorem read_moveBytes {src dst : Memory} (hs : src.wf = true) (hd : dst.wf = true) (a n b x : Nat) :
    (moveBytes src a n dst b).read x = if b ≤ x ∧ x < b + n then src.read (a + (x - b)) else dst.read x := by
  have hsrc := Memory.read_filter (fun k => decide (a ≤ k) && decide (k < a + n)) (a + (x - b)) hs
  have hdst := Memory.read_filter (fun k => decide (k < b) || decide (b + n ≤ k)) x hd
  have habove : ∀ p ∈ src.filter (fun p => decide (a ≤ p.1) && decide (p.1 < a + n)), a ≤ p.1 := fun p hp => by
    simp only [List.mem_filter, Bool.and_eq_true, decide_eq_true_eq] at hp
    obtain ⟨-, hle, -⟩ := hp
    exact hle
  rw [moveBytes, Memory.read_foldl_moved a b x (Memory.wf_filter hs _) habove (Memory.wf_filter hd _), hsrc, hdst]
  simp only [Bool.and_eq_true, Bool.or_eq_true, decide_eq_true_eq]
  by_cases hb : b ≤ x
  · by_cases hn : x < b + n
    · rw [if_pos (show a ≤ a + (x - b) ∧ a + (x - b) < a + n by omega), if_pos (And.intro hb hn),
        if_neg (show ¬ (x < b ∨ b + n ≤ x) by omega)]
      split
      · rfl
      · next h => exact (not_not.1 fun hne => h ⟨hb, hne⟩).symm
    · rw [if_neg (show ¬ (a ≤ a + (x - b) ∧ a + (x - b) < a + n) by omega), if_neg (by simp), if_pos (by omega),
        if_neg (by omega)]
  · rw [if_neg (by simp [hb]), if_pos (by omega), if_neg (by omega)]

end Sys2Proof.Machine

namespace Sys2Proof.Machine
set_option Elab.async false

section
variable {s : State}

/-! ### The end of a page read (R280, R385) -/

theorem State.swapEntry_held {pte old new : Nat} (h : s.mem.field pte 8 = old) :
    s.swapEntry pte old new = (s.engineWrite pte 8 new, true) := if_pos h
theorem State.swapEntry_changed {pte old new : Nat} (h : s.mem.field pte 8 ≠ old) : s.swapEntry pte old new = (s, false) :=
  if_neg h

/-- A read is no longer outstanding. -/
def State.dropRead (s : State) (r : SsdRead) : State := { s with reads := s.reads.filter fun x => x.id != r.id }
/-- The page of a read stands in its frame, whose record says so. -/
def State.pageFilled (s : State) (r : SsdRead) (i : Nat) : State :=
  (s.fillFrame (s.frameAddr r.part i) r.entry).setFrame r.part i 2 0 r.pte r.entry
/-- The failure of a read is reported. -/
def State.readFailed (s : State) (r : SsdRead) (res : ReadResult) : State :=
  s.failRead r.part r.pte r.entry r.va r.launch r.core (readSub res)

section
variable {r : SsdRead} {i : Nat}

/-- A page that checks fills its frame, and its entry becomes resident unless the driver has changed it. -/
theorem State.endRead_ok (hg : (s.dropRead r).guardOk r.entry = true) :
    s.endRead r i .ok = (((s.dropRead r).pageFilled r i).swapEntry r.pte (r.entry + 32)
      (residentEntry r.entry ((s.dropRead r).frameAddr r.part i))).1.wakePage r.pte none := by
  unfold State.endRead
  dsimp only
  rw [← State.dropRead.eq_def, if_pos hg]
  rfl
theorem State.endRead_installed (hg : (s.dropRead r).guardOk r.entry = true)
    (h : ((s.dropRead r).pageFilled r i).mem.field r.pte 8 = r.entry + 32) :
    s.endRead r i .ok = (((s.dropRead r).pageFilled r i).engineWrite r.pte 8
      (residentEntry r.entry ((s.dropRead r).frameAddr r.part i))).wakePage r.pte none := by
  rw [State.endRead_ok hg, State.swapEntry_held h]
theorem State.endRead_changed (hg : (s.dropRead r).guardOk r.entry = true)
    (h : ((s.dropRead r).pageFilled r i).mem.field r.pte 8 ≠ r.entry + 32) :
    s.endRead r i .ok = ((s.dropRead r).pageFilled r i).wakePage r.pte none := by
  rw [State.endRead_ok hg, State.swapEntry_changed h]
theorem State.endRead_unguarded (hg : (s.dropRead r).guardOk r.entry = false) : s.endRead r i .ok = s.endRead r i .guard := by
  unfold State.endRead
  dsimp only
  rw [← State.dropRead.eq_def, if_neg (Bool.eq_false_iff.1 hg)]
theorem State.endRead_restored {res : ReadResult} (hres : res ≠ .ok) (h : (s.dropRead r).mem.field r.pte 8 = r.entry + 32) :
    s.endRead r i res = (((s.dropRead r).engineWrite r.pte 8 r.entry).dropFrame r.part i).readFailed r res := by
  unfold State.endRead
  dsimp only
  rw [← State.dropRead.eq_def]
  cases res with
  | ok => exact absurd rfl hres
  | _ => rw [State.swapEntry_held h]; rfl
theorem State.endRead_kept {res : ReadResult} (hres : res ≠ .ok) (h : (s.dropRead r).mem.field r.pte 8 ≠ r.entry + 32) :
    s.endRead r i res = (s.dropRead r).readFailed r res := by
  unfold State.endRead
  dsimp only
  rw [← State.dropRead.eq_def]
  cases res with
  | ok => exact absurd rfl hres
  | _ => rw [State.swapEntry_changed h]; rfl

variable {id : Nat} (hr : (s.reads.find? fun x => x.id == id) = some r) (hf : r.frame = some i)
include hr hf

theorem State.readDone_found (res : ReadResult) : s.readDone id res = s.endRead r i res := by
  simp only [State.readDone, hr, hf]
theorem exec_pageReadDone_found (hm : s.mgmtOpen = true) (res : ReadResult) :
    exec (.pageReadDone id res) s = .next (s.endRead r i res) := by
  rw [exec_pageReadDone, execPageReadDone, if_pos hm, State.readDone_found hr hf]

end

/-! ### Commands that time out (R382; log 44) -/

/-- An Abort is sent to an SSD (R382; log 77). -/
def State.abortSent (s : State) (n : Nat) : State := { s with wire := s.wire ++ [.ssdAdmin n 8 1] }

/-- What is found first by one test is found first by that test and another that it passes. -/
theorem find?_and {α : Type} {p q : α → Bool} {x : α} {l : List α} (h : l.find? p = some x) (hq : q x = true) :
    l.find? (fun y => p y && q y) = some x := by
  rw [List.find?_eq_some_iff_append] at h ⊢
  obtain ⟨hp, as, bs, hl, has⟩ := h
  exact ⟨by simp [hp, hq], as, bs, hl, fun y hy => by
    have hpy := has y hy
    simp only [Bool.not_eq_true'] at hpy ⊢
    rw [hpy, Bool.false_and]⟩

theorem reads_find?_none {id : Nat} (hn : ∀ r ∈ s.reads, r.id ≠ id) :
    (s.reads.find? fun r => r.id == id && r.frame.isSome) = none :=
  List.find?_eq_none.2 fun r hr => by simp [hn r hr]

section
variable {id : Nat} (hm : s.mgmtOpen = true)
include hm

theorem exec_nvmeCommandTimeout_read {r : SsdRead} {i : Nat} (hr : (s.reads.find? fun x => x.id == id) = some r)
    (hf : r.frame = some i) :
    exec (.nvmeCommandTimeout id) s = .next ((s.abortSent (entrySsd r.entry)).readDone id .nodev) := by
  have hr' := find?_and (q := fun x : SsdRead => x.frame.isSome) hr (by simp [hf])
  simp only [exec_nvmeCommandTimeout, execNvmeCommandTimeout, hm, hr', Bool.not_true, Bool.false_eq_true, if_false]
  rfl

variable (hn : ∀ r ∈ s.reads, r.id ≠ id)
include hn

theorem exec_nvmeCommandTimeout_writeBack {r : Reclaim} (hr : (s.reclaims.find? fun x => x.id == id) = some r)
    (hw : r.writing = true) :
    exec (.nvmeCommandTimeout id) s = .next ((s.abortSent (entrySsd r.entry)).reclaimFailed r 3) := by
  simp only [exec_nvmeCommandTimeout, execNvmeCommandTimeout, hm, reads_find?_none hn, find?_and (q := Reclaim.writing) hr hw,
    Bool.not_true, Bool.false_eq_true, if_false]
  rfl

theorem exec_nvmeCommandTimeout_admin (hnr : ∀ r ∈ s.reclaims, r.id ≠ id) {n : Nat} (ha : (n, id) ∈ s.admins)
    (hu : ∀ m, (m, id) ∈ s.admins → m = n) :
    exec (.nvmeCommandTimeout id) s = .next ((s.abortSent n).adminLost n) := by
  have hclaims : (s.reclaims.find? fun r => r.id == id && r.writing) = none :=
    List.find?_eq_none.2 fun r hr => by simp [hnr r hr]
  have hadmin : s.admins.find? (fun x => x.2 == id) = some (n, id) := by
    obtain ⟨⟨m, j⟩, hx⟩ := Option.isSome_iff_exists.1 (List.find?_isSome.2 ⟨(n, id), ha, by simp⟩ :
      (s.admins.find? fun x => x.2 == id).isSome = true)
    obtain rfl : j = id := by simpa using List.find?_some hx
    rw [hx, hu m (List.mem_of_find?_eq_some hx)]
  simp only [exec_nvmeCommandTimeout, execNvmeCommandTimeout, hm, reads_find?_none hn, hclaims, hadmin, Bool.not_true,
    Bool.false_eq_true, if_false]
  rfl

end

theorem State.adminLost_idle (s : State) (n : Nat) : (s.adminLost n).mfield (0x1000 + 0x100 * n + 0x90) 0 1 = 0 :=
  State.mfield_setMfield _ _ _ (by decide)

/-! ### EVICT (R386) -/

/-- The frame that a write of EVICT names. -/
def framePa (frame : Nat) : Nat := frame / 65536 % 2 ^ 32 * 65536
/-- EVICT holds the frame that was written. -/
def State.evictNamed (s : State) (part frame : Nat) : State := s.setMreg (0x428 + 0x40 * part) (BitVec.ofNat 64 (framePa frame))

theorem exec_evict_open (hm : s.mgmtOpen = true) (p : BitVec 3) (a : Dword) :
    exec (.evict p a) s = .next (s.wakeIdle.startReclaim p.toNat a.toNat) := by
  rw [exec_evict, execEvict, State.command_open hm]

section
variable {part frame : Nat}

theorem State.startReclaim_lost (h : ∃ r ∈ s.reclaims, r.part = part) :
    s.startReclaim part frame = (s.evictNamed part frame).setMfield (0x430 + 0x40 * part) 1 1 1 :=
  if_pos (List.any_eq_true.2 (h.imp fun r hr => ⟨hr.1, by simpa using hr.2⟩))

variable (h : ∀ r ∈ s.reclaims, r.part ≠ part)
include h

theorem reclaims_any_false : ((s.evictNamed part frame).reclaims.any fun r => r.part == part) = false :=
  List.any_eq_false.2 fun r hr => by simpa using h r hr

theorem State.startReclaim_elsewhere (hf : ∀ i, (s.evictNamed part frame).frameOf (framePa frame) ≠ some (part, i)) :
    s.startReclaim part frame = (s.evictNamed part frame).evictResult part 2 := by
  have hb := reclaims_any_false h (frame := frame)
  unfold State.evictNamed framePa at *
  simp only [State.startReclaim, hb, Bool.false_eq_true, if_false]
  split
  · next p i hp =>
    have hp' : p ≠ part := by
      rintro rfl
      exact hf i hp
    exact if_pos (bne_iff_ne.2 hp')
  · rfl

variable {i : Nat} (hi : (s.evictNamed part frame).frameOf (framePa frame) = some (part, i))
include hi

theorem State.startReclaim_notResident (hst : (s.evictNamed part frame).frameState part i ≠ 2) :
    s.startReclaim part frame = (s.evictNamed part frame).evictResult part 1 := by
  have hb := reclaims_any_false h (frame := frame)
  have hst' : ((s.evictNamed part frame).frameState part i != 2) = true := by simpa using hst
  unfold State.evictNamed framePa at *
  simp only [State.startReclaim, hb, hi, hst', bne_self_eq_false, Bool.false_eq_true, if_false, if_true]

/-- An entry that no longer makes the frame resident (log 78). -/
theorem State.startReclaim_changed (hst : (s.evictNamed part frame).frameState part i = 2)
    (hpte : (s.evictNamed part frame).mem.field
        ((s.evictNamed part frame).mem.field ((s.evictNamed part frame).frameRec part i + 8) 8) 8 ≠
      residentEntry ((s.evictNamed part frame).mem.field ((s.evictNamed part frame).frameRec part i + 16) 8) (framePa frame)) :
    s.startReclaim part frame = (s.evictNamed part frame).evictResult part 1 := by
  have hb := reclaims_any_false h (frame := frame)
  unfold State.evictNamed framePa at *
  simp only [State.startReclaim, hb, hi, hst, State.swapEntry_changed hpte, bne_self_eq_false, Bool.false_eq_true,
    if_false]

end

/-! ### Write-backs (R386) -/

section
variable {p : BitVec 3} {r : Reclaim} (hm : s.mgmtOpen = true)
  (hr : (s.reclaims.find? fun r => r.part == p.toNat) = some r)
include hm hr

theorem exec_writeBackDone_ended (hw : r.writing = true) :
    exec (.writeBackDone p .media) s = .next (s.reclaimFailed r 1) ∧
    exec (.writeBackDone p .nodev) s = .next (s.reclaimFailed r 3) ∧
    exec (.writeBackDone p .ok) s = .next ((s.ssdWrite r.entry (s.frameAddr r.part r.frame)).reclaimDone r) := by
  simp [execWriteBackDone, hr, hm, hw]
theorem exec_writeBackDone_goesOn (hw : r.writing = false) (res : WriteResult) :
    exec (.writeBackDone p res) s = .next (s.advanceReclaim r) := by
  simp [execWriteBackDone, hr, hm, hw]

end

section
variable {r : Reclaim} (hw : r.writing = false) (hst : s.storesInto (s.frameAddr r.part r.frame) = false)
  (hop : s.opsOver r = false)
include hw hst hop

/-- What a reclaim that nothing holds up does, by the flags of its frame (R386 steps 3 to 5). -/
theorem State.advanceReclaim_unheld {flags : Nat} (hfl : flags = (s.mem.read (s.frameRec r.part r.frame + 1)).toNat) :
    (flags / 2 % 2 = 1 → s.advanceReclaim r = s.reclaimFailed r 5) ∧
    (flags % 4 = 1 → s.bound r.part r.entry = false → s.advanceReclaim r = s.reclaimFailed r 4) ∧
    (flags % 4 = 1 → s.bound r.part r.entry = true → s.ssdUp (entrySsd r.entry) = false →
      s.advanceReclaim r = s.reclaimFailed r 3) ∧
    (flags % 4 = 0 → s.advanceReclaim r = s.reclaimDone r) := by
  have hheld : (r.writing || s.storesInto (s.frameAddr r.part r.frame) || s.opsOver r) = false := by simp [hw, hst, hop]
  simp only [State.advanceReclaim, hheld, Bool.false_eq_true, if_false, ← hfl]
  refine ⟨fun h => if_pos h, fun h hb => ?_, fun h hb hu => ?_, fun h => ?_⟩
  · rw [if_neg (by omega), if_pos (by omega), hb]
    rfl
  · rw [if_neg (by omega), if_pos (by omega), hb, hu]
    rfl
  · rw [if_neg (by omega), if_neg (by omega)]

end

/-! ### TLBICMD (R379, R380) -/

/-- An empty range invalidates nothing. -/
theorem State.tlbi_eq (s : State) (part lo hi : Nat) : s.tlbi part lo hi = if hi ≤ lo then s else s.tlbi part lo hi := by
  split
  · next h => exact if_pos h
  · rfl

theorem State.tlbiCmd_lost (h : s.mfield 0x118 0 1 = 1) (cmd : Dword) (f : State → Nat → State) :
    s.tlbiCmd cmd f = s.setMfield 0x118 1 1 1 := if_pos h
theorem State.tlbiCmd_acts (h : s.mfield 0x118 0 1 = 0) (cmd : Dword) (f : State → Nat → State) :
    s.tlbiCmd cmd f = f (s.setMfield 0x100 0 4 cmd.toNat) (cmd.toNat % 8) := by
  rw [State.tlbiCmd, if_neg (by omega), bitsOf_low]
  rfl

/-- A command that invalidates from `lo` to `hi`, by whether another is BUSY. -/
theorem exec_tlbicmd_cases {i : Instr} {cmd : Dword} {f : State → Nat → State} {c : State} {lo hi : Nat}
    (hexec : exec i s = .next (s.wakeIdle.tlbiCmd cmd f)) (hc : c = s.wakeIdle.setMfield 0x100 0 4 cmd.toNat)
    (hf : f c (cmd.toNat % 8) = c.tlbi (cmd.toNat % 8) lo hi) :
    (s.mfield 0x118 0 1 = 1 → exec i s = .next (s.wakeIdle.setMfield 0x118 1 1 1)) ∧
    (s.mfield 0x118 0 1 = 0 → exec i s = .next (if hi ≤ lo then c else c.tlbi (cmd.toNat % 8) lo hi)) := by
  refine ⟨fun hb => hexec.trans (congrArg _ (State.tlbiCmd_lost (by simpa using hb) _ _)), fun hb => ?_⟩
  rw [hexec, State.tlbiCmd_acts (by simpa using hb), ← hc, hf, ← State.tlbi_eq]

section
variable (hm : s.mgmtOpen = true) {cmd : Dword}
include hm

theorem exec_tlbicmdRange_open (h : cmd.toNat / 8 % 2 = 1) : exec (.tlbicmdRange cmd) s =
    .next (s.wakeIdle.tlbiCmd cmd fun s p =>
      s.tlbi p (s.mfield 0x108 12 45 * 4096) (s.mfield 0x108 12 45 * 4096 + 4096 * s.mfield 0x110 0 32)) := by
  rw [exec_tlbicmdRange, execTlbicmdRange, State.command_open hm, if_pos (show bitsOf cmd.toNat 3 1 = 1 from h)]
theorem exec_tlbicmdPartition_open (h : cmd.toNat / 8 % 2 ≠ 1) : exec (.tlbicmdPartition cmd) s =
    .next (s.wakeIdle.tlbiCmd cmd fun s p => s.tlbi p 0 (2 ^ 64)) := by
  rw [exec_tlbicmdPartition, execTlbicmdPartition, State.command_open hm,
    if_pos (show bitsOf cmd.toNat 3 1 = 0 from Nat.mod_two_ne_one.1 h)]

end

/-! ### Admin commands (R380, R382) -/

theorem queueOpcode_iff (op : Nat) : queueOpcode op = true ↔ op ∈ [0, 1, 4, 5] := by simp [queueOpcode, or_assoc]

theorem State.wakeIdle_physBytes (s : State) (pa n : Nat) : s.wakeIdle.physBytes pa n = s.physBytes pa n := by
  unfold State.wakeIdle
  split <;> rfl

/-- The address of the command that a write of ADMADDR names. -/
def admPa (addr : Dword) : Nat := addr.toNat / 64 % 2 ^ 42 * 64
/-- ADMADDR holds the address that was written. -/
def State.admNamed (s : State) (n : BitVec 3) (addr : Dword) : State :=
  s.setMreg (0x1000 + 0x100 * n.toNat + 0x88) (BitVec.ofNat 64 (admPa addr))

/-- The command has gone to its SSD and is outstanding. -/
def State.adminSent (s : State) (n : BitVec 3) (addr : Dword) : State :=
  let c := (s.admNamed n addr).setMfield (0x1000 + 0x100 * n.toNat + 0x90) 0 1 1
  { c with admins := (n.toNat, s.uid) :: s.admins, uid := s.uid + 1,
           wire := s.wire ++ [.adminCmd n.toNat (s.physBytes (admPa addr) 64)] }
theorem State.adminSent_busy (s : State) (n : BitVec 3) (addr : Dword) :
    (s.adminSent n addr).mfield (0x1000 + 0x100 * n.toNat + 0x90) 0 1 = 1 :=
  (s.admNamed n addr).mfield_setMfield _ _ (by decide)

section
variable {n : BitVec 3} {addr : Dword}

theorem exec_admaddr_open (hm : s.mgmtOpen = true) : exec (.admaddr n addr) s = .next (s.wakeIdle.admin n addr) := by
  rw [exec_admaddr, execAdmaddr, State.command_open hm]
theorem State.admin_lost (h : s.mfield (0x1000 + 0x100 * n.toNat + 0x90) 0 1 = 1) :
    s.admin n addr = s.setMfield (0x1000 + 0x100 * n.toNat + 0x90) 1 1 1 := if_pos h

variable (h : s.mfield (0x1000 + 0x100 * n.toNat + 0x90) 0 1 = 0)
include h

/-- The engine answers queue creation and deletion itself (R382; log 41). -/
theorem State.admin_answered (hop : queueOpcode (fieldOf (s.physBytes (admPa addr) 64) 0 1) = true) :
    s.admin n addr = (s.admNamed n addr).engineWrite (admPa addr + 64) 16
      ((fieldOf (s.physBytes (admPa addr) 64) 2 2 + 2 ^ 17) * 2 ^ 96) :=
  (if_neg (by unfold ssdCtl; omega)).trans (if_pos hop)
theorem State.admin_sent (hop : queueOpcode (fieldOf (s.physBytes (admPa addr) 64) 0 1) = false) :
    s.admin n addr = s.adminSent n addr :=
  (if_neg (by unfold ssdCtl; omega)).trans (if_neg fun e => Bool.noConfusion (hop.symm.trans e))

end

theorem State.OnlyBytes.admins {u : State} (h : s.OnlyBytes u) : u.admins = s.admins := by
  obtain ⟨⟨_, _, _, _, rfl⟩, -⟩ := h
  rfl
theorem exec_adminCompletion_outstanding (hm : s.mgmtOpen = true) {n : BitVec 3} {id : Nat} (ha : (n.toNat, id) ∈ s.admins)
    (entry : List Byte) : ∃ s', exec (.adminCompletion n entry) s = .next s' ∧
      s'.mfield (0x1000 + 0x100 * n.toNat + 0x90) 0 1 = 0 ∧ ∀ x ∈ s'.admins, x.1 ≠ n.toNat := by
  have hany : s.admins.any (fun x => x.1 == n.toNat) = true := List.any_eq_true.2 ⟨_, ha, by simp⟩
  refine ⟨_, (exec_adminCompletion n entry s).trans (congrArg Host.Outcome.next (if_pos (by simp [hm, hany]))),
    State.mfield_setMfield _ _ _ (by decide), ?_⟩
  have hadmins := (State.engineWrite_only ({ s with admins := s.admins.filter fun x => x.1 != n.toNat } : State)
    ((s.mreg (ssdCtl n + 0x88)).toNat + 64) 16 (leNat (entry.take 16))).admins
  exact fun x hx => by simpa using (List.mem_filter.1 (Eq.mp (congrArg (x ∈ ·) hadmins) hx)).2

/-! ### SSDs that come and go (R380, R382, R433) -/

theorem State.mgmtOpen_power (h : s.mgmtOpen = true) :
    s.byder.mode = .normal ∧ s.byder.power ≠ .off ∧ s.byder.power ≠ .sleep := by
  simp only [State.mgmtOpen, Bool.and_eq_true, beq_iff_eq, bne_iff_ne] at h
  obtain ⟨⟨⟨hmode, -⟩, hoff⟩, hsleep⟩ := h
  exact ⟨hmode, hoff, hsleep⟩

/-- The queues of an SSD that is ready are deleted (R382; log 77). -/
def State.queuesDeleted (s : State) (n : Nat) : State :=
  if s.ssdUp n then { s with wire := s.wire ++ [.ssdAdmin n 0 64, .ssdAdmin n 4 64] } else s
theorem exec_ssdReset_open (hm : s.mgmtOpen = true) (n : BitVec 3) : exec (.ssdReset n) s =
    .next (((s.wakeIdle.queuesDeleted n.toNat).setMfield (ssdCtl n) 0 3 0).ssdLost n.toNat) := by
  rw [exec_ssdReset, execSsdReset, State.command_open hm]
  rfl

theorem exec_ssdReady_open (hm : s.mgmtOpen = true) (n : BitVec 3) :
    exec (.ssdReady n) s = .next ((s.ssdStart n.toNat).setMfield (ssdCtl n) 0 2 3) := by
  obtain ⟨hmode, hoff, hsleep⟩ := State.mgmtOpen_power hm
  simp [execSsdReady, hmode, hoff, hsleep]
theorem State.ssdUp_set (s : State) (n : BitVec 3) : (s.setMfield (ssdCtl n) 0 2 3).ssdUp n.toNat = true := by
  simp only [State.ssdUp, ssdCtl, State.mfield_setMfield _ _ _ (show 0 + 2 ≤ 64 by decide)]
  rfl

/-- Get Log Page is sent to an SSD (R433; log 77). -/
def State.healthPolled (s : State) (n : BitVec 3) : State := { s with wire := s.wire ++ [.ssdAdmin n.toNat 2 1] }

theorem exec_healthPoll_ready {n : BitVec 3} (hm : s.mgmtOpen = true) (hu : s.ssdUp n.toNat = true) :
    (∀ v, exec (.healthPoll n (some v)) s = .next ((s.healthPolled n).setMreg (ssdCtl n + 0xA0)
      (BitVec.ofNat 64 (v.toNat % 2 ^ 16 + v.toNat / 2 ^ 32 * 2 ^ 32)))) ∧
    exec (.healthPoll n none) s = .next (s.healthPolled n) := by
  have hgo : (s.mgmtOpen && s.ssdUp n.toNat) = true := by simp [hm, hu]
  have hgo' : ((s.healthPolled n).mgmtOpen && (s.healthPolled n).ssdUp n.toNat) = true := hgo
  unfold State.healthPolled at *
  simp only [exec_healthPoll, execHealthPoll, hgo, hgo', if_true, bitsOf_low, bitsOf_high, implies_true, and_self]
theorem exec_healthPoll_away {n : BitVec 3} (h : s.mgmtOpen = false ∨ s.ssdUp n.toNat = false) (log : Option Dword) :
    exec (.healthPoll n log) s = .next s := by
  have hgo : (s.mgmtOpen && s.ssdUp n.toNat) = false := Bool.and_eq_false_iff.2 h
  simp only [exec_healthPoll, execHealthPoll, hgo, Bool.false_eq_true, if_false]
  cases log <;> rfl

end

/-- Settles O56: each event by what it finds outstanding; what a frame is filled with, by the entries that move. -/
theorem storageEventsComplete : Obligations.StorageEventsComplete := by
  refine ⟨fun s id r i hm hr hf => ?_, fun s id hm => ?_, fun s pa e hs hd x => read_moveBytes hd hs _ _ _ x, fun s p a hm => ?_,
    fun s p r hm hr hw => ?_, fun s p r hm hr hw hst hop => ?_, fun s cmd hm => ?_, fun s n a hm => ?_,
    fun s n entry id hm ha => exec_adminCompletion_outstanding hm ha entry, fun s n hm => exec_ssdReset_open hm n, fun s n v => ?_⟩
  · have hdone := exec_pageReadDone_found hr hf hm
    refine ⟨fun hg => ⟨fun h => ?_, fun h => ?_⟩, fun hg => ?_, fun res hres => ?_⟩
    · exact (hdone .ok).trans (congrArg _ (State.endRead_installed hg h))
    · exact (hdone .ok).trans (congrArg _ (State.endRead_changed hg h))
    · rw [hdone, hdone, State.endRead_unguarded hg]
    · have hres : res ≠ .ok := fun e => by simp [e] at hres
      exact ⟨fun h => (hdone res).trans (congrArg _ (State.endRead_restored hres h)),
        fun h => (hdone res).trans (congrArg _ (State.endRead_kept hres h))⟩
  · refine ⟨fun r i => exec_nvmeCommandTimeout_read hm, fun hn => ⟨fun r => exec_nvmeCommandTimeout_writeBack hm hn,
      fun hnr n ha hu => ⟨_, exec_nvmeCommandTimeout_admin hm hn hnr ha hu, State.adminLost_idle _ n, rfl⟩⟩⟩
  · have hexec := exec_evict_open hm p a
    have hcl := s.wakeIdle_reclaims
    refine ⟨fun h => ?_, fun h => ⟨fun hf => ?_, fun i hi hst => ?_, fun i hi hst => ⟨fun hpte => ?_, fun _ => hexec⟩⟩⟩
    · exact hexec.trans (congrArg _ (State.startReclaim_lost (hcl ▸ h)))
    · exact hexec.trans (congrArg _ (State.startReclaim_elsewhere (hcl ▸ h) hf))
    · exact hexec.trans (congrArg _ (State.startReclaim_notResident (hcl ▸ h) hi hst))
    · exact hexec.trans (congrArg _ (State.startReclaim_changed (hcl ▸ h) hi hst hpte))
  · obtain ⟨hmedia, hnodev, hok⟩ := exec_writeBackDone_ended hm hr hw
    exact ⟨hmedia, hnodev, rfl, hok⟩
  · intro flags next res
    obtain ⟨hpoison, hunbound, haway, hclean⟩ := State.advanceReclaim_unheld hw hst hop rfl
    have hnext : next res = .next (s.advanceReclaim r) := exec_writeBackDone_goesOn hm hr hw res
    rw [hnext]
    exact ⟨fun h => congrArg _ (hpoison h), fun h hb => congrArg _ (hunbound h hb), fun h hb hu => congrArg _ (haway h hb hu),
      fun h => congrArg _ (hclean h)⟩
  · intro range i c lo hi
    by_cases h : range
    · have hlo : lo = c.mfield 0x108 12 45 * 4096 := if_pos h
      have hhi : hi = lo + 4096 * c.mfield 0x110 0 32 := if_pos h
      exact exec_tlbicmd_cases ((congrArg (exec · s) (if_pos h)).trans (exec_tlbicmdRange_open hm h)) rfl (by rw [hhi, hlo])
    · have hlo : lo = 0 := if_neg h
      have hhi : hi = 2 ^ 64 := if_neg h
      exact exec_tlbicmd_cases ((congrArg (exec · s) (if_neg h)).trans (exec_tlbicmdPartition_open hm h)) rfl (by rw [hhi, hlo])
  · have hexec := exec_admaddr_open (n := n) (addr := a) hm
    refine ⟨fun hb => hexec.trans (congrArg _ (State.admin_lost (by simpa using hb))), fun hb => ?_⟩
    have hb' : s.wakeIdle.mfield (0x1000 + 0x100 * n.toNat + 0x90) 0 1 = 0 := by simpa using hb
    have hcmd := s.wakeIdle_physBytes (admPa a) 64
    refine ⟨fun hop => ?_, fun hop => ?_⟩
    · have hans := State.admin_answered (addr := a) hb' (by rw [hcmd]; exact (queueOpcode_iff _).2 hop)
      rw [hcmd] at hans
      exact hexec.trans (congrArg _ hans)
    · have hsent := State.admin_sent (addr := a) hb'
        (by rw [hcmd]; exact Bool.eq_false_iff.2 fun h => hop ((queueOpcode_iff _).1 h))
      refine ⟨_, hexec.trans (congrArg _ hsent), State.adminSent_busy _ n a, ?_, s.wakeIdle_mem⟩
      rw [State.adminSent, hcmd, State.wakeIdle_wire]
      rfl
  · refine ⟨fun hm => ⟨_, exec_ssdReady_open hm n, State.ssdUp_set _ n, rfl⟩,
      ⟨_, exec_ssdLinkDown n s, State.mfield_setMfield _ _ _ (by decide)⟩, fun hm hu => ?_, fun h log => exec_healthPoll_away h log,
      fun hm id entry => ?_⟩
    · obtain ⟨hlog, hnone⟩ := exec_healthPoll_ready hm hu
      exact ⟨⟨_, hlog v, rfl, State.mreg_setMreg_same _ _ _⟩, hnone⟩
    · simp [execNvmeCommandTimeout, execAdminCompletion, hm]

end Sys2Proof.Machine

namespace Sys2Proof.Machine
set_option Elab.async false

/-! ### What the paging of the device changes (R277, R280, R385) -/

/-- Only bytes, poison, what waits for pages, reads, management registers and messages may differ. -/
def State.OnlyPaging (s u : State) : Prop := ∃ m p bs q g w rs n ts ds,
  u = { s with mem := m, poison := p, blocks := bs, past := q, mgmt := g, wire := w, reads := rs, uid := n, tasks := ts, devWaits := ds }

theorem State.OnlyPaging.refl (s : State) : s.OnlyPaging s :=
  ⟨s.mem, s.poison, s.blocks, s.past, s.mgmt, s.wire, s.reads, s.uid, s.tasks, s.devWaits, rfl⟩
theorem State.OnlyPaging.trans {s u v : State} (h : s.OnlyPaging u) (h' : u.OnlyPaging v) : s.OnlyPaging v := by
  obtain ⟨_, _, _, _, _, _, _, _, _, _, rfl⟩ := h
  obtain ⟨m, p, bs, q, g, w, rs, n, ts, ds, rfl⟩ := h'
  exact ⟨m, p, bs, q, g, w, rs, n, ts, ds, rfl⟩
theorem State.OnlyBytes.paging {s u : State} (h : s.OnlyBytes u) : s.OnlyPaging u := by
  obtain ⟨⟨m, p, bs, q, rfl⟩, -⟩ := h
  exact ⟨m, p, bs, q, s.mgmt, s.wire, s.reads, s.uid, s.tasks, s.devWaits, rfl⟩
theorem State.OnlyPaging.slots {s u : State} (h : s.OnlyPaging u) : u.slots = s.slots := by
  obtain ⟨_, _, _, _, _, _, _, _, _, _, rfl⟩ := h
  rfl

theorem State.setMfield_paging (s : State) (o lo n x : Nat) : s.OnlyPaging (s.setMfield o lo n x) :=
  ⟨s.mem, s.poison, s.blocks, s.past, _, s.wire, s.reads, s.uid, s.tasks, s.devWaits, rfl⟩
theorem State.ssdIo_paging (s : State) (e : Nat) (w : Bool) : s.OnlyPaging (s.ssdIo e w) :=
  ⟨s.mem, s.poison, s.blocks, s.past, s.mgmt, _, s.reads, s.uid, s.tasks, s.devWaits, rfl⟩
theorem State.reads_paging (s : State) (rs : List SsdRead) : s.OnlyPaging { s with reads := rs } :=
  ⟨s.mem, s.poison, s.blocks, s.past, s.mgmt, s.wire, rs, s.uid, s.tasks, s.devWaits, rfl⟩
theorem State.uid_paging (s : State) (n : Nat) : s.OnlyPaging { s with uid := n } :=
  ⟨s.mem, s.poison, s.blocks, s.past, s.mgmt, s.wire, s.reads, n, s.tasks, s.devWaits, rfl⟩
theorem State.devWaits_paging (s : State) (ds : List DevWait) : s.OnlyPaging { s with devWaits := ds } :=
  ⟨s.mem, s.poison, s.blocks, s.past, s.mgmt, s.wire, s.reads, s.uid, s.tasks, ds, rfl⟩
theorem State.wakePage_paging (s : State) (pte : Nat) (err : Option Nat) : s.OnlyPaging (s.wakePage pte err) :=
  ⟨s.mem, s.poison, _, s.past, s.mgmt, s.wire, s.reads, s.uid, _, _, rfl⟩

theorem State.faultRecord_paging (s : State) (a b c d e f g i : Nat) : s.OnlyPaging (s.faultRecord a b c d e f g i) := by
  unfold State.faultRecord
  dsimp only
  split
  · exact s.setMfield_paging _ _ _ _
  · exact (s.engineWrite_only _ _ _).paging.trans (State.setMfield_paging _ _ _ _ _)
theorem State.failRead_paging (s : State) (a b c d e f g : Nat) : s.OnlyPaging (s.failRead a b c d e f g) :=
  (s.faultRecord_paging _ _ _ _ _ _ _ _).trans (State.wakePage_paging _ _ _)
theorem State.swapEntry_paging (s : State) (a b c : Nat) : s.OnlyPaging (s.swapEntry a b c).1 := by
  unfold State.swapEntry
  split
  · exact (s.engineWrite_only _ _ _).paging
  · exact .refl s
theorem State.takeFrame_paging (s : State) (a b c d : Nat) : s.OnlyPaging (s.takeFrame a b c d) := by
  have hframe : s.OnlyPaging ((s.ssdIo d false).setFrame a b 1 0 c d) :=
    (s.ssdIo_paging d false).trans (State.engineWrite_only _ _ _ _).paging
  unfold State.takeFrame
  dsimp only
  split
  · exact (hframe.trans (State.setMfield_paging _ _ _ _ _)).trans (State.faultRecord_paging _ _ _ _ _ _ _ _ _)
  · exact hframe.trans (State.setMfield_paging _ _ _ _ _)

theorem State.startRead_paging (s : State) (a b c d e f : Nat) : s.OnlyPaging (s.startRead a b c d e f) := by
  have hswap := s.swapEntry_paging b c (c + 32)
  unfold State.startRead
  split
  · exact .refl s
  split
  · exact s.failRead_paging _ _ _ _ _ _ _
  split
  · exact s.failRead_paging _ _ _ _ _ _ _
  split
  · next u heq =>
    rw [heq] at hswap
    exact hswap
  · next u heq =>
    rw [heq] at hswap
    have hnumbered := hswap.trans (u.uid_paging (u.uid + 1))
    dsimp only
    split
    · exact (hnumbered.trans (State.takeFrame_paging _ _ _ _ _)).trans (State.reads_paging _ _)
    · refine State.OnlyPaging.trans ?_ (State.reads_paging _ _)
      split
      · exact hnumbered.trans (State.faultRecord_paging _ _ _ _ _ _ _ _ _)
      · exact hnumbered
theorem State.devAwait_paging (s : State) (a b c d : Nat) (w : DevWork) : s.OnlyPaging (s.devAwait a b c d w) :=
  (s.startRead_paging _ _ _ _ _ _).trans (State.devWaits_paging _ _)
theorem State.devStore_paging (s : State) (a b c d : Nat) : s.OnlyPaging (s.devStore a b c d) := by
  unfold State.devStore
  split
  · exact s.devAwait_paging _ _ _ _ _
  · split
    · exact (s.applyBytes_only _).paging
    · exact .refl s
theorem State.writeDesc_slots (s : State) (a b c d e : Nat) : (s.writeDesc a b c d e).slots = s.slots :=
  (s.devStore_paging _ _ _ _).slots

end Sys2Proof.Machine

namespace Sys2Proof.Machine
set_option Elab.async false

section
variable {s : State} {i : Nat} {x : HwSlot}

/-! ### Slots, and queues that stop (R365) -/

/-- A slot that is replaced holds what replaced it. -/
theorem State.hwSlot_setHwSlot {y : HwSlot} (h : s.hwSlot x.slot = some y) : (s.setHwSlot x).hwSlot x.slot = some x := by
  have hsame : ((fun z : HwSlot => z.slot == x.slot) ∘ fun z => if z.slot == x.slot then x else z) = fun z => z.slot == x.slot := by
    funext z
    by_cases hz : z.slot = x.slot <;> simp [hz]
  unfold State.hwSlot at h
  have hy : y.slot = x.slot := by simpa using List.find?_some h
  rw [State.hwSlot, State.setHwSlot, List.find?_map, hsame, h]
  simp [hy]

theorem State.queueError_slots (s : State) (x : HwSlot) (code : Nat) (pkt : Option Nat) :
    (s.queueError x code pkt).slots = (s.setHwSlot { x with err := true, holding := false }).slots := by
  unfold State.queueError
  cases pkt <;> simp only [State.writeDesc_slots]
theorem State.hwSlot_eq_of_slots {u : State} (h : u.slots = s.slots) (i : Nat) : u.hwSlot i = s.hwSlot i := by
  rw [State.hwSlot, h, State.hwSlot]
theorem State.head_stopped (h : x.err = true) : s.head x = .none := by
  rw [State.head, h]
  rfl
/-- A queue that stops is in ERROR and serves no packet. -/
theorem State.queueError_stops (h : s.hwSlot x.slot = some x) (code : Nat) (pkt : Option Nat) :
    ∃ y, (s.queueError x code pkt).hwSlot x.slot = some y ∧ y = { x with err := true, holding := false } ∧
      (s.queueError x code pkt).head y = .none := by
  refine ⟨_, ?_, rfl, State.head_stopped rfl⟩
  rw [State.hwSlot_eq_of_slots (s.queueError_slots x code pkt)]
  exact State.hwSlot_setHwSlot (x := { x with err := true, holding := false }) h

/-! ### The slot's turn (R281, R284, R362) -/

section
variable {va : Nat} {b : List Byte}

theorem State.turn_atHead (h : atHead s i x va b) {ok : List Byte → Bool} (hok : ok b = true)
    (f : State → HwSlot → Nat → List Byte → State) : s.turn i ok f = f (s.served x) x va b := by
  obtain ⟨hslot, hhead, hdisp, hnext⟩ := h
  simp [State.turn, hslot, hhead, hdisp, hnext, hok]

theorem exec_ringfault_turn (hslot : s.hwSlot i = some x) (hhead : s.head x = .fault va) (hdisp : s.dispatching = true)
    (hnext : s.nextSlot = some i) : exec (.ringfault i) s = .next ((s.served x).queueError x 4 (some va)) := by
  simp [execRingfault, hslot, hhead, hdisp, hnext]

end

/-! ### Queues that a packet holds (R277, R281) -/

/-- Nothing is left to do where no record was released. -/
theorem State.settle_nil (s : State) : State.settle (s, []) = s := rfl

theorem State.resolveVa_zero (s : State) (part : Nat) (res : Word) (fault : Bool) : s.resolveVa part 0 res fault = (s, []) := rfl
theorem State.devPlace_here {part va pa : Nat} {wr : Bool} (h : s.devPa part va wr = some pa) :
    s.devPlace part va wr = .here pa := by
  unfold State.devPa at h
  unfold State.devPlace
  split at h
  · next heq =>
    cases h
    rw [heq]
  · cases h
theorem State.resolveVa_found {part va pa : Nat} {res : Word} {fault : Bool} (hv : va ≠ 0)
    (h : s.devPa part va true = some pa) :
    s.resolveVa part va res fault = ((s.resolve pa res fault).1, (s.resolve pa res fault).2.2) := by
  rw [State.resolveVa, if_neg hv, State.devPlace_here h]

section
variable (hslot : s.hwSlot i = some x) (hheld : x.holding = true) (himage : x.image = s.activeImage x.part)
include hslot hheld himage

theorem State.heldPacket_eq : s.heldPacket i = some (x, x.pkt) := by
  simp [State.heldPacket, hslot, hheld, ← himage]
theorem exec_joinRelease_held (htype : fieldOf x.pkt 0 1 = 2) : exec (.joinRelease i) s =
    .next (if (packetFutures x.pkt).all (s.futDone x.part) then s.takePacket x else s.joinReads x x.pkt) := by
  simp [execJoinRelease, State.releaseJoin, State.heldPacket_eq hslot hheld himage, htype]
theorem exec_markerResolve_busy (hbusy : ∃ l ∈ s.launches, l.queue = some x.qid) : exec (.markerResolve i) s = .next s := by
  have hq : s.queueBusy x.qid = true := List.any_eq_true.2 (by simpa using hbusy)
  simp [execMarkerResolve, State.resolveMarker, State.heldPacket_eq hslot hheld himage, hq]
theorem exec_markerResolve_free (htype : fieldOf x.pkt 0 1 = 4) (hfree : ∀ l ∈ s.launches, l.queue ≠ some x.qid) :
    exec (.markerResolve i) s = .next (State.settle ((s.takePacket x).resolveVa x.part (fieldOf x.pkt 40 8) 0 false)) := by
  have hq : s.queueBusy x.qid = false := List.any_eq_false.2 fun l hl => by simpa using hfree l hl
  simp [execMarkerResolve, State.resolveMarker, State.heldPacket_eq hslot hheld himage, htype, hq]

end

/-! ### Notifies (R361) -/

theorem exec_notify_open {word : Dword} (hm : s.mgmtOpen = true) (hi : i < 16384) :
    exec (.notify i word) s = .next (s.notify i word) := by
  simp [execNotify, hm, hi]

/-- A notify that names no queue, or has reserved bits set, is counted. -/
theorem State.notify_bad {word : Dword} (h : s.qcount ≤ word.toNat % 2 ^ 20 ∨ word.toNat / 2 ^ 20 % 2 ^ 12 ≠ 0) :
    s.notify i word = s.badNotify := by
  refine if_pos ?_
  rw [bitsOf_low]
  simpa [bitsOf] using h

section
variable {word : Dword} (hq : word.toNat % 2 ^ 20 < s.qcount) (hres : word.toNat / 2 ^ 20 % 2 ^ 12 = 0)
include hq hres

theorem notify_good : (decide (s.qcount ≤ bitsOf word.toNat 0 20) || bitsOf word.toNat 20 12 != 0) = false := by
  rw [bitsOf_low]
  simpa [bitsOf] using ⟨hq, hres⟩

theorem State.notify_mapped (hslot : s.hwSlot i = some x) (hx : x.qid = word.toNat % 2 ^ 20) :
    s.notify i word = s.notifyMapped x (word.toNat / 2 ^ 32) := by
  have hgood := notify_good hq hres
  rw [← bitsOf_low] at hx
  simp only [State.notify, hgood, hslot, hx, bitsOf_high, Bool.false_eq_true, if_false, if_true]

/-- A notify of a queue that its slot does not map reaches the descriptor through the tables of partition `p`. -/
theorem State.notify_elsewhere {p : Nat} (h : (∃ x, s.hwSlot i = some x ∧ x.qid ≠ word.toNat % 2 ^ 20 ∧ x.part = p) ∨
    (s.hwSlot i = none ∧ s.partOfSlot i = some p)) :
    (s.devAway p (s.descVa (word.toNat % 2 ^ 20)) 64 true = none →
      s.notify i word = s.notifyPending p (word.toNat % 2 ^ 20) (word.toNat / 2 ^ 32)) ∧
    ∀ va pte e, s.devAway p (s.descVa (word.toNat % 2 ^ 20)) 64 true = some (va, pte, e) →
      s.notify i word = s.devAwait p va pte e (.notify i word) := by
  have hgood := notify_good hq hres
  rw [← bitsOf_low] at h ⊢
  obtain ⟨x, hslot, hx, rfl⟩ | ⟨hslot, hpart⟩ := h
  · simp only [State.notify, hgood, hslot, hx, bitsOf_high, Bool.false_eq_true, if_false]
    exact ⟨fun h => by rw [h], fun va pte e h => by rw [h]⟩
  · simp only [State.notify, hgood, hslot, State.descPart, hpart, Option.getD_some, bitsOf_high, Bool.false_eq_true, if_false]
    exact ⟨fun h => by rw [h], fun va pte e h => by rw [h]⟩

end

/-! ### QCMD (R363, R364) -/

/-- QCMD holds the command that was written. -/
def State.commandKept (s : State) (cmd : Dword) : State := s.setMreg 0x0010 (BitVec.ofNat 64 (cmd.toNat % 2 ^ 36))

theorem exec_mapQueue_open (hm : s.mgmtOpen = true) {cmd : Dword} (hop : bitsOf cmd.toNat 14 2 = 1) :
    exec (.mapQueue cmd) s = .next (s.wakeIdle.queueCmd cmd) := by
  rw [exec_mapQueue, execMapQueue, State.command_open hm, if_pos hop]
theorem exec_unmapQueue_open (hm : s.mgmtOpen = true) {cmd : Dword} (hop : bitsOf cmd.toNat 14 2 = 2) :
    exec (.unmapQueue cmd) s = .next (s.wakeIdle.queueCmd cmd) := by
  rw [exec_unmapQueue, execUnmapQueue, State.command_open hm, if_pos hop]

theorem State.queueCmd_lost {cmd : Dword} (hop : bitsOf cmd.toNat 14 2 ≠ 0) (hb : s.mfield 0x0018 0 1 = 1) :
    s.queueCmd cmd = s.setMfield 0x0018 1 1 1 := if_pos (by simp [hop, hb])
theorem State.queueCmd_tries {cmd : Dword} (hop : bitsOf cmd.toNat 14 2 ≠ 0) (hb : s.mfield 0x0018 0 1 = 0) :
    s.queueCmd cmd = (s.commandKept cmd).tryCommand cmd := by
  rw [State.queueCmd, if_neg (by simp [hb]), if_neg hop, bitsOf_low, State.commandKept]

/-- What a command leaves where QCMD starts one, a MAP or an UNMAP. -/
theorem exec_queueCommand {cmd : Dword} {P : State → Prop} (hm : s.mgmtOpen = true)
    (h : bitsOf cmd.toNat 14 2 ≠ 0 → P (s.wakeIdle.queueCmd cmd)) :
    (bitsOf cmd.toNat 14 2 = 1 → ∃ s', exec (.mapQueue cmd) s = .next s' ∧ P s') ∧
    (bitsOf cmd.toNat 14 2 = 2 → ∃ s', exec (.unmapQueue cmd) s = .next s' ∧ P s') :=
  ⟨fun hop => ⟨_, exec_mapQueue_open hm hop, h (by omega)⟩, fun hop => ⟨_, exec_unmapQueue_open hm hop, h (by omega)⟩⟩

/-- A command whose descriptor's page is away is BUSY and waits for it (R277). -/
theorem State.queueCmd_awaits {cmd : Dword} (hop : bitsOf cmd.toNat 14 2 ≠ 0) (hb : s.mfield 0x0018 0 1 = 0) {p va pte e : Nat}
    (h : (s.commandKept cmd).commandAway cmd = some (p, va, pte, e)) :
    s.queueCmd cmd = ((s.commandKept cmd).setMfield 0x0018 0 1 1).devAwait p va pte e (.command cmd) := by
  rw [State.queueCmd_tries hop hb, State.tryCommand, h]

section
variable {cmd : Dword} (hm : s.mgmtOpen = true) (hb : s.mfield 0x0018 0 1 = 0)
  (haway : (s.wakeIdle.commandKept cmd).commandAway cmd = none)
include hm hb haway

theorem exec_mapQueue_runs (hop : bitsOf cmd.toNat 14 2 = 1) : exec (.mapQueue cmd) s =
    .next (((s.wakeIdle.commandKept cmd).setMfield 0x0018 0 1 0).mapSlot (cmd.toNat % 2 ^ 14) (cmd.toNat / 2 ^ 16 % 2 ^ 20)) := by
  rw [exec_mapQueue_open hm hop, State.queueCmd_tries (by omega) (by simpa using hb), State.tryCommand, haway]
  simp only [State.runCommand, hop, bitsOf_low]
  rfl
theorem exec_unmapQueue_runs (hop : bitsOf cmd.toNat 14 2 = 2) : exec (.unmapQueue cmd) s =
    .next (((s.wakeIdle.commandKept cmd).setMfield 0x0018 0 1 0).unmapSlot (cmd.toNat % 2 ^ 14)) := by
  rw [exec_unmapQueue_open hm hop, State.queueCmd_tries (by omega) (by simpa using hb), State.tryCommand, haway]
  simp only [State.runCommand, hop, bitsOf_low]

end

/-- The answer of a command reads as it was given. -/
theorem State.mfield_queueResult (s : State) (r : Nat) : (s.queueResult r).mfield 0x18 4 4 = r % 16 :=
  State.mfield_setMfield _ _ _ (by decide)

/-! ### MAP (R364) -/

/-- MAP is refused with a RESULT code, or fills a free slot with a queue that is mapped nowhere. -/
theorem State.mapCheck_cases (s : State) (i q : Nat) : (∃ r, s.mapCheck i q = .error r ∧ r < 16) ∨
    ∃ x, s.mapCheck i q = .ok x ∧ x.slot = i ∧ x.qid = q ∧ s.hwSlot i = none ∧ ∀ y ∈ s.slots, y.qid ≠ q := by
  unfold State.mapCheck
  dsimp only
  split
  · exact .inl ⟨_, rfl, by decide⟩
  next hfree =>
    split
    · exact .inl ⟨_, rfl, by split_ifs <;> decide⟩
    split
    · exact .inl ⟨_, rfl, by decide⟩
    split
    · split
      · exact .inl ⟨_, rfl, by decide⟩
      next helse =>
        split
        · exact .inl ⟨_, rfl, by decide⟩
        · exact .inr ⟨_, rfl, rfl, rfl, by simpa using hfree, by simpa using helse⟩
    · exact .inl ⟨_, rfl, by split_ifs <;> decide⟩
theorem State.mapCheck_error {q r : Nat} (h : s.mapCheck i q = .error r) : r < 16 := by
  obtain ⟨r', hr', hlt⟩ | ⟨x, hx, -⟩ := s.mapCheck_cases i q
  · cases hr'.symm.trans h
    exact hlt
  · cases hx.symm.trans h
theorem State.mapCheck_ok {q : Nat} (h : s.mapCheck i q = .ok x) :
    x.slot = i ∧ x.qid = q ∧ s.hwSlot i = none ∧ ∀ y ∈ s.slots, y.qid ≠ q := by
  obtain ⟨r, hr, -⟩ | ⟨y, hy, hdone⟩ := s.mapCheck_cases i q
  · cases hr.symm.trans h
  · cases hy.symm.trans h
    exact hdone

/-- A slot in no earlier place of a list is replaced at its end. -/
theorem map_replace_last {x y : HwSlot} (hy : y.slot = x.slot) {l : List HwSlot} (h : ∀ z ∈ l, z.slot ≠ x.slot) :
    ((l ++ [x]).map fun z => if z.slot == y.slot then y else z) = l ++ [y] := by
  have hl : (l.map fun z => if z.slot == y.slot then y else z) = l :=
    (List.map_congr_left fun z hz => if_neg (by simpa [hy] using h z hz)).trans l.map_id
  rw [List.map_append, hl, List.map_singleton, if_pos (by simp [hy])]

/-- The producer index moves, or the queue stops; its slot, its queue and its consumer index stay. -/
theorem State.notifyMapped_slots (s : State) (x : HwSlot) (new : Nat) : (s.notifyMapped x new).slots = s.slots ∨
    ∃ y, (s.notifyMapped x new).slots = (s.setHwSlot y).slots ∧ y.slot = x.slot ∧ y.qid = x.qid ∧ y.rd = x.rd := by
  unfold State.notifyMapped
  split
  · exact .inr ⟨_, s.queueError_slots x 3 none, rfl, rfl, rfl⟩
  split
  · exact .inr ⟨_, rfl, rfl, rfl, rfl⟩
  · exact .inl rfl

theorem State.mapSlot_refused {q r : Nat} (h : s.mapCheck i q = .error r) : (s.mapSlot i q).mfield 0x18 4 4 = r ∧
    (s.mapSlot i q).slots = s.slots ∧ (s.mapSlot i q).mem = s.mem := by
  rw [State.mapSlot, h]
  exact ⟨(s.mfield_queueResult r).trans (Nat.mod_eq_of_lt (State.mapCheck_error h)), rfl, rfl⟩

/-- The slot is filled, and the descriptor of its queue says so. -/
def State.mapped (s : State) (i q : Nat) (x : HwSlot) : State :=
  (({ s with slots := s.slots ++ [x] } : State).writeDesc x.part q 9 1 1).writeDesc x.part q 12 2 i
/-- A notify that was kept in the descriptor acts (R361). -/
def State.pendTaken (s : State) (x : HwSlot) (q pend : Nat) : State :=
  if bitsOf pend 32 1 = 1 then (s.notifyMapped x (bitsOf pend 0 32)).writeDesc x.part q 24 8 (bitsOf pend 0 32) else s
theorem State.mapSlot_filled {q : Nat} (h : s.mapCheck i q = .ok x) :
    ∃ pend, s.mapSlot i q = ((s.mapped i q x).pendTaken x q pend).queueResult 0 := by
  rw [State.mapSlot, h]
  exact ⟨_, rfl⟩

theorem State.mapped_slots (s : State) (i q : Nat) (x : HwSlot) : (s.mapped i q x).slots = s.slots ++ [x] := by
  rw [State.mapped, State.writeDesc_slots, State.writeDesc_slots]
theorem State.pendTaken_slots {l : List HwSlot} (h : s.slots = l ++ [x]) (hl : ∀ z ∈ l, z.slot ≠ x.slot) (q pend : Nat) :
    ∃ y, (s.pendTaken x q pend).slots = l ++ [y] ∧ y.slot = x.slot ∧ y.qid = x.qid ∧ y.rd = x.rd := by
  unfold State.pendTaken
  split
  · rw [State.writeDesc_slots]
    obtain hsame | ⟨y, hy, hslot, hqid, hrd⟩ := s.notifyMapped_slots x (bitsOf pend 0 32)
    · exact ⟨x, hsame.trans h, rfl, rfl, rfl⟩
    · refine ⟨y, ?_, hslot, hqid, hrd⟩
      rw [hy, State.setHwSlot, h]
      exact map_replace_last hslot hl
  · exact ⟨x, h, rfl, rfl, rfl⟩
theorem State.mapSlot_fills {q : Nat} (h : s.mapCheck i q = .ok x) : (s.mapSlot i q).mfield 0x18 4 4 = 0 ∧
    ∃ y, (s.mapSlot i q).slots = s.slots ++ [y] ∧ y.slot = i ∧ y.qid = q ∧ y.rd = x.rd := by
  obtain ⟨pend, hfilled⟩ := State.mapSlot_filled h
  obtain ⟨rfl, rfl, hfree, -⟩ := State.mapCheck_ok h
  rw [hfilled]
  exact ⟨State.mfield_queueResult _ 0, State.pendTaken_slots (s.mapped_slots x.slot x.qid x)
    (fun z hz => by simpa using List.find?_eq_none.1 hfree z hz) x.qid pend⟩

/-! ### UNMAP (R364) -/

theorem State.unmapSlot_empty (h : s.hwSlot i = none) :
    (s.unmapSlot i).mfield 0x18 4 4 = 2 ∧ (s.unmapSlot i).slots = s.slots := by
  rw [State.unmapSlot, h]
  exact ⟨s.mfield_queueResult 2, rfl⟩
theorem State.unmapSlot_frees (h : s.hwSlot i = some x) : (s.unmapSlot i).mfield 0x18 4 4 = 0 ∧
    (s.unmapSlot i).slots = s.slots.filter fun y => y.slot != i := by
  rw [State.unmapSlot, h]
  refine ⟨State.mfield_queueResult _ 0, ?_⟩
  show (State.writeDesc _ _ _ _ _ _).slots = _
  simp only [State.writeDesc_slots]

end

/-- Settles O52: a packet acts when its slot has its turn; notifies and commands by what they find; and what waits for a page
changes no slot. -/
theorem userQueuesWork : Obligations.UserQueuesWork := by
  refine ⟨⟨fun s i x va b h => ⟨fun hbad => ?_, fun hgood => ⟨fun ht => ?_, fun ht => ?_, fun ht => ?_, fun ht => ?_⟩⟩,
      fun s i x hslot hheld himage => ⟨fun ht => ?_, fun ht => ⟨fun hbusy => ?_, fun hfree => ⟨fun hz => ?_, fun hnz pa hpa => ?_⟩⟩⟩,
      fun s i x va => exec_ringfault_turn, fun s x code pkt h => State.queueError_stops h code pkt⟩,
    fun s i word hm hi => ?_, fun s cmd hm => ?_⟩
  · exact congrArg Host.Outcome.next (State.turn_atHead h (by simp [hbad]) _)
  · exact congrArg Host.Outcome.next (State.turn_atHead h (by simp [hgood, ht]) _)
  · exact congrArg Host.Outcome.next (State.turn_atHead h (by simp [hgood, ht]) _)
  · exact congrArg Host.Outcome.next (State.turn_atHead h (by simp [hgood, ht]) _)
  · exact congrArg Host.Outcome.next (State.turn_atHead h (by simp [hgood, ht]) _)
  · exact exec_joinRelease_held hslot hheld himage ht
  · exact exec_markerResolve_busy hslot hheld himage hbusy
  · rw [exec_markerResolve_free hslot hheld himage ht hfree, hz, State.resolveVa_zero, State.settle_nil]
    rfl
  · exact (exec_markerResolve_free hslot hheld himage ht hfree).trans
      (congrArg (fun r => Host.Outcome.next (State.settle r)) (State.resolveVa_found hnz hpa))
  · have hexec := exec_notify_open (word := word) hm hi
    refine ⟨fun hbad => hexec.trans (congrArg _ (State.notify_bad hbad)), fun hq hres => ⟨fun x hslot hx => ?_, fun p hp => ?_⟩⟩
    · rw [hexec, State.notify_mapped hq hres hslot hx, State.notifyMapped]
      exact ⟨fun h => congrArg _ (if_pos h), fun h => congrArg _ (if_neg (by omega))⟩
    · rw [hexec]
      obtain ⟨hhere, haway⟩ := State.notify_elsewhere hq hres hp
      exact ⟨fun h => congrArg _ (hhere h), fun va pte e h => congrArg _ (haway va pte e h)⟩
  · intro d c i q op acts
    have hslots : c.slots = s.slots := s.wakeIdle_slots
    refine ⟨fun hb => exec_queueCommand hm fun hop => ?_, fun hb p va pte e haway => exec_queueCommand hm fun hop => ?_,
      fun hb haway => ⟨fun hop => ⟨fun r hr => ?_, fun x hx => ?_⟩, fun hop => ?_⟩⟩
    · rw [State.queueCmd_lost hop (by simpa using hb)]
      exact ⟨State.mfield_setMfield _ _ _ (by decide), s.wakeIdle_slots, s.wakeIdle_mem⟩
    · rw [State.queueCmd_awaits hop (by simpa using hb) haway]
      exact ⟨rfl, (State.devAwait_paging _ _ _ _ _ _).slots.trans s.wakeIdle_slots⟩
    · rw [← hslots, ← s.wakeIdle_mem]
      exact ⟨_, exec_mapQueue_runs hm hb haway hop, State.mapSlot_refused hr⟩
    · obtain ⟨hslot, hqid, hfree, hothers⟩ := State.mapCheck_ok hx
      refine ⟨hslot, hqid, hfree, hslots ▸ hothers, _, exec_mapQueue_runs hm hb haway hop, ?_⟩
      rw [← hslots]
      exact State.mapSlot_fills hx
    · have hrun := exec_unmapQueue_runs hm hb haway hop
      rw [← hslots]
      exact ⟨fun hempty => ⟨_, hrun, State.unmapSlot_empty hempty⟩, fun x hx => ⟨_, hrun, State.unmapSlot_frees hx⟩⟩

end Sys2Proof.Machine

namespace Sys2Proof.Machine

/-! ### Writes to memory alone (R108, R384)

What is known of a write of bytes asks that all bytes, those of scratch too, stand in canonical form. A write to memory
neither reads nor changes scratch, so that for it the canonical form of memory is enough: it does the same in the state
that has no block at all, whose bytes are those of memory. -/

/-- A state with other blocks, and with another record of what slots held. -/
def State.withScratch (s : State) (bs : List Block) (q : List Past) : State := { s with blocks := bs, past := q }

section
variable (s : State) (bs : List Block) (q : List Past)
@[simp] theorem State.withScratch_mem : (s.withScratch bs q).mem = s.mem := rfl
@[simp] theorem State.withScratch_frameOf (pa : Nat) : (s.withScratch bs q).frameOf pa = s.frameOf pa := rfl
@[simp] theorem State.withScratch_frameRec (p i : Nat) : (s.withScratch bs q).frameRec p i = s.frameRec p i := rfl
theorem State.withScratch_ite (c : Prop) [Decidable c] (v : State) :
    (if c then s else v).withScratch bs q = if c then s.withScratch bs q else v.withScratch bs q :=
  apply_ite (State.withScratch · bs q) c s v
end

theorem State.bytesOk_withoutBlocks {s : State} (h : s.mem.wf = true) (q : List Past) :
    (s.withScratch [] q).bytesOk = true := by simp [State.bytesOk, State.withScratch, h]

/-- An operation neither reads nor changes the blocks and the record of what slots held. -/
def ScratchBlind (f : State → State) : Prop :=
  ∀ (s : State) bs q, f (s.withScratch bs q) = (f s).withScratch bs q

theorem ScratchBlind.foldl {α : Type} {f : State → α → State} {l : List α} (h : ∀ x ∈ l, ScratchBlind (f · x)) :
    ScratchBlind (l.foldl f) := by
  induction l with
  | nil => exact fun _ _ _ => rfl
  | cons x l ih =>
    obtain ⟨hx, hl⟩ := List.forall_mem_cons.1 h
    intro s bs q
    exact (congrArg (l.foldl f) (hx s bs q)).trans (ih hl (f s x) bs q)

theorem State.dirty_scratchBlind (pa : Nat) : ScratchBlind (State.dirty · pa) := by
  intro s bs q
  simp only [State.dirty, State.withScratch_frameOf, State.withScratch_frameRec, State.withScratch_mem]
  split
  · rfl
  · rw [State.withScratch_ite]
    rfl
theorem State.frameFlag_scratchBlind (pa : Nat) : ScratchBlind (State.frameFlag · pa) := by
  intro s bs q
  simp only [State.frameFlag, State.withScratch_frameOf]
  split <;> rfl
theorem State.clearPoison_scratchBlind (g : Nat) : ScratchBlind (State.clearPoison · (.mem g)) := by
  intro s bs q
  by_cases hp : s.poison.contains g = true
  · have hflag := State.frameFlag_scratchBlind (32 * g) { s with poison := s.poison.filter (· != g) } bs q
    exact (if_pos hp).trans (hflag.trans (congrArg (State.withScratch · bs q) (if_pos hp).symm))
  · exact (if_neg hp).trans (congrArg (State.withScratch · bs q) (if_neg hp).symm)

theorem State.keepPast_withScratch (s : State) (bs : List Block) (q : List Past) (ws : List (Loc × Byte)) :
    ∃ q', (s.withScratch bs q).keepPast ws = s.withScratch bs q' := by
  unfold State.keepPast
  split <;> exact ⟨_, rfl⟩

section
variable {s : State} {ws : List (Loc × Byte)} (hm : ∀ l ∈ ws.map (·.1), ∃ pa, l = .mem pa)
include hm

/-- A write to memory does the same whatever the blocks are. -/
theorem State.applyBytes_withScratch (s : State) :
    ∃ v : State, ∀ bs q, ∃ q', (s.withScratch bs q).applyBytes ws = v.withScratch bs q' := by
  have hput : ScratchBlind (State.putBytes · ws) := ScratchBlind.foldl fun p hp => by
    obtain ⟨pa, e⟩ := hm p.1 (List.mem_map_of_mem hp)
    rw [e]
    exact fun _ _ _ => rfl
  have hclear : ScratchBlind ((wholeGranules ws).foldl State.clearPoison) := ScratchBlind.foldl fun g hg => by
    obtain ⟨l, hl, rfl⟩ := wholeGranules_mem hg
    obtain ⟨pa, rfl⟩ := hm l hl
    exact State.clearPoison_scratchBlind _
  have hdirty : ScratchBlind (State.dirtyAll · ws) := ScratchBlind.foldl fun pa _ => State.dirty_scratchBlind pa
  refine ⟨(wholeGranules ws).foldl State.clearPoison ((s.dirtyAll ws).putBytes ws), fun bs q => ?_⟩
  obtain ⟨q', e⟩ := s.keepPast_withScratch bs q ws
  refine ⟨q', ?_⟩
  calc (s.withScratch bs q).applyBytes ws
    _ = (wholeGranules ws).foldl State.clearPoison (((s.withScratch bs q').dirtyAll ws).putBytes ws) := by
      rw [State.applyBytes, e]
    _ = (wholeGranules ws).foldl State.clearPoison (((s.dirtyAll ws).withScratch bs q').putBytes ws) := by
      rw [← hdirty s bs q']
    _ = (wholeGranules ws).foldl State.clearPoison (((s.dirtyAll ws).putBytes ws).withScratch bs q') := by
      rw [← hput _ bs q']
    _ = _ := hclear _ bs q'

/-- A write to memory leaves the blocks, and the memory that it would leave if there were none. -/
theorem State.applyBytes_memory : (s.applyBytes ws).blocks = s.blocks ∧
    (s.applyBytes ws).mem = ((s.withScratch [] s.past).applyBytes ws).mem := by
  obtain ⟨v, hv⟩ := State.applyBytes_withScratch hm s
  obtain ⟨q, e⟩ := hv s.blocks s.past
  obtain ⟨q₀, e₀⟩ := hv [] s.past
  have e : s.applyBytes ws = v.withScratch s.blocks q := e
  rw [e, e₀]
  exact ⟨rfl, rfl⟩

variable (hw : s.mem.wf = true)
include hw

theorem State.applyBytes_kept_of_memory : BytesKept s (s.applyBytes ws) (ws.map (·.1)) := by
  obtain ⟨hblocks, hmem⟩ := State.applyBytes_memory (s := s) hm
  intro l hl hf
  cases l with
  | mem pa =>
    exact (congrArg (Memory.read · pa) hmem).trans (State.applyBytes_kept (State.bytesOk_withoutBlocks hw _) ws _ hl hf)
  | scr b off => simp only [State.byteAt, State.block?, hblocks]

theorem State.read_applyBytes_of_memory (hn : (ws.map (·.1)).Nodup)
    (hf : ∀ l ∈ ws.map (·.1), ¬ s.frameByte (ws.map (·.1)) l) {pa : Nat} {b : Byte} (hb : (Loc.mem pa, b) ∈ ws) :
    (s.applyBytes ws).mem.read pa = b := by
  rw [(State.applyBytes_memory hm).2]
  exact State.byteAt_applyBytes (State.bytesOk_withoutBlocks hw _) hn hf hb

end

/-! ### Little-endian fields, byte by byte (R4) -/

theorem leNat_natLe_mod : ∀ n v, leNat (natLe n v) = v % 256 ^ n
  | 0, v => by rw [natLe, leNat, Nat.pow_zero, Nat.mod_one]
  | n + 1, v => by rw [natLe, leNat, leNat_natLe_mod, Nat.pow_succ', Nat.mod_mul, BitVec.toNat_ofNat]

/-- A field that lies in the bytes of a value holds that part of it. -/
theorem Memory.field_of_reads {m : Memory} {a N v : Nat} (h : ∀ i < N, m.read (a + i) = BitVec.ofNat 8 (v / 256 ^ i))
    {i n : Nat} (hi : i + n ≤ N) : m.field (a + i) n = v / 256 ^ i % 256 ^ n := by
  have hbytes : m.bytes (a + i) n = natLe n (v / 256 ^ i) := by
    refine List.ext_getElem? fun j => ?_
    by_cases hj : j < n
    · rw [natLe_getElem? _ hj, Memory.bytes, idxFrom_eq_range', List.getElem?_map, List.getElem?_range' hj, Option.map_some,
        Nat.one_mul, Nat.add_assoc, h (i + j) (by omega), Nat.pow_add, Nat.div_div_eq_div_mul]
    · rw [List.getElem?_eq_none, List.getElem?_eq_none]
      · rw [natLe_length]; omega
      · rw [Memory.bytes, idxFrom_eq_range', List.length_map, List.length_range']; omega
  rw [Memory.field, hbytes, leNat_natLe_mod]

/-- A field by its low and its high bytes. -/
theorem Memory.field_add (m : Memory) : ∀ a j k, m.field a (j + k) = m.field a j + 256 ^ j * m.field (a + j) k
  | a, 0, k => by simp [Memory.field, Memory.bytes, idxFrom, leNat]
  | a, j + 1, k => by
    have hcons : ∀ n, m.field a (n + 1) = (m.read a).toNat + 256 * m.field (a + 1) n := fun _ => rfl
    rw [Nat.add_right_comm, hcons, hcons, Memory.field_add m (a + 1) j k, Nat.pow_succ', Nat.add_right_comm a 1 j,
      Nat.mul_add, Nat.mul_assoc, ← Nat.add_assoc, Nat.add_assoc a j 1]

/-! ### A write at a physical address (R4) -/

/-- `n` places of memory from an address on. -/
def memPlaces (pa n : Nat) : List Loc := (List.range n).map fun i => Loc.mem (pa + i)

theorem memPlaces_nodup (pa n : Nat) : (memPlaces pa n).Nodup :=
  List.nodup_range.map fun i j h => by simpa using h
theorem eq_mem_of_mem_memPlaces {pa n : Nat} : ∀ l ∈ memPlaces pa n, ∃ a, l = Loc.mem a := by simp [memPlaces]
theorem memPlaces_zip_natLe (pa n v : Nat) : ((memPlaces pa n).zip (natLe n v)).map (·.1) = memPlaces pa n :=
  List.map_fst_zip (by simp [memPlaces, natLe_length])
theorem mem_memPlaces_zip {pa n i : Nat} (v : Nat) (hi : i < n) :
    (Loc.mem (pa + i), BitVec.ofNat 8 (v / 256 ^ i)) ∈ (memPlaces pa n).zip (natLe n v) := by
  refine List.mem_of_getElem? (i := i) (List.getElem?_zip_eq_some.2 ⟨?_, natLe_getElem? v hi⟩)
  rw [memPlaces, List.getElem?_map, List.getElem?_range hi, Option.map_some]

theorem State.writePa_eq (s : State) (pa n v : Nat) :
    s.writePa pa n v = s.applyBytes ((memPlaces pa n).zip (natLe n v)) := by
  rw [State.writePa, idxFrom_eq_range', List.range'_eq_map_range, List.map_map]
  rfl

section
variable {s : State} (hw : s.mem.wf = true) {pa n : Nat}
include hw

theorem State.writePa_kept (v : Nat) : BytesKept s (s.writePa pa n v) (memPlaces pa n) := by
  have h := State.applyBytes_kept_of_memory (s := s) (ws := (memPlaces pa n).zip (natLe n v))
  rw [memPlaces_zip_natLe, ← State.writePa_eq] at h
  exact h eq_mem_of_mem_memPlaces hw

/-- A field within a value that has been written, away from the records of its frames, holds that part of it. -/
theorem State.field_writePa (hf : ∀ l ∈ memPlaces pa n, ¬ s.frameByte (memPlaces pa n) l) (v : Nat) {i k : Nat}
    (hi : i + k ≤ n) : (s.writePa pa n v).mem.field (pa + i) k = v / 256 ^ i % 256 ^ k := by
  refine Memory.field_of_reads (fun j hj => ?_) hi
  have h := State.read_applyBytes_of_memory (s := s) (ws := (memPlaces pa n).zip (natLe n v))
    (hb := mem_memPlaces_zip v hj)
  rw [memPlaces_zip_natLe, ← State.writePa_eq] at h
  exact h eq_mem_of_mem_memPlaces hw (memPlaces_nodup pa n) hf

end

/-! ### What a resolve writes and releases (R286 to R288) -/

/-- The word of a future that is done: STATE 2, or 3 after a fault, its GEN, and RESULT; WAITERS and HEAD are 0 (R286). -/
def doneWord (gen : Nat) (res : Word) (fault : Bool) : Nat := (if fault then 3 else 2) + gen * 4 + res.toNat * 2 ^ 32

/-- The fields of that word, as R286 places them. -/
theorem doneWord_fields {gen : Nat} (hg : gen < 2 ^ 14) (res : Word) (fault : Bool) : let v := doneWord gen res fault
    v / 256 ^ 0 % 256 ^ 2 = (if fault then 3 else 2) + gen * 4 ∧ v / 256 ^ 2 % 256 ^ 2 = 0 ∧
    v / 256 ^ 4 % 256 ^ 4 = res.toNat ∧ v / 256 ^ 8 % 256 ^ 8 = 0 := by
  have hr := res.isLt
  have hstate : (if fault then 3 else 2) < 4 := by cases fault <;> decide
  norm_num only [doneWord] at *
  generalize (if fault then 3 else 2) = st at *
  omega

/-- GEN lies above STATE in the first two bytes. -/
theorem Memory.gen_eq (m : Memory) (pa : Nat) : bitsOf (m.field pa 8) 2 14 = m.field pa 2 / 4 := by
  have hlt : m.field pa 2 < 256 ^ 2 := leNat_lt (m.bytes pa 2)
  rw [Memory.field_add m pa 2 6, bitsOf]
  norm_num only at *
  omega

section
variable {s : State} {pa : Nat}

/-- A future whose HEAD no software has stored over releases its whole chain. -/
theorem State.releasedAt_of_head (h : ∀ c, (s.chainAt pa).head? = some c → c.record = s.mem.field (pa + 8) 8) :
    s.releasedAt pa = s.chainAt pa :=
  if_pos (Option.all_eq_true _ _ |>.2 fun c hc => beq_iff_eq.2 (h c hc))

/-- Only records that wait on the future are released. -/
theorem State.mem_chainAt_of_released {c : Chained} (h : c ∈ s.releasedAt pa) : c ∈ s.chainAt pa := by
  unfold State.releasedAt at h
  dsimp only at h
  split at h
  · exact h
  · obtain ⟨p, hp, rfl⟩ := List.mem_map.1 h
    exact (List.of_mem_zip (List.mem_of_mem_filter hp)).1

/-- The waiting records without those that are released. -/
def State.unchain (s : State) (out : List Chained) : State :=
  { s with chained := s.chained.filter fun c => !(out.contains c) }

/-- A resolve of a future that is not done drops what it releases from the chains, and writes the future's word. -/
theorem State.resolve_eq (h : s.futState pa < 2) (res : Word) (fault : Bool) : s.resolve pa res fault =
    ((s.unchain (s.releasedAt pa)).writePa pa 16 (doneWord (s.mem.field pa 2 / 4) res fault), none,
      (s.releasedAt pa).map (Chained.moves · fault)) := by
  rw [← s.mem.gen_eq]
  exact if_neg (Nat.not_le.2 h)

end

/-- Settles O29: a future that is done stays; any other takes its word and lets go what it releases. -/
theorem futureResolvesOnce : Obligations.FutureResolvesOnce := by
  intro s pa res fault r places
  refine ⟨fun h => State.resolve_done rfl h res fault, fun h hw hf => ?_⟩
  have hr : r = _ := State.resolve_eq h res fault
  have hgen : s.mem.field pa 2 / 4 < 2 ^ 14 := s.mem.gen_eq pa ▸ bitsOf_lt _ _ _
  obtain ⟨hstate, hwaiters, hresult, hhead⟩ := doneWord_fields hgen res fault
  have hfield {i k : Nat} := State.field_writePa (s := s.unchain (s.releasedAt pa)) hw hf
    (doneWord (s.mem.field pa 2 / 4) res fault) (i := i) (k := k)
  rw [hr]
  refine ⟨rfl, (hfield (by decide)).trans hstate, (hfield (by decide)).trans hwaiters, (hfield (by decide)).trans hresult,
    (hfield (by decide)).trans hhead, fun hh => ?_, fun x hx => ?_, State.writePa_kept (s := s.unchain _) hw _⟩
  · rw [State.releasedAt_of_head hh, List.map_map]
    rfl
  · obtain ⟨c, hc, rfl⟩ := List.mem_map.1 hx
    exact ⟨c, State.mem_chainAt_of_released hc, rfl⟩

end Sys2Proof.Machine

namespace Sys2Proof.Machine

/-! ### Making and ending queue pairs (R355, R367) -/

section
variable {s : State}

@[simp] theorem State.wakeIdle_nextQpn (s : State) : s.wakeIdle.nextQpn = s.nextQpn := by unfold State.wakeIdle; split <;> rfl
@[simp] theorem State.wakeIdle_rgnTable (s : State) : s.wakeIdle.rgnTable = s.rgnTable := by
  unfold State.wakeIdle; split <;> rfl

/-- The RESULT of a command reads as it was given. -/
theorem State.mfield_qpResult (s : State) (op r : Nat) : (s.qpResult op r).mfield 0x4008 4 4 = r % 16 :=
  State.mfield_setMfield _ _ _ (by decide)

theorem State.portFull_iff {port : Nat} : s.portFull port = true ↔ 4096 ≤ (s.qps.filter fun q => q.port == port).length :=
  decide_eq_true_iff

/-- What CREATE asks of the descriptor of a connection on a port. -/
def State.connectable (s : State) (port : Nat) (desc : List Byte) : Prop :=
  s.qpDescOk desc = true ∧ fieldOf desc 0 1 = port ∧ (s.qps.filter fun q => q.port == port).length < 4096
/-- The port has its connection, on a privileged queue pair, and the peer is told. -/
def State.connect (s : State) (port : Nat) (desc : List Byte) : State :=
  ({ s.makeQp desc port true with connected := port :: s.connected } : State).send (.connAccept port s.nextQpn)

theorem State.connectionRefused_iff {port : Nat} {desc : List Byte} :
    (s.connected.contains port || !(s.qpDescOk desc) || fieldOf desc 0 1 != port || s.portFull port) = true ↔
      port ∈ s.connected ∨ ¬ s.connectable port desc := by
  simp only [State.connectable, Bool.or_eq_true, State.portFull_iff, List.contains_iff_mem, Bool.not_eq_true', bne_iff_ne]
  rw [← Bool.not_eq_true, ← Nat.not_lt]
  tauto

section
variable {port : Nat} (hm : s.mgmtOpen = true) (hrole : s.hostRole port = true) {desc : List Byte}
include hm hrole

/-- A host port of a package that serves commands answers every connection request. -/
theorem exec_connectionRequest_answered : exec (.connectionRequest port desc) s = .next (
    if s.connected.contains port || !(s.qpDescOk desc) || fieldOf desc 0 1 != port || s.portFull port then
      s.send (.connReject port)
    else s.connect port desc) := by
  simp only [State.mgmtOpen, Bool.and_eq_true, beq_iff_eq, bne_iff_ne] at hm
  obtain ⟨⟨⟨hmode, hstage⟩, hoff⟩, hsleep⟩ := hm
  simp only [exec_connectionRequest, execConnectionRequest, hmode, hstage, hrole]
  rw [if_neg (by simp [hoff, hsleep])]
  rfl
theorem exec_connectionRequest_refused (h : port ∈ s.connected ∨ ¬ s.connectable port desc) :
    exec (.connectionRequest port desc) s = .next (s.send (.connReject port)) := by
  rw [exec_connectionRequest_answered hm hrole, if_pos (State.connectionRefused_iff.2 h)]
theorem exec_connectionRequest_accepted (hnew : port ∉ s.connected) (h : s.connectable port desc) :
    exec (.connectionRequest port desc) s = .next (s.connect port desc) := by
  rw [exec_connectionRequest_answered hm hrole, if_neg fun e => (State.connectionRefused_iff.1 e).elim hnew (· h)]

end

/-! ### CREATE (R367) -/

/-- Queue pair `n`, on which a command arrives, is privileged, so that CREATE may make a privileged one there. -/
def State.onPrivileged (s : State) (n : Nat) : Prop := ∃ q ∈ s.qps, q.qpn = n ∧ q.priv = true
theorem State.any_privileged_iff {n : Nat} : (s.qps.any fun q => q.qpn == n && q.priv) = true ↔ s.onPrivileged n := by
  simp [State.onPrivileged]
theorem State.not_onPrivileged {n : Nat} (h : ∀ q ∈ s.qps, q.qpn = n → q.priv = false) : ¬ s.onPrivileged n :=
  fun ⟨q, hq, hn, hp⟩ => Bool.noConfusion ((h q hq hn).symm.trans hp)

/-- The queue pair of a descriptor is made, and QPCMD names it. -/
def State.created (s : State) (d : List Byte) : State :=
  ((s.makeQp d (fieldOf d 0 1) (fieldOf d 1 1 % 2 == 1)).setMfield 0x4008 8 24 s.nextQpn).qpResult 1 0

section
variable {n : Nat} {d : List Byte} (hm : s.mgmtOpen = true)
include hm

theorem exec_create_unread (hd : s.wakeIdle.qpDesc 0 128 = none) : exec (.create n) s = .next (s.wakeIdle.qpResult 1 3) := by
  rw [exec_create, execCreate, State.command_open hm, hd]

variable (hd : s.wakeIdle.qpDesc 0 128 = some d)
include hd

theorem exec_create_read : exec (.create n) s = .next (
    if !(s.wakeIdle.qpDescOk d) then s.wakeIdle.qpResult 1 3
    else if s.wakeIdle.portFull (fieldOf d 0 1) then s.wakeIdle.qpResult 1 2
    else if fieldOf d 1 1 % 2 == 1 && !(s.wakeIdle.qps.any fun q => q.qpn == n && q.priv) then s.wakeIdle.qpResult 1 4
    else s.wakeIdle.created d) := by
  rw [exec_create, execCreate, State.command_open hm, hd]
  rfl
theorem exec_create_invalid (hok : s.wakeIdle.qpDescOk d = false) : exec (.create n) s = .next (s.wakeIdle.qpResult 1 3) := by
  rw [exec_create_read hm hd, if_pos (by simp [hok])]

variable (hok : s.wakeIdle.qpDescOk d = true)
include hok

theorem exec_create_full (hfull : s.portFull (fieldOf d 0 1) = true) : exec (.create n) s = .next (s.wakeIdle.qpResult 1 2) := by
  rw [exec_create_read hm hd, if_neg (by simp [hok]), if_pos (by simpa [State.portFull] using hfull)]

variable (hroom : ¬ s.portFull (fieldOf d 0 1) = true)
include hroom

theorem exec_create_unprivileged (hpriv : fieldOf d 1 1 % 2 = 1) (hn : ¬ s.onPrivileged n) :
    exec (.create n) s = .next (s.wakeIdle.qpResult 1 4) := by
  rw [exec_create_read hm hd, if_neg (by simp [hok]), if_neg (by simpa [State.portFull] using hroom),
    if_pos (by rw [State.wakeIdle_qps, (Bool.eq_false_iff).2 (mt State.any_privileged_iff.1 hn)]; simp [hpriv])]
theorem exec_create_made (hpriv : fieldOf d 1 1 % 2 = 1 → s.onPrivileged n) :
    exec (.create n) s = .next (s.wakeIdle.created d) := by
  rw [exec_create_read hm hd, if_neg (by simp [hok]), if_neg (by simpa [State.portFull] using hroom), if_neg]
  rw [State.wakeIdle_qps, Bool.and_eq_true, beq_iff_eq, Bool.not_eq_true', ← Bool.not_eq_true, State.any_privileged_iff]
  exact fun ⟨hp, hn⟩ => hn (hpriv hp)

end

/-! ### DESTROY and RGNINV (R367) -/

/-- A queue pair ends, with a NAK for each request that it holds (logs 42 and 57). -/
def State.destroyed (s : State) (q : Qp) : State :=
  let u := ({ s with qps := s.qps.filter fun x => x.qpn != q.qpn } : State).qpResult 2 0
  { u with wire := u.wire ++ q.held.map fun _ => .nak q.qpn 1 }
theorem State.qps_destroyed (s : State) (q : Qp) : (s.destroyed q).qps = s.qps.filter fun x => x.qpn != q.qpn := rfl
theorem State.wire_destroyed (s : State) (q : Qp) :
    (s.destroyed q).wire = s.wire ++ List.replicate q.held.length (.nak q.qpn 1) :=
  congrArg (s.wire ++ ·) List.map_const'
theorem State.mfield_destroyed (s : State) (q : Qp) : (s.destroyed q).mfield 0x4008 4 4 = 0 := State.mfield_qpResult _ 2 0

section
variable {d : List Byte} (hm : s.mgmtOpen = true)
include hm

theorem exec_destroy_unread (hd : s.wakeIdle.qpDesc 64 4 = none) : exec .destroy s = .next (s.wakeIdle.qpResult 2 1) := by
  rw [exec_destroy, execDestroy, State.command_open hm, hd]

variable (hd : s.wakeIdle.qpDesc 64 4 = some d)
include hd

theorem exec_destroy_read : exec .destroy s = .next (match s.wakeIdle.qps.find? fun q => q.qpn == leNat d with
    | some q => s.wakeIdle.destroyed q
    | none => s.wakeIdle.qpResult 2 1) := by
  rw [exec_destroy, execDestroy, State.command_open hm, hd]
  rfl
theorem exec_destroy_found {q : Qp} (hq : (s.qps.find? fun q => q.qpn == leNat d) = some q) :
    exec .destroy s = .next (s.wakeIdle.destroyed q) := by
  rw [exec_destroy_read hm hd, State.wakeIdle_qps, hq]
theorem exec_destroy_unknown (hq : ∀ q ∈ s.qps, q.qpn ≠ leNat d) : exec .destroy s = .next (s.wakeIdle.qpResult 2 1) := by
  have hnone : (s.qps.find? fun q => q.qpn == leNat d) = none := List.find?_eq_none.2 fun q hx => by simpa using hq q hx
  rw [exec_destroy_read hm hd, State.wakeIdle_qps, hnone]

end

/-- RGNINV names the region entry `i`, and leaves the queue pairs and the table as they are. -/
def State.rgnNamed (s : State) (i : Nat) : State := s.wakeIdle.setMfield 0x4018 0 16 i
theorem State.qps_rgnNamed (s : State) (i : Nat) : (s.rgnNamed i).qps = s.qps := s.wakeIdle_qps
theorem State.rgnTable_rgnNamed (s : State) (i : Nat) : (s.rgnNamed i).rgnTable = s.rgnTable := s.wakeIdle_rgnTable
theorem State.regionBytes_rgnNamed (s : State) (i k : Nat) : (s.rgnNamed i).regionBytes k = s.regionBytes k := by
  rw [State.regionBytes, State.rgnNamed, State.mfield_setMfield_off _ _ _ _ _ _ (by decide), State.setMfield_mem,
    State.wakeIdle_mfield, State.wakeIdle_mem, State.regionBytes]

/-- The device holds the bytes `b` as the region entry `i`, in place of what it held. -/
def State.regionHeld (s : State) (i : Nat) (b : List Byte) : State :=
  { s with regions := { index := i, bytes := b } :: s.regions.filter fun r => r.index != i }
theorem State.region_regionHeld (h : s.rgnTable = true) (i : Nat) (b : List Byte) : (s.regionHeld i b).region i = regionOf b := by
  simp [State.region, State.regionHeld, h]

theorem exec_rgninv_table (hm : s.mgmtOpen = true) (ht : s.rgnTable = true) (i : BitVec 16) :
    exec (.rgninv i) s = .next ((s.rgnNamed i.toNat).regionHeld i.toNat (s.regionBytes i.toNat)) := by
  rw [exec_rgninv, execRgninv, State.command_open hm, ← State.regionBytes_rgnNamed]
  exact congrArg Host.Outcome.next (if_neg (by simpa [State.rgnNamed] using (s.rgnTable_rgnNamed i.toNat).trans ht))

end

/-- Settles O54: a connection and CREATE make the queue pair with the next number where its descriptor allows it, DESTROY drops
one, and RGNINV holds the entry that stands in the table; each refusal leaves its RESULT. -/
theorem queuePairsAreMade : Obligations.QueuePairsAreMade := by
  refine ⟨fun s port desc hm hrole => ⟨exec_connectionRequest_refused hm hrole, fun hnew hmay =>
      ⟨_, _, exec_connectionRequest_accepted hm hrole hnew hmay, rfl, rfl, rfl, rfl, rfl, rfl, rfl, rfl, rfl⟩⟩,
    fun s n hm => ⟨exec_create_unread hm, fun d hd => ⟨exec_create_invalid hm hd, fun hok hfull => ?_,
      fun hok hroom hpriv hn => ?_, fun hok hroom hpriv => ?_⟩⟩,
    fun s hm => ⟨exec_destroy_unread hm, fun d hd => ⟨fun q hq => ?_, exec_destroy_unknown hm hd⟩⟩,
    fun s i hm ht => ⟨_, exec_rgninv_table hm ht i, State.region_regionHeld ((s.rgnTable_rgnNamed _).trans ht) _ _,
      s.qps_rgnNamed i.toNat⟩⟩
  · exact exec_create_full hm hd hok (State.portFull_iff.2 hfull)
  · exact exec_create_unprivileged hm hd hok (mt State.portFull_iff.1 hroom.not_ge) hpriv (State.not_onPrivileged hn)
  · exact ⟨_, _, exec_create_made hm hd hok (mt State.portFull_iff.1 hroom.not_ge) hpriv,
      congrArg (· ++ _) s.wakeIdle_qps, s.wakeIdle_nextQpn, rfl, rfl, State.mfield_qpResult _ 1 0⟩
  · have hqpn : q.qpn = leNat d := by simpa using List.find?_some hq
    rw [← hqpn, ← s.wakeIdle_qps, ← s.wakeIdle_wire]
    exact ⟨_, exec_destroy_found hm hd hq, State.qps_destroyed _ q, State.mfield_destroyed _ q, State.wire_destroyed _ q⟩

end Sys2Proof.Machine

namespace Sys2Proof.Machine

/-! ### Starts, recovery, update, attestation, debug and fuses (R409 to R416, R434) -/

/-! #### What host ready and Dawn mode set up -/

/-- Only the management registers, the bucket tables, the wire and Byder's list of retired slices differ. -/
def State.OnlySetUp (s u : State) : Prop :=
  ∃ g k w r, u = { s with mgmt := g, buckets := k, wire := w, byder := { s.byder with retired := r } }

section
variable {s u v : State}

theorem State.OnlySetUp.refl (s : State) : s.OnlySetUp s := ⟨s.mgmt, s.buckets, s.wire, s.byder.retired, rfl⟩
theorem State.OnlySetUp.trans (h : s.OnlySetUp u) (h' : u.OnlySetUp v) : s.OnlySetUp v := by
  obtain ⟨_, _, _, _, rfl⟩ := h
  obtain ⟨g, k, w, r, rfl⟩ := h'
  exact ⟨g, k, w, r, rfl⟩
theorem State.OnlySetUp.foldl {α : Type} {f : State → α → State} (hf : ∀ u x, State.OnlySetUp u (f u x)) (l : List α) :
    ∀ s, State.OnlySetUp s (l.foldl f s) := by
  induction l with
  | nil => exact State.OnlySetUp.refl
  | cons x l ih => exact fun s => (hf s x).trans (ih _)
theorem State.OnlySetUp.ite {c : Prop} [Decidable c] (h : s.OnlySetUp u) : s.OnlySetUp (if c then u else s) := by
  split
  · exact h
  · exact .refl s

theorem State.setMfield_setUp (s : State) (o lo n x : Nat) : s.OnlySetUp (s.setMfield o lo n x) :=
  ⟨_, s.buckets, s.wire, s.byder.retired, rfl⟩
theorem State.signPart_setUp (s : State) (p : Nat) : s.OnlySetUp (s.signPart p) := s.setMfield_setUp ..
theorem State.retireSlice_setUp (s : State) (die : Nat) (k : BitVec 4) : s.OnlySetUp (s.retireSlice die k) :=
  ⟨_, _, s.wire, _, rfl⟩
theorem State.ssdStart_setUp (s : State) (ssd : Nat) : s.OnlySetUp (s.ssdStart ssd) :=
  ⟨s.mgmt, s.buckets, _, s.byder.retired, rfl⟩

end

section
variable {s : State} {env : BootEnv} {b : Byder}

/-- Byder's record at host ready, before the slices that had retired retire again. -/
def Byder.ready (b : Byder) (env : BootEnv) : Byder :=
  { b with mode := .normal, power := .active, stage := 8, starts := 0, cacheMode := env.cacheMode,
           measured := b.flash.take 512, retired := [] }
/-- Byder's record in Dawn mode. -/
def Byder.dawning (b : Byder) : Byder := { b with mode := .dawn, power := .active, stage := 1, measured := b.flash.take 512 }
/-- The package restarted with the cores that a defect map leaves. -/
def State.withCores (s : State) (env : BootEnv) (b : Byder) : State :=
  { s.restart b with coreMap := (List.range 4).flatMap (dieCores env.cores) }

theorem State.hostReady_setUp : (s.withCores env (b.ready env)).OnlySetUp (s.hostReady env b) := by
  rw [State.withCores, ← upto_eq_range]
  unfold State.hostReady
  extract_lets s1 s2 s3 s4 s5 s6
  have h3 : s2.OnlySetUp s3 := .foldl (fun u _ => .foldl (fun u _ => .ite (u.retireSlice_setUp ..)) _ u) _ _
  have h4 : s3.OnlySetUp s4 := .foldl State.signPart_setUp _ _
  have h5 : s4.OnlySetUp s5 := s4.setMfield_setUp ..
  have h6 : s5.OnlySetUp s6 := .foldl (fun u _ => .ite ((u.ssdStart_setUp _).trans (State.setMfield_setUp ..))) _ _
  exact h3.trans <| h4.trans <| h5.trans <| h6.trans <|
    .foldl (fun u _ => (u.setMfield_setUp ..).trans (State.setMfield_setUp ..)) _ _

/-- At host ready nothing runs, the memory is empty, the failures are forgotten and the flash is measured. -/
theorem State.hostReady_fields : (s.hostReady env b).byder.mode = .normal ∧
    (s.hostReady env b).byder.measured = b.flash.take 512 ∧ (s.hostReady env b).byder.stage = 8 ∧
    (s.hostReady env b).byder.power = .active ∧ (s.hostReady env b).byder.starts = 0 ∧
    (s.hostReady env b).byder.sec = b.sec ∧ (s.hostReady env b).tasks = [] ∧
    (s.hostReady env b).mem = State.reset.mem ∧
    (s.hostReady env b).coreMap = (List.range 4).flatMap (dieCores env.cores) := by
  obtain ⟨g, k, w, r, e⟩ := State.hostReady_setUp (s := s) (env := env) (b := b)
  rw [e]
  exact ⟨rfl, rfl, rfl, rfl, rfl, rfl, rfl, rfl, rfl⟩

/-- Dawn mode runs nothing, keeps the count of starts and measures the flash. -/
theorem State.dawn_fields : (s.dawn env b).byder.mode = .dawn ∧ (s.dawn env b).byder.starts = b.starts ∧
    (s.dawn env b).tasks = [] ∧ (s.dawn env b).byder.measured = b.flash.take 512 := by
  have signed : (s.withCores env b.dawning).OnlySetUp ((upto 8).foldl State.signPart (s.withCores env b.dawning)) :=
    .foldl State.signPart_setUp _ _
  obtain ⟨g, k, w, r, e⟩ := signed
  rw [State.withCores, ← upto_eq_range] at e
  have hd : s.dawn env b = State.setMfield { (_ : State) with coreMap := [] } (portRegs 0 + 0x18) 0 1 _ :=
    congrArg (fun u : State => State.setMfield { u with coreMap := [] } (portRegs 0 + 0x18) 0 1 (env.links.getLsbD 0).toNat) e
  rw [hd]
  exact ⟨rfl, rfl, rfl, rfl⟩

end

/-! #### The failures that a start meets (R409) -/

end Sys2Proof.Machine

namespace Sys2Proof

/-- A stage with an error code that the start itself meets there: TIMEOUT, or TRAINING in stages 3 and 4. -/
def meetsFailure (x : BitVec 8 × BitVec 16) : Bool :=
  decide (x.1.toNat ≤ 8) && (x.2 == 4 || (x.2 == 3 && (x.1 == 3 || x.1 == 4)))

section
variable {env : BootEnv} {p q : Nat → Bool} {st : BitVec 8} {e : BitVec 16}

theorem BootEnv.failure_eq (env : BootEnv) (p : Nat → Bool) :
    env.failure p = env.fail.filter fun x => p x.1.toNat && meetsFailure x := by
  unfold BootEnv.failure
  split
  · rename_i st e h
    rw [h, Option.filter_some, meetsFailure, Bool.and_assoc]
  · rename_i h
    rw [h, Option.filter_none]

/-- A failure among some stages is at one of them. -/
theorem BootEnv.failure_stage (h : env.failure p = some (st, e)) : p st.toNat = true := by
  rw [BootEnv.failure_eq, Option.filter_eq_some_iff, Bool.and_eq_true] at h
  obtain ⟨-, hp, -⟩ := h
  exact hp

/-- No failure among some stages is none among fewer. -/
theorem BootEnv.failure_fewer (hq : env.failure q = none) (h : ∀ n, p n = true → q n = true) : env.failure p = none := by
  rw [BootEnv.failure_eq, Option.filter_eq_none_iff] at hq ⊢
  intro x hx hp
  obtain ⟨hp, hmeets⟩ := Bool.and_eq_true_iff.1 hp
  exact hq x hx (Bool.and_eq_true_iff.2 ⟨h _ hp, hmeets⟩)

theorem BootEnv.failure_calm (h : env.fail = none) (p : Nat → Bool) : env.failure p = none := by
  rw [BootEnv.failure, h]

end
end Sys2Proof

namespace Sys2Proof.Machine

/-! #### The stages of a start (R409, R410) -/

/-- Byder's record once a start has counted itself: a change of the fuses is in effect, debug is NONE. -/
def Byder.begun (b : Byder) : Byder :=
  { b with starts := b.starts + 1, sec := b.nextSec.getD b.sec, nextSec := none, debug := .none, debugPart := 0, staging := [],
           measured := [] }

/-- What stops the image of a start: a failure of stage 2, or else the image's own checks. -/
def State.imageStop (s : State) (env : BootEnv) : Option (BitVec 8 × BitVec 16) :=
  (env.failure (· == 2)).or
    ((imageError (s.byder.nextSec.getD s.byder.sec) s.byder.floor s.byder.flash).map fun e => (2, e))

/-- What a start comes to once its image is accepted: the first later stage that fails, or host ready. -/
def State.laterStages (s : State) (env : BootEnv) : State :=
  let b := s.byder.begun.accept s.byder.flash
  match env.failure fun st => decide (3 ≤ st) && decide (st ≤ 4) with
  | some (st, e) => s.startFailed b st e
  | none =>
    if !(anyCore env.cores) then s.startFailed b 5 5
    else match env.failure fun st => decide (5 ≤ st) with
      | some (st, e) => s.startFailed b st e
      | none => s.hostReady env b

/-- An accepted image raises only the floor, and that in PROD and LOCKDOWN (R414). -/
theorem Byder.accept_eq (b : Byder) (img : List Byte) : b.accept img = { b with
    floor := if b.sec = .prod ∨ b.sec = .lockdown then Nat.max b.floor (imageVersion img) else b.floor } := by
  by_cases h : b.sec = .prod ∨ b.sec = .lockdown
  · rw [if_pos h]
    exact if_pos (by simpa using h)
  · rw [if_neg h]
    exact if_neg (by simpa using h)

/-- A start ends at a stage, and its record is that of the package `s` before it with the attempt added. -/
def State.StopsAt (s u : State) (st : BitVec 8) (e : BitVec 16) : Prop :=
  u.byder.mode = .off ∧ u.byder.stage = st ∧ u.byder.hist = ((st, e) :: s.byder.hist).take 4 ∧
    u.byder.starts = s.byder.starts + 1

section
variable {s : State} {env : BootEnv} {st : BitVec 8} {e : BitVec 16}

theorem State.stopsAt_begun : s.StopsAt (s.startFailed s.byder.begun st e) st e := ⟨rfl, rfl, rfl, rfl⟩
theorem State.stopsAt_accepted : s.StopsAt (s.startFailed (s.byder.begun.accept s.byder.flash) st e) st e := by
  rw [Byder.accept_eq]
  exact ⟨rfl, rfl, rfl, rfl⟩

theorem State.startUp_first (h : env.failure (· == 1) = some (st, e)) : s.StopsAt (s.startUp env) st e := by
  have : s.startUp env = s.startFailed s.byder.begun st e := by simp [State.startUp, h, Byder.begun]
  exact this ▸ State.stopsAt_begun

section
variable (h1 : env.failure (· == 1) = none)
include h1

/-- The fourth start in a row enters Dawn mode. -/
theorem State.startUp_dawn (hn : 3 ≤ s.byder.starts) : s.startUp env = s.dawn env s.byder.begun := by
  simp [State.startUp, h1, hn, Byder.begun]

variable (hn : s.byder.starts < 3)
include hn

/-- An image that stops ends the start, and one that passes leaves it to the stages after it. -/
theorem State.startUp_counted : s.startUp env = match s.imageStop env with
    | some (st, e) => s.startFailed s.byder.begun st e
    | none => s.laterStages env := by
  simp only [State.startUp, h1, Nat.not_le.2 hn, if_false]
  rfl

theorem State.startUp_image (h2 : s.imageStop env = some (st, e)) : s.StopsAt (s.startUp env) st e := by
  rw [State.startUp_counted h1 hn, h2]
  exact State.stopsAt_begun

variable (h2 : s.imageStop env = none)
include h2

theorem State.startUp_passed : s.startUp env = s.laterStages env := by rw [State.startUp_counted h1 hn, h2]

theorem State.startUp_training (h3 : (env.failure fun st => decide (3 ≤ st) && decide (st ≤ 4)) = some (st, e)) :
    s.StopsAt (s.startUp env) st e := by
  rw [State.startUp_passed h1 hn h2, State.laterStages, h3]
  exact State.stopsAt_accepted

variable (h3 : (env.failure fun st => decide (3 ≤ st) && decide (st ≤ 4)) = none)
include h3

theorem State.startUp_noCore (hc : anyCore env.cores = false) : s.StopsAt (s.startUp env) 5 5 := by
  rw [State.startUp_passed h1 hn h2, State.laterStages, h3, hc]
  exact State.stopsAt_accepted

variable (hc : anyCore env.cores = true)
include hc

theorem State.startUp_late (h5 : (env.failure fun st => decide (5 ≤ st)) = some (st, e)) :
    s.StopsAt (s.startUp env) st e := by
  rw [State.startUp_passed h1 hn h2, State.laterStages, h3, hc, h5]
  exact State.stopsAt_accepted

theorem State.startUp_ready (h5 : (env.failure fun st => decide (5 ≤ st)) = none) :
    s.startUp env = s.hostReady env (s.byder.begun.accept s.byder.flash) := by
  rw [State.startUp_passed h1 hn h2, State.laterStages, h3, hc, h5]
  rfl

end

/-- What a start meets whose stage `st` does not end in time: it lacks no core. -/
def timeoutAt (st : BitVec 8) : BootEnv :=
  { cores := soundCores, cacheMode := false, ssds := 0, links := 0, fail := some (st, 4) }
theorem anyCore_timeoutAt (st : BitVec 8) : anyCore (timeoutAt st).cores = true := by
  show anyCore soundCores = true
  decide +kernel
theorem failure_timeoutAt (h : st.toNat ≤ 8) (p : Nat → Bool) :
    (timeoutAt st).failure p = if p st.toNat then some (st, 4) else none := by
  rw [BootEnv.failure_eq, timeoutAt, Option.filter_some]
  simp [meetsFailure, h]

/-- A stage that does not end in time ends the start, once the stages before it let the start come to it. -/
theorem State.startUp_timeout (h1 : 1 ≤ st.toNat) (h8 : st.toNat ≤ 8)
    (hp : st.toNat = 1 ∨ (s.byder.starts < 3 ∧ (st.toNat = 2 ∨
      imageError (s.byder.nextSec.getD s.byder.sec) s.byder.floor s.byder.flash = none))) :
    s.StopsAt (s.startUp (timeoutAt st)) st 4 := by
  have stops {p : Nat → Bool} (h : p st.toNat = true) : (timeoutAt st).failure p = some (st, 4) := by
    rw [failure_timeoutAt h8, if_pos h]
  have passes {p : Nat → Bool} (h : p st.toNat = false) : (timeoutAt st).failure p = none := by
    rw [failure_timeoutAt h8, if_neg (by simp [h])]
  by_cases first : st.toNat = 1
  · exact State.startUp_first (stops (by simp [first]))
  obtain ⟨hn, hi⟩ := hp.resolve_left first
  have no1 := passes (p := (· == 1)) (beq_false_of_ne first)
  by_cases second : st.toNat = 2
  · exact State.startUp_image no1 hn (by rw [State.imageStop, stops (by simp [second])]; rfl)
  have no2 : s.imageStop (timeoutAt st) = none := by
    rw [State.imageStop, passes (p := (· == 2)) (beq_false_of_ne second), hi.resolve_left second]
    rfl
  by_cases early : st.toNat ≤ 4
  · exact State.startUp_training no1 hn no2 (stops (by simp; omega))
  · exact State.startUp_late no1 hn no2 (passes (by simp; omega)) (anyCore_timeoutAt st) (stops (by simp; omega))

theorem exec_boot_off {env : BootEnv} (h : s.byder.mode = .off) : exec (.boot env) s = .next (s.startUp env) := by
  rw [exec_boot, execBoot, if_pos h]
theorem exec_stageTimeout_off (h : s.byder.mode = .off) {n : BitVec 8} (h1 : 1 ≤ n.toNat) (h8 : n.toNat ≤ 8)
    (hp : n.toNat = 1 ∨ s.byder.starts < 3) : exec (.stageTimeout n) s = .next (s.startUp (timeoutAt n)) := by
  rw [exec_stageTimeout, execStageTimeout, if_pos (by simp [h, h1, h8, hp])]
  rfl

end

/-! #### Recovery and update (R413, R434) -/

/-- The staged image is accepted, and the flash holds `flash`. -/
def State.flashed (s : State) (flash : List Byte) : State :=
  { s with byder := { s.byder.accept s.byder.staged with flash := flash } }

section
variable {s : State}

theorem State.writeFlash_refused (h : imageError s.byder.sec s.byder.floor s.byder.staged ≠ none) (ok : Bool) :
    s.writeFlash ok = (s, 1) := by
  obtain ⟨e, he⟩ := Option.ne_none_iff_exists'.1 h
  unfold State.writeFlash
  dsimp only
  rw [he]
/-- The flash holds the image when it compares, and nothing when it does not. -/
theorem State.writeFlash_passed (h : imageError s.byder.sec s.byder.floor s.byder.staged = none) (ok : Bool) :
    s.writeFlash ok = (s.flashed (if ok then s.byder.staged else []), if ok then 0 else 2) := by
  unfold State.writeFlash
  dsimp only
  rw [h, State.flashed]
theorem State.flashed_flash (f : List Byte) : (s.flashed f).byder.flash = f := rfl
theorem State.flashed_floor (f : List Byte) : (s.flashed f).byder.floor =
    if s.byder.sec = .prod ∨ s.byder.sec = .lockdown then Nat.max s.byder.floor (imageVersion s.byder.staged)
    else s.byder.floor := by
  rw [State.flashed, Byder.accept_eq]
theorem State.flashed_mode (f : List Byte) : (s.flashed f).byder.mode = s.byder.mode := by
  rw [State.flashed, Byder.accept_eq]

/-- The package resets and forgets its failed starts (R413). -/
def State.recovered (s : State) : State :=
  s.restart { s.byder with starts := 0, mode := .off, power := .off, staging := [], debug := .none }

theorem State.recovered_flash : s.recovered.byder.flash = s.byder.flash := rfl

section
variable (hd : s.byder.mode = .dawn)
include hd

theorem exec_recover_refused (h : imageError s.byder.sec s.byder.floor s.byder.staged ≠ none) (ok : Bool) :
    exec (.recover ok) s = .next (s.setMfield 0x2020 4 4 1) := by
  rw [exec_recover, execRecover, if_pos hd, State.writeFlash_refused h]
  rfl

variable (h : imageError s.byder.sec s.byder.floor s.byder.staged = none)
include h

theorem exec_recover_compared : exec (.recover true) s = .next (s.flashed s.byder.staged).recovered := by
  rw [exec_recover, execRecover, if_pos hd, State.writeFlash_passed h, if_pos rfl, if_pos rfl]
  rfl
theorem exec_recover_damaged : exec (.recover false) s = .next ((s.flashed []).setMfield 0x2020 4 4 2) := by
  rw [exec_recover, execRecover, if_pos hd, State.writeFlash_passed h, if_neg nofun, if_neg nofun]
  rfl

/-- A flash that compares resets the package and forgets the failed starts; another leaves it in Dawn mode. -/
theorem exec_recover_passed (ok : Bool) : ∃ s', exec (.recover ok) s = .next s' ∧
    (ok = true → s'.byder.flash = s.byder.staged ∧ s'.byder.starts = 0 ∧ s'.byder.mode = .off) ∧
    (ok = false → s'.byder.flash = [] ∧ s'.mfield 0x2020 4 4 = 2 ∧ s'.byder.mode = .dawn) := by
  cases ok with
  | true => exact ⟨_, exec_recover_compared hd h,
      fun _ => ⟨State.recovered_flash.trans (State.flashed_flash _), rfl, rfl⟩, nofun⟩
  | false => exact ⟨_, exec_recover_damaged hd h, nofun,
      fun _ => ⟨State.flashed_flash [], State.mfield_setMfield _ _ _ (by decide), (State.flashed_mode _).trans hd⟩⟩

end

theorem State.wakeIdle_sec (s : State) : s.wakeIdle.byder.sec = s.byder.sec := by unfold State.wakeIdle; split <;> rfl
theorem State.wakeIdle_floor (s : State) : s.wakeIdle.byder.floor = s.byder.floor := by unfold State.wakeIdle; split <;> rfl
theorem State.wakeIdle_staged (s : State) : s.wakeIdle.byder.staged = s.byder.staged := by
  unfold State.wakeIdle; split <;> rfl

section
variable (hm : s.mgmtOpen = true)
include hm

theorem exec_update_open (ok : Bool) : exec (.update ok) s =
    .next ((s.wakeIdle.writeFlash ok).1.setMfield 0x2038 4 4 (s.wakeIdle.writeFlash ok).2) := by
  rw [exec_update, execUpdate, State.command_open hm]

theorem exec_update_refused (h : imageError s.byder.sec s.byder.floor s.byder.staged ≠ none) (ok : Bool) :
    exec (.update ok) s = .next (s.wakeIdle.setMfield 0x2038 4 4 1) := by
  rw [← s.wakeIdle_sec, ← s.wakeIdle_floor, ← s.wakeIdle_staged] at h
  rw [exec_update_open hm, State.writeFlash_refused h]
theorem exec_update_passed (h : imageError s.byder.sec s.byder.floor s.byder.staged = none) (ok : Bool) :
    ∃ s', exec (.update ok) s = .next s' ∧ s'.byder.flash = (if ok then s.byder.staged else []) ∧
      s'.mfield 0x2038 4 4 = (if ok then 0 else 2) ∧ s'.byder.floor =
        if s.byder.sec = .prod ∨ s.byder.sec = .lockdown then Nat.max s.byder.floor (imageVersion s.byder.staged)
        else s.byder.floor := by
  rw [← s.wakeIdle_sec, ← s.wakeIdle_floor, ← s.wakeIdle_staged] at h ⊢
  rw [exec_update_open hm, State.writeFlash_passed h]
  refine ⟨_, rfl, rfl, (State.mfield_setMfield _ _ _ (by decide)).trans ?_, State.flashed_floor _⟩
  cases ok <;> rfl

end

/-! #### Attestation, debug and fuses (R415, R416) -/

section
variable (hmode : s.byder.mode ≠ .off) (hpow : s.byder.power ≠ .off) {n : Nat} (hq : s.privQp n = true) {i : BitVec 8}
include hmode hpow hq

theorem exec_getMeasurements_signed {v : List Byte} (hv : s.measurement i.toNat = some v) (hsec : s.byder.sec ≠ .blank) :
    exec (.getMeasurements n i) s =
      .next { s with wire := s.wire ++ [.spdm n i.toNat v (Config.identitySign v)] } := by
  simp [execGetMeasurements, hmode, hpow, hq, hsec, hv]
theorem exec_getMeasurements_error (h : s.byder.sec = .blank ∨ s.measurement i.toNat = none) :
    exec (.getMeasurements n i) s = .next { s with wire := s.wire ++ [.spdmError n] } := by
  have hnone : (if s.byder.sec = .blank then none else s.measurement i.toNat) = none := by
    obtain h | h := h <;> simp [h]
  simp [execGetMeasurements, hmode, hpow, hq, hnone]

end

theorem debugAllowed_iff (sec : SecState) (d : DebugState) (sig : Bool) : debugAllowed sec d sig = true ↔
    d = .none ∨ sec = .blank ∨ sec = .dev ∨ (sec = .prod ∧ d = .user ∧ sig = true) := by
  cases sec <;> cases d <;> simp [debugAllowed]

theorem fuseAllowed_iff (a b : SecState) : fuseAllowed a b = true ↔
    (a, b) ∈ [(SecState.blank, SecState.dev), (.blank, .prod), (.dev, .prod), (.prod, .lockdown)] := by
  cases a <;> cases b <;> decide

section
variable (hm : s.mgmtOpen = true)
include hm

theorem exec_debugRequest_open (d : DebugState) (p : BitVec 3) (sig : Bool) :
    ∃ s', exec (.debugRequest d p sig) s = .next s' ∧
      s'.byder.debug = (if d = .none ∨ s.byder.sec = .blank ∨ s.byder.sec = .dev ∨
        (s.byder.sec = .prod ∧ d = .user ∧ sig = true) then d else s.byder.debug) := by
  simp only [← debugAllowed_iff]
  refine ⟨_, exec_debugRequest .., ?_⟩
  rw [hm, Bool.true_and]
  split <;> rfl

theorem exec_fuseCommand_open (hnext : s.byder.nextSec = none) (d : SecState) (sig : Bool) :
    ∃ s', exec (.fuseCommand d sig) s = .next s' ∧ s'.byder.sec = s.byder.sec ∧
      s'.byder.nextSec = (if sig = true ∧ (s.byder.sec, d) ∈
        [(SecState.blank, SecState.dev), (.blank, .prod), (.dev, .prod), (.prod, .lockdown)] then some d else none) := by
  simp only [← fuseAllowed_iff]
  refine ⟨_, exec_fuseCommand .., ?_⟩
  simp only [hm, hnext, Bool.true_and, Option.getD_none, Bool.and_eq_true]
  split
  · exact ⟨rfl, rfl⟩
  · exact ⟨rfl, hnext⟩

end
end

/-- Settles O59: a start counts itself and stops at its first failing stage, enters Dawn mode or reaches host ready; each of
Byder's commands acts where its checks and the security state let it. -/
theorem byderCommands : Obligations.ByderCommands := by
  refine ⟨fun s env hoff h1 => ?_, fun s n hoff hlo hhi hp => ?_,
    fun s ok hd => ⟨(exec_recover_refused hd · ok), (exec_recover_passed hd · ok)⟩,
    fun s ok hm => ⟨(exec_update_refused hm · ok), (exec_update_passed hm · ok)⟩,
    fun s n i hmode hpow hq => ⟨fun v => exec_getMeasurements_signed hmode hpow hq, exec_getMeasurements_error hmode hpow hq⟩,
    fun s d p sig hm => exec_debugRequest_open hm d p sig, fun s d sig hm hnext => exec_fuseCommand_open hm hnext d sig⟩
  · have boots := exec_boot_off (env := env) hoff
    refine ⟨fun hn => ?_, fun hn => ⟨fun st e h2 => ?_, fun e h2 hi => ?_, fun hi hc h24 => ?_, fun hi hf hc => ?_⟩⟩
    · obtain ⟨hmode, hstarts, htasks, hmeas⟩ := State.dawn_fields (s := s) (env := env) (b := s.byder.begun)
      exact ⟨_, boots.trans (congrArg _ (State.startUp_dawn h1 hn)), hmode, hstarts, htasks, hmeas⟩
    · obtain rfl : st = 2 := BitVec.eq_of_toNat_eq (by simpa using BootEnv.failure_stage h2)
      obtain ⟨hmode, hstage, hhist, -⟩ := State.startUp_image h1 hn (e := e) (by rw [State.imageStop, h2]; rfl)
      exact ⟨_, boots, hmode, hstage, hhist⟩
    · obtain ⟨hmode, hstage, hhist, hstarts⟩ :=
        State.startUp_image h1 hn (st := 2) (e := e) (by rw [State.imageStop, h2, hi]; rfl)
      exact ⟨_, boots, hmode, hstage, hhist, hstarts⟩
    · have h2 := BootEnv.failure_fewer (p := (· == 2)) h24 (by simp)
      have h3 := BootEnv.failure_fewer (p := fun st => decide (3 ≤ st) && decide (st ≤ 4)) h24 (by simp; omega)
      obtain ⟨hmode, hstage, hhist, -⟩ := State.startUp_noCore h1 hn (by rw [State.imageStop, h2, hi]; rfl) h3 hc
      exact ⟨_, boots, hmode, hstage, hhist⟩
    · have calm := BootEnv.failure_calm hf
      have ready := State.startUp_ready h1 hn (by rw [State.imageStop, calm, hi]; rfl) (calm _) hc (calm _)
      have fields := State.hostReady_fields (s := s) (env := env) (b := s.byder.begun.accept s.byder.flash)
      rw [Byder.accept_eq] at ready fields
      exact ⟨_, boots.trans (congrArg _ ready), fields⟩
  · obtain ⟨hmode, -, hhist, hstarts⟩ := State.startUp_timeout (s := s) hlo hhi hp
    exact ⟨_, exec_stageTimeout_off hoff hlo hhi (hp.imp id And.left), hmode, hstarts, hhist⟩

end Sys2Proof.Machine
